-- ==== Sys2Proof/Word.lean ====
section
/-! DEFINITION. The word types of the Baldex architecture and the small finite kinds that instruction fields name
(spec/00_scope.md R5, spec/01_machine.md R13 and R14, spec/02_instruction_words.md R40 to R51). -/

namespace Sys2Proof

/-- One byte of memory. -/
abbrev Byte := BitVec 8
/-- An instruction word (R42). -/
abbrev IWord := BitVec 32
/-- A scalar register's contents, a virtual address, a system register (R16, R25). -/
abbrev Word := BitVec 64
/-- One vector register at full health: 16 KiB (R18). With `rows` healthy active lane rows the low `rows * 2048` bits are in use. -/
abbrev VWord := BitVec 131072
/-- One accumulator row: 256 FP32 columns, column c at bits [32c+31:32c] (R155). -/
abbrev AccRow := BitVec 8192
/-- A SHAKE256 digest at 512 bits (R337). -/
abbrev Digest := BitVec 512

/-- A 5-bit register field naming x0 to x31 (R40). -/
abbrev XReg := BitVec 5
/-- A 5-bit register field naming v0 to v31 (R40). -/
abbrev VReg := BitVec 5
/-- The low 3 bits of a nest register field (R45). -/
abbrev NReg := BitVec 3

/-- A field F0 to F7 (R14). -/
abbrev FieldId := Fin 8
/-- A quad, numbered as QUADID: [6:4] field, [3:0] quad site (R23). -/
abbrev QuadId := Fin 128
/-- A hart, numbered as HARTID: [8:6] field, [5:2] quad site, [1:0] position (R23). -/
abbrev HartId := Fin 512
/-- A hardware thread: hart * 8 + thread number (R13, R23). -/
abbrev Tid := Fin 4096
/-- A context number (R23). -/
abbrev CtxId := Fin 64

/-- The precision bit ctl[0] of SFPU words (R50). -/
inductive Prec where
  | s | d
deriving DecidableEq, Repr, Inhabited

/-- The rounding code of float-to-integer conversion (R74). -/
inductive RMode where
  | rne | rz | rdn | rup
deriving DecidableEq, Repr, Inhabited

/-- A scope (R47, R216). -/
inductive Scope where
  | hart | quad | field | pkg | sys
deriving DecidableEq, Repr, Inhabited

/-- The cache policy of MEM words (R49). -/
inductive Cache where
  | normal | stream | keep
deriving DecidableEq, Repr, Inhabited

/-- The narrow format of vfwiden and vfnarrow (R48). At ew = 4 only code 0 is accepted and names FP32 (R122). -/
inductive Narrow where
  | e4m3 | e5m2 | bf16 | f16
deriving DecidableEq, Repr, Inhabited

/-- The code type of 4-bit codes (R83). -/
inductive CodeType where
  | int | e2m1 | pow | hyb
deriving DecidableEq, Repr, Inhabited

/-- The operand width of an atomic (R50). -/
inductive AWidth where
  | w32 | w64
deriving DecidableEq, Repr, Inhabited

/-- The number of lane groups lsplit makes (R275). -/
inductive SplitCount where
  | two | four | eight
deriving DecidableEq, Repr, Inhabited

/-- The operand count of tcall, 1 to 3 (R178). -/
inductive TileCount where
  | one | two | three
deriving DecidableEq, Repr, Inhabited

/-- The third operand of VIALU and VCMP: a vector register group, or a scalar register when var[0] = 1 (R48). -/
inductive VSrc where
  | vec (v : VReg)
  | scal (x : XReg)
deriving DecidableEq, Repr, Inhabited

/-- A depth operand, 0 to 4 (R48). -/
abbrev Depth := Fin 5

end Sys2Proof
end

