-- ==== Sys2Proof/Machine/Float.lean ====
section
/-! DEFINITION. Number formats, rounding and the order of sums (spec/03_number_formats.md R60 to R95). Every operation forms its exact result as a
value and rounds it once. Bit patterns are natural numbers of the format's width. -/

namespace Sys2Proof.Machine

/-- The floating-point formats (R63). -/
inductive Fmt where
  | fp64 | fp32 | fp16 | bf16 | e4m3 | e5m2
deriving DecidableEq, Repr, Inhabited

def Fmt.width : Fmt → Nat
  | .fp64 => 64
  | .fp32 => 32
  | .fp16 => 16
  | .bf16 => 16
  | .e4m3 => 8
  | .e5m2 => 8
/-- Fraction bits. -/
def Fmt.frac : Fmt → Nat
  | .fp64 => 52
  | .fp32 => 23
  | .fp16 => 10
  | .bf16 => 7
  | .e4m3 => 3
  | .e5m2 => 2
def Fmt.bias : Fmt → Nat
  | .fp64 => 1023
  | .fp32 => 127
  | .fp16 => 15
  | .bf16 => 127
  | .e4m3 => 7
  | .e5m2 => 15
def Fmt.expMax (f : Fmt) : Nat := 2 ^ (f.width - 1 - f.frac) - 1
def Fmt.signBit (f : Fmt) : Nat := 2 ^ (f.width - 1)
/-- The pattern of the largest finite magnitude (R63, R65). -/
def Fmt.maxFinite (f : Fmt) : Nat := if f = .e4m3 then 0x7E else f.expMax * 2 ^ f.frac - 1
/-- The pattern of +∞; E4M3 has none and delivers 448 (R65, R68). -/
def Fmt.infBits (f : Fmt) : Nat := if f = .e4m3 then 0x7E else f.expMax * 2 ^ f.frac
/-- The canonical quiet NaN (R66). -/
def Fmt.canonNaN (f : Fmt) : Nat := if f = .e4m3 then 0x7F else f.expMax * 2 ^ f.frac + 2 ^ (f.frac - 1)

/-- FFLAGS bits (R77). -/
def flNV : BitVec 5 := 16
def flDZ : BitVec 5 := 8
def flOF : BitVec 5 := 4
def flUF : BitVec 5 := 2
def flNX : BitVec 5 := 1

/-- A value: a NaN, an infinity, or the exact number (-1)^neg * m * 2^e, where m = 0 is a signed zero. -/
inductive FVal where
  | nan (signalling : Bool)
  | inf (neg : Bool)
  | fin (neg : Bool) (m : Nat) (e : Int)
deriving DecidableEq, Repr, Inhabited

/-- The value of a bit pattern (R63, R64, R65). -/
def unpack (f : Fmt) (bits : Nat) : FVal :=
  let neg := decide (f.signBit ≤ bits % (2 * f.signBit))
  let mag := bits % f.signBit
  let ex := mag / 2 ^ f.frac
  let fr := mag % 2 ^ f.frac
  if f = .e4m3 ∧ mag = 0x7F then .nan false
  else if f ≠ .e4m3 ∧ ex = f.expMax then
    if fr = 0 then .inf neg else .nan (decide (fr < 2 ^ (f.frac - 1)))
  else if ex = 0 then .fin neg fr (1 - (f.bias : Int) - f.frac)
  else .fin neg (2 ^ f.frac + fr) ((ex : Int) - f.bias - f.frac)

/-- m * 2^-shift rounded to an integer to nearest with ties to even, `sticky` saying that the exact value lies a little above m; and whether
anything was lost. -/
def roundShift (m shift : Nat) (sticky : Bool) : Nat × Bool :=
  if shift = 0 then (m, sticky)
  else
    let n := m / 2 ^ shift
    let r := m % 2 ^ shift
    let half := 2 ^ (shift - 1)
    let up := decide (half < r) || (decide (r = half) && (sticky || n % 2 == 1))
    (n + (if up then 1 else 0), decide (r ≠ 0) || sticky)

def withSign (f : Fmt) (neg : Bool) (mag : Nat) : Nat := if neg then f.signBit + mag else mag

/-- What a finite overflow delivers: infinity, or the largest finite value (R68, R346). -/
inductive Overflow where
  | standard | saturate
deriving DecidableEq, Repr

def overflowBits (f : Fmt) (o : Overflow) : Nat :=
  if o = .saturate ∨ f = .e4m3 ∨ f = .e5m2 then f.maxFinite else f.infBits

/-- Round a nonzero magnitude m * 2^e once into the format (R67 to R69). -/
def roundFin (f : Fmt) (o : Overflow) (neg : Bool) (m : Nat) (e : Int) (sticky : Bool) : Nat × BitVec 5 :=
  let top : Int := (Nat.log2 m : Int) + e
  let qmin : Int := 1 - (f.bias : Int) - f.frac
  if (f.expMax : Int) - f.bias + 1 < top then (withSign f neg (overflowBits f o), flOF ||| flNX)
  else if top < qmin - 1 then (withSign f neg 0, flUF ||| flNX)
  else
    let q := max (top - f.frac) qmin
    let r := if q ≤ e then (m * 2 ^ (e - q).toNat, sticky) else roundShift m (q - e).toNat sticky
    let mag := (q - qmin).toNat * 2 ^ f.frac + r.1
    if f.maxFinite < mag then (withSign f neg (overflowBits f o), flOF ||| flNX)
    else
      let q' := top - f.frac
      let r' := if q' ≤ e then (m * 2 ^ (e - q').toNat) else (roundShift m (q' - e).toNat sticky).1
      let tiny := decide (top < 1 - (f.bias : Int)) && !(decide (top = -(f.bias : Int)) && decide (2 ^ (f.frac + 1) ≤ r'))
      (withSign f neg mag, if r.2 then (if tiny then flUF ||| flNX else flNX) else 0)

/-- Deliver a value in a format (R66 to R70, R76): the one rounding of an operation. -/
def pack (f : Fmt) (o : Overflow) (v : FVal) (sticky : Bool := false) : Nat × BitVec 5 :=
  match v with
  | .nan s => (f.canonNaN, if s then flNV else 0)
  | .inf neg => (withSign f neg f.infBits, if f = .e4m3 then flOF ||| flNX else 0)
  | .fin neg m e => if m = 0 then (withSign f neg 0, 0) else roundFin f o neg m e sticky

def rne (f : Fmt) (v : FVal) : Nat × BitVec 5 := pack f .standard v

def FVal.isNaN : FVal → Bool
  | .nan _ => true
  | _ => false
def FVal.signals : FVal → Bool
  | .nan s => s
  | _ => false
def FVal.neg : FVal → FVal
  | .nan s => .nan s
  | .inf n => .inf !n
  | .fin n m e => .fin (!n) m e

/-- A signed integer at an exponent as a value. -/
def ofDyadic (n : Int) (e : Int) : FVal := .fin (decide (n < 0)) n.natAbs e

def signedNat (neg : Bool) (m : Nat) : Int := if neg then -(m : Int) else m

/-- The exact sum of two finite values; an exact zero is -0 only when both are -0 (R70). -/
def addFin (n1 : Bool) (m1 : Nat) (e1 : Int) (n2 : Bool) (m2 : Nat) (e2 : Int) : FVal :=
  let e := min e1 e2
  let n := signedNat n1 (m1 * 2 ^ (e1 - e).toNat) + signedNat n2 (m2 * 2 ^ (e2 - e).toNat)
  if n = 0 then .fin (n1 && n2 && m1 == 0 && m2 == 0) 0 0 else ofDyadic n e

/-- Exact sum; a NaN operand or ∞ - ∞ gives a NaN that signals when NV is due (R71). -/
def addX : FVal → FVal → FVal
  | .nan s, b => .nan (s || b.signals)
  | a, .nan s => .nan (s || a.signals)
  | .inf n1, .inf n2 => if n1 = n2 then .inf n1 else .nan true
  | .inf n, _ => .inf n
  | _, .inf n => .inf n
  | .fin n1 m1 e1, .fin n2 m2 e2 => addFin n1 m1 e1 n2 m2 e2

/-- Exact product; 0 times ∞ is invalid (R71). -/
def mulX : FVal → FVal → FVal
  | .nan s, b => .nan (s || b.signals)
  | a, .nan s => .nan (s || a.signals)
  | .inf n1, .inf n2 => .inf (n1 != n2)
  | .inf n1, .fin n2 m _ => if m = 0 then .nan true else .inf (n1 != n2)
  | .fin n1 m _, .inf n2 => if m = 0 then .nan true else .inf (n1 != n2)
  | .fin n1 m1 e1, .fin n2 m2 e2 => .fin (n1 != n2) (m1 * m2) (e1 + e2)

def fadd (f : Fmt) (a b : FVal) : Nat × BitVec 5 := rne f (addX a b)
def fsub (f : Fmt) (a b : FVal) : Nat × BitVec 5 := rne f (addX a b.neg)
def fmul (f : Fmt) (a b : FVal) : Nat × BitVec 5 := rne f (mulX a b)

/-- Fused multiply-add: one rounding; 0 times ∞ sets NV even with a quiet NaN addend (R71). -/
def ffma (f : Fmt) (a b c : FVal) : Nat × BitVec 5 := rne f (addX (mulX a b) c)

/-- The quotient of two nonzero magnitudes to enough bits, and whether it is inexact. -/
def divMag (f : Fmt) (m1 : Nat) (e1 : Int) (m2 : Nat) (e2 : Int) : Nat × Int × Bool :=
  let k := f.frac + 4 + Nat.log2 m2
  let n := m1 * 2 ^ k
  (n / m2, e1 - e2 - k, decide (n % m2 ≠ 0))

/-- Division (R70, R71). -/
def fdiv (f : Fmt) (a b : FVal) : Nat × BitVec 5 :=
  match a, b with
  | .nan s, b => rne f (.nan (s || b.signals))
  | a, .nan s => rne f (.nan (s || a.signals))
  | .inf _, .inf _ => rne f (.nan true)
  | .inf n1, .fin n2 _ _ => rne f (.inf (n1 != n2))
  | .fin n1 _ _, .inf n2 => rne f (.fin (n1 != n2) 0 0)
  | .fin n1 m1 e1, .fin n2 m2 e2 =>
    if m2 = 0 then
      if m1 = 0 then rne f (.nan true)
      else ((rne f (.inf (n1 != n2))).1, flDZ)
    else if m1 = 0 then rne f (.fin (n1 != n2) 0 0)
    else
      let q := divMag f m1 e1 m2 e2
      pack f .standard (.fin (n1 != n2) q.1 q.2.1) q.2.2

/-- The integer square root, bit by bit from the high end. -/
def isqrtFrom : Nat → Nat → Nat → Nat
  | 0, _, r => r
  | k + 1, n, r =>
    let r' := r + 2 ^ k
    isqrtFrom k n (if r' * r' ≤ n then r' else r)
def isqrt (n : Nat) : Nat := isqrtFrom (Nat.log2 n / 2 + 1) n 0

/-- Square root (R70, R71). -/
def fsqrt (f : Fmt) (a : FVal) : Nat × BitVec 5 :=
  match a with
  | .nan s => rne f (.nan s)
  | .inf neg => if neg then rne f (.nan true) else rne f (.inf false)
  | .fin neg m e =>
    if m = 0 then rne f (.fin neg 0 0)
    else if neg then rne f (.nan true)
    else
      let odd := e % 2 = 1
      let m := if odd then 2 * m else m
      let e := if odd then e - 1 else e
      let k := f.frac + 3
      let n := m * 2 ^ (2 * k)
      let r := isqrt n
      pack f .standard (.fin false r (e / 2 - k)) (decide (r * r ≠ n))

/-- Compare two values that are not NaN, -0 equal to +0. -/
def cmpX : FVal → FVal → Ordering
  | .inf n1, .inf n2 => if n1 = n2 then .eq else if n1 then .lt else .gt
  | .inf n1, _ => if n1 then .lt else .gt
  | _, .inf n2 => if n2 then .gt else .lt
  | .fin n1 m1 e1, .fin n2 m2 e2 =>
    let e := min e1 e2
    compare (signedNat n1 (m1 * 2 ^ (e1 - e).toNat)) (signedNat n2 (m2 * 2 ^ (e2 - e).toNat))
  | _, _ => .eq

def FVal.isNeg : FVal → Bool
  | .nan _ => false
  | .inf n => n
  | .fin n _ _ => n

/-- a precedes b in the order of R72, which puts -0 below +0. -/
def ltMin (a b : FVal) : Bool :=
  match cmpX a b with
  | .lt => true
  | .gt => false
  | .eq => a.isNeg && !b.isNeg

/-- Minimum and maximum on patterns, NaN propagated (R72). -/
def fminmax (f : Fmt) (isMax : Bool) (a b : Nat) : Nat × BitVec 5 :=
  let x := unpack f a
  let y := unpack f b
  if x.isNaN || y.isNaN then (f.canonNaN, if x.signals || y.signals then flNV else 0)
  else if isMax then (if ltMin x y then b else a, 0) else (if ltMin y x then b else a, 0)

/-- The three comparisons (R73). -/
inductive Rel where
  | eq | lt | le
deriving DecidableEq, Repr

def fcmp (r : Rel) (a b : FVal) : Bool × BitVec 5 :=
  if a.isNaN || b.isNaN then (false, if r != .eq || a.signals || b.signals then flNV else 0)
  else
    match r, cmpX a b with
    | .eq, .eq => (true, 0)
    | .lt, .lt => (true, 0)
    | .le, .lt => (true, 0)
    | .le, .eq => (true, 0)
    | _, _ => (false, 0)

/-- Round a finite value to an integer in a mode; and whether it changed (R74). -/
def roundToInt (r : RMode) (neg : Bool) (m : Nat) (e : Int) : Int × Bool :=
  if 0 ≤ e then (signedNat neg (m * 2 ^ e.toNat), false)
  else
    let k := (-e).toNat
    let down := m / 2 ^ k
    let lost := decide (m % 2 ^ k ≠ 0)
    let mag :=
      match r with
      | .rne => (roundShift m k false).1
      | .rz => down
      | .rdn => if neg && lost then down + 1 else down
      | .rup => if !neg && lost then down + 1 else down
    (signedNat neg mag, lost)

/-- Float to signed integer of width w (R74), as its w-bit pattern. -/
def toInt (r : RMode) (w : Nat) (v : FVal) : Nat × BitVec 5 :=
  let lo : Int := -(2 ^ (w - 1) : Nat)
  let hi : Int := (2 ^ (w - 1) : Nat) - 1
  let enc (n : Int) : Nat := (n % (2 ^ w : Nat)).toNat
  match v with
  | .nan _ => (0, flNV)
  | .inf neg => (enc (if neg then lo else hi), flNV)
  | .fin neg m e =>
    if m ≠ 0 ∧ (w : Int) + 1 < (Nat.log2 m : Int) + e then (enc (if neg then lo else hi), flNV)
    else
      let n := roundToInt r neg m e
      if n.1 < lo then (enc lo, flNV) else if hi < n.1 then (enc hi, flNV) else (enc n.1, if n.2 then flNX else 0)

/-- Signed integer to float (R75). -/
def ofInt (f : Fmt) (n : Int) : Nat × BitVec 5 := rne f (ofDyadic n 0)

/-- A * 2^s rounded once (R121). -/
def fscale (f : Fmt) (a : FVal) (s : Int) : Nat × BitVec 5 :=
  match a with
  | .fin n m e => rne f (.fin n m (e + s))
  | v => rne f v

/-- Convert between formats: exact when widening, one rounding when narrowing (R76). -/
def convert (src dst : Fmt) (o : Overflow) (bits : Nat) : Nat × BitVec 5 := pack dst o (unpack src bits)

/-- Logits under a sampling temperature (R123): x, M and T. -/
def flogt (f : Fmt) (x m t : FVal) : Nat × BitVec 5 :=
  if x.isNaN || m.isNaN || t.isNaN then (f.canonNaN, if x.signals || m.signals || t.signals then flNV else 0)
  else
    let zeroOrSub :=
      match t with
      | .fin _ k e => decide (k = 0) || decide ((Nat.log2 k : Int) + e < 1 - (f.bias : Int))
      | _ => false
    if zeroOrSub then (if cmpX x m = .eq then (0, 0) else (withSign f true f.infBits, 0))
    else if t.isNeg then (f.canonNaN, flNV)
    else if t = .inf false then (0, 0)
    else fdiv f (addX x m.neg) t

/-! ## Sums -/

/-- The exact sum of terms, rounded once; any NaN term decides first, then infinities of both signs (R89 to R91). -/
def exactSum (f : Fmt) (terms : List FVal) : Nat × BitVec 5 :=
  if terms.any FVal.isNaN then (f.canonNaN, if terms.any FVal.signals then flNV else 0)
  else
    match terms with
    | [] => (0, 0)
    | t :: rest => rne f (rest.foldl addX t)

/-- The balanced tree over 2^k positions; a value without a partner passes up unchanged (R92). -/
def pairSum : Nat → List (Option Nat) → Option Nat × BitVec 5
  | 0, l => (l.head?.join, 0)
  | k + 1, l =>
    let lo := pairSum k (l.take (2 ^ k))
    let hi := pairSum k (l.drop (2 ^ k))
    match lo.1, hi.1 with
    | none, h => (h, lo.2 ||| hi.2)
    | l', none => (l', lo.2 ||| hi.2)
    | some a, some b =>
      let r := fadd .fp64 (unpack .fp64 a) (unpack .fp64 b)
      (some r.1, lo.2 ||| hi.2 ||| r.2)

/-- Aligned blocks of 256 positions, left to right (R92). -/
def blockSum : Nat → List (Option Nat) → Option Nat → BitVec 5 → Option Nat × BitVec 5
  | 0, _, acc, fl => (acc, fl)
  | fuel + 1, l, acc, fl =>
    if l.isEmpty then (acc, fl)
    else
      let b := pairSum 8 (l.take 256)
      let rest := l.drop 256
      match b.1, acc with
      | none, acc => blockSum fuel rest acc (fl ||| b.2)
      | some x, none => blockSum fuel rest (some x) (fl ||| b.2)
      | some x, some a =>
        let r := fadd .fp64 (unpack .fp64 a) (unpack .fp64 x)
        blockSum fuel rest (some r.1) (fl ||| b.2 ||| r.2)

/-- FP64 sums by the fixed pairing; the result is made canonical (R92). -/
def fp64Sum (l : List (Option Nat)) : Nat × BitVec 5 :=
  let r := blockSum (l.length / 256 + 1) l none 0
  match r.1 with
  | none => (0, r.2)
  | some b => if (unpack .fp64 b).isNaN then (Fmt.fp64.canonNaN, r.2 ||| (if (unpack .fp64 b).signals then flNV else 0)) else (b, r.2)

/-- A sum over segment positions, none where masked off. -/
def fsum (f : Fmt) (l : List (Option Nat)) : Nat × BitVec 5 :=
  if f = .fp64 then fp64Sum l else exactSum f (l.filterMap fun o => o.map (unpack f))

/-! ## Block-scaled 4-bit codes (R82 to R88) -/

/-- Eight times the magnitude of a code's field (R84). -/
def codeMag8 (t : CodeType) (field : Nat) : Nat :=
  match t with
  | .int => 8 * field
  | .e2m1 => [0, 4, 8, 12, 16, 24, 32, 48][field]?.getD 0
  | .pow => if field = 0 then 0 else 2 ^ (field - 1)
  | .hyb => [0, 8, 16, 24, 32, 48, 64, 96][field]?.getD 0

def codeTypeOf (scale : Nat) : CodeType := match scale / 64 % 4 with | 0 => .int | 1 => .e2m1 | 2 => .pow | _ => .hyb
def codeTypeNum : CodeType → Nat
  | .int => 0
  | .e2m1 => 1
  | .pow => 2
  | .hyb => 3

/-- The value of a code under a scale byte; a quiet NaN in an invalid block (R84, R85). -/
def codeValue (code scale : Nat) : FVal :=
  let e6 := scale % 64
  if e6 = 32 then .nan false
  else
    let e : Int := if e6 < 32 then e6 else (e6 : Int) - 64
    match codeTypeOf scale with
    | .int => if code % 16 < 8 then .fin false (code % 16) e else .fin true (16 - code % 16) e
    | t => .fin (decide (8 ≤ code % 16)) (codeMag8 t (code % 8)) (e - 3)

/-- Eight times the type's largest code magnitude (R87). -/
def codeMax8 : CodeType → Nat
  | .int => 56
  | .e2m1 => 48
  | .pow => 64
  | .hyb => 96

/-- m * 2^e ≤ c8 / 8 * 2^k. -/
def magLe (m : Nat) (e : Int) (c8 : Nat) (k : Int) : Bool :=
  let d := e + 3 - k
  if 0 ≤ d then decide (m * 2 ^ d.toNat ≤ c8) else decide (m ≤ c8 * 2 ^ (-d).toNat)

/-- The smallest exponent in -31 to 31 with every magnitude at most K * 2^e, or 31 (R87). -/
def chooseScale (t : CodeType) (vals : List FVal) : Int :=
  let fits (k : Int) : Bool := vals.all fun v => match v with | .fin _ m e => magLe m e (codeMax8 t) k | _ => false
  match (List.range 63).find? fun (j : Nat) => fits ((j : Int) - 31) with
  | some j => (j : Int) - 31
  | none => 31

/-- The nearest field to m * 2^e / 2^k, ties to the even field; and the flags (R88). -/
def nearestField (t : CodeType) (m : Nat) (e k : Int) : Nat × BitVec 5 :=
  if !magLe m e (codeMax8 t) k then (7, flOF ||| flNX)
  else
    let d := e + 3 - k
    let x := if 0 ≤ d then m * 2 ^ d.toNat else m
    let up := if 0 ≤ d then 1 else 2 ^ (-d).toNat
    let dist (j : Nat) : Nat := ((x : Int) - (codeMag8 t j * up : Nat)).natAbs
    let best := (List.range 8).foldl (fun b j => if dist j < dist b ∨ (dist j = dist b ∧ j % 2 = 0) then j else b) 0
    (best, if dist best = 0 then 0 else flNX)

/-- Encode one block: its scale byte, its codes and its flags (R87, R88). -/
def encodeBlock (t : CodeType) (vals : List FVal) : Nat × List Nat × BitVec 5 :=
  if vals.any fun v => match v with | .fin _ _ _ => false | _ => true then
    (codeTypeNum t * 64 + 32, vals.map fun _ => 0, flNV)
  else if vals.all fun v => match v with | .fin _ m _ => m == 0 | _ => false then
    (codeTypeNum t * 64, vals.map fun _ => 0, 0)
  else
    let k := chooseScale t vals
    let cs := vals.map fun v =>
      match v with
      | .fin neg m e =>
        if m = 0 then (0, 0#5)
        else
          let r := nearestField t m e k
          let code := if r.1 = 0 then 0 else if neg then (if t = .int then 16 - r.1 else 8 + r.1) else r.1
          (code, r.2)
      | _ => (0, 0#5)
    (codeTypeNum t * 64 + (k % 64).toNat, cs.map Prod.fst, cs.foldl (fun fl c => fl ||| c.2) 0)

end Sys2Proof.Machine
end

