-- ==== Sys2Proof/Syntax.lean ====
section
/-! DEFINITION. The syntax of the Baldex architecture: one constructor of `Instr` per row of spec/opcode_table.json.
The first 193 rows are instruction words (spec/02_instruction_words.md R53, R54). The other 60 are the steps of the part that no
word encodes: what the engines, the press, the launch unit, the management controller, the links, the debugger and the host do.
Their operands are what the environment supplies at that moment (which entry, which hart, a measured value, a link's success). -/

namespace Sys2Proof

/-- The operation of an atomic access performed at a home (R229). -/
inductive AtomicOp where
  | add | and | or | xor | min | max | swap | cas | fadd
deriving DecidableEq, Repr, Inhabited

/-- Where a peer's request comes in, and which device it names (R407). -/
structure Addressee where
  port : Fin 18
  dev  : BitVec 18
deriving DecidableEq, Repr, Inhabited

/-- A physical access from the Evsen or a Sahair link to this device's memory (R406, R407). -/
inductive OutsideOp where
  | read (pa : BitVec 40) (len : Nat)
  | write (pa : BitVec 40) (bytes : List Byte)
  | atomic (op : AtomicOp) (w : AWidth) (pa : BitVec 40) (operand expected : Word)
deriving DecidableEq, Repr, Inhabited

/-- How the debugger lets threads run on: every stopped thread of the launch, or this thread alone for a convoy or one instruction (R312,
R319). -/
inductive DebugRun where
  | cont | step | stepi
deriving DecidableEq, Repr, Inhabited

/-- Which thread the debugger lets run on, and how. -/
structure Resumption where
  tid : Tid
  how : DebugRun
deriving DecidableEq, Repr, Inhabited

/-- What a flit that failed parity carried (R380). -/
inductive Carried where
  /-- a register result of this thread: a failed hop is an uncontainable event -/
  | result (t : Tid)
  /-- memory data at this home key: a failed hop makes its unit bad -/
  | data (key : Nat)
  /-- what the next data access of this thread that goes this way waits for, or its next fetch: a failed hop raises 0x16 there -/
  | access (t : Tid) (fetch : Bool)
deriving DecidableEq, Repr, Inhabited

/-- How a link's retry of a flit ends (R381, R390). -/
inductive RetryOutcome where
  /-- the retry succeeded -/
  | ok
  /-- the sixteenth consecutive retry failed, while the next data accesses of these threads, or their next fetches, wait on the port -/
  | exhausted (waiting : List (Tid × Bool))
  /-- a port that runs on its spare lanes has lost another lane -/
  | laneLost
deriving DecidableEq, Repr, Inhabited

/-- What the part answers when a spare is to be brought in (R388, R404). -/
inductive RepairOutcome where
  | done
  /-- the channel or port is training -/
  | busy
  /-- the DRAM reports no spare row -/
  | noSpare
  | failed
deriving DecidableEq, Repr, Inhabited

/-- The cases of R375 and the asynchronous cases of R378. -/
inductive AsyncError where
  /-- a third lane or register error strikes the strip (R375, first case) -/
  | third (row : Option (Fin 64))
  /-- an error in the history buffer, a checkpoint copy or the strip store buffer (R375, second case) -/
  | lost
deriving DecidableEq, Repr, Inhabited

/-- A corrected error, or an elided read, as a check sees it (R392). -/
structure CorrectedError where
  /-- the lane row whose register-file slice it was corrected in, if it was (R386) -/
  row   : Option (HartId × Fin 64)
  kind  : Byte
  field : FieldId
  loc   : BitVec 16
  pa    : Word
  ctx   : BitVec 16
deriving DecidableEq, Repr, Inhabited

/-- What the boot ROM or the firmware is shown of an image it verifies (R336). -/
structure SignedImage where
  /-- SHAKE256 digest of the image's public key -/
  keyDigest : Digest
  version   : Word
  /-- the signature verifies over `digest` -/
  signed    : Bool
  /-- SHAKE256 digest of every image byte before the signature -/
  digest    : Digest
deriving DecidableEq, Repr, Inhabited

/-- What the management controller meets at one bring-up step (R396, R397, R398). -/
structure BringUpInput where
  /-- the step, or the field or crossing it brings up, passes -/
  pass        : Bool
  /-- during step 4 or 6: a stitch crossing whose two fields have locked trains already (R396) -/
  crossing    : Option (Fin 6)
  /-- steps 2 and 8: the image verified -/
  image       : SignedImage
  /-- step 8: the bytes the firmware writes into stack 0: the runtime area and the runtime image, from physical address 0 -/
  contents    : List (BitVec 40 × Byte)
  /-- step 8: where the firmware places the rings (R404) -/
  cmdRing     : Word
  errRing     : Word
  errSlots    : BitVec 32
  /-- step 9: the runtime image's header (R398) -/
  entry       : Word
  trapVector  : Word
  /-- the supervisor stack top of hart h, thread t at index 8h + t -/
  stackTops   : List Word
deriving DecidableEq, Repr, Inhabited

/-- The operations and events of the part, one constructor per row of the opcode table; the rows without operands come last. -/
inductive Instr where
  /-- ADD (R97). Writes the wrapping 64-bit sum of xa and xb to xd. -/
  | add (d a b : XReg)
  /-- SUB (R97). Writes the wrapping 64-bit difference xa minus xb to xd. -/
  | sub (d a b : XReg)
  /-- AND (R97). Writes the bitwise and of xa and xb to xd. -/
  | and (d a b : XReg)
  /-- OR (R97). Writes the bitwise or of xa and xb to xd. -/
  | or (d a b : XReg)
  /-- XOR (R97). Writes the bitwise exclusive or of xa and xb to xd. -/
  | xor (d a b : XReg)
  /-- SLL (R97). Shifts xa left by xb[5:0] and writes the low 64 bits to xd. -/
  | sll (d a b : XReg)
  /-- SRL (R97). Shifts xa right logically by xb[5:0] into xd. -/
  | srl (d a b : XReg)
  /-- SRA (R97). Shifts xa right arithmetically by xb[5:0] into xd. -/
  | sra (d a b : XReg)
  /-- SLT (R97). Writes 1 to xd if xa is less than xb as signed integers, else 0. -/
  | slt (d a b : XReg)
  /-- SLTU (R97). Writes 1 to xd if xa is less than xb as unsigned integers, else 0. -/
  | sltu (d a b : XReg)
  /-- MUL (R97). Writes the low 64 bits of the product of xa and xb to xd. -/
  | mul (d a b : XReg)
  /-- MULH (R97). Writes the upper half of the signed 128-bit product to xd. -/
  | mulh (d a b : XReg)
  /-- MULHU (R97). Writes the upper half of the unsigned 128-bit product to xd. -/
  | mulhu (d a b : XReg)
  /-- DIV (R97). Writes the signed quotient rounded toward zero, with the special cases of R62, to xd. -/
  | div (d a b : XReg)
  /-- DIVU (R97). Writes the unsigned quotient, all ones for a zero divisor, to xd. -/
  | divu (d a b : XReg)
  /-- CLZ (R97). Writes the number of leading zero bits of xa to xd. -/
  | clz (d a : XReg)
  /-- CTZ (R97). Writes the number of trailing zero bits of xa to xd. -/
  | ctz (d a : XReg)
  /-- POPC (R97). Writes the number of one bits of xa to xd. -/
  | popc (d a : XReg)
  /-- ADDI (R98). Writes xa plus the sign-extended immediate to xd. -/
  | addi (d a : XReg) (k : BitVec 16)
  /-- ANDI (R98). Writes xa and the zero-extended immediate to xd. -/
  | andi (d a : XReg) (k : BitVec 16)
  /-- ORI (R98). Writes xa or the zero-extended immediate to xd. -/
  | ori (d a : XReg) (k : BitVec 16)
  /-- XORI (R98). Writes xa xor the zero-extended immediate to xd. -/
  | xori (d a : XReg) (k : BitVec 16)
  /-- SLLI (R99). Shifts xa left by the immediate amount into xd. -/
  | slli (d a : XReg) (n : BitVec 6)
  /-- SRLI (R99). Shifts xa right logically by the immediate amount into xd. -/
  | srli (d a : XReg) (n : BitVec 6)
  /-- SRAI (R99). Shifts xa right arithmetically by the immediate amount into xd. -/
  | srai (d a : XReg) (n : BitVec 6)
  /-- LUI (R98). Writes the sign-extended immediate shifted left by 16 to xd. -/
  | lui (d : XReg) (k : BitVec 16)
  /-- ADR (R98). Writes the address of the adr word plus four times the signed immediate to xd. -/
  | adr (d : XReg) (k : BitVec 16)
  /-- FADD (R100). Writes the correctly rounded floating-point sum of xa and xb to xd and accrues flags. -/
  | fadd (p : Prec) (d a b : XReg)
  /-- FSUB (R100). Writes the correctly rounded floating-point difference to xd. -/
  | fsub (p : Prec) (d a b : XReg)
  /-- FMUL (R100). Writes the correctly rounded floating-point product to xd. -/
  | fmul (p : Prec) (d a b : XReg)
  /-- FDIV (R100). Writes the correctly rounded floating-point quotient to xd. -/
  | fdiv (p : Prec) (d a b : XReg)
  /-- FSQRT (R100). Writes the correctly rounded square root of xa to xd. -/
  | fsqrt (p : Prec) (d a : XReg)
  /-- FMIN (R100). Writes the NaN-propagating minimum of xa and xb to xd. -/
  | fmin (p : Prec) (d a b : XReg)
  /-- FMAX (R100). Writes the NaN-propagating maximum of xa and xb to xd. -/
  | fmax (p : Prec) (d a b : XReg)
  /-- FMA (R101). Writes xa times xb plus the old xd, rounded once, to xd. -/
  | fma (p : Prec) (d a b : XReg)
  /-- FCMPLT (R100). Writes 1 to xd if xa is less than xb in floating point, else 0. -/
  | fcmplt (p : Prec) (d a b : XReg)
  /-- FCMPLE (R100). Writes 1 to xd if xa is at most xb in floating point, else 0. -/
  | fcmple (p : Prec) (d a b : XReg)
  /-- FCMPEQ (R100). Writes 1 to xd if xa equals xb in floating point, else 0. -/
  | fcmpeq (p : Prec) (d a b : XReg)
  /-- FCVTFI (R100). Converts signed INT64 xa to floating point in xd. -/
  | fcvtfi (p : Prec) (d a : XReg)
  /-- FCVTIF (R100). Converts floating-point xa to INT64 in xd under the rounding mode of ctl[2:1]. -/
  | fcvtif (p : Prec) (r : RMode) (d a : XReg)
  /-- LDB (R202). Loads a byte, sign-extended, into xd. -/
  | ldb (d a : XReg) (off : BitVec 13)
  /-- LDBU (R202). Loads a byte, zero-extended, into xd. -/
  | ldbu (d a : XReg) (off : BitVec 13)
  /-- LDW (R202). Loads 32 bits, sign-extended, into xd. -/
  | ldw (d a : XReg) (off : BitVec 13)
  /-- LDWU (R202). Loads 32 bits, zero-extended, into xd. -/
  | ldwu (d a : XReg) (off : BitVec 13)
  /-- LDD (R202). Loads 64 bits into xd. -/
  | ldd (d a : XReg) (off : BitVec 13)
  /-- STB (R202). Stores the low byte of xd. -/
  | stb (d a : XReg) (off : BitVec 13)
  /-- STW (R202). Stores the low 32 bits of xd. -/
  | stw (d a : XReg) (off : BitVec 13)
  /-- STD (R202). Stores all 64 bits of xd. -/
  | std (d a : XReg) (off : BitVec 13)
  /-- AMOADD (R230). Atomically adds xb to the word at xa at its home and returns the old value in xd. -/
  | amoadd (w : AWidth) (s : Scope) (ar : Bool) (d a b : XReg)
  /-- AMOAND (R230). Atomically ands xb into the word at xa and returns the old value. -/
  | amoand (w : AWidth) (s : Scope) (ar : Bool) (d a b : XReg)
  /-- AMOOR (R230). Atomically ors xb into the word at xa and returns the old value. -/
  | amoor (w : AWidth) (s : Scope) (ar : Bool) (d a b : XReg)
  /-- AMOXOR (R230). Atomically xors xb into the word at xa and returns the old value. -/
  | amoxor (w : AWidth) (s : Scope) (ar : Bool) (d a b : XReg)
  /-- AMOMIN (R230). Atomically replaces the word with the signed minimum of it and xb. -/
  | amomin (w : AWidth) (s : Scope) (ar : Bool) (d a b : XReg)
  /-- AMOMAX (R230). Atomically replaces the word with the signed maximum of it and xb. -/
  | amomax (w : AWidth) (s : Scope) (ar : Bool) (d a b : XReg)
  /-- AMOSWAP (R230). Atomically writes xb to the word and returns the old value. -/
  | amoswap (w : AWidth) (s : Scope) (ar : Bool) (d a b : XReg)
  /-- AMOCAS (R230). Atomically writes xb if the word equals xd and returns the old value. -/
  | amocas (w : AWidth) (s : Scope) (ar : Bool) (d a b : XReg)
  /-- FAMOADD (R231). Atomically adds xb to the floating-point word, rounding once, and returns the old value. -/
  | famoadd (w : AWidth) (s : Scope) (ar : Bool) (d a b : XReg)
  /-- BEQ (R278). Branches when xa equals xb, applying the loop exit rule. -/
  | beq (a b : XReg) (off : BitVec 16)
  /-- BNE (R278). Branches when xa differs from xb. -/
  | bne (a b : XReg) (off : BitVec 16)
  /-- BLT (R278). Branches when xa is less than xb, signed. -/
  | blt (a b : XReg) (off : BitVec 16)
  /-- BGE (R278). Branches when xa is at least xb, signed. -/
  | bge (a b : XReg) (off : BitVec 16)
  /-- BLTU (R278). Branches when xa is less than xb, unsigned. -/
  | bltu (a b : XReg) (off : BitVec 16)
  /-- BGEU (R278). Branches when xa is at least xb, unsigned. -/
  | bgeu (a b : XReg) (off : BitVec 16)
  /-- JAL (R280). Writes pc plus 4 to x1 and jumps by the signed word offset. -/
  | jal (off : BitVec 26)
  /-- JALR (R280). Jumps to xa plus the immediate, writing pc plus 4 to xd. -/
  | jalr (d a : XReg) (k : BitVec 16)
  /-- LOOP (R282). Pushes a hardware loop level with the count from xa, or skips the body for a count of zero. -/
  | loop (a : XReg) (off : BitVec 16)
  /-- LOOPI (R282). Pushes a hardware loop level with an immediate count of up to 1,023. -/
  | loopi (n : BitVec 10) (off : BitVec 16)
  /-- SVC (R286). Closes the strip and either ends the kernel (code 0) or traps with cause 0x11. -/
  | svc (n : BitVec 10)
  /-- WFE (R289). Sleeps until the watch line changes, a yield is requested or a trap is pending. -/
  | wfe (a : XReg)
  /-- RSYS (R290). Reads a system register into xd after the checks and waits of R22 and R291. -/
  | rsys (d : XReg) (num : BitVec 10)
  /-- WSYS (R290). Writes xa to a system register without further behaviour, after the checks of R22. -/
  | wsys (a : XReg) (num : BitVec 10)
  /-- FENCE_SV (R226). Closes the strip and orders earlier scalar accesses before later scalar and vector accesses at the scope. -/
  | fenceSv (s : Scope)
  /-- FENCE_VS (R226). Orders earlier scalar and vector accesses before later scalar accesses at the scope. -/
  | fenceVs (s : Scope)
  /-- FENCE_VV (R226). Orders earlier vector accesses before later vector accesses at the scope. -/
  | fenceVv (s : Scope)
  /-- BRK (R373). Waits for earlier instructions and traps with cause 0x12 and TVAL = n at its own address. -/
  | brk (n : BitVec 10)
  /-- SETVL (R108). Opens a strip and sets VTYPE, VLMAX and VL from the image and the requested length. -/
  | setvl (d a : XReg) (img : BitVec 16)
  /-- SETVLR (R109). As setvl, with the VTYPE image taken from xb. -/
  | setvlr (d a b : XReg)
  /-- SETVLM (R109). Opens a strip with VTYPE unchanged, sets VL and leaves the remainder in xa. -/
  | setvlm (d a : XReg)
  /-- VLQ (R109). Returns VLMAX for the image in xb on the present rows without opening a strip. -/
  | vlq (d b : XReg)
  /-- VADD (R118). Adds elements, or an element and a scalar, wrapping. -/
  | vadd (m : Bool) (d a : VReg) (b : VSrc)
  /-- VSUB (R118). Subtracts elements, wrapping. -/
  | vsub (m : Bool) (d a : VReg) (b : VSrc)
  /-- VMUL (R118). Multiplies elements, keeping the low bits. -/
  | vmul (m : Bool) (d a : VReg) (b : VSrc)
  /-- VAND (R118). Bitwise and of elements. -/
  | vand (m : Bool) (d a : VReg) (b : VSrc)
  /-- VOR (R118). Bitwise or of elements. -/
  | vor (m : Bool) (d a : VReg) (b : VSrc)
  /-- VXOR (R118). Bitwise exclusive or of elements. -/
  | vxor (m : Bool) (d a : VReg) (b : VSrc)
  /-- VSLL (R118). Shifts elements left. -/
  | vsll (m : Bool) (d a : VReg) (b : VSrc)
  /-- VSRL (R118). Shifts elements right logically. -/
  | vsrl (m : Bool) (d a : VReg) (b : VSrc)
  /-- VSRA (R118). Shifts elements right arithmetically. -/
  | vsra (m : Bool) (d a : VReg) (b : VSrc)
  /-- VMIN (R118). Signed minimum of elements. -/
  | vmin (m : Bool) (d a : VReg) (b : VSrc)
  /-- VMAX (R118). Signed maximum of elements. -/
  | vmax (m : Bool) (d a : VReg) (b : VSrc)
  /-- VSADD (R118). Saturating signed addition of elements. -/
  | vsadd (m : Bool) (d a : VReg) (b : VSrc)
  /-- VSSUB (R118). Saturating signed subtraction of elements. -/
  | vssub (m : Bool) (d a : VReg) (b : VSrc)
  /-- VPOPC (R118). Counts the one bits of each element. -/
  | vpopc (m : Bool) (d a : VReg)
  /-- VMERGE (R118). Selects B where v0 is set and A elsewhere for every element below VL. -/
  | vmerge (d a : VReg) (b : VSrc)
  /-- VMV (R118). Copies the elements of va to vd. -/
  | vmv (m : Bool) (d a : VReg)
  /-- VMV_SCALAR (R118). Broadcasts the low bits of xb to every element of vd. -/
  | vmvScalar (m : Bool) (d : VReg) (b : XReg)
  /-- VID (R118). Writes each element's index modulo 2^w. -/
  | vid (m : Bool) (d : VReg)
  /-- VWIDEN (R119). Extends packed half-width integers to width w and shifts them left. -/
  | vwiden (m sgn : Bool) (d a : VReg) (b : VSrc)
  /-- VNARROW (R119). Shifts integers right and saturates them to half width. -/
  | vnarrow (m sgn : Bool) (d a : VReg) (b : VSrc)
  /-- VCMPEQ (R120). Writes mask bits for element equality. -/
  | vcmpeq (m : Bool) (d a : VReg) (b : VSrc)
  /-- VCMPNE (R120). Writes mask bits for element inequality. -/
  | vcmpne (m : Bool) (d a : VReg) (b : VSrc)
  /-- VCMPLT (R120). Writes mask bits for signed less-than. -/
  | vcmplt (m : Bool) (d a : VReg) (b : VSrc)
  /-- VCMPLTU (R120). Writes mask bits for unsigned less-than. -/
  | vcmpltu (m : Bool) (d a : VReg) (b : VSrc)
  /-- VCMPLE (R120). Writes mask bits for signed less-or-equal. -/
  | vcmple (m : Bool) (d a : VReg) (b : VSrc)
  /-- VCMPLEU (R120). Writes mask bits for unsigned less-or-equal. -/
  | vcmpleu (m : Bool) (d a : VReg) (b : VSrc)
  /-- VFCMPEQ (R120). Writes mask bits for floating-point equality. -/
  | vfcmpeq (m : Bool) (d a : VReg) (b : VSrc)
  /-- VFCMPLT (R120). Writes mask bits for floating-point less-than. -/
  | vfcmplt (m : Bool) (d a : VReg) (b : VSrc)
  /-- VFCMPLE (R120). Writes mask bits for floating-point less-or-equal. -/
  | vfcmple (m : Bool) (d a : VReg) (b : VSrc)
  /-- VFADD (R121). Correctly rounded elementwise floating-point addition. -/
  | vfadd (m : Bool) (d a b : VReg)
  /-- VFSUB (R121). Correctly rounded elementwise floating-point subtraction. -/
  | vfsub (m : Bool) (d a b : VReg)
  /-- VFMUL (R121). Correctly rounded elementwise floating-point multiplication. -/
  | vfmul (m : Bool) (d a b : VReg)
  /-- VFMA (R121). Fused multiply-add of elements into vd, rounded once. -/
  | vfma (m : Bool) (d a b : VReg)
  /-- VFDIV (R121). Correctly rounded elementwise floating-point division. -/
  | vfdiv (m : Bool) (d a b : VReg)
  /-- VFMIN (R121). Elementwise floating-point minimum under R72. -/
  | vfmin (m : Bool) (d a b : VReg)
  /-- VFMAX (R121). Elementwise floating-point maximum under R72. -/
  | vfmax (m : Bool) (d a b : VReg)
  /-- VFSCALE (R121). Multiplies each element by 2 to a signed integer power, rounding once. -/
  | vfscale (m : Bool) (d a b : VReg)
  /-- VFCVTFI (R121). Converts signed integer elements to floating point. -/
  | vfcvtfi (m : Bool) (d a : VReg)
  /-- VFCVTIF (R121). Converts floating-point elements to signed integers in the chosen rounding mode. -/
  | vfcvtif (m : Bool) (r : RMode) (d a : VReg)
  /-- VFWIDEN (R122). Widens packed narrow floating-point elements exactly to the wide format. -/
  | vfwiden (m : Bool) (n : Narrow) (d a : VReg)
  /-- VFNARROW (R122). Rounds wide floating-point elements into a packed narrow format. -/
  | vfnarrow (m : Bool) (n : Narrow) (d a : VReg)
  /-- VFLOGT (R123). Forms (x - M) / T logits under a temperature, with the special cases of R123. -/
  | vflogt (m : Bool) (d a b : VReg)
  /-- VMAND (R124). Ands two masks. -/
  | vmand (m : Bool) (d a b : VReg)
  /-- VMOR (R124). Ors two masks. -/
  | vmor (m : Bool) (d a b : VReg)
  /-- VMXOR (R124). Xors two masks. -/
  | vmxor (m : Bool) (d a b : VReg)
  /-- VMPOPC (R124). Counts the set active mask bits into a scalar register. -/
  | vmpopc (m : Bool) (d : XReg) (a : VReg)
  /-- VMFIRST (R124). Writes the index of the lowest set active mask bit, or -1, to a scalar register. -/
  | vmfirst (m : Bool) (d : XReg) (a : VReg)
  /-- VREDSUM (R136). Wrapping integer sum of each level-d segment. -/
  | vredsum (m : Bool) (p : Depth) (d a : VReg) (n : NReg)
  /-- VREDMIN (R136). Signed minimum of each segment. -/
  | vredmin (m : Bool) (p : Depth) (d a : VReg) (n : NReg)
  /-- VREDMAX (R136). Signed maximum of each segment. -/
  | vredmax (m : Bool) (p : Depth) (d a : VReg) (n : NReg)
  /-- VREDAND (R136). Bitwise and of each segment. -/
  | vredand (m : Bool) (p : Depth) (d a : VReg) (n : NReg)
  /-- VREDOR (R136). Bitwise or of each segment. -/
  | vredor (m : Bool) (p : Depth) (d a : VReg) (n : NReg)
  /-- VREDXOR (R136). Bitwise exclusive or of each segment. -/
  | vredxor (m : Bool) (p : Depth) (d a : VReg) (n : NReg)
  /-- VFREDSUM (R136). Floating-point sum of each segment, exact and rounded once, or by the FP64 pairing. -/
  | vfredsum (m : Bool) (p : Depth) (d a : VReg) (n : NReg)
  /-- VFREDMIN (R136). Floating-point minimum of each segment. -/
  | vfredmin (m : Bool) (p : Depth) (d a : VReg) (n : NReg)
  /-- VFREDMAX (R136). Floating-point maximum of each segment. -/
  | vfredmax (m : Bool) (p : Depth) (d a : VReg) (n : NReg)
  /-- VREDMINX (R137). Signed minimum of each segment with its position written to v(d+1). -/
  | vredminx (m : Bool) (p : Depth) (h : BitVec 4) (a : VReg) (n : NReg)
  /-- VFREDMAXX (R137). Floating-point maximum of each segment with its position written to v(d+1). -/
  | vfredmaxx (m : Bool) (p : Depth) (h : BitVec 4) (a : VReg) (n : NReg)
  /-- VSCANSUM (R138). Inclusive or exclusive wrapping sum scan within each segment. -/
  | vscansum (m ex : Bool) (p : Depth) (d a : VReg) (n : NReg)
  /-- VSCANMAX (R138). Signed maximum scan within each segment. -/
  | vscanmax (m ex : Bool) (p : Depth) (d a : VReg) (n : NReg)
  /-- VFSCANSUM (R138). Floating-point sum scan, each prefix rounded once. -/
  | vfscansum (m ex : Bool) (p : Depth) (d a : VReg) (n : NReg)
  /-- VFSCANMAX (R138). Floating-point maximum scan within each segment. -/
  | vfscanmax (m ex : Bool) (p : Depth) (d a : VReg) (n : NReg)
  /-- VDIST (R139). Writes each element the value of its segment's entry in va. -/
  | vdist (m : Bool) (p : Depth) (d a : VReg) (n : NReg)
  /-- VPACK (R145). Stably partitions each innermost segment by v0 and pushes a level splitting it in two. -/
  | vpack (d a : VReg) (n : NReg)
  /-- VCOMPRESS (R146). Packs the elements whose v0 bit is set and rewrites the innermost offsets. -/
  | vcompress (d a : VReg) (n : NReg)
  /-- VSEGID (R139). Writes each element's segment index. -/
  | vsegid (m : Bool) (p : Depth) (d : VReg) (n : NReg)
  /-- VSEGLEN (R139). Writes each segment's length. -/
  | vseglen (p : Depth) (d : VReg) (n : NReg)
  /-- VTREE (R147). Turns a parent-index table into node depths, trapping on a bad parent. -/
  | vtree (d a : VReg)
  /-- NSET (R143). Sets a nest to depth 1 with base register, count and flags from xb. -/
  | nset (n : NReg) (a : VReg) (b : XReg)
  /-- NPUSH (R143). Adds a new innermost level with count from xb. -/
  | npush (n : NReg) (b : XReg)
  /-- NPOP (R144). Takes down the innermost level, plainly or by flattening into the level above. -/
  | npop (flat : Bool) (n : NReg)
  /-- VSLIDEUP (R140). Slides elements up by s within the segments of n0. -/
  | vslideup (m : Bool) (p : Depth) (d a : VReg) (b : XReg)
  /-- VSLIDEDN (R140). Slides elements down by s within the segments of n0. -/
  | vslidedn (m : Bool) (p : Depth) (d a : VReg) (b : XReg)
  /-- VRGATHER (R141). Gathers elements by segment-relative index. -/
  | vrgather (m : Bool) (p : Depth) (d a b : VReg)
  /-- VMVXS (R142). Copies one element, sign-extended, to a scalar register. -/
  | vmvxs (d : XReg) (a : VReg) (b : XReg)
  /-- VDEC4 (R152). Decodes block-scaled 4-bit codes exactly to the wide format. -/
  | vdec4 (m : Bool) (d a : VReg)
  /-- VENC4 (R153). Encodes each block of 32 values into codes of type T and a scale byte in v31. -/
  | venc4 (t : CodeType) (d a : VReg)
  /-- VBSUM (R154). Sums scaled codes, optionally times FP32 multipliers, per segment of n0, rounding once. -/
  | vbsum (m : Bool) (p : Depth) (d a b : VReg)
  /-- VLD (R206). Unit-stride vector load. -/
  | vld (m : Bool) (c : Cache) (d : VReg) (a : XReg)
  /-- VLDS (R206). Strided vector load, issued in windows. -/
  | vlds (m : Bool) (c : Cache) (d : VReg) (a b : XReg)
  /-- VLDX (R206). Indexed vector load with unordered elements. -/
  | vldx (m : Bool) (c : Cache) (d : VReg) (a : XReg) (b : VReg)
  /-- VLDXO (R207). Indexed vector load with elements performed in ascending order. -/
  | vldxo (m : Bool) (c : Cache) (d : VReg) (a : XReg) (b : VReg)
  /-- VLDFF (R208). Unit-stride load that stops at a fault beyond element 0 and records the stop in FFST. -/
  | vldff (c : Cache) (d : VReg) (a : XReg)
  /-- VFILL (R210). Loads whole element groups of a register from a 64-byte-aligned address. -/
  | vfill (c : Cache) (d : VReg) (a : XReg)
  /-- VST (R206). Unit-stride vector store. -/
  | vst (m : Bool) (c : Cache) (d : VReg) (a : XReg)
  /-- VSTS (R206). Strided vector store. -/
  | vsts (m : Bool) (c : Cache) (d : VReg) (a b : XReg)
  /-- VSTX (R206). Indexed vector store with unordered elements. -/
  | vstx (m : Bool) (c : Cache) (d : VReg) (a : XReg) (b : VReg)
  /-- VSTXO (R207). Indexed vector store with elements ordered ascending. -/
  | vstxo (m : Bool) (c : Cache) (d : VReg) (a : XReg) (b : VReg)
  /-- VSPILL (R210). Stores whole element groups of a register to a 64-byte-aligned address. -/
  | vspill (c : Cache) (d : VReg) (a : XReg)
  /-- TLD (R181). Loads one tagged frame, or an amended tile through a handle, into a register span. -/
  | tld (sc wide : Bool) (d : VReg) (a b : XReg)
  /-- TST (R182). Stores a frame with the record's expected tag, compacting 2:4 data. -/
  | tst (sc : Bool) (d : VReg) (a b : XReg)
  /-- TTAG (R183). Reads a frame's tag into xd. -/
  | ttag (d a b : XReg)
  /-- TSET (R183). Writes a frame's tag, leaving its data. -/
  | tset (d a b : XReg)
  /-- TCALL (R186). Dispatches an operator through the type case, inserting at most one conversion. -/
  | tcall (a : XReg) (n : TileCount)
  /-- LMK (R351). Makes or frees a layered-tensor handle. -/
  | lmk (s : Scope) (a b : XReg)
  /-- LATTACH (R352). Appends a checked layer descriptor to a handle's list. -/
  | lattach (s : Scope) (d a b : XReg)
  /-- LDETACH (R352). Removes a layer from a handle's list and waits for loads that read it. -/
  | ldetach (s : Scope) (d a b : XReg)
  /-- LFOLD (R353). Hands a handle's layer list to the press to fold into a new base. -/
  | lfold (s : Scope) (v : VReg) (a b : XReg)
  /-- MATTACH (R159). Replaces the holder's accumulator grant with up to the requested rows, zeroed. -/
  | mattach (d a : XReg)
  /-- MMODE (R161). Checks an ML image and writes it to ML. -/
  | mmode (a : XReg)
  /-- MOPA (R162). Rank-k outer-product update of the accumulator, rounded once per element. -/
  | mopa (a b : VReg)
  /-- MOPAB (R162). Rank-4 update from block-scaled codes with scales from v31. -/
  | mopab (a b : VReg)
  /-- MRD (R163). Copies an accumulator row into vd once that row has completed. -/
  | mrd (d : VReg) (a : XReg)
  /-- MWR (R161). Copies vb's elements into an accumulator row. -/
  | mwr (a : XReg) (b : VReg)
  /-- CPY (R241). Checks a transfer record, clears pennant bits and hands the copy to the quad engine. -/
  | cpy (s : Scope) (v : VReg) (a : XReg)
  /-- COLL (R241). Hands a combining collective transfer to the quad engine. -/
  | coll (s : Scope) (v : VReg) (a : XReg)
  /-- FCLAIM (R304). Claims the next unclaimed strip index from the farm counter, or -1. -/
  | fclaim (d : XReg)
  /-- VFBAR (R251). Waits for earlier stores at the scope and arrives at a barrier word. -/
  | vfbar (s : Scope) (d a : XReg)
  /-- BWAIT (R252). Waits until a barrier word's phase differs from xb and acquires. -/
  | bwait (s : Scope) (d a b : XReg)
  /-- LSPLIT (R275). Divides the hart into 2, 4 or 8 lane groups and starts their threads. -/
  | lsplit (a b : XReg) (n : SplitCount)
  /-- FFLAGS_WRITE (R80). A wsys of FFLAGS waits for earlier instructions, ORs their flags in, then replaces the register. -/
  | fflagsWrite (a : XReg)
  /-- TCBASE_WRITE (R188). A wsys of TCBASE discards cached type-case contents of the context and clears CF. -/
  | tcbaseWrite (a : XReg)
  /-- PROG_WRITE (R265). A supervisor wsys of PROGn waits until the vector queue is empty and then sets the progress index. -/
  | progWrite (k : VReg) (a : XReg)
  /-- LOOP_STACK_WRITE (R281). A supervisor wsys of LPC or LCNT changes the loop stack at once. -/
  | loopStackWrite (k : BitVec 3) (a : XReg)
  /-- PGROOT_WRITE (R325). A wsys of PGROOT drops the context's cached translations in the hart before later accesses. -/
  | pgrootWrite (a : XReg)
  /-- ISLIM_WRITE (R402). A wsys of ISLIM stores the clamped limit, used by placement at once and by throttling from the next update. -/
  | islimWrite (a : XReg)
  /-- ROUTING_TABLE_ADDRESS_WRITE (R407). A write of the routing-table word in the management block drops every cached routing entry. -/
  | routingTableAddressWrite (v : Word)
  /-- LIVENESS_TABLE_WRITE (R334). A write to the liveness table updates the slices' maps; a region made not live is dropped from cache and not refreshed. -/
  | livenessTableWrite (idx : Nat) (v : Byte)
  /-- CHECKPOINT_TAKES_EFFECT (R257). Once earlier instructions retire, the earlier strip's held stores enter the release queue and its history is freed. -/
  | checkpointTakesEffect (t : Tid)
  /-- HELD_STORE_CHECKPOINT (R220). When a strip has held a store for 4,000 cycles, an implicit checkpoint is taken at the next instruction boundary. -/
  | heldStoreCheckpoint (t : Tid)
  /-- STORE_PERFORMED (R218). A released store reaches its home and becomes visible at every scope not yet reached. -/
  | storePerformed (n : Nat)
  /-- WFE_WAKE (R289). A thread sleeping in wfe notices its change bit, a yield request or a pending trap and resumes. -/
  | wfeWake (t : Tid)
  /-- BWAIT_WAKE (R252). A sleeping bwait re-reads the barrier word after a write to its line and returns if the phase has moved. -/
  | bwaitWake (t : Tid)
  /-- ENGINE_CHUNK_DONE (R241). The engine finishes a chunk's writes into the junction and sets its pennant bit. -/
  | engineChunkDone (h : HartId) (slot chunk : Nat)
  /-- TRANSFER_COMPLETE (R244). With every chunk done, the engine writes status 1, performs the completion add and retires the transfer. -/
  | transferComplete (h : HartId) (slot : Nat)
  /-- ENGINE_FAULT (R245). A fault during a transfer abandons unfinished chunks, writes status 2 and the fault address, and retires the transfer. -/
  | engineFault (h : HartId) (slot chunk : Nat)
  /-- PRESS_FRAME_WRITE (R353). The press writes one amended frame of the folded prefix to the target record with its tag. -/
  | pressFrameWrite (h : HartId) (slot frame : Nat)
  /-- PRESS_SWAP (R353). After every frame is visible the press holds the handle, sets the pennant, swaps the base and list, drains old loads and releases. -/
  | pressSwap (h : HartId) (slot : Nat)
  /-- FOLD_ABANDON (R355). On a fault, poison, tag mismatch or bad layer the press abandons the fold and restores the record. -/
  | foldAbandon (h : HartId) (slot frame : Nat)
  /-- TRAP_ENTRY (R365). An asynchronous trap is taken at the next instruction boundary: precise point, checkpoint, trap registers, nest frame and jump to TVEC. -/
  | trapEntry (t : Tid)
  /-- STRIP_RESTART (R374). An uncontainable lane or register-file error returns the strip to its checkpoint and re-executes it without a trap. -/
  | stripRestart (t : Tid) (failed : Option (Fin 64))
  /-- UNCORRECTABLE_ERROR_ASYNC (R375). A third error in one strip or an error in history or checkpoint state raises trap 0x16 with async set. -/
  | uncorrectableErrorAsync (t : Tid) (kind : AsyncError)
  /-- ROW_SELF_TEST (R386). The management controller self-tests idle lane rows at least once every 2^32 cycles. -/
  | rowSelfTest (h : HartId) (row : Fin 64) (pass : Bool)
  /-- YIELD_REQUEST (R308). The scheduler asks a thread to yield by setting YSTAT[0] and writing YDEAD. -/
  | yieldRequest (t : Tid)
  /-- FORCED_PREEMPTION (R309). When CYCLE reaches YDEAD with the request pending, the hart rolls back and traps with 0x17, or defers it to the next eret in supervisor mode. -/
  | forcedPreemption (t : Tid)
  /-- VICTIM_PREEMPTION (R303). When a head record outranks a running kernel by 2 and no hart is free, the scheduler chooses victims to reclaim or ask to yield. -/
  | victimPreemption (c : CtxId) (q : Fin 8)
  /-- QUEUE_HEADER_READ (R293). The launch unit re-reads a queue header within 2,000 cycles of a write to it and serves the queue once it is well formed. -/
  | queueHeaderRead (c : CtxId) (q : Fin 8)
  /-- LAUNCH_RECORD_TAKE (R296). The launch unit takes the head record once its status is 1 and applies the first-stage checks. -/
  | launchRecordTake (c : CtxId) (q : Fin 8)
  /-- DEPENDENCE_MET (R296). When the dependence word reaches the dependence value, the launch unit reads the placement map and type case and checks the record. -/
  | dependenceMet (c : CtxId) (q : Fin 8)
  /-- HART_PLACEMENT (R301). The launch unit places a record's harts by field score and current headroom, and starts each kernel. -/
  | hartPlacement (c : CtxId) (q : Fin 8)
  /-- HART_FREED (R302). A freed hart goes to the waiting head record or saved hart of highest effective priority that can use it. -/
  | hartFreed (h : HartId)
  /-- PRIORITY_AGING (R302). Each full 65,536 cycles of waiting raises a head record's or saved hart's effective priority by 1, up to 7. -/
  | priorityAging (c : CtxId) (q : Fin 8)
  /-- LAUNCH_DONE (R298). After the last hart has been counted the launch unit writes status 3 and frees the slot. -/
  | launchDone (n : Nat)
  /-- SHOOTDOWN (R333). On a requested generation the device drops cached translations, finishes translated accesses and acknowledges with a release. -/
  | shootdown (c : CtxId)
  /-- DESCRIPTOR_RESIDENT (R323). When a context descriptor passes from free to resident, cached entries of its number are dropped before it becomes resident. -/
  | descriptorResident (c : CtxId)
  /-- ISCUR_UPDATE (R401). Every 1,024 cycles the field's average core power is updated in ISCUR and throttling starts or stops against ISLIM. -/
  | iscurUpdate (f : FieldId) (power : BitVec 16)
  /-- FLIT_PARITY_RESEND (R380). An on-die hop or stitch crossing resends a flit that failed parity, declaring the hop failed after the fifth bad copy. -/
  | flitParityResend (hop : Nat) (badCopies : Nat) (carried : Carried)
  /-- LINK_CRC_RETRY (R381). A link retries a flit that failed CRC, remapping to a spare lane or declaring the port down after 16 failures. -/
  | linkCrcRetry (port : Fin 21) (out : RetryOutcome)
  /-- COMMAND_ADDRESS_REPLAY (R384). On a DRAM command or address parity error the controller replays its command history, retiring the channel after eight failures. -/
  | commandAddressReplay (stack : Fin 16) (channel : Fin 32) (succeeded : Bool)
  /-- HBM_TEMPERATURE_THRESHOLD (R391). A stack's hottest layer crossing 85, 95 or 105 degrees doubles refresh, halves bandwidth or stops the package. -/
  | hbmTemperatureThreshold (stack : Fin 16) (celsius : Byte)
  /-- DIE_TEMPERATURE_THRESHOLD (R403). A compute die crossing 100, 95 or 115 degrees starts or ends throttling or stops the package. -/
  | dieTemperatureThreshold (die : Fin 2) (celsius : Byte)
  /-- ERROR_RING_APPEND (R405). The management controller writes an error record into the ring, or drops it if the slot is still full. -/
  | errorRingAppend (seen : Option CorrectedError)
  /-- BRING_UP (R396). After reset the management controller powers, verifies and trains the fields, links and stacks in order, fencing any that fail. -/
  | bringUp (input : BringUpInput)
  /-- SPARE_QUAD_SITE (R404). Management command 1 brings in a spare quad site for a failed one. -/
  | spareQuadSite (outcome : RepairOutcome)
  /-- POST_PACKAGE_REPAIR (R404). Management command 2 repairs an HBM row softly or hard. -/
  | postPackageRepair (outcome : RepairOutcome)
  /-- SPARE_VIA (R404). Management command 3 brings in a spare through-silicon via for a channel. -/
  | spareVia (outcome : RepairOutcome)
  /-- SPARE_LINK_LANE (R404). Management command 4 remaps a port onto its spare link lane. -/
  | spareLinkLane (outcome : RepairOutcome)
  /-- ATTESTATION_REQUEST (R338). A nonce and context number received over the Evsen link are answered with a signed report. -/
  | attestationRequest (nonce : BitVec 256) (c : CtxId)
  /-- HOST_ACCESS (R406). A host access to device memory arrives over Evsen and is performed at its home in order of issue. -/
  | hostAccess (op : OutsideOp)
  /-- REMOTE_REQUEST (R407). A request arriving over a Sahair port is performed, or dropped and reported if it names another DEVID. -/
  | remoteRequest (dev : Addressee) (op : OutsideOp)
  /-- ILLEGAL_INSTRUCTION (R56). Reaching a word with a reserved major, an unassigned selector, a reserved kind or a nonzero must-be-zero field traps with 0x01 and TVAL = the word. -/
  | illegalInstruction (w : IWord)
  /-- STORE_PASSES_VISIBILITY_POINT (R218). A released store passes the quad junction, the field crossbar or the die-to-die interface and becomes visible at that scope. -/
  | storePassesVisibilityPoint (n : Nat)
  /-- REMOTE_WRITE_REPORT (R288). A remote slice reports over the Sahair link a write to a line that a local thread watches, setting its change bit. -/
  | remoteWriteReport (dev : BitVec 18) (line : BitVec 40)
  /-- NEW_FIRMWARE_IMAGE (R336). After a failed verification the boot ROM receives a new firmware image from the host and verifies it again. -/
  | newFirmwareImage (image : SignedImage)
  /-- DEBUGGER_STOP (R315). The debugger holds a thread stopped at a convoy boundary, pausing its held-store count and moving its YDEAD later. -/
  | debuggerStop (t : Tid)
  /-- DEBUGGER_RESUME (R315). The debugger releases a stopped thread, whose held-store count and deadline run again. -/
  | debuggerResume (t : Resumption)
  /-- MZERO (R161). Zeroes the acted-on rows and columns of the grant. -/
  | mzero
  /-- ERET (R371). Restores the nest frame, mode and pc from the trap registers and resumes convoys from their progress fields. -/
  | eret
  /-- YIELD (R287). Makes a checkpoint and saves the context there if the scheduler has requested a yield. -/
  | yield
  /-- LFUSE (R276). Marks a lane group fused, or in thread 0 rejoins the lanes once all groups have fused. -/
  | lfuse
  /-- ATTESTATION_REPORT_COMMAND (R404). Management command 5 writes a signed attestation report for a context and nonce. -/
  | attestationReportCommand
  /-- STATUS_READ (R404). Management command 6 writes the status word and sensor summary to memory. -/
  | statusRead
  /-- INSTRUCTION_FETCH_FAULT (R279). A fetch of the next instruction word that fails its checks traps with TEPC and TVAL holding the fetched address. -/
  | instructionFetchFault
  /-- POWER_OFF (R388). Power is removed from the package, losing all device state including soft HBM row repairs. -/
  | powerOff
deriving DecidableEq, Repr

end Sys2Proof
end

