-- ==== Sys2Proof/WellFormed.lean ====
section
/-! DEFINITION. Which terms of `Instr` stand for something the part can execute: the operand values that an instruction word can hold
(spec/02_instruction_words.md R52, R56; spec/13_control_flow.md R282) and the ranges of what the environment supplies to an event. -/

namespace Sys2Proof

/-- A VTYPE image is well formed (R51, R52): ew 0 to 4, bit 6 only at ew = 2, bits [15:7] zero. -/
def imageOk (img : BitVec 16) : Bool :=
  decide (img.toNat < 128) && decide (img.toNat % 8 < 5) && (decide (img.toNat / 64 = 0) || decide (img.toNat % 8 = 2))

/-- The loop end lies ahead: off16 is 1 or more as a signed number (R282). -/
def loopAhead (off : BitVec 16) : Bool := decide (0 < off.toNat) && decide (off.toNat < 32768)

/-- An access from outside names at most 64 bytes at a time and a register-sized atomic is naturally aligned. -/
def OutsideOp.wf : OutsideOp → Bool
  | .read _ len => decide (len ≤ 64)
  | .write _ bytes => decide (bytes.length ≤ 64)
  | .atomic _ .w32 pa _ _ => pa.toNat % 4 == 0
  | .atomic _ .w64 pa _ _ => pa.toNat % 8 == 0

/-- The rings of R404: 64-byte and 32-byte alignment, and a slot count that is a power of two from 64 to 65,536. -/
def BringUpInput.wf (b : BringUpInput) : Bool :=
  b.cmdRing.toNat % 64 == 0 && b.errRing.toNat % 32 == 0 &&
    (List.range 11).any fun k => b.errSlots.toNat == 64 * 2 ^ k

/-- Corrected errors are of kind 1, in on-die storage, or 2, in HBM (R392); a lane row's register-file slice is on-die storage. -/
def CorrectedError.wf (e : CorrectedError) : Bool := e.kind == 1 || (e.kind == 2 && e.row.isNone)

/-- Well-formed instructions and events. Constructors not named take every operand value. -/
def Instr.wf : Instr → Bool
  | .setvl _ _ img => imageOk img
  | .loop _ off => loopAhead off
  | .loopi _ off => loopAhead off
  | .livenessTableWrite idx _ => decide (idx < 49152)
  | .flitParityResend _ bad _ => decide (1 ≤ bad) && decide (bad ≤ 5)
  | .errorRingAppend (some e) => e.wf
  | .bringUp input => input.wf
  | .hostAccess op => op.wf
  | .remoteRequest _ op => op.wf
  | _ => true

end Sys2Proof
end

