-- ==== Sys2Proof/Decode.lean ====
section
/-! DEFINITION. Instruction words: the formats and the opcode map (spec/02_instruction_words.md R42 to R57), the decoder, total on
every word and rejecting by the name of the failed condition of R56, and the encoder written from the same tables. -/

namespace Sys2Proof

/-- The conditions of R56 under which a word is not an instruction. -/
inductive DecodeErr where
  | reservedMajor | unassignedSelector | reservedKind | mustBeZero | reservedDepth | reservedScope | reservedCache
  | malformedImage | oddIndexDestination | loopEndNotAhead | truncated
deriving DecidableEq, Repr

/-! ## Fields -/

/-- The major opcode, bits [31:26] (R42). -/
def majorOf (w : IWord) : BitVec 6 := w.extractLsb' 26 6

/-- REG words (R43). -/
structure RegF where
  d : BitVec 5
  a : BitVec 5
  b : BitVec 5
  fn : BitVec 6
  ctl : BitVec 5
deriving DecidableEq, Repr

/-- IMM words, and BRA words with a in `d` and b in `a` (R43). -/
structure ImmF where
  d : BitVec 5
  a : BitVec 5
  k : BitVec 16
deriving DecidableEq, Repr

/-- VEC words, and MEM words with [4:2] in `dep` and cache in `var` (R43). -/
structure VecF where
  d : BitVec 5
  a : BitVec 5
  b : BitVec 5
  fn : BitVec 5
  m : BitVec 1
  dep : BitVec 3
  var : BitVec 2
deriving DecidableEq, Repr

def regF (w : IWord) : RegF :=
  ⟨w.extractLsb' 21 5, w.extractLsb' 16 5, w.extractLsb' 11 5, w.extractLsb' 5 6, w.extractLsb' 0 5⟩
def immF (w : IWord) : ImmF := ⟨w.extractLsb' 21 5, w.extractLsb' 16 5, w.extractLsb' 0 16⟩
def vecF (w : IWord) : VecF :=
  ⟨w.extractLsb' 21 5, w.extractLsb' 16 5, w.extractLsb' 11 5, w.extractLsb' 6 5, w.extractLsb' 5 1, w.extractLsb' 2 3,
    w.extractLsb' 0 2⟩
def jmpF (w : IWord) : BitVec 26 := w.extractLsb' 0 26

/-- Assemble the fields of each format from the high bit down. -/
def mkReg (major : BitVec 6) (f : RegF) : IWord := major ++ f.d ++ f.a ++ f.b ++ f.fn ++ f.ctl
def mkImm (major : BitVec 6) (f : ImmF) : IWord := major ++ f.d ++ f.a ++ f.k
def mkVec (major : BitVec 6) (f : VecF) : IWord := major ++ f.d ++ f.a ++ f.b ++ f.fn ++ f.m ++ f.dep ++ f.var
def mkJmp (major : BitVec 6) (off : BitVec 26) : IWord := major ++ off

/-! ## Field values -/

def bitB (b : BitVec 1) : Bool := b == 1#1
def encBit (b : Bool) : BitVec 1 := bif b then 1#1 else 0#1

def decPrec (b : BitVec 1) : Prec := bif b == 1#1 then .d else .s
def encPrec : Prec → BitVec 1
  | .s => 0#1
  | .d => 1#1

def decRMode (b : BitVec 2) : RMode := match b.toNat with | 0 => .rne | 1 => .rz | 2 => .rdn | _ => .rup
def encRMode : RMode → BitVec 2
  | .rne => 0#2
  | .rz => 1#2
  | .rdn => 2#2
  | .rup => 3#2

def decNarrow (b : BitVec 2) : Narrow := match b.toNat with | 0 => .e4m3 | 1 => .e5m2 | 2 => .bf16 | _ => .f16
def encNarrow : Narrow → BitVec 2
  | .e4m3 => 0#2
  | .e5m2 => 1#2
  | .bf16 => 2#2
  | .f16 => 3#2

def decCodeType (b : BitVec 2) : CodeType := match b.toNat with | 0 => .int | 1 => .e2m1 | 2 => .pow | _ => .hyb
def encCodeType : CodeType → BitVec 2
  | .int => 0#2
  | .e2m1 => 1#2
  | .pow => 2#2
  | .hyb => 3#2

def decWidth (b : BitVec 1) : AWidth := bif b == 1#1 then .w64 else .w32
def encWidth : AWidth → BitVec 1
  | .w32 => 0#1
  | .w64 => 1#1

/-- A scope field; 5 to 7 are reserved (R47). -/
def decScope (b : BitVec 3) : Except DecodeErr Scope :=
  match b.toNat with
  | 0 => .ok .hart | 1 => .ok .quad | 2 => .ok .field | 3 => .ok .pkg | 4 => .ok .sys | _ => .error .reservedScope
def encScope : Scope → BitVec 3
  | .hart => 0#3
  | .quad => 1#3
  | .field => 2#3
  | .pkg => 3#3
  | .sys => 4#3

/-- A depth field; 5 to 7 are reserved (R48, R56). -/
def decDepth (b : BitVec 3) : Except DecodeErr Depth :=
  match b.toNat with
  | 0 => .ok 0 | 1 => .ok 1 | 2 => .ok 2 | 3 => .ok 3 | 4 => .ok 4 | _ => .error .reservedDepth
def encDepth (p : Depth) : BitVec 3 := BitVec.ofNat 3 p.val

/-- A cache policy; 3 is reserved (R49). -/
def decCache (b : BitVec 2) : Except DecodeErr Cache :=
  match b.toNat with
  | 0 => .ok .normal | 1 => .ok .stream | 2 => .ok .keep | _ => .error .reservedCache
def encCache : Cache → BitVec 2
  | .normal => 0#2
  | .stream => 1#2
  | .keep => 2#2

def decSplit (b : BitVec 2) : Except DecodeErr SplitCount :=
  match b.toNat with
  | 1 => .ok .two | 2 => .ok .four | 3 => .ok .eight | _ => .error .mustBeZero
def encSplit : SplitCount → BitVec 2
  | .two => 1#2
  | .four => 2#2
  | .eight => 3#2

def decTiles (b : BitVec 2) : Except DecodeErr TileCount :=
  match b.toNat with
  | 1 => .ok .one | 2 => .ok .two | 3 => .ok .three | _ => .error .mustBeZero
def encTiles : TileCount → BitVec 2
  | .one => 1#2
  | .two => 2#2
  | .three => 3#2

def decSrc (s : Bool) (b : BitVec 5) : VSrc := bif s then .scal b else .vec b
def srcBit : VSrc → BitVec 1
  | .vec _ => 0#1
  | .scal _ => 1#1
def srcReg : VSrc → BitVec 5
  | .vec v => v
  | .scal x => x

/-- Require a must-be-zero field to be zero (R44). -/
def zero {n : Nat} (b : BitVec n) (r : Except DecodeErr Instr) : Except DecodeErr Instr :=
  bif b == 0 then r else .error .mustBeZero

/-- The nest number of a 5-bit field whose high 2 bits must be zero (R45). -/
def nest (b : BitVec 5) (r : NReg → Except DecodeErr Instr) : Except DecodeErr Instr :=
  zero (b.extractLsb' 3 2) (r (b.extractLsb' 0 3))
def encNest (n : NReg) : BitVec 5 := 0#2 ++ n

/-- A VTYPE image that R52 calls malformed. -/
def imgMalformed (img : BitVec 16) : Bool :=
  5 ≤ (img.extractLsb' 0 3).toNat || (img.extractLsb' 6 1 == 1#1 && img.extractLsb' 0 3 != 2#3) || img.extractLsb' 7 9 != 0#9

/-- A scope field as the last operand (R47). -/
def withScope (b : BitVec 3) (r : Scope → Except DecodeErr Instr) : Except DecodeErr Instr := decScope b >>= r

/-- Major 0x01, SALU (R97). -/
def decodeSalu (f : RegF) : Except DecodeErr Instr :=
  match f.fn.toNat with
  | 0 => zero f.ctl (.ok (.add f.d f.a f.b))
  | 1 => zero f.ctl (.ok (.sub f.d f.a f.b))
  | 2 => zero f.ctl (.ok (.and f.d f.a f.b))
  | 3 => zero f.ctl (.ok (.or f.d f.a f.b))
  | 4 => zero f.ctl (.ok (.xor f.d f.a f.b))
  | 5 => zero f.ctl (.ok (.sll f.d f.a f.b))
  | 6 => zero f.ctl (.ok (.srl f.d f.a f.b))
  | 7 => zero f.ctl (.ok (.sra f.d f.a f.b))
  | 8 => zero f.ctl (.ok (.slt f.d f.a f.b))
  | 9 => zero f.ctl (.ok (.sltu f.d f.a f.b))
  | 10 => zero f.ctl (.ok (.mul f.d f.a f.b))
  | 11 => zero f.ctl (.ok (.mulh f.d f.a f.b))
  | 12 => zero f.ctl (.ok (.mulhu f.d f.a f.b))
  | 13 => zero f.ctl (.ok (.div f.d f.a f.b))
  | 14 => zero f.ctl (.ok (.divu f.d f.a f.b))
  | 15 => zero f.ctl (zero f.b (.ok (.clz f.d f.a)))
  | 16 => zero f.ctl (zero f.b (.ok (.ctz f.d f.a)))
  | 17 => zero f.ctl (zero f.b (.ok (.popc f.d f.a)))
  | _ => .error .unassignedSelector

/-- Major 0x09, SFPU (R100). -/
def decodeSfpu (f : RegF) : Except DecodeErr Instr :=
  match f.fn.toNat with
  | 0 => zero (f.ctl.extractLsb' 1 4) (.ok (.fadd (decPrec (f.ctl.extractLsb' 0 1)) f.d f.a f.b))
  | 1 => zero (f.ctl.extractLsb' 1 4) (.ok (.fsub (decPrec (f.ctl.extractLsb' 0 1)) f.d f.a f.b))
  | 2 => zero (f.ctl.extractLsb' 1 4) (.ok (.fmul (decPrec (f.ctl.extractLsb' 0 1)) f.d f.a f.b))
  | 3 => zero (f.ctl.extractLsb' 1 4) (.ok (.fdiv (decPrec (f.ctl.extractLsb' 0 1)) f.d f.a f.b))
  | 4 => zero (f.ctl.extractLsb' 1 4) (zero f.b (.ok (.fsqrt (decPrec (f.ctl.extractLsb' 0 1)) f.d f.a)))
  | 5 => zero (f.ctl.extractLsb' 1 4) (.ok (.fmin (decPrec (f.ctl.extractLsb' 0 1)) f.d f.a f.b))
  | 6 => zero (f.ctl.extractLsb' 1 4) (.ok (.fmax (decPrec (f.ctl.extractLsb' 0 1)) f.d f.a f.b))
  | 7 => zero (f.ctl.extractLsb' 1 4) (.ok (.fma (decPrec (f.ctl.extractLsb' 0 1)) f.d f.a f.b))
  | 8 => zero (f.ctl.extractLsb' 1 4) (.ok (.fcmplt (decPrec (f.ctl.extractLsb' 0 1)) f.d f.a f.b))
  | 9 => zero (f.ctl.extractLsb' 1 4) (.ok (.fcmple (decPrec (f.ctl.extractLsb' 0 1)) f.d f.a f.b))
  | 10 => zero (f.ctl.extractLsb' 1 4) (.ok (.fcmpeq (decPrec (f.ctl.extractLsb' 0 1)) f.d f.a f.b))
  | 11 => zero (f.ctl.extractLsb' 1 4) (zero f.b (.ok (.fcvtfi (decPrec (f.ctl.extractLsb' 0 1)) f.d f.a)))
  | 12 => zero (f.ctl.extractLsb' 3 2) (zero f.b (.ok (.fcvtif (decPrec (f.ctl.extractLsb' 0 1)) (decRMode (f.ctl.extractLsb' 1 2)) f.d f.a)))
  | _ => .error .unassignedSelector

/-- Major 0x0C, AMO (R229). -/
def decodeAmo (f : RegF) : Except DecodeErr Instr :=
  match f.fn.toNat with
  | 0 => withScope (f.ctl.extractLsb' 2 3) fun s => .ok (.amoadd (decWidth (f.ctl.extractLsb' 1 1)) s (bitB (f.ctl.extractLsb' 0 1)) f.d f.a f.b)
  | 1 => withScope (f.ctl.extractLsb' 2 3) fun s => .ok (.amoand (decWidth (f.ctl.extractLsb' 1 1)) s (bitB (f.ctl.extractLsb' 0 1)) f.d f.a f.b)
  | 2 => withScope (f.ctl.extractLsb' 2 3) fun s => .ok (.amoor (decWidth (f.ctl.extractLsb' 1 1)) s (bitB (f.ctl.extractLsb' 0 1)) f.d f.a f.b)
  | 3 => withScope (f.ctl.extractLsb' 2 3) fun s => .ok (.amoxor (decWidth (f.ctl.extractLsb' 1 1)) s (bitB (f.ctl.extractLsb' 0 1)) f.d f.a f.b)
  | 4 => withScope (f.ctl.extractLsb' 2 3) fun s => .ok (.amomin (decWidth (f.ctl.extractLsb' 1 1)) s (bitB (f.ctl.extractLsb' 0 1)) f.d f.a f.b)
  | 5 => withScope (f.ctl.extractLsb' 2 3) fun s => .ok (.amomax (decWidth (f.ctl.extractLsb' 1 1)) s (bitB (f.ctl.extractLsb' 0 1)) f.d f.a f.b)
  | 6 => withScope (f.ctl.extractLsb' 2 3) fun s => .ok (.amoswap (decWidth (f.ctl.extractLsb' 1 1)) s (bitB (f.ctl.extractLsb' 0 1)) f.d f.a f.b)
  | 7 => withScope (f.ctl.extractLsb' 2 3) fun s => .ok (.amocas (decWidth (f.ctl.extractLsb' 1 1)) s (bitB (f.ctl.extractLsb' 0 1)) f.d f.a f.b)
  | 8 => withScope (f.ctl.extractLsb' 2 3) fun s => .ok (.famoadd (decWidth (f.ctl.extractLsb' 1 1)) s (bitB (f.ctl.extractLsb' 0 1)) f.d f.a f.b)
  | _ => .error .unassignedSelector

/-- Major 0x17, SYS (R46). -/
def decodeSys (f : RegF) : Except DecodeErr Instr :=
  match f.fn.toNat with
  | 0 => zero f.d (zero f.a (.ok (.svc (f.b ++ f.ctl))))
  | 1 => zero f.d (zero f.a (zero f.b (zero f.ctl (.ok .eret))))
  | 2 => zero f.d (zero f.b (zero f.ctl (.ok (.wfe f.a))))
  | 3 => zero f.d (zero f.a (zero f.b (zero f.ctl (.ok .yield))))
  | 4 => zero f.a (.ok (.rsys f.d (f.b ++ f.ctl)))
  | 5 => zero f.d (.ok (.wsys f.a (f.b ++ f.ctl)))
  | 6 => zero f.d (zero f.a (zero f.b (zero (f.ctl.extractLsb' 0 2) (withScope (f.ctl.extractLsb' 2 3) fun s => .ok (.fenceSv s)))))
  | 7 => zero f.d (zero f.a (zero f.b (zero (f.ctl.extractLsb' 0 2) (withScope (f.ctl.extractLsb' 2 3) fun s => .ok (.fenceVs s)))))
  | 8 => zero f.d (zero f.a (zero f.b (zero (f.ctl.extractLsb' 0 2) (withScope (f.ctl.extractLsb' 2 3) fun s => .ok (.fenceVv s)))))
  | 9 => zero f.d (zero f.a (.ok (.brk (f.b ++ f.ctl))))
  | _ => .error .unassignedSelector

/-- Major 0x19, VCFG (R109). -/
def decodeVcfg (f : RegF) : Except DecodeErr Instr :=
  match f.fn.toNat with
  | 0 => zero f.ctl (.ok (.setvlr f.d f.a f.b))
  | 1 => zero f.ctl (zero f.b (.ok (.setvlm f.d f.a)))
  | 2 => zero f.ctl (zero f.a (.ok (.vlq f.d f.b)))
  | _ => .error .unassignedSelector

/-- Major 0x1A, VIALU (R118). fn5 15 with va and var tells vmv from its scalar form. -/
def decodeVialu (f : VecF) : Except DecodeErr Instr :=
  match f.fn.toNat with
  | 0 => zero f.dep (zero (f.var.extractLsb' 1 1) (.ok (.vadd (bitB f.m) f.d f.a (decSrc (bitB (f.var.extractLsb' 0 1)) f.b))))
  | 1 => zero f.dep (zero (f.var.extractLsb' 1 1) (.ok (.vsub (bitB f.m) f.d f.a (decSrc (bitB (f.var.extractLsb' 0 1)) f.b))))
  | 2 => zero f.dep (zero (f.var.extractLsb' 1 1) (.ok (.vmul (bitB f.m) f.d f.a (decSrc (bitB (f.var.extractLsb' 0 1)) f.b))))
  | 3 => zero f.dep (zero (f.var.extractLsb' 1 1) (.ok (.vand (bitB f.m) f.d f.a (decSrc (bitB (f.var.extractLsb' 0 1)) f.b))))
  | 4 => zero f.dep (zero (f.var.extractLsb' 1 1) (.ok (.vor (bitB f.m) f.d f.a (decSrc (bitB (f.var.extractLsb' 0 1)) f.b))))
  | 5 => zero f.dep (zero (f.var.extractLsb' 1 1) (.ok (.vxor (bitB f.m) f.d f.a (decSrc (bitB (f.var.extractLsb' 0 1)) f.b))))
  | 6 => zero f.dep (zero (f.var.extractLsb' 1 1) (.ok (.vsll (bitB f.m) f.d f.a (decSrc (bitB (f.var.extractLsb' 0 1)) f.b))))
  | 7 => zero f.dep (zero (f.var.extractLsb' 1 1) (.ok (.vsrl (bitB f.m) f.d f.a (decSrc (bitB (f.var.extractLsb' 0 1)) f.b))))
  | 8 => zero f.dep (zero (f.var.extractLsb' 1 1) (.ok (.vsra (bitB f.m) f.d f.a (decSrc (bitB (f.var.extractLsb' 0 1)) f.b))))
  | 9 => zero f.dep (zero (f.var.extractLsb' 1 1) (.ok (.vmin (bitB f.m) f.d f.a (decSrc (bitB (f.var.extractLsb' 0 1)) f.b))))
  | 10 => zero f.dep (zero (f.var.extractLsb' 1 1) (.ok (.vmax (bitB f.m) f.d f.a (decSrc (bitB (f.var.extractLsb' 0 1)) f.b))))
  | 11 => zero f.dep (zero (f.var.extractLsb' 1 1) (.ok (.vsadd (bitB f.m) f.d f.a (decSrc (bitB (f.var.extractLsb' 0 1)) f.b))))
  | 12 => zero f.dep (zero (f.var.extractLsb' 1 1) (.ok (.vssub (bitB f.m) f.d f.a (decSrc (bitB (f.var.extractLsb' 0 1)) f.b))))
  | 13 => zero f.dep (zero f.var (zero f.b (.ok (.vpopc (bitB f.m) f.d f.a))))
  | 14 => zero f.m (zero f.dep (zero (f.var.extractLsb' 1 1) (.ok (.vmerge f.d f.a (decSrc (bitB (f.var.extractLsb' 0 1)) f.b)))))
  | 15 => zero f.dep (zero (f.var.extractLsb' 1 1) (bif f.var.extractLsb' 0 1 == 1#1 then zero f.a (.ok (.vmvScalar (bitB f.m) f.d f.b)) else zero f.b (.ok (.vmv (bitB f.m) f.d f.a))))
  | 16 => zero f.dep (zero f.var (zero f.a (zero f.b (.ok (.vid (bitB f.m) f.d)))))
  | 17 => zero f.dep (.ok (.vwiden (bitB f.m) (bitB (f.var.extractLsb' 1 1)) f.d f.a (decSrc (bitB (f.var.extractLsb' 0 1)) f.b)))
  | 18 => zero f.dep (.ok (.vnarrow (bitB f.m) (bitB (f.var.extractLsb' 1 1)) f.d f.a (decSrc (bitB (f.var.extractLsb' 0 1)) f.b)))
  | _ => .error .unassignedSelector

/-- Major 0x1B, VCMP (R120). -/
def decodeVcmp (f : VecF) : Except DecodeErr Instr :=
  match f.fn.toNat with
  | 0 => zero f.dep (zero (f.var.extractLsb' 1 1) (.ok (.vcmpeq (bitB f.m) f.d f.a (decSrc (bitB (f.var.extractLsb' 0 1)) f.b))))
  | 1 => zero f.dep (zero (f.var.extractLsb' 1 1) (.ok (.vcmpne (bitB f.m) f.d f.a (decSrc (bitB (f.var.extractLsb' 0 1)) f.b))))
  | 2 => zero f.dep (zero (f.var.extractLsb' 1 1) (.ok (.vcmplt (bitB f.m) f.d f.a (decSrc (bitB (f.var.extractLsb' 0 1)) f.b))))
  | 3 => zero f.dep (zero (f.var.extractLsb' 1 1) (.ok (.vcmpltu (bitB f.m) f.d f.a (decSrc (bitB (f.var.extractLsb' 0 1)) f.b))))
  | 4 => zero f.dep (zero (f.var.extractLsb' 1 1) (.ok (.vcmple (bitB f.m) f.d f.a (decSrc (bitB (f.var.extractLsb' 0 1)) f.b))))
  | 5 => zero f.dep (zero (f.var.extractLsb' 1 1) (.ok (.vcmpleu (bitB f.m) f.d f.a (decSrc (bitB (f.var.extractLsb' 0 1)) f.b))))
  | 6 => zero f.dep (zero (f.var.extractLsb' 1 1) (.ok (.vfcmpeq (bitB f.m) f.d f.a (decSrc (bitB (f.var.extractLsb' 0 1)) f.b))))
  | 7 => zero f.dep (zero (f.var.extractLsb' 1 1) (.ok (.vfcmplt (bitB f.m) f.d f.a (decSrc (bitB (f.var.extractLsb' 0 1)) f.b))))
  | 8 => zero f.dep (zero (f.var.extractLsb' 1 1) (.ok (.vfcmple (bitB f.m) f.d f.a (decSrc (bitB (f.var.extractLsb' 0 1)) f.b))))
  | _ => .error .unassignedSelector

/-- Major 0x1C, VFPU (R121). -/
def decodeVfpu (f : VecF) : Except DecodeErr Instr :=
  match f.fn.toNat with
  | 0 => zero f.dep (zero f.var (.ok (.vfadd (bitB f.m) f.d f.a f.b)))
  | 1 => zero f.dep (zero f.var (.ok (.vfsub (bitB f.m) f.d f.a f.b)))
  | 2 => zero f.dep (zero f.var (.ok (.vfmul (bitB f.m) f.d f.a f.b)))
  | 3 => zero f.dep (zero f.var (.ok (.vfma (bitB f.m) f.d f.a f.b)))
  | 4 => zero f.dep (zero f.var (.ok (.vfdiv (bitB f.m) f.d f.a f.b)))
  | 5 => zero f.dep (zero f.var (.ok (.vfmin (bitB f.m) f.d f.a f.b)))
  | 6 => zero f.dep (zero f.var (.ok (.vfmax (bitB f.m) f.d f.a f.b)))
  | 7 => zero f.dep (zero f.var (.ok (.vfscale (bitB f.m) f.d f.a f.b)))
  | 8 => zero f.dep (zero f.var (zero f.b (.ok (.vfcvtfi (bitB f.m) f.d f.a))))
  | 9 => zero f.dep (zero f.b (.ok (.vfcvtif (bitB f.m) (decRMode f.var) f.d f.a)))
  | 10 => zero f.dep (zero f.b (.ok (.vfwiden (bitB f.m) (decNarrow f.var) f.d f.a)))
  | 11 => zero f.dep (zero f.b (.ok (.vfnarrow (bitB f.m) (decNarrow f.var) f.d f.a)))
  | 12 => zero f.dep (zero f.var (.ok (.vflogt (bitB f.m) f.d f.a f.b)))
  | _ => .error .unassignedSelector

/-- Major 0x1D, VMASK (R124). -/
def decodeVmask (f : VecF) : Except DecodeErr Instr :=
  match f.fn.toNat with
  | 0 => zero f.dep (zero f.var (.ok (.vmand (bitB f.m) f.d f.a f.b)))
  | 1 => zero f.dep (zero f.var (.ok (.vmor (bitB f.m) f.d f.a f.b)))
  | 2 => zero f.dep (zero f.var (.ok (.vmxor (bitB f.m) f.d f.a f.b)))
  | 3 => zero f.dep (zero f.var (zero f.b (.ok (.vmpopc (bitB f.m) f.d f.a))))
  | 4 => zero f.dep (zero f.var (zero f.b (.ok (.vmfirst (bitB f.m) f.d f.a))))
  | _ => .error .unassignedSelector

/-- Major 0x1E, VRED (R136). -/
def decodeVred (f : VecF) : Except DecodeErr Instr :=
  match f.fn.toNat with
  | 0 => zero f.var (nest f.b fun n => decDepth f.dep >>= fun p => .ok (.vredsum (bitB f.m) p f.d f.a n))
  | 1 => zero f.var (nest f.b fun n => decDepth f.dep >>= fun p => .ok (.vredmin (bitB f.m) p f.d f.a n))
  | 2 => zero f.var (nest f.b fun n => decDepth f.dep >>= fun p => .ok (.vredmax (bitB f.m) p f.d f.a n))
  | 3 => zero f.var (nest f.b fun n => decDepth f.dep >>= fun p => .ok (.vredand (bitB f.m) p f.d f.a n))
  | 4 => zero f.var (nest f.b fun n => decDepth f.dep >>= fun p => .ok (.vredor (bitB f.m) p f.d f.a n))
  | 5 => zero f.var (nest f.b fun n => decDepth f.dep >>= fun p => .ok (.vredxor (bitB f.m) p f.d f.a n))
  | 6 => zero f.var (nest f.b fun n => decDepth f.dep >>= fun p => .ok (.vfredsum (bitB f.m) p f.d f.a n))
  | 7 => zero f.var (nest f.b fun n => decDepth f.dep >>= fun p => .ok (.vfredmin (bitB f.m) p f.d f.a n))
  | 8 => zero f.var (nest f.b fun n => decDepth f.dep >>= fun p => .ok (.vfredmax (bitB f.m) p f.d f.a n))
  | 9 => zero f.var (nest f.b fun n => decDepth f.dep >>= fun p => bif f.d.extractLsb' 0 1 == 0#1 then .ok (.vredminx (bitB f.m) p (f.d.extractLsb' 1 4) f.a n) else .error .oddIndexDestination)
  | 10 => zero f.var (nest f.b fun n => decDepth f.dep >>= fun p => bif f.d.extractLsb' 0 1 == 0#1 then .ok (.vfredmaxx (bitB f.m) p (f.d.extractLsb' 1 4) f.a n) else .error .oddIndexDestination)
  | _ => .error .unassignedSelector

/-- Major 0x1F, VSCAN (R138). -/
def decodeVscan (f : VecF) : Except DecodeErr Instr :=
  match f.fn.toNat with
  | 0 => zero (f.var.extractLsb' 1 1) (nest f.b fun n => decDepth f.dep >>= fun p => .ok (.vscansum (bitB f.m) (bitB (f.var.extractLsb' 0 1)) p f.d f.a n))
  | 1 => zero (f.var.extractLsb' 1 1) (nest f.b fun n => decDepth f.dep >>= fun p => .ok (.vscanmax (bitB f.m) (bitB (f.var.extractLsb' 0 1)) p f.d f.a n))
  | 2 => zero (f.var.extractLsb' 1 1) (nest f.b fun n => decDepth f.dep >>= fun p => .ok (.vfscansum (bitB f.m) (bitB (f.var.extractLsb' 0 1)) p f.d f.a n))
  | 3 => zero (f.var.extractLsb' 1 1) (nest f.b fun n => decDepth f.dep >>= fun p => .ok (.vfscanmax (bitB f.m) (bitB (f.var.extractLsb' 0 1)) p f.d f.a n))
  | _ => .error .unassignedSelector

/-- Major 0x20, VSHAPE (R133). -/
def decodeVshape (f : VecF) : Except DecodeErr Instr :=
  match f.fn.toNat with
  | 0 => zero f.var (nest f.b fun n => decDepth f.dep >>= fun p => .ok (.vdist (bitB f.m) p f.d f.a n))
  | 1 => zero f.m (zero f.dep (zero f.var (nest f.b fun n => .ok (.vpack f.d f.a n))))
  | 2 => zero f.m (zero f.dep (zero f.var (nest f.b fun n => .ok (.vcompress f.d f.a n))))
  | 3 => zero f.var (zero f.a (nest f.b fun n => decDepth f.dep >>= fun p => .ok (.vsegid (bitB f.m) p f.d n)))
  | 4 => zero f.m (zero f.var (zero f.a (nest f.b fun n => decDepth f.dep >>= fun p => .ok (.vseglen p f.d n))))
  | 5 => zero f.m (zero f.dep (zero f.var (zero f.b (.ok (.vtree f.d f.a)))))
  | 6 => zero f.m (zero f.dep (zero f.var (nest f.d fun n => .ok (.nset n f.a f.b))))
  | 7 => zero f.m (zero f.dep (zero f.var (zero f.a (nest f.d fun n => .ok (.npush n f.b)))))
  | 8 => zero f.m (zero f.dep (zero (f.var.extractLsb' 1 1) (zero f.a (zero f.b (nest f.d fun n => .ok (.npop (bitB (f.var.extractLsb' 0 1)) n))))))
  | 9 => zero f.var (decDepth f.dep >>= fun p => .ok (.vslideup (bitB f.m) p f.d f.a f.b))
  | 10 => zero f.var (decDepth f.dep >>= fun p => .ok (.vslidedn (bitB f.m) p f.d f.a f.b))
  | 11 => zero f.var (decDepth f.dep >>= fun p => .ok (.vrgather (bitB f.m) p f.d f.a f.b))
  | 12 => zero f.m (zero f.dep (zero f.var (.ok (.vmvxs f.d f.a f.b))))
  | _ => .error .unassignedSelector

/-- Major 0x21, VSCL (R150). -/
def decodeVscl (f : VecF) : Except DecodeErr Instr :=
  match f.fn.toNat with
  | 0 => zero f.dep (zero f.var (zero f.b (.ok (.vdec4 (bitB f.m) f.d f.a))))
  | 1 => zero f.m (zero f.dep (zero f.b (.ok (.venc4 (decCodeType f.var) f.d f.a))))
  | 2 => zero f.var (decDepth f.dep >>= fun p => .ok (.vbsum (bitB f.m) p f.d f.a f.b))
  | _ => .error .unassignedSelector

/-- Major 0x22, VLD (R203). -/
def decodeVld (f : VecF) : Except DecodeErr Instr :=
  match f.fn.toNat with
  | 0 => zero f.dep (zero f.b (decCache f.var >>= fun c => .ok (.vld (bitB f.m) c f.d f.a)))
  | 1 => zero f.dep (decCache f.var >>= fun c => .ok (.vlds (bitB f.m) c f.d f.a f.b))
  | 2 => zero f.dep (decCache f.var >>= fun c => .ok (.vldx (bitB f.m) c f.d f.a f.b))
  | 3 => zero f.dep (decCache f.var >>= fun c => .ok (.vldxo (bitB f.m) c f.d f.a f.b))
  | 4 => zero f.m (zero f.dep (zero f.b (decCache f.var >>= fun c => .ok (.vldff c f.d f.a))))
  | 5 => zero f.m (zero f.dep (zero f.b (decCache f.var >>= fun c => .ok (.vfill c f.d f.a))))
  | _ => .error .unassignedSelector

/-- Major 0x23, VST (R203). -/
def decodeVst (f : VecF) : Except DecodeErr Instr :=
  match f.fn.toNat with
  | 0 => zero f.dep (zero f.b (decCache f.var >>= fun c => .ok (.vst (bitB f.m) c f.d f.a)))
  | 1 => zero f.dep (decCache f.var >>= fun c => .ok (.vsts (bitB f.m) c f.d f.a f.b))
  | 2 => zero f.dep (decCache f.var >>= fun c => .ok (.vstx (bitB f.m) c f.d f.a f.b))
  | 3 => zero f.dep (decCache f.var >>= fun c => .ok (.vstxo (bitB f.m) c f.d f.a f.b))
  | 4 => zero f.m (zero f.dep (zero f.b (decCache f.var >>= fun c => .ok (.vspill c f.d f.a))))
  | _ => .error .unassignedSelector

/-- Major 0x24, TILE (R178). -/
def decodeTile (f : RegF) : Except DecodeErr Instr :=
  match f.fn.toNat with
  | 0 => zero (f.ctl.extractLsb' 2 3) (.ok (.tld (bitB (f.ctl.extractLsb' 1 1)) (bitB (f.ctl.extractLsb' 0 1)) f.d f.a f.b))
  | 1 => zero (f.ctl.extractLsb' 2 3) (zero (f.ctl.extractLsb' 0 1) (.ok (.tst (bitB (f.ctl.extractLsb' 1 1)) f.d f.a f.b)))
  | 2 => zero f.ctl (.ok (.ttag f.d f.a f.b))
  | 3 => zero f.ctl (.ok (.tset f.d f.a f.b))
  | 4 => zero f.d (zero f.b (zero (f.ctl.extractLsb' 2 3) (decTiles (f.ctl.extractLsb' 0 2) >>= fun n => .ok (.tcall f.a n))))
  | _ => .error .unassignedSelector

/-- Major 0x25, LAYER (R349). -/
def decodeLayer (f : RegF) : Except DecodeErr Instr :=
  match f.fn.toNat with
  | 0 => zero f.d (zero (f.ctl.extractLsb' 0 2) (withScope (f.ctl.extractLsb' 2 3) fun s => .ok (.lmk s f.a f.b)))
  | 1 => zero (f.ctl.extractLsb' 0 2) (withScope (f.ctl.extractLsb' 2 3) fun s => .ok (.lattach s f.d f.a f.b))
  | 2 => zero (f.ctl.extractLsb' 0 2) (withScope (f.ctl.extractLsb' 2 3) fun s => .ok (.ldetach s f.d f.a f.b))
  | 3 => zero (f.ctl.extractLsb' 0 2) (withScope (f.ctl.extractLsb' 2 3) fun s => .ok (.lfold s f.d f.a f.b))
  | _ => .error .unassignedSelector

/-- Major 0x26, MAT (R158). -/
def decodeMat (f : RegF) : Except DecodeErr Instr :=
  match f.fn.toNat with
  | 0 => zero f.ctl (zero f.b (.ok (.mattach f.d f.a)))
  | 1 => zero f.d (zero f.b (zero f.ctl (.ok (.mmode f.a))))
  | 2 => zero f.d (zero f.a (zero f.b (zero f.ctl (.ok .mzero))))
  | 3 => zero f.ctl (zero f.d (.ok (.mopa f.a f.b)))
  | 4 => zero f.ctl (zero f.d (.ok (.mopab f.a f.b)))
  | 5 => zero f.ctl (zero f.b (.ok (.mrd f.d f.a)))
  | 6 => zero f.ctl (zero f.d (.ok (.mwr f.a f.b)))
  | _ => .error .unassignedSelector

/-- Major 0x27, ENG (R239). -/
def decodeEng (f : RegF) : Except DecodeErr Instr :=
  match f.fn.toNat with
  | 0 => zero f.b (zero (f.ctl.extractLsb' 0 2) (withScope (f.ctl.extractLsb' 2 3) fun s => .ok (.cpy s f.d f.a)))
  | 1 => zero f.b (zero (f.ctl.extractLsb' 0 2) (withScope (f.ctl.extractLsb' 2 3) fun s => .ok (.coll s f.d f.a)))
  | _ => .error .unassignedSelector

/-- Major 0x28, SYNC (R250, R275, R276, R304). -/
def decodeSync (f : RegF) : Except DecodeErr Instr :=
  match f.fn.toNat with
  | 0 => zero f.ctl (zero f.a (zero f.b (.ok (.fclaim f.d))))
  | 1 => zero f.b (zero (f.ctl.extractLsb' 0 2) (withScope (f.ctl.extractLsb' 2 3) fun s => .ok (.vfbar s f.d f.a)))
  | 2 => zero (f.ctl.extractLsb' 0 2) (withScope (f.ctl.extractLsb' 2 3) fun s => .ok (.bwait s f.d f.a f.b))
  | 3 => zero f.d (zero (f.ctl.extractLsb' 2 3) (decSplit (f.ctl.extractLsb' 0 2) >>= fun n => .ok (.lsplit f.a f.b n)))
  | 4 => zero f.d (zero f.a (zero f.b (zero f.ctl (.ok .lfuse))))
  | _ => .error .unassignedSelector

/-- LD and ST kinds in imm[15:13] (R202). -/
def decodeLd (f : ImmF) : Except DecodeErr Instr :=
  match (f.k.extractLsb' 13 3).toNat with
  | 0 => .ok (.ldb f.d f.a (f.k.extractLsb' 0 13))
  | 1 => .ok (.ldbu f.d f.a (f.k.extractLsb' 0 13))
  | 2 => .ok (.ldw f.d f.a (f.k.extractLsb' 0 13))
  | 3 => .ok (.ldwu f.d f.a (f.k.extractLsb' 0 13))
  | 4 => .ok (.ldd f.d f.a (f.k.extractLsb' 0 13))
  | _ => .error .reservedKind

def decodeSt (f : ImmF) : Except DecodeErr Instr :=
  match (f.k.extractLsb' 13 3).toNat with
  | 0 => .ok (.stb f.d f.a (f.k.extractLsb' 0 13))
  | 2 => .ok (.stw f.d f.a (f.k.extractLsb' 0 13))
  | 4 => .ok (.std f.d f.a (f.k.extractLsb' 0 13))
  | _ => .error .reservedKind

/-- Shift immediates (R99). -/
def decodeShift (f : ImmF) : Except DecodeErr Instr :=
  match (f.k.extractLsb' 14 2).toNat with
  | 0 => zero (f.k.extractLsb' 6 8) (.ok (.slli f.d f.a (f.k.extractLsb' 0 6)))
  | 1 => zero (f.k.extractLsb' 6 8) (.ok (.srli f.d f.a (f.k.extractLsb' 0 6)))
  | 2 => zero (f.k.extractLsb' 6 8) (.ok (.srai f.d f.a (f.k.extractLsb' 0 6)))
  | _ => .error .reservedKind

/-- The loop end must lie ahead (R282, R56). -/
def ahead (off : BitVec 16) (r : Except DecodeErr Instr) : Except DecodeErr Instr :=
  bif decide (0 < off.toInt) then r else .error .loopEndNotAhead

/-- The instruction a word stands for, or the condition of R56 it fails. -/
def decode (w : IWord) : Except DecodeErr Instr :=
  match (majorOf w).toNat with
  | 2 => .ok (.addi (immF w).d (immF w).a (immF w).k)
  | 3 => .ok (.andi (immF w).d (immF w).a (immF w).k)
  | 4 => .ok (.ori (immF w).d (immF w).a (immF w).k)
  | 5 => .ok (.xori (immF w).d (immF w).a (immF w).k)
  | 1 => decodeSalu (regF w)
  | 6 => decodeShift (immF w)
  | 7 => zero (immF w).a (.ok (.lui (immF w).d (immF w).k))
  | 8 => zero (immF w).a (.ok (.adr (immF w).d (immF w).k))
  | 9 => decodeSfpu (regF w)
  | 10 => decodeLd (immF w)
  | 11 => decodeSt (immF w)
  | 12 => decodeAmo (regF w)
  | 13 => .ok (.beq (immF w).d (immF w).a (immF w).k)
  | 14 => .ok (.bne (immF w).d (immF w).a (immF w).k)
  | 15 => .ok (.blt (immF w).d (immF w).a (immF w).k)
  | 16 => .ok (.bge (immF w).d (immF w).a (immF w).k)
  | 17 => .ok (.bltu (immF w).d (immF w).a (immF w).k)
  | 18 => .ok (.bgeu (immF w).d (immF w).a (immF w).k)
  | 19 => .ok (.jal (jmpF w))
  | 20 => .ok (.jalr (immF w).d (immF w).a (immF w).k)
  | 21 => zero (immF w).a (ahead (immF w).k (.ok (.loop (immF w).d (immF w).k)))
  | 22 => ahead (immF w).k (.ok (.loopi ((immF w).d ++ (immF w).a) (immF w).k))
  | 23 => decodeSys (regF w)
  | 24 => bif imgMalformed (immF w).k then .error .malformedImage else .ok (.setvl (immF w).d (immF w).a (immF w).k)
  | 25 => decodeVcfg (regF w)
  | 26 => decodeVialu (vecF w)
  | 27 => decodeVcmp (vecF w)
  | 28 => decodeVfpu (vecF w)
  | 29 => decodeVmask (vecF w)
  | 30 => decodeVred (vecF w)
  | 31 => decodeVscan (vecF w)
  | 32 => decodeVshape (vecF w)
  | 33 => decodeVscl (vecF w)
  | 34 => decodeVld (vecF w)
  | 35 => decodeVst (vecF w)
  | 36 => decodeTile (regF w)
  | 37 => decodeLayer (regF w)
  | 38 => decodeMat (regF w)
  | 39 => decodeEng (regF w)
  | 40 => decodeSync (regF w)
  | _ => .error .reservedMajor

/-- The first instruction of a byte string and the bytes after it: words are little-endian (R42). -/
def decodeBytes : List Byte → Except DecodeErr (Instr × List Byte)
  | b0 :: b1 :: b2 :: b3 :: rest => (decode (b3 ++ b2 ++ b1 ++ b0)).map fun i => (i, rest)
  | _ => .error .truncated

/-- The bytes of a word as memory holds them. -/
def wordBytes (w : IWord) : List Byte :=
  [w.extractLsb' 0 8, w.extractLsb' 8 8, w.extractLsb' 16 8, w.extractLsb' 24 8]

/-- What the decoder reads from an opcode-table row's bits `w`, numbered as the table numbers them. -/
def decodeTableWord (_nbits w : Nat) : Option Instr :=
  match decodeBytes (wordBytes (BitVec.ofNat 32 w)) with
  | .ok (i, _) => some i
  | .error _ => none

/-! ## The encoder -/

/-- The word of an instruction; the 60 event rows have none. -/
def encode : Instr → Option IWord
  | .add d a b => some (mkReg 1#6 ⟨d, a, b, 0#6, 0#5⟩)
  | .sub d a b => some (mkReg 1#6 ⟨d, a, b, 1#6, 0#5⟩)
  | .and d a b => some (mkReg 1#6 ⟨d, a, b, 2#6, 0#5⟩)
  | .or d a b => some (mkReg 1#6 ⟨d, a, b, 3#6, 0#5⟩)
  | .xor d a b => some (mkReg 1#6 ⟨d, a, b, 4#6, 0#5⟩)
  | .sll d a b => some (mkReg 1#6 ⟨d, a, b, 5#6, 0#5⟩)
  | .srl d a b => some (mkReg 1#6 ⟨d, a, b, 6#6, 0#5⟩)
  | .sra d a b => some (mkReg 1#6 ⟨d, a, b, 7#6, 0#5⟩)
  | .slt d a b => some (mkReg 1#6 ⟨d, a, b, 8#6, 0#5⟩)
  | .sltu d a b => some (mkReg 1#6 ⟨d, a, b, 9#6, 0#5⟩)
  | .mul d a b => some (mkReg 1#6 ⟨d, a, b, 10#6, 0#5⟩)
  | .mulh d a b => some (mkReg 1#6 ⟨d, a, b, 11#6, 0#5⟩)
  | .mulhu d a b => some (mkReg 1#6 ⟨d, a, b, 12#6, 0#5⟩)
  | .div d a b => some (mkReg 1#6 ⟨d, a, b, 13#6, 0#5⟩)
  | .divu d a b => some (mkReg 1#6 ⟨d, a, b, 14#6, 0#5⟩)
  | .clz d a => some (mkReg 1#6 ⟨d, a, 0#5, 15#6, 0#5⟩)
  | .ctz d a => some (mkReg 1#6 ⟨d, a, 0#5, 16#6, 0#5⟩)
  | .popc d a => some (mkReg 1#6 ⟨d, a, 0#5, 17#6, 0#5⟩)
  | .addi d a k => some (mkImm 2#6 ⟨d, a, k⟩)
  | .andi d a k => some (mkImm 3#6 ⟨d, a, k⟩)
  | .ori d a k => some (mkImm 4#6 ⟨d, a, k⟩)
  | .xori d a k => some (mkImm 5#6 ⟨d, a, k⟩)
  | .slli d a n => some (mkImm 6#6 ⟨d, a, 0#2 ++ 0#8 ++ n⟩)
  | .srli d a n => some (mkImm 6#6 ⟨d, a, 1#2 ++ 0#8 ++ n⟩)
  | .srai d a n => some (mkImm 6#6 ⟨d, a, 2#2 ++ 0#8 ++ n⟩)
  | .lui d k => some (mkImm 7#6 ⟨d, 0#5, k⟩)
  | .adr d k => some (mkImm 8#6 ⟨d, 0#5, k⟩)
  | .fadd p d a b => some (mkReg 9#6 ⟨d, a, b, 0#6, 0#4 ++ encPrec p⟩)
  | .fsub p d a b => some (mkReg 9#6 ⟨d, a, b, 1#6, 0#4 ++ encPrec p⟩)
  | .fmul p d a b => some (mkReg 9#6 ⟨d, a, b, 2#6, 0#4 ++ encPrec p⟩)
  | .fdiv p d a b => some (mkReg 9#6 ⟨d, a, b, 3#6, 0#4 ++ encPrec p⟩)
  | .fsqrt p d a => some (mkReg 9#6 ⟨d, a, 0#5, 4#6, 0#4 ++ encPrec p⟩)
  | .fmin p d a b => some (mkReg 9#6 ⟨d, a, b, 5#6, 0#4 ++ encPrec p⟩)
  | .fmax p d a b => some (mkReg 9#6 ⟨d, a, b, 6#6, 0#4 ++ encPrec p⟩)
  | .fma p d a b => some (mkReg 9#6 ⟨d, a, b, 7#6, 0#4 ++ encPrec p⟩)
  | .fcmplt p d a b => some (mkReg 9#6 ⟨d, a, b, 8#6, 0#4 ++ encPrec p⟩)
  | .fcmple p d a b => some (mkReg 9#6 ⟨d, a, b, 9#6, 0#4 ++ encPrec p⟩)
  | .fcmpeq p d a b => some (mkReg 9#6 ⟨d, a, b, 10#6, 0#4 ++ encPrec p⟩)
  | .fcvtfi p d a => some (mkReg 9#6 ⟨d, a, 0#5, 11#6, 0#4 ++ encPrec p⟩)
  | .fcvtif p r d a => some (mkReg 9#6 ⟨d, a, 0#5, 12#6, 0#2 ++ encRMode r ++ encPrec p⟩)
  | .ldb d a o => some (mkImm 10#6 ⟨d, a, 0#3 ++ o⟩)
  | .ldbu d a o => some (mkImm 10#6 ⟨d, a, 1#3 ++ o⟩)
  | .ldw d a o => some (mkImm 10#6 ⟨d, a, 2#3 ++ o⟩)
  | .ldwu d a o => some (mkImm 10#6 ⟨d, a, 3#3 ++ o⟩)
  | .ldd d a o => some (mkImm 10#6 ⟨d, a, 4#3 ++ o⟩)
  | .stb d a o => some (mkImm 11#6 ⟨d, a, 0#3 ++ o⟩)
  | .stw d a o => some (mkImm 11#6 ⟨d, a, 2#3 ++ o⟩)
  | .std d a o => some (mkImm 11#6 ⟨d, a, 4#3 ++ o⟩)
  | .amoadd w s ar d a b => some (mkReg 12#6 ⟨d, a, b, 0#6, encScope s ++ encWidth w ++ encBit ar⟩)
  | .amoand w s ar d a b => some (mkReg 12#6 ⟨d, a, b, 1#6, encScope s ++ encWidth w ++ encBit ar⟩)
  | .amoor w s ar d a b => some (mkReg 12#6 ⟨d, a, b, 2#6, encScope s ++ encWidth w ++ encBit ar⟩)
  | .amoxor w s ar d a b => some (mkReg 12#6 ⟨d, a, b, 3#6, encScope s ++ encWidth w ++ encBit ar⟩)
  | .amomin w s ar d a b => some (mkReg 12#6 ⟨d, a, b, 4#6, encScope s ++ encWidth w ++ encBit ar⟩)
  | .amomax w s ar d a b => some (mkReg 12#6 ⟨d, a, b, 5#6, encScope s ++ encWidth w ++ encBit ar⟩)
  | .amoswap w s ar d a b => some (mkReg 12#6 ⟨d, a, b, 6#6, encScope s ++ encWidth w ++ encBit ar⟩)
  | .amocas w s ar d a b => some (mkReg 12#6 ⟨d, a, b, 7#6, encScope s ++ encWidth w ++ encBit ar⟩)
  | .famoadd w s ar d a b => some (mkReg 12#6 ⟨d, a, b, 8#6, encScope s ++ encWidth w ++ encBit ar⟩)
  | .beq a b o => some (mkImm 13#6 ⟨a, b, o⟩)
  | .bne a b o => some (mkImm 14#6 ⟨a, b, o⟩)
  | .blt a b o => some (mkImm 15#6 ⟨a, b, o⟩)
  | .bge a b o => some (mkImm 16#6 ⟨a, b, o⟩)
  | .bltu a b o => some (mkImm 17#6 ⟨a, b, o⟩)
  | .bgeu a b o => some (mkImm 18#6 ⟨a, b, o⟩)
  | .jal o => some (mkJmp 19#6 o)
  | .jalr d a k => some (mkImm 20#6 ⟨d, a, k⟩)
  | .loop a o => some (mkImm 21#6 ⟨a, 0#5, o⟩)
  | .loopi n o => some (mkImm 22#6 ⟨n.extractLsb' 5 5, n.extractLsb' 0 5, o⟩)
  | .svc n => some (mkReg 23#6 ⟨0#5, 0#5, n.extractLsb' 5 5, 0#6, n.extractLsb' 0 5⟩)
  | .eret => some (mkReg 23#6 ⟨0#5, 0#5, 0#5, 1#6, 0#5⟩)
  | .wfe a => some (mkReg 23#6 ⟨0#5, a, 0#5, 2#6, 0#5⟩)
  | .yield => some (mkReg 23#6 ⟨0#5, 0#5, 0#5, 3#6, 0#5⟩)
  | .rsys d n => some (mkReg 23#6 ⟨d, 0#5, n.extractLsb' 5 5, 4#6, n.extractLsb' 0 5⟩)
  | .wsys a n => some (mkReg 23#6 ⟨0#5, a, n.extractLsb' 5 5, 5#6, n.extractLsb' 0 5⟩)
  | .fenceSv s => some (mkReg 23#6 ⟨0#5, 0#5, 0#5, 6#6, encScope s ++ 0#2⟩)
  | .fenceVs s => some (mkReg 23#6 ⟨0#5, 0#5, 0#5, 7#6, encScope s ++ 0#2⟩)
  | .fenceVv s => some (mkReg 23#6 ⟨0#5, 0#5, 0#5, 8#6, encScope s ++ 0#2⟩)
  | .brk n => some (mkReg 23#6 ⟨0#5, 0#5, n.extractLsb' 5 5, 9#6, n.extractLsb' 0 5⟩)
  | .setvl d a i => some (mkImm 24#6 ⟨d, a, i⟩)
  | .setvlr d a b => some (mkReg 25#6 ⟨d, a, b, 0#6, 0#5⟩)
  | .setvlm d a => some (mkReg 25#6 ⟨d, a, 0#5, 1#6, 0#5⟩)
  | .vlq d b => some (mkReg 25#6 ⟨d, 0#5, b, 2#6, 0#5⟩)
  | .vadd m d a b => some (mkVec 26#6 ⟨d, a, srcReg b, 0#5, encBit m, 0#3, 0#1 ++ srcBit b⟩)
  | .vsub m d a b => some (mkVec 26#6 ⟨d, a, srcReg b, 1#5, encBit m, 0#3, 0#1 ++ srcBit b⟩)
  | .vmul m d a b => some (mkVec 26#6 ⟨d, a, srcReg b, 2#5, encBit m, 0#3, 0#1 ++ srcBit b⟩)
  | .vand m d a b => some (mkVec 26#6 ⟨d, a, srcReg b, 3#5, encBit m, 0#3, 0#1 ++ srcBit b⟩)
  | .vor m d a b => some (mkVec 26#6 ⟨d, a, srcReg b, 4#5, encBit m, 0#3, 0#1 ++ srcBit b⟩)
  | .vxor m d a b => some (mkVec 26#6 ⟨d, a, srcReg b, 5#5, encBit m, 0#3, 0#1 ++ srcBit b⟩)
  | .vsll m d a b => some (mkVec 26#6 ⟨d, a, srcReg b, 6#5, encBit m, 0#3, 0#1 ++ srcBit b⟩)
  | .vsrl m d a b => some (mkVec 26#6 ⟨d, a, srcReg b, 7#5, encBit m, 0#3, 0#1 ++ srcBit b⟩)
  | .vsra m d a b => some (mkVec 26#6 ⟨d, a, srcReg b, 8#5, encBit m, 0#3, 0#1 ++ srcBit b⟩)
  | .vmin m d a b => some (mkVec 26#6 ⟨d, a, srcReg b, 9#5, encBit m, 0#3, 0#1 ++ srcBit b⟩)
  | .vmax m d a b => some (mkVec 26#6 ⟨d, a, srcReg b, 10#5, encBit m, 0#3, 0#1 ++ srcBit b⟩)
  | .vsadd m d a b => some (mkVec 26#6 ⟨d, a, srcReg b, 11#5, encBit m, 0#3, 0#1 ++ srcBit b⟩)
  | .vssub m d a b => some (mkVec 26#6 ⟨d, a, srcReg b, 12#5, encBit m, 0#3, 0#1 ++ srcBit b⟩)
  | .vpopc m d a => some (mkVec 26#6 ⟨d, a, 0#5, 13#5, encBit m, 0#3, 0#2⟩)
  | .vmerge d a b => some (mkVec 26#6 ⟨d, a, srcReg b, 14#5, 0#1, 0#3, 0#1 ++ srcBit b⟩)
  | .vmv m d a => some (mkVec 26#6 ⟨d, a, 0#5, 15#5, encBit m, 0#3, 0#2⟩)
  | .vmvScalar m d b => some (mkVec 26#6 ⟨d, 0#5, b, 15#5, encBit m, 0#3, 1#2⟩)
  | .vid m d => some (mkVec 26#6 ⟨d, 0#5, 0#5, 16#5, encBit m, 0#3, 0#2⟩)
  | .vwiden m sgn d a b => some (mkVec 26#6 ⟨d, a, srcReg b, 17#5, encBit m, 0#3, encBit sgn ++ srcBit b⟩)
  | .vnarrow m sgn d a b => some (mkVec 26#6 ⟨d, a, srcReg b, 18#5, encBit m, 0#3, encBit sgn ++ srcBit b⟩)
  | .vcmpeq m d a b => some (mkVec 27#6 ⟨d, a, srcReg b, 0#5, encBit m, 0#3, 0#1 ++ srcBit b⟩)
  | .vcmpne m d a b => some (mkVec 27#6 ⟨d, a, srcReg b, 1#5, encBit m, 0#3, 0#1 ++ srcBit b⟩)
  | .vcmplt m d a b => some (mkVec 27#6 ⟨d, a, srcReg b, 2#5, encBit m, 0#3, 0#1 ++ srcBit b⟩)
  | .vcmpltu m d a b => some (mkVec 27#6 ⟨d, a, srcReg b, 3#5, encBit m, 0#3, 0#1 ++ srcBit b⟩)
  | .vcmple m d a b => some (mkVec 27#6 ⟨d, a, srcReg b, 4#5, encBit m, 0#3, 0#1 ++ srcBit b⟩)
  | .vcmpleu m d a b => some (mkVec 27#6 ⟨d, a, srcReg b, 5#5, encBit m, 0#3, 0#1 ++ srcBit b⟩)
  | .vfcmpeq m d a b => some (mkVec 27#6 ⟨d, a, srcReg b, 6#5, encBit m, 0#3, 0#1 ++ srcBit b⟩)
  | .vfcmplt m d a b => some (mkVec 27#6 ⟨d, a, srcReg b, 7#5, encBit m, 0#3, 0#1 ++ srcBit b⟩)
  | .vfcmple m d a b => some (mkVec 27#6 ⟨d, a, srcReg b, 8#5, encBit m, 0#3, 0#1 ++ srcBit b⟩)
  | .vfadd m d a b => some (mkVec 28#6 ⟨d, a, b, 0#5, encBit m, 0#3, 0#2⟩)
  | .vfsub m d a b => some (mkVec 28#6 ⟨d, a, b, 1#5, encBit m, 0#3, 0#2⟩)
  | .vfmul m d a b => some (mkVec 28#6 ⟨d, a, b, 2#5, encBit m, 0#3, 0#2⟩)
  | .vfma m d a b => some (mkVec 28#6 ⟨d, a, b, 3#5, encBit m, 0#3, 0#2⟩)
  | .vfdiv m d a b => some (mkVec 28#6 ⟨d, a, b, 4#5, encBit m, 0#3, 0#2⟩)
  | .vfmin m d a b => some (mkVec 28#6 ⟨d, a, b, 5#5, encBit m, 0#3, 0#2⟩)
  | .vfmax m d a b => some (mkVec 28#6 ⟨d, a, b, 6#5, encBit m, 0#3, 0#2⟩)
  | .vfscale m d a b => some (mkVec 28#6 ⟨d, a, b, 7#5, encBit m, 0#3, 0#2⟩)
  | .vfcvtfi m d a => some (mkVec 28#6 ⟨d, a, 0#5, 8#5, encBit m, 0#3, 0#2⟩)
  | .vfcvtif m r d a => some (mkVec 28#6 ⟨d, a, 0#5, 9#5, encBit m, 0#3, encRMode r⟩)
  | .vfwiden m n d a => some (mkVec 28#6 ⟨d, a, 0#5, 10#5, encBit m, 0#3, encNarrow n⟩)
  | .vfnarrow m n d a => some (mkVec 28#6 ⟨d, a, 0#5, 11#5, encBit m, 0#3, encNarrow n⟩)
  | .vflogt m d a b => some (mkVec 28#6 ⟨d, a, b, 12#5, encBit m, 0#3, 0#2⟩)
  | .vmand m d a b => some (mkVec 29#6 ⟨d, a, b, 0#5, encBit m, 0#3, 0#2⟩)
  | .vmor m d a b => some (mkVec 29#6 ⟨d, a, b, 1#5, encBit m, 0#3, 0#2⟩)
  | .vmxor m d a b => some (mkVec 29#6 ⟨d, a, b, 2#5, encBit m, 0#3, 0#2⟩)
  | .vmpopc m d a => some (mkVec 29#6 ⟨d, a, 0#5, 3#5, encBit m, 0#3, 0#2⟩)
  | .vmfirst m d a => some (mkVec 29#6 ⟨d, a, 0#5, 4#5, encBit m, 0#3, 0#2⟩)
  | .vredsum m p d a n => some (mkVec 30#6 ⟨d, a, encNest n, 0#5, encBit m, encDepth p, 0#2⟩)
  | .vredmin m p d a n => some (mkVec 30#6 ⟨d, a, encNest n, 1#5, encBit m, encDepth p, 0#2⟩)
  | .vredmax m p d a n => some (mkVec 30#6 ⟨d, a, encNest n, 2#5, encBit m, encDepth p, 0#2⟩)
  | .vredand m p d a n => some (mkVec 30#6 ⟨d, a, encNest n, 3#5, encBit m, encDepth p, 0#2⟩)
  | .vredor m p d a n => some (mkVec 30#6 ⟨d, a, encNest n, 4#5, encBit m, encDepth p, 0#2⟩)
  | .vredxor m p d a n => some (mkVec 30#6 ⟨d, a, encNest n, 5#5, encBit m, encDepth p, 0#2⟩)
  | .vfredsum m p d a n => some (mkVec 30#6 ⟨d, a, encNest n, 6#5, encBit m, encDepth p, 0#2⟩)
  | .vfredmin m p d a n => some (mkVec 30#6 ⟨d, a, encNest n, 7#5, encBit m, encDepth p, 0#2⟩)
  | .vfredmax m p d a n => some (mkVec 30#6 ⟨d, a, encNest n, 8#5, encBit m, encDepth p, 0#2⟩)
  | .vredminx m p h a n => some (mkVec 30#6 ⟨h ++ 0#1, a, encNest n, 9#5, encBit m, encDepth p, 0#2⟩)
  | .vfredmaxx m p h a n => some (mkVec 30#6 ⟨h ++ 0#1, a, encNest n, 10#5, encBit m, encDepth p, 0#2⟩)
  | .vscansum m ex p d a n => some (mkVec 31#6 ⟨d, a, encNest n, 0#5, encBit m, encDepth p, 0#1 ++ encBit ex⟩)
  | .vscanmax m ex p d a n => some (mkVec 31#6 ⟨d, a, encNest n, 1#5, encBit m, encDepth p, 0#1 ++ encBit ex⟩)
  | .vfscansum m ex p d a n => some (mkVec 31#6 ⟨d, a, encNest n, 2#5, encBit m, encDepth p, 0#1 ++ encBit ex⟩)
  | .vfscanmax m ex p d a n => some (mkVec 31#6 ⟨d, a, encNest n, 3#5, encBit m, encDepth p, 0#1 ++ encBit ex⟩)
  | .vdist m p d a n => some (mkVec 32#6 ⟨d, a, encNest n, 0#5, encBit m, encDepth p, 0#2⟩)
  | .vpack d a n => some (mkVec 32#6 ⟨d, a, encNest n, 1#5, 0#1, 0#3, 0#2⟩)
  | .vcompress d a n => some (mkVec 32#6 ⟨d, a, encNest n, 2#5, 0#1, 0#3, 0#2⟩)
  | .vsegid m p d n => some (mkVec 32#6 ⟨d, 0#5, encNest n, 3#5, encBit m, encDepth p, 0#2⟩)
  | .vseglen p d n => some (mkVec 32#6 ⟨d, 0#5, encNest n, 4#5, 0#1, encDepth p, 0#2⟩)
  | .vtree d a => some (mkVec 32#6 ⟨d, a, 0#5, 5#5, 0#1, 0#3, 0#2⟩)
  | .nset n a b => some (mkVec 32#6 ⟨encNest n, a, b, 6#5, 0#1, 0#3, 0#2⟩)
  | .npush n b => some (mkVec 32#6 ⟨encNest n, 0#5, b, 7#5, 0#1, 0#3, 0#2⟩)
  | .npop flat n => some (mkVec 32#6 ⟨encNest n, 0#5, 0#5, 8#5, 0#1, 0#3, 0#1 ++ encBit flat⟩)
  | .vslideup m p d a b => some (mkVec 32#6 ⟨d, a, b, 9#5, encBit m, encDepth p, 0#2⟩)
  | .vslidedn m p d a b => some (mkVec 32#6 ⟨d, a, b, 10#5, encBit m, encDepth p, 0#2⟩)
  | .vrgather m p d a b => some (mkVec 32#6 ⟨d, a, b, 11#5, encBit m, encDepth p, 0#2⟩)
  | .vmvxs d a b => some (mkVec 32#6 ⟨d, a, b, 12#5, 0#1, 0#3, 0#2⟩)
  | .vdec4 m d a => some (mkVec 33#6 ⟨d, a, 0#5, 0#5, encBit m, 0#3, 0#2⟩)
  | .venc4 t d a => some (mkVec 33#6 ⟨d, a, 0#5, 1#5, 0#1, 0#3, encCodeType t⟩)
  | .vbsum m p d a b => some (mkVec 33#6 ⟨d, a, b, 2#5, encBit m, encDepth p, 0#2⟩)
  | .vld m c d a => some (mkVec 34#6 ⟨d, a, 0#5, 0#5, encBit m, 0#3, encCache c⟩)
  | .vlds m c d a b => some (mkVec 34#6 ⟨d, a, b, 1#5, encBit m, 0#3, encCache c⟩)
  | .vldx m c d a b => some (mkVec 34#6 ⟨d, a, b, 2#5, encBit m, 0#3, encCache c⟩)
  | .vldxo m c d a b => some (mkVec 34#6 ⟨d, a, b, 3#5, encBit m, 0#3, encCache c⟩)
  | .vldff c d a => some (mkVec 34#6 ⟨d, a, 0#5, 4#5, 0#1, 0#3, encCache c⟩)
  | .vfill c d a => some (mkVec 34#6 ⟨d, a, 0#5, 5#5, 0#1, 0#3, encCache c⟩)
  | .vst m c d a => some (mkVec 35#6 ⟨d, a, 0#5, 0#5, encBit m, 0#3, encCache c⟩)
  | .vsts m c d a b => some (mkVec 35#6 ⟨d, a, b, 1#5, encBit m, 0#3, encCache c⟩)
  | .vstx m c d a b => some (mkVec 35#6 ⟨d, a, b, 2#5, encBit m, 0#3, encCache c⟩)
  | .vstxo m c d a b => some (mkVec 35#6 ⟨d, a, b, 3#5, encBit m, 0#3, encCache c⟩)
  | .vspill c d a => some (mkVec 35#6 ⟨d, a, 0#5, 4#5, 0#1, 0#3, encCache c⟩)
  | .tld sc wide d a b => some (mkReg 36#6 ⟨d, a, b, 0#6, 0#3 ++ encBit sc ++ encBit wide⟩)
  | .tst sc d a b => some (mkReg 36#6 ⟨d, a, b, 1#6, 0#3 ++ encBit sc ++ 0#1⟩)
  | .ttag d a b => some (mkReg 36#6 ⟨d, a, b, 2#6, 0#5⟩)
  | .tset d a b => some (mkReg 36#6 ⟨d, a, b, 3#6, 0#5⟩)
  | .tcall a n => some (mkReg 36#6 ⟨0#5, a, 0#5, 4#6, 0#3 ++ encTiles n⟩)
  | .lmk s a b => some (mkReg 37#6 ⟨0#5, a, b, 0#6, encScope s ++ 0#2⟩)
  | .lattach s d a b => some (mkReg 37#6 ⟨d, a, b, 1#6, encScope s ++ 0#2⟩)
  | .ldetach s d a b => some (mkReg 37#6 ⟨d, a, b, 2#6, encScope s ++ 0#2⟩)
  | .lfold s d a b => some (mkReg 37#6 ⟨d, a, b, 3#6, encScope s ++ 0#2⟩)
  | .mattach d a => some (mkReg 38#6 ⟨d, a, 0#5, 0#6, 0#5⟩)
  | .mmode a => some (mkReg 38#6 ⟨0#5, a, 0#5, 1#6, 0#5⟩)
  | .mzero => some (mkReg 38#6 ⟨0#5, 0#5, 0#5, 2#6, 0#5⟩)
  | .mopa a b => some (mkReg 38#6 ⟨0#5, a, b, 3#6, 0#5⟩)
  | .mopab a b => some (mkReg 38#6 ⟨0#5, a, b, 4#6, 0#5⟩)
  | .mrd d a => some (mkReg 38#6 ⟨d, a, 0#5, 5#6, 0#5⟩)
  | .mwr a b => some (mkReg 38#6 ⟨0#5, a, b, 6#6, 0#5⟩)
  | .cpy s d a => some (mkReg 39#6 ⟨d, a, 0#5, 0#6, encScope s ++ 0#2⟩)
  | .coll s d a => some (mkReg 39#6 ⟨d, a, 0#5, 1#6, encScope s ++ 0#2⟩)
  | .fclaim d => some (mkReg 40#6 ⟨d, 0#5, 0#5, 0#6, 0#5⟩)
  | .vfbar s d a => some (mkReg 40#6 ⟨d, a, 0#5, 1#6, encScope s ++ 0#2⟩)
  | .bwait s d a b => some (mkReg 40#6 ⟨d, a, b, 2#6, encScope s ++ 0#2⟩)
  | .lsplit a b n => some (mkReg 40#6 ⟨0#5, a, b, 3#6, 0#3 ++ encSplit n⟩)
  | .lfuse => some (mkReg 40#6 ⟨0#5, 0#5, 0#5, 4#6, 0#5⟩)
  | .fflagsWrite _ => none
  | .tcbaseWrite _ => none
  | .progWrite _ _ => none
  | .loopStackWrite _ _ => none
  | .pgrootWrite _ => none
  | .islimWrite _ => none
  | .routingTableAddressWrite _ => none
  | .livenessTableWrite _ _ => none
  | .checkpointTakesEffect _ => none
  | .heldStoreCheckpoint _ => none
  | .storePerformed _ => none
  | .wfeWake _ => none
  | .bwaitWake _ => none
  | .engineChunkDone _ _ _ => none
  | .transferComplete _ _ => none
  | .engineFault _ _ _ => none
  | .pressFrameWrite _ _ _ => none
  | .pressSwap _ _ => none
  | .foldAbandon _ _ _ => none
  | .trapEntry _ => none
  | .stripRestart _ _ => none
  | .uncorrectableErrorAsync _ _ => none
  | .rowSelfTest _ _ _ => none
  | .yieldRequest _ => none
  | .forcedPreemption _ => none
  | .victimPreemption _ _ => none
  | .queueHeaderRead _ _ => none
  | .launchRecordTake _ _ => none
  | .dependenceMet _ _ => none
  | .hartPlacement _ _ => none
  | .hartFreed _ => none
  | .priorityAging _ _ => none
  | .launchDone _ => none
  | .shootdown _ => none
  | .descriptorResident _ => none
  | .iscurUpdate _ _ => none
  | .flitParityResend _ _ _ => none
  | .linkCrcRetry _ _ => none
  | .commandAddressReplay _ _ _ => none
  | .hbmTemperatureThreshold _ _ => none
  | .dieTemperatureThreshold _ _ => none
  | .errorRingAppend _ => none
  | .bringUp _ => none
  | .spareQuadSite _ => none
  | .postPackageRepair _ => none
  | .spareVia _ => none
  | .spareLinkLane _ => none
  | .attestationReportCommand => none
  | .statusRead => none
  | .attestationRequest _ _ => none
  | .hostAccess _ => none
  | .remoteRequest _ _ => none
  | .illegalInstruction _ => none
  | .instructionFetchFault => none
  | .storePassesVisibilityPoint _ => none
  | .remoteWriteReport _ _ => none
  | .newFirmwareImage _ => none
  | .debuggerStop _ => none
  | .debuggerResume _ => none
  | .powerOff => none

/-- The word that TVAL holds where a trap reports the instruction word (R56, R362). -/
def wordOf (i : Instr) : Word := ((encode i).getD 0).setWidth 64

/-- The rows of the opcode table that no word encodes: the steps of the part other than instructions. -/
def Instr.isEvent : Instr → Bool
  | .add _ _ _ => false
  | .sub _ _ _ => false
  | .and _ _ _ => false
  | .or _ _ _ => false
  | .xor _ _ _ => false
  | .sll _ _ _ => false
  | .srl _ _ _ => false
  | .sra _ _ _ => false
  | .slt _ _ _ => false
  | .sltu _ _ _ => false
  | .mul _ _ _ => false
  | .mulh _ _ _ => false
  | .mulhu _ _ _ => false
  | .div _ _ _ => false
  | .divu _ _ _ => false
  | .clz _ _ => false
  | .ctz _ _ => false
  | .popc _ _ => false
  | .addi _ _ _ => false
  | .andi _ _ _ => false
  | .ori _ _ _ => false
  | .xori _ _ _ => false
  | .slli _ _ _ => false
  | .srli _ _ _ => false
  | .srai _ _ _ => false
  | .lui _ _ => false
  | .adr _ _ => false
  | .fadd _ _ _ _ => false
  | .fsub _ _ _ _ => false
  | .fmul _ _ _ _ => false
  | .fdiv _ _ _ _ => false
  | .fsqrt _ _ _ => false
  | .fmin _ _ _ _ => false
  | .fmax _ _ _ _ => false
  | .fma _ _ _ _ => false
  | .fcmplt _ _ _ _ => false
  | .fcmple _ _ _ _ => false
  | .fcmpeq _ _ _ _ => false
  | .fcvtfi _ _ _ => false
  | .fcvtif _ _ _ _ => false
  | .ldb _ _ _ => false
  | .ldbu _ _ _ => false
  | .ldw _ _ _ => false
  | .ldwu _ _ _ => false
  | .ldd _ _ _ => false
  | .stb _ _ _ => false
  | .stw _ _ _ => false
  | .std _ _ _ => false
  | .amoadd _ _ _ _ _ _ => false
  | .amoand _ _ _ _ _ _ => false
  | .amoor _ _ _ _ _ _ => false
  | .amoxor _ _ _ _ _ _ => false
  | .amomin _ _ _ _ _ _ => false
  | .amomax _ _ _ _ _ _ => false
  | .amoswap _ _ _ _ _ _ => false
  | .amocas _ _ _ _ _ _ => false
  | .famoadd _ _ _ _ _ _ => false
  | .beq _ _ _ => false
  | .bne _ _ _ => false
  | .blt _ _ _ => false
  | .bge _ _ _ => false
  | .bltu _ _ _ => false
  | .bgeu _ _ _ => false
  | .jal _ => false
  | .jalr _ _ _ => false
  | .loop _ _ => false
  | .loopi _ _ => false
  | .svc _ => false
  | .eret => false
  | .wfe _ => false
  | .yield => false
  | .rsys _ _ => false
  | .wsys _ _ => false
  | .fenceSv _ => false
  | .fenceVs _ => false
  | .fenceVv _ => false
  | .brk _ => false
  | .setvl _ _ _ => false
  | .setvlr _ _ _ => false
  | .setvlm _ _ => false
  | .vlq _ _ => false
  | .vadd _ _ _ _ => false
  | .vsub _ _ _ _ => false
  | .vmul _ _ _ _ => false
  | .vand _ _ _ _ => false
  | .vor _ _ _ _ => false
  | .vxor _ _ _ _ => false
  | .vsll _ _ _ _ => false
  | .vsrl _ _ _ _ => false
  | .vsra _ _ _ _ => false
  | .vmin _ _ _ _ => false
  | .vmax _ _ _ _ => false
  | .vsadd _ _ _ _ => false
  | .vssub _ _ _ _ => false
  | .vpopc _ _ _ => false
  | .vmerge _ _ _ => false
  | .vmv _ _ _ => false
  | .vmvScalar _ _ _ => false
  | .vid _ _ => false
  | .vwiden _ _ _ _ _ => false
  | .vnarrow _ _ _ _ _ => false
  | .vcmpeq _ _ _ _ => false
  | .vcmpne _ _ _ _ => false
  | .vcmplt _ _ _ _ => false
  | .vcmpltu _ _ _ _ => false
  | .vcmple _ _ _ _ => false
  | .vcmpleu _ _ _ _ => false
  | .vfcmpeq _ _ _ _ => false
  | .vfcmplt _ _ _ _ => false
  | .vfcmple _ _ _ _ => false
  | .vfadd _ _ _ _ => false
  | .vfsub _ _ _ _ => false
  | .vfmul _ _ _ _ => false
  | .vfma _ _ _ _ => false
  | .vfdiv _ _ _ _ => false
  | .vfmin _ _ _ _ => false
  | .vfmax _ _ _ _ => false
  | .vfscale _ _ _ _ => false
  | .vfcvtfi _ _ _ => false
  | .vfcvtif _ _ _ _ => false
  | .vfwiden _ _ _ _ => false
  | .vfnarrow _ _ _ _ => false
  | .vflogt _ _ _ _ => false
  | .vmand _ _ _ _ => false
  | .vmor _ _ _ _ => false
  | .vmxor _ _ _ _ => false
  | .vmpopc _ _ _ => false
  | .vmfirst _ _ _ => false
  | .vredsum _ _ _ _ _ => false
  | .vredmin _ _ _ _ _ => false
  | .vredmax _ _ _ _ _ => false
  | .vredand _ _ _ _ _ => false
  | .vredor _ _ _ _ _ => false
  | .vredxor _ _ _ _ _ => false
  | .vfredsum _ _ _ _ _ => false
  | .vfredmin _ _ _ _ _ => false
  | .vfredmax _ _ _ _ _ => false
  | .vredminx _ _ _ _ _ => false
  | .vfredmaxx _ _ _ _ _ => false
  | .vscansum _ _ _ _ _ _ => false
  | .vscanmax _ _ _ _ _ _ => false
  | .vfscansum _ _ _ _ _ _ => false
  | .vfscanmax _ _ _ _ _ _ => false
  | .vdist _ _ _ _ _ => false
  | .vpack _ _ _ => false
  | .vcompress _ _ _ => false
  | .vsegid _ _ _ _ => false
  | .vseglen _ _ _ => false
  | .vtree _ _ => false
  | .nset _ _ _ => false
  | .npush _ _ => false
  | .npop _ _ => false
  | .vslideup _ _ _ _ _ => false
  | .vslidedn _ _ _ _ _ => false
  | .vrgather _ _ _ _ _ => false
  | .vmvxs _ _ _ => false
  | .vdec4 _ _ _ => false
  | .venc4 _ _ _ => false
  | .vbsum _ _ _ _ _ => false
  | .vld _ _ _ _ => false
  | .vlds _ _ _ _ _ => false
  | .vldx _ _ _ _ _ => false
  | .vldxo _ _ _ _ _ => false
  | .vldff _ _ _ => false
  | .vfill _ _ _ => false
  | .vst _ _ _ _ => false
  | .vsts _ _ _ _ _ => false
  | .vstx _ _ _ _ _ => false
  | .vstxo _ _ _ _ _ => false
  | .vspill _ _ _ => false
  | .tld _ _ _ _ _ => false
  | .tst _ _ _ _ => false
  | .ttag _ _ _ => false
  | .tset _ _ _ => false
  | .tcall _ _ => false
  | .lmk _ _ _ => false
  | .lattach _ _ _ _ => false
  | .ldetach _ _ _ _ => false
  | .lfold _ _ _ _ => false
  | .mattach _ _ => false
  | .mmode _ => false
  | .mzero => false
  | .mopa _ _ => false
  | .mopab _ _ => false
  | .mrd _ _ => false
  | .mwr _ _ => false
  | .cpy _ _ _ => false
  | .coll _ _ _ => false
  | .fclaim _ => false
  | .vfbar _ _ _ => false
  | .bwait _ _ _ _ => false
  | .lsplit _ _ _ => false
  | .lfuse => false
  | .fflagsWrite _ => false
  | .tcbaseWrite _ => false
  | .progWrite _ _ => false
  | .loopStackWrite _ _ => false
  | .pgrootWrite _ => false
  | .islimWrite _ => false
  | .routingTableAddressWrite _ => true
  | .livenessTableWrite _ _ => true
  | .checkpointTakesEffect _ => true
  | .heldStoreCheckpoint _ => true
  | .storePerformed _ => true
  | .wfeWake _ => true
  | .bwaitWake _ => true
  | .engineChunkDone _ _ _ => true
  | .transferComplete _ _ => true
  | .engineFault _ _ _ => true
  | .pressFrameWrite _ _ _ => true
  | .pressSwap _ _ => true
  | .foldAbandon _ _ _ => true
  | .trapEntry _ => true
  | .stripRestart _ _ => true
  | .uncorrectableErrorAsync _ _ => true
  | .rowSelfTest _ _ _ => true
  | .yieldRequest _ => true
  | .forcedPreemption _ => true
  | .victimPreemption _ _ => true
  | .queueHeaderRead _ _ => true
  | .launchRecordTake _ _ => true
  | .dependenceMet _ _ => true
  | .hartPlacement _ _ => true
  | .hartFreed _ => true
  | .priorityAging _ _ => true
  | .launchDone _ => true
  | .shootdown _ => true
  | .descriptorResident _ => true
  | .iscurUpdate _ _ => true
  | .flitParityResend _ _ _ => true
  | .linkCrcRetry _ _ => true
  | .commandAddressReplay _ _ _ => true
  | .hbmTemperatureThreshold _ _ => true
  | .dieTemperatureThreshold _ _ => true
  | .errorRingAppend _ => true
  | .bringUp _ => true
  | .spareQuadSite _ => true
  | .postPackageRepair _ => true
  | .spareVia _ => true
  | .spareLinkLane _ => true
  | .attestationReportCommand => true
  | .statusRead => true
  | .attestationRequest _ _ => true
  | .hostAccess _ => true
  | .remoteRequest _ _ => true
  | .illegalInstruction _ => false
  | .instructionFetchFault => false
  | .storePassesVisibilityPoint _ => true
  | .remoteWriteReport _ _ => true
  | .newFirmwareImage _ => true
  | .debuggerStop _ => true
  | .debuggerResume _ => true
  | .powerOff => true

end Sys2Proof
end

