-- ==== Sys2Proof/Config.lean ====
section
/-! DEFINITION. What one part fixes and the spec leaves open. The opaque constants are free values: they have no body, so no
proof can see what they are. A free value that is asked for more than once is applied to a counter of the state. -/

namespace Sys2Proof.Config

/-! ## Free values -/

/-- A vector register's bits where the spec calls them undefined (R7, R29, R210, R371; assumption 3). -/
opaque freeVector : Nat → BitVec 131072
/-- A nest register's 64-bit image where the spec calls it undefined (R29; assumption 3). -/
opaque freeNest : Nat → BitVec 64
/-- A scalar register where the spec calls the registers undefined (R371, R375; assumption 3). -/
opaque freeWord : Nat → BitVec 64
/-- Lane-clock cycles that pass when the schedule names none (R213; assumption 5). -/
opaque stepCycles : Nat → Nat
/-- A byte of a unit with an uncorrectable error, as the device answers it to the host or a peer (R379, R406; assumption 7). -/
opaque badByte : Nat → BitVec 8
/-- Behind how many of the earlier elements of one vector store to the same address an element is placed, counted round their number and one
(R9, R206; assumption 19). -/
opaque elemPlace : Nat → Nat
/-- Reads of a bank that are replayed while a convoy of several members executes: the spec does not say in which cycle each member reads
(R271; assumption 9). -/
opaque bankReplays : Nat → Nat
/-- The 16 location bits of an error record for a place (R392; assumption 23). -/
opaque errorLoc : Nat → BitVec 16
/-- The field that an error record names for an event at a Sahair or die-to-die port (R392; assumption 23). -/
opaque portField : Nat → Fin 8
/-- Whether the second of two spare quad sites is brought in (R388; assumption 3). -/
opaque secondSpare : Nat → Bool
/-- A field's counter offset: counters of two fields differ by at most 4 (R24; assumption 22). -/
opaque cycleSkew : Fin 8 → Fin 5
/-- Whether a byte shared by the source and the destination of a copy keeps its value from before it (R240; assumption 3). -/
opaque overlapKeeps : Nat → Bool

/-! ## Implementation constants -/

/-- Which of the four HBM channels of its slice serves a frame (R32, R190, R384; assumption 15). -/
opaque channelInSlice : Nat → Fin 4
/-- The two spare quad sites of a field, which the part's enabled quad map names: the first, and how many sites round from the next one the second
lies (R14; assumption 13). -/
opaque spareSites : FieldId → Fin 16 × Fin 15
/-- SHAKE256 at 512 bits (R336, R337; assumption 16). -/
opaque shake256 : List (BitVec 8) → BitVec 512
/-- The fused digest of the firmware-signing key (R336; assumption 16). -/
opaque fusedKeyDigest : BitVec 512
/-- The Falcon-1024 signature that the device identity key gives a digest, 1,280 bytes (R338; assumption 16). -/
opaque falconSign : BitVec 512 → BitVec 10240
/-- The number of security-version fuses blown (R336; assumption 16). -/
opaque fusedVersion : BitVec 64

end Sys2Proof.Config
end

