-- ==== Sys2Proof/Machine/State.lean ====
section
/-! DEFINITION. The state of a C768 package as plain data (spec/01_machine.md R13 to R27 and the chapters each field cites), the reasons a
step can stop, and the state right after reset. -/

namespace Sys2Proof.Machine

/-- The two privilege modes (R324). -/
inductive Mode where
  | user | supervisor
deriving DecidableEq, Repr, Inhabited

/-- A nest register (R126). Entry k-1 of `c` is ck. -/
structure Nest where
  d        : Fin 5
  base     : BitVec 5
  c        : Vector (BitVec 12) 4
  headOpen : Bool
  tailOpen : Bool
deriving DecidableEq, Repr

/-- The convoy that the instruction at pc belongs to (R58, R59): its address, the member number of that instruction, the
progress field of each member, 63 for a completed one (R364), and whether that member has committed groups and now waits (R312). -/
structure Convoy where
  addr   : Word
  member : Nat
  resume : Vector (BitVec 6) 4
  begun  : Bool
deriving DecidableEq, Repr

/-- A vector store that has begun and not completed: the address of its instruction, the mode it runs in, and the name that its elements
carry as stores. The model's own. -/
structure Run where
  site : Word
  mode : Mode
  id   : Nat
deriving DecidableEq, Repr

/-- What a checkpoint keeps of a thread (R256), with the registers of its lane group (R18, R20). -/
structure Arch where
  pc     : Word
  /-- x0 to x31; entry 0 is always 0 (R16) -/
  x      : Vector Word 32
  /-- LPC0 to LPC3 and LCNT0 to LCNT3 (R281) -/
  lpc    : Vector Word 4
  lcnt   : Vector Word 4
  /-- the tcall frame bit (R187) -/
  cf     : Bool
  mode   : Mode
  vl     : Nat
  vtype  : BitVec 16
  vlmax  : Nat
  ml     : Word
  ffst   : Word
  nests  : Vector Nest 8
  v      : Vector VWord 32
  /-- the granted accumulator rows; MG is their number (R155, R156) -/
  acc    : List AccRow
  /-- PROG0 to PROG31: bit 3 busy, bits [2:0] index (R262) -/
  prog   : Vector (BitVec 4) 32
  convoy : Option Convoy
  /-- vector stores that have begun and not completed: going back to a checkpoint inside one goes back to its name (R207, R223) -/
  runs   : List Run
deriving DecidableEq, Repr

/-- The kind of a checkpoint (R255). -/
inductive CkptKind where
  | explicit | implicit
deriving DecidableEq, Repr, Inhabited

/-- A checkpoint (R256, R259). `pre` is what a forced pre-emption returns to, `post` what a restart in the thread's own lanes
returns to; they differ only at an explicit checkpoint. -/
structure Ckpt where
  kind : CkptKind
  pre  : Arch
  post : Arch
deriving DecidableEq, Repr

/-- What a thread is doing. -/
inductive Status where
  /-- not started, or stopped at its end -/
  | off
  | running
  /-- asleep in a wfe whose checks have passed (R289) -/
  | wfe
  /-- asleep in a bwait whose checks have passed (R252) -/
  | bwait
  /-- a lane group's thread that has fused (R276) -/
  | fused
  /-- stopped by a double fault (R365) -/
  | doubleFault
deriving DecidableEq, Repr, Inhabited

/-- How a debugger's wish to stop a thread stands: at its next boundary; for `stepi`, after its next instruction; or, since another thread of its
launch has stopped, at its next boundary or in the instruction it sleeps in (R12, R312, R319). -/
inductive DebugAsk where
  | no | boundary | instruction | launch
deriving DecidableEq, Repr, Inhabited

/-- What a thread that runs on from a debugger's stop has still to do before it stops again: nothing; to execute the instruction at the stopped
address; or to complete the one it sleeps in, at which only another thread's stop may stop it (R317, R319). -/
inductive DebugPass where
  | no | fresh | asleep
deriving DecidableEq, Repr, Inhabited

/-- Why an access is lost on the way: a failed hop, a port that went down, a peer that dropped the request (R380, R381, R407). -/
inductive LostWay where
  | hop
  | port (p : Fin 21)
  | peer
deriving DecidableEq, Repr

/-- The access of a thread that is lost: its next fetch, or its next data access, that goes this way. -/
structure Lost where
  way   : LostWay
  fetch : Bool
deriving DecidableEq, Repr

/-- A read performed ahead of the load that takes its value (R206, R221): for a scalar load or for element `elem` of a vector load, the
address as the program gives it, its home, its length, its value and the order of its performing; `passed` says that a pennant bit of v0 has been
set since (R247). The model's own (assumption 49). -/
structure Ahead where
  vec    : Bool
  elem   : Nat
  va     : Word
  key    : Nat
  len    : Nat
  val    : Nat
  stamp  : Nat
  passed : Bool
deriving DecidableEq, Repr

/-- The lane clusters that a thread's lane group holds (R274). -/
structure Lanes where
  first : Nat
  count : Nat
deriving DecidableEq, Repr

/-- A hardware thread (R16, R21). -/
structure Thread where
  arch       : Arch
  status     : Status
  ctx        : CtxId
  fflags     : BitVec 5
  instret    : Word
  tcause     : BitVec 8
  tepc       : Word
  tval       : Word
  tstatus    : Word
  tvec       : Word
  tscratch   : Word
  tcbase     : Word
  htbase     : Word
  farm       : Word
  pgroot     : Word
  ydead      : Word
  ystat      : BitVec 4
  /-- RFLOSS0 to RFLOSS15 of its lane group (R272) -/
  rfloss     : Vector (BitVec 32) 16
  /-- the watched 64-byte line as a home key, or `noLine`; its change bit and the wake-once bit (R288) -/
  watchLine  : Nat
  change     : Bool
  wakeOnce   : Bool
  lanes      : Option Lanes
  /-- the checkpoint in effect, and a later one that has not yet taken effect (R257) -/
  ckpt       : Option Ckpt
  due        : Option Ckpt
  /-- CYCLE when the open strip first held a store, and when the earlier strip did that has not yet closed (R220, R257) -/
  heldFrom   : Option Word
  closingFrom : Option Word
  /-- element groups (register, group) and accumulator rows (32, row) recorded in this strip, and in the earlier one that has not yet
  closed (R166, R257, R258) -/
  history    : List (Nat × Nat)
  closingHistory : List (Nat × Nat)
  /-- lane errors that have struck the open strip (R375) -/
  restarts   : Nat
  /-- asynchronous traps that wait for a boundary: cause and value (R367) -/
  pending    : List (BitVec 8 × Word)
  /-- a YDEAD expiry deferred by supervisor mode (R309) -/
  preemptDue : Bool
  /-- CYCLE when a debugger stopped the thread (R312, R315) -/
  debugStop  : Option Word
  /-- a stop asked for, and whether the instruction at the stopped address is to run first (R312, R317, R319) -/
  debugAsk   : DebugAsk
  debugPass  : DebugPass
  /-- CYCLE when the last yield request was made (R308, R315) -/
  deadFrom   : Word
  /-- the next access that goes this way is lost (R380, R381, R407) -/
  lost       : Option Lost
  /-- reads performed ahead of the loads that take their values (R206, R221; assumption 49) -/
  ahead      : List Ahead
  /-- the launch whose kernel it runs -/
  launch     : Option Nat
deriving DecidableEq, Repr

/-- A leaf held in a translation buffer (R329): `page` is the virtual page number at the leaf's level. -/
structure TlbEntry where
  ctx   : CtxId
  level : Nat
  page  : Nat
  leaf  : Word
deriving DecidableEq, Repr

/-- A pointer entry held by a walker (R330). -/
structure PtrEntry where
  ctx   : CtxId
  level : Nat
  page  : Nat
  entry : Word
deriving DecidableEq, Repr

/-- Sixteen bytes of a type case held by a hart (R188). -/
structure CaseEntry where
  ctx   : CtxId
  addr  : Word
  bytes : BitVec 128
deriving DecidableEq, Repr

/-- What an engine or the press has in hand (R237, R353). -/
inductive JobKind where
  | cpy | coll | fold
deriving DecidableEq, Repr, Inhabited

/-- A transfer or fold in flight (R237 to R245, R353). -/
structure Transfer where
  kind    : JobKind
  tid     : Tid
  scope   : Scope
  vp      : VReg
  /-- the address of the instruction that issued it, for the debugger's reports (R393) -/
  site    : Word
  mode    : Mode
  pgroot  : Word
  htbase  : Word
  /-- the record address of a transfer; the handle operand of a fold -/
  rcd     : Word
  dst     : Word
  src     : Word
  len     : Nat
  counter : Word
  shift   : Nat
  op      : Nat
  fmt     : Nat
  /-- chunks, or frames, in all -/
  count   : Nat
  done    : List Nat
deriving DecidableEq, Repr

/-- Lane reclaim of a hart (R306, R307). -/
inductive Reclaim where
  | none
  /-- asked for at the victim's next strip-opening instruction, for this launch, or for a saved hart of it -/
  | asked (launch : Nat) (again : Bool)
  /-- clusters 8 to 15 and the upper halves have passed to thread 1 -/
  | passed
  /-- the incoming kernel has ended; all returns at the victim's next strip-opening instruction -/
  | returning
deriving DecidableEq, Repr, Inhabited

/-- Whose data a hart's lanes and local memories hold: no context's yet; one that has left the device, or whose descriptor has become resident anew
since; or this one's (R323, R335). -/
inductive Tenant where
  | nobody | former
  | of (c : CtxId)
deriving DecidableEq, Repr, Inhabited

/-- A hart (R18), beside what its threads hold. -/
structure Hart where
  /-- healthy active lane rows of each cluster (R13, R387) -/
  rows      : Vector (Fin 5) 16
  spares    : Nat
  /-- failed rows that a neighbour stands in for, and retired rows; row r lies in cluster r / 4 (R386, R387) -/
  failed    : List (Fin 64)
  goneRows  : List (Fin 64)
  /-- corrected errors of register-file slices, with CYCLE, that may still count to 16 (R386) -/
  slips     : List (Fin 64 × Word)
  /-- lane groups: 1, 2, 4 or 8 (R274) -/
  groups    : Nat
  reclaim   : Reclaim
  /-- the context whose data the lanes and local memories hold (R335) -/
  lastCtx   : Tenant
  /-- CYCLE when the present kernel started, and the one on reclaimed lanes (R303, R306) -/
  startedAt : Word
  upperAt   : Word
  transfers : List Transfer
  tlb       : List TlbEntry
  tcase     : List CaseEntry
deriving DecidableEq, Repr

/-- A field (R13, R395, R401). -/
structure Field where
  /-- powered, locked and trained (R396) -/
  up       : Bool
  fenced   : Bool
  cycle    : Word
  islim    : BitVec 16
  iscur    : BitVec 16
  /-- the limit the power manager throttles against (R402) -/
  limit    : BitVec 16
  throttled : Bool
  /-- enabled quad sites (R14) -/
  sites    : BitVec 16
  /-- sites that a spare has replaced (R388) -/
  broken   : BitVec 16
  ptrs     : List PtrEntry
deriving DecidableEq, Repr

/-- An HBM stack's sensor state (R391). -/
structure Stack where
  celsius : Byte
  doubled : Bool
  halved  : Bool
deriving DecidableEq, Repr

/-- A compute die's hottest sensor, and whether its fields are throttled at 75 % of ISLIM (R403). -/
structure Die where
  celsius : Byte
  hot     : Bool
deriving DecidableEq, Repr

/-- A link port: 0 to 17 Sahair, 18 Evsen, 19 and 20 the die-to-die directions (R404). -/
structure Port where
  spares : Nat
  /-- remapped onto its spare lanes (R390) -/
  remapped : Bool
  /-- good lanes beside the spares; the width is that number rounded down to a power of two (R390) -/
  lanes  : Nat
  down   : Bool
  /-- retries that succeeded (R378) -/
  retries : Nat
deriving DecidableEq, Repr

/-- The points a store passes on its way home (R218); `held` and `closing` are the strip store buffer of its thread, and `queue` is that
part of the release queue where an element of vstxo waits until the elements before it have been performed (R223). -/
inductive Point where
  | held | closing | queue | hart | quad | field | pkg
deriving DecidableEq, Repr, Inhabited

/-- The tag change that travels with a write (R171, R172). -/
inductive TagWrite where
  | set (t : BitVec 16)
  /-- format raw, dense, row-major; poison and user class kept -/
  | raw
  /-- format SCALE, dense, row-major; poison and user class kept -/
  | scale
deriving DecidableEq, Repr, Inhabited

/-- One byte of a store: its home key, its value and the bits it writes (R206). -/
structure SByte where
  key  : Nat
  val  : Byte
  mask : Byte
deriving DecidableEq, Repr

/-- Where a store comes from, for the debugger's reports: the address of the convoy or instruction and its member, and the element (R393). -/
structure Origin where
  site : Option (Word × Nat)
  elem : Option Nat
deriving DecidableEq, Repr

/-- A store not yet performed at its home (R198, R218). -/
structure StoreEntry where
  tid    : Tid
  /-- the context it was made in (R333) -/
  ctx    : CtxId
  point  : Point
  /-- made by a vector access, for the fences of R225 -/
  vector : Bool
  /-- made by an engine for the thread: no access of the thread (R225, R237) -/
  engine : Bool
  bytes  : List SByte
  /-- frame key and tag change -/
  tags   : List (Nat × TagWrite)
  /-- the vstxo whose elements keep their order at every scope (R207, R223); 0 for none -/
  chain  : Nat
  /-- the vector store it is an element of, which is one access of R379; 0 for an entry that is an access by itself -/
  whole  : Nat
  origin : Origin
deriving DecidableEq, Repr

/-- What a vector store has written so far of a bad unit (R379). -/
structure Cover where
  unit  : Nat
  whole : Nat
  keys  : List Nat
deriving DecidableEq, Repr

/-- The 64 bytes of a launch record, as eight words (R294). -/
abbrev RecordImage := Vector Word 8

/-- A launch whose record has passed the checks of R296. -/
structure Launch where
  id      : Nat
  ctx     : CtxId
  queue   : Fin 8
  rcd     : Word
  image   : RecordImage
  entry   : Word
  method  : Word
  scores  : Vector Nat 8
  placed  : Nat
  counted : Nat
  /-- CYCLE when its dependence was met, and the aging steps since (R302) -/
  since   : Word
  aged    : Nat
deriving DecidableEq, Repr

/-- The stage of a queue's head record (R296). -/
inductive QStage where
  | idle
  /-- first-stage checks passed; waits for its dependence -/
  | taken (rcd : Word) (image : RecordImage)
  /-- this launch's harts are being placed -/
  | ready (launch : Nat)
deriving DecidableEq, Repr

structure Queue where
  /-- the header was readable and well formed when last read (R293) -/
  served : Bool
  stage  : QStage
deriving DecidableEq, Repr

/-- A hart whose context the runtime has saved (R302, R376). -/
structure SavedHart where
  /-- its own name, the model's -/
  id      : Nat
  launch  : Nat
  ctx     : CtxId
  hart    : Hart
  threads : Vector Thread 8
  /-- the hart's scalar data memory and scratchpad: offset in the local window and byte -/
  window  : List (Nat × Byte)
  /-- the nest frame of each thread that stood in a trap, which the runtime keeps with it (R366, R376) -/
  frames  : List (Tid × List Byte)
  since   : Word
  aged    : Nat
deriving DecidableEq, Repr

/-- An event that waits for a record in the error ring (R392). -/
structure Report where
  cycle : Word
  kind  : Byte
  field : FieldId
  loc   : BitVec 16
  count : BitVec 32
  pa    : Word
  ctx   : BitVec 16
deriving DecidableEq, Repr

/-- Events of one kind at one location since its last record (R392). -/
structure ErrCount where
  kind  : Byte
  field : FieldId
  loc   : BitVec 16
  seen  : Nat
  since : Nat
deriving DecidableEq, Repr

/-- What leaves the device over a link: an answer to the host or a peer, or an access to a device-class page. -/
inductive LinkMsg where
  | answer (bytes : List Byte)
  | attestation (report : List Byte)
  | deviceRead (t : Tid) (key len : Nat)
  | deviceWrite (t : Tid) (key : Nat) (bytes : List Byte)
  | dropped (dev : BitVec 18)
deriving DecidableEq, Repr

/-- A watch of the debugger: `count` bytes from an address of a context, as a thread of a hart names them in its local window; and the lines that
hold them, as addresses and as home keys, resolved before each turn (R393). -/
structure Watch where
  ctx   : CtxId
  tid   : Tid
  addr  : Word
  count : Nat
  lines : List (Word × Nat)
deriving DecidableEq, Repr

/-- A page that the debugger has made not present, of so many bytes: the home of its leaf and what it held, and the thread that has met it
(R394). -/
structure AbsentPage where
  ctx  : CtxId
  page : Word
  size : Nat
  home : Nat
  leaf : Word
  met  : Option Tid
deriving DecidableEq, Repr

/-- What the debugger reports. -/
inductive DebugMsg where
  /-- a thread stops at an address; the member at which a breakpoint stands (R312, R316) -/
  | stopped (t : Tid) (addr : Word) (member : Nat)
  /-- a thread stops at the entry of the first trap on an absent page: cause, convoy, member (R394) -/
  | trapped (t : Tid) (cause : BitVec 8) (addr : Word) (member : Nat)
  /-- a request that a home performs to a watched line: the watch, the line, whether it writes, its thread, convoy and member, and the elements it
  serves (R393) -/
  | request (watch : Nat) (line : Word) (writes : Bool) (by_ : Option (Tid × Word × Nat)) (elems : List Nat)
  /-- the eret that follows a stop at an absent page, and where it leads (R394) -/
  | eret (t : Tid) (addr : Word)
deriving DecidableEq, Repr

/-- Bring-up (R396, R397, R404). -/
structure Boot where
  powered  : Bool
  /-- the catastrophic stop of R391 -/
  stopped  : Bool
  /-- last step completed, 0 to 9 -/
  step     : Nat
  /-- step that failed, 0 if none -/
  failed   : Nat
  /-- next field of steps 4 and 6, next crossing of step 7, and retries of that crossing -/
  position : Nat
  retries  : Nat
  /-- stitch crossings that have trained (R396) -/
  crossed  : List (Fin 6)
  /-- waits for a new firmware image (R336) -/
  awaiting : Bool
  /-- the device runtime has been started (R398); step 9 completes when the first launch is accepted -/
  started  : Bool
deriving DecidableEq, Repr

/-- What happens in one step of the package. -/
inductive Turn where
  | thread (t : Tid)
  | event (i : Instr)
  /-- the hart of t caches the leaf that maps va for t (R329) -/
  | fillTlb (t : Tid) (va : Word)
  /-- the walker of t's field caches the pointer entry of this level on va's path (R330) -/
  | fillPtr (t : Tid) (va : Word) (level : Nat)
  /-- the hart of t caches 16 bytes of its type case (R188) -/
  | fillCase (t : Tid) (addr : Word)
  /-- the device caches a routing-table entry (R407) -/
  | fillRoute (dev : BitVec 18)
  /-- the hart lets go of its oldest 16 bytes of a type case (R188) -/
  | dropCase (h : HartId)
  /-- a read of thread t is performed ahead of its load: of a scalar load, or of element i of a vector load (R206, R221; assumption 49) -/
  | readAhead (t : Tid) (vec : Bool) (i : Nat) (va : Word) (len : Nat)
  /-- an uncorrectable error arises in the unit that holds a byte (R378, R379) -/
  | decay (key : Nat)
  /-- a peer drops the request that t's next data access to remote memory makes, or its next fetch there, or the store that stands at this place on
  its way (R407) -/
  | peerDrops (t : Tid) (fetch : Bool)
  | peerDropsStore (n : Nat)
  /-- the debugger sets a breakpoint of a context at an address, or takes it away (R312) -/
  | breakpoint (c : CtxId) (addr : Word)
  /-- the debugger watches bytes of a context (R393), or makes a page of a context not present (R394) -/
  | watch (c : CtxId) (t : Tid) (addr : Word) (count : Nat)
  | watchAbsent (c : CtxId) (addr : Word)
  /-- a byte of host or remote memory changes by its owner's own act -/
  | outside (key : Nat) (b : Byte)
deriving DecidableEq, Repr

/-- A turn and the lane-clock cycles that pass with it. -/
structure Slot where
  turn   : Turn
  cycles : Nat
deriving DecidableEq, Repr

/-- The package. -/
structure State where
  threads   : Vector Thread 4096
  harts     : Vector Hart 512
  fields    : Vector Field 8
  dies      : Vector Die 2
  hbm       : Vector Stack 16
  ports     : Vector Port 21
  boot      : Boot
  /-- DEVID (R23) -/
  devid     : BitVec 18
  m0        : Digest
  m1        : Digest
  /-- memory by home key, one canonical form (assumption 1) -/
  mem       : List Host.Cell
  /-- nonzero tags by frame key (R170) -/
  tags      : List (Nat × BitVec 16)
  /-- first keys of bad units (R379) -/
  bad       : List Nat
  /-- bad units that a vector store has written in part (R379) -/
  covers    : List Cover
  /-- regions that are not live, as the slices' maps hold them (R334, R385) -/
  dead      : List Nat
  /-- elided-read counters of the slices (R385) -/
  elided    : Vector Nat 128
  /-- retired channels: stack and channel (R384) -/
  retired   : List (Fin 16 × Fin 32)
  /-- HBM rows repaired: stack, channel, bank, row; lost at power-off, and permanent (R388) -/
  softRows  : List (Nat × Nat × Nat × Nat)
  hardRows  : List (Nat × Nat × Nat × Nat)
  /-- spare vias in use: stack, channel (R388) -/
  vias      : List (Nat × Nat)
  /-- stores on their way home, oldest first within each point -/
  stores    : List StoreEntry
  /-- cached routing-table entries: device and port (R407) -/
  routes    : List (Nat × Byte)
  queues    : Vector Queue 512
  launches  : List Launch
  saved     : List SavedHart
  /-- the context served last at each effective priority (R302) -/
  lastServed : Vector (Option CtxId) 8
  /-- descriptor states as the device last took them (R323) -/
  known     : Vector (BitVec 2) 64
  /-- contexts with a double fault reported (R365) -/
  doubleFaults : List CtxId
  reports   : List Report
  errCounts : List ErrCount
  /-- management commands served since bring-up (R404) -/
  commands  : Nat
  linkOut   : List LinkMsg
  /-- the debugger's breakpoints, its watches, the pages it has made absent, the threads whose eret it will report, and its reports (R312, R316,
  R393, R394) -/
  breaks    : List (CtxId × Word)
  watches   : List Watch
  absent    : List AbsentPage
  awaitEret : List Tid
  debugLog  : List DebugMsg
  /-- candidates for a freed hart that have been passed over, in the order they were: a saved hart by its name, or a launch by its own (R302) -/
  owed      : List (Bool × Nat)
  /-- the thread whose turn it is -/
  cur       : Tid
  schedule  : List Slot
  /-- the model's counters: free values used, and launches named -/
  fresh     : Nat
  nextLaunch : Nat
deriving DecidableEq, Repr

/-- Why the machine stops. -/
inductive Fault where
  /-- Raised by a step of a package without power or stopped at its catastrophic temperature (R388, R391): no clock runs until a host
  reset, so nothing executes. Safe: the machine stops where the hardware has stopped. -/
  | packageOff
deriving DecidableEq, Repr

/-- Why an instruction has no meaning. -/
inductive Refusal where
  /-- Raised by exec for an instruction the model gives no meaning yet. Safe: nothing can be proved of its effect. -/
  | notModelled (mnemonic : String)
deriving DecidableEq, Repr

/-- A watch line that is no line, so that nothing is watched (R288; assumption 32). -/
def noLine : Nat := 1

/-- A nest of depth 0 (R275). -/
def Nest.zero : Nest := ⟨0, 0, Vector.replicate 4 0, false, false⟩

/-- All registers zero, in user mode. -/
def Arch.zero : Arch where
  pc := 0
  x := Vector.replicate 32 0
  lpc := Vector.replicate 4 0
  lcnt := Vector.replicate 4 0
  cf := false
  mode := .user
  vl := 0
  vtype := 0
  vlmax := 0
  ml := 0
  ffst := 0
  nests := Vector.replicate 8 Nest.zero
  v := Vector.replicate 32 0
  acc := []
  prog := Vector.replicate 32 4
  convoy := none
  runs := []

/-- A thread that has not started. -/
def Thread.zero : Thread where
  arch := Arch.zero
  status := .off
  ctx := 0
  fflags := 0
  instret := 0
  tcause := 0
  tepc := 0
  tval := 0
  tstatus := 0
  tvec := 0
  tscratch := 0
  tcbase := 0
  htbase := 0
  farm := 0
  pgroot := 0
  ydead := 0
  ystat := 0
  rfloss := Vector.replicate 16 0
  watchLine := noLine
  change := false
  wakeOnce := false
  lanes := none
  ckpt := none
  due := none
  heldFrom := none
  closingFrom := none
  history := []
  closingHistory := []
  restarts := 0
  pending := []
  preemptDue := false
  debugStop := none
  debugAsk := .no
  debugPass := .no
  deadFrom := 0
  lost := none
  ahead := []
  launch := none

/-- A hart at full health that runs nothing (R13). -/
def Hart.zero : Hart where
  rows := Vector.replicate 16 4
  spares := 2
  failed := []
  goneRows := []
  slips := []
  groups := 1
  reclaim := .none
  lastCtx := .nobody
  startedAt := 0
  upperAt := 0
  transfers := []
  tlb := []
  tcase := []

/-- The enabled quad map of a field: the part's two spare sites are 0 (R14). -/
def enabledSites (f : FieldId) : BitVec 16 :=
  let a := (Config.spareSites f).1.val
  let b := (a + 1 + (Config.spareSites f).2.val) % 16
  ~~~(BitVec.ofNat 16 (2 ^ a) ||| BitVec.ofNat 16 (2 ^ b))

/-- A field without power; ISLIM at its reset value (R401). -/
def Field.zero (f : FieldId) : Field where
  up := false
  fenced := false
  cycle := 0
  islim := 0x0B40
  iscur := 0
  limit := 0x0B40
  throttled := false
  sites := enabledSites f
  broken := 0
  ptrs := []

/-- Link ports at full width with their spares (R388, R406, R407): 8 lanes and 1 spare, 32 and 2, and the die-to-die directions with 4
spares; the lane count of the die-to-die interface is not given and is counted as 1 (assumption 25). -/
def Port.initial (n : Nat) : Port :=
  if n < 18 then ⟨1, false, 8, false, 0⟩ else if n = 18 then ⟨2, false, 32, false, 0⟩ else ⟨4, false, 1, false, 0⟩

/-- The package right after reset: powered, before the first bring-up step (R396). No hart runs and nothing is in memory. -/
def State.reset : State where
  threads := Vector.replicate 4096 Thread.zero
  harts := Vector.replicate 512 Hart.zero
  fields := ⟨#[Field.zero 0, Field.zero 1, Field.zero 2, Field.zero 3, Field.zero 4, Field.zero 5, Field.zero 6, Field.zero 7], rfl⟩
  dies := Vector.replicate 2 ⟨0, false⟩
  hbm := Vector.replicate 16 ⟨0, false, false⟩
  ports := (((Vector.replicate 21 (Port.initial 0)).set 18 (Port.initial 18)).set 19 (Port.initial 19)).set 20 (Port.initial 20)
  boot := ⟨true, false, 0, 0, 0, 0, [], false, false⟩
  devid := 0
  m0 := 0
  m1 := 0
  mem := []
  tags := []
  bad := []
  covers := []
  dead := []
  elided := Vector.replicate 128 0
  retired := []
  softRows := []
  hardRows := []
  vias := []
  stores := []
  routes := []
  queues := Vector.replicate 512 ⟨false, .idle⟩
  launches := []
  saved := []
  lastServed := Vector.replicate 8 none
  known := Vector.replicate 64 0
  doubleFaults := []
  reports := []
  errCounts := []
  commands := 0
  linkOut := []
  breaks := []
  watches := []
  absent := []
  awaitEret := []
  debugLog := []
  owed := []
  cur := 0
  schedule := []
  fresh := 0
  nextLaunch := 0

end Sys2Proof.Machine
end

