-- ==== Sys2Proof/Machine/Memory.lean ====
section
/-! DEFINITION. Memory as sparse data in one canonical form, the keys of the homes (spec/09_memory_access.md R189), and the path of a store
from its strip to its home (spec/10_ordering_rules.md R217 to R219, spec/22_errors_spares.md R379, R385). -/

namespace Sys2Proof.Machine

/-! ## Sparse maps -/

/-- The value at a key; an unlisted key reads as `d`. -/
def Sparse.get {α : Type} (d : α) : List (Nat × α) → Nat → α
  | [], _ => d
  | (a, v) :: t, k => if k = a then v else if k < a then d else Sparse.get d t k

/-- Write a key, keeping the canonical form: writing the unlisted value removes the entry. -/
def Sparse.set {α : Type} [DecidableEq α] (d : α) : List (Nat × α) → Nat → α → List (Nat × α)
  | [], k, v => if v = d then [] else [(k, v)]
  | (a, w) :: t, k, v =>
    if k = a then (if v = d then t else (k, v) :: t)
    else if k < a then (if v = d then (a, w) :: t else (k, v) :: (a, w) :: t)
    else (a, w) :: Sparse.set d t k v

/-- The canonical form: keys strictly rising, no entry equal to the unlisted value. -/
def Sparse.wf {α : Type} [DecidableEq α] (d : α) : List (Nat × α) → Bool
  | [] => true
  | [(_, v)] => decide (v ≠ d)
  | (a, v) :: (b, w) :: t => decide (v ≠ d) && decide (a < b) && Sparse.wf d ((b, w) :: t)

/-- Drop every key from `lo` up to but not including `hi`. -/
def Sparse.clear {α : Type} (lo hi : Nat) (m : List (Nat × α)) : List (Nat × α) :=
  m.filter fun p => p.1 < lo || hi ≤ p.1

/-- What an unlisted byte of memory reads as (assumption 1). -/
def unlistedByte : Byte := 0

abbrev Memory := List Host.Cell

def Memory.read (m : Memory) (k : Nat) : Byte := Sparse.get unlistedByte m k
def Memory.write (m : Memory) (k : Nat) (b : Byte) : Memory := Sparse.set unlistedByte m k b
def Memory.wf (m : Memory) : Bool := Sparse.wf unlistedByte m

/-- Map a vector entry by entry. -/
def vmap {α : Type} {n : Nat} (f : α → α) (v : Vector α n) : Vector α n := ⟨⟨v.toArray.toList.map f⟩, by simp⟩

/-! ## Homes -/

/-- Home keys: HBM at its physical address, then each hart's local window by offset, host memory, remote memory by device and address. -/
def localKey (h : HartId) (off : Nat) : Nat := 2 ^ 40 + h.val * 2 ^ 24 + off
def hostKey (a : Nat) : Nat := 2 ^ 60 + a
def remoteKey (dev pa : Nat) : Nat := 2 ^ 61 + dev * 2 ^ 40 + pa

def isHbm (k : Nat) : Bool := decide (k < 2 ^ 40)
def isLocal (k : Nat) : Bool := decide (2 ^ 40 ≤ k) && decide (k < 2 ^ 60)
def isHost (k : Nat) : Bool := decide (2 ^ 60 ≤ k) && decide (k < 2 ^ 61)
def isRemote (k : Nat) : Bool := decide (2 ^ 61 ≤ k)

/-- Frames of HBM and of remote devices carry tags; the local window and host memory do not (R170). -/
def isTagged (k : Nat) : Bool := isHbm k || isRemote k
/-- The frame of a key (R168). -/
def frameOf (k : Nat) : Nat := k / 4096 * 4096
/-- The 64-byte line of a key (R191). -/
def lineOf (k : Nat) : Nat := k / 64 * 64
/-- The 2 MiB region of an HBM key (R321). -/
def regionOf (k : Nat) : Nat := k / 2 ^ 21

/-- Bytes of one HBM stack (R320). -/
def stackBytes : Nat := 0xC_0000_0000
def stackOf (pa : Nat) : Nat := pa / stackBytes
/-- The slice that owns a physical address, 0 to 127 (R320). -/
def sliceOf (pa : Nat) : Fin 128 := ⟨(stackOf pa * 8 + pa / 4096 % 8) % 128, Nat.mod_lt _ (by decide)⟩
/-- The channel of its stack that serves a frame: each slice serves four (R32, R190; assumption 15). -/
def channelOf (frame : Nat) : Fin 32 := ⟨(sliceOf frame).val % 8 * 4 + (Config.channelInSlice frame).val, by omega⟩
/-- A byte of a tag region (R320). -/
def inTagRegion (pa : Nat) : Bool := decide (0xB_FE80_0000 ≤ pa % stackBytes)
/-- Physical addresses from 0xC0_0000_0000 name no memory (R320). -/
def namesHbm (pa : Nat) : Bool := decide (pa < 16 * stackBytes)

/-- The liveness table and the routing word in the runtime area (R321, R404). -/
def livenessBase : Nat := 0x4000
def livenessEnd : Nat := 0x10000
def managementBase : Nat := 0x10000
def routingWord : Nat := managementBase + 0x20
/-- Bytes of the management block that R404 does not list: reserved, and 0. -/
def reservedByte (k : Nat) : Bool :=
  decide (managementBase ≤ k) && decide (k < managementBase + 0x1_0000) &&
    (let o := k - managementBase; (decide (0x1C ≤ o) && decide (o < 0x20)) || decide (0x30 ≤ o))
/-- A context's descriptor (R321, R322). -/
def descriptorOf (c : CtxId) : Nat := c.val * 256

/-- Regions that are live whatever the table says: the one that holds the runtime area, whole, and the tag regions (R334; assumption 70). -/
def alwaysLive (r : Nat) : Bool := decide (r = 0) || inTagRegion (r * 2 ^ 21)

/-- The bad unit that holds a key: a 32-bit word of local memory, a 64-byte line elsewhere (R379). -/
def unitOf (k : Nat) : Nat := if isLocal k then k / 4 * 4 else lineOf k
def unitLen (k : Nat) : Nat := if isLocal k then 4 else 64

/-- Bits of a byte replaced under a mask (R206). -/
def mergeByte (old : Byte) (b : SByte) : Byte := (old &&& ~~~b.mask) ||| (b.val &&& b.mask)

/-- A tag after a write (R171). -/
def applyTag (old : BitVec 16) : TagWrite → BitVec 16
  | .set t => t
  | .raw => old &&& 0x001F
  | .scale => 0x6000 ||| (old &&& 0x001F)

/-- A byte of a region that is not live (R334). -/
def State.isDead (s : State) (k : Nat) : Bool := isHbm k && s.dead.contains (regionOf k)

/-- A byte that a retired channel serves (R384). -/
def State.isRetired (s : State) (k : Nat) : Bool :=
  isHbm k && s.retired.any fun p => p.1.val == stackOf k && p.2 == channelOf (frameOf k)

/-- A byte of a bad unit; a region that is not live signals no error (R379, R385). -/
def State.isBad (s : State) (k : Nat) : Bool := !s.bad.isEmpty && s.bad.contains (unitOf k) && !s.isDead k

/-- Where the tag region of its stack holds a frame's tag (R170, R320; assumption 67). -/
def tagKey (frame : Nat) : Nat := stackOf frame * stackBytes + 0xB_FE80_0000 + frame % stackBytes / 4096 * 2

/-- The line that holds a frame's tag is bad, so that a read of the tag meets an uncorrectable error (R378, R379; assumption 67). -/
def State.tagBad (s : State) (frame : Nat) : Bool := !s.bad.isEmpty && isHbm frame && !s.isDead frame && s.isBad (tagKey frame)

/-- The stored tag of a frame: poison in a retired channel (R384); 0 in a region that is not live (R385). -/
def State.tagAt (s : State) (frame : Nat) : BitVec 16 :=
  if s.isDead frame then 0
  else
    let t := Sparse.get 0 s.tags frame
    if s.isRetired frame then t ||| 0x0010 else t

/-- A byte as its home holds it; a region that is not live reads as zero (R385). -/
def State.homeByte (s : State) (k : Nat) : Byte := if s.isDead k then 0 else Memory.read s.mem k

/-- Eight bytes at a home, little-endian. -/
def State.homeWord (s : State) (k : Nat) : Word :=
  (List.range 8).foldr (fun j acc => (acc <<< 8) ||| (s.homeByte (k + j)).setWidth 64) 0

/-- A byte whose read meets an uncorrectable error (R379, R384). -/
def State.unreadable (s : State) (k : Nat) : Bool := s.isBad k || s.isRetired k

/-- A line of a context's descriptor cannot be read (R379, R384). -/
def State.descLost (s : State) (c : CtxId) : Bool := (List.range 4).any fun j => s.unreadable (descriptorOf c + 64 * j)

/-- A descriptor's state (R322); one with a reserved bit set, or that cannot be read, is treated as free. -/
def State.descState (s : State) (c : CtxId) : BitVec 2 :=
  let w := s.homeWord (descriptorOf c)
  let rest := (List.range 11).any fun k => s.homeWord (descriptorOf c + 168 + 8 * k) != 0
  if w.extractLsb' 2 62 ≠ 0#62 ∨ rest ∨ s.descLost c then 0 else w.extractLsb' 0 2

/-! ## Ports and reports -/

/-- The home of the first unreadable unit among those that routing to a remote device reads: the routing word, then the table's entry (R379, R384,
R407). A cached entry is not read. -/
def State.routeBad (s : State) (dev : Nat) : Option Nat :=
  if (s.routes.find? fun r => r.1 == dev).isSome then none
  else if s.unreadable routingWord then some routingWord
  else
    let table := (s.homeWord routingWord).toNat
    if table ≠ 0 ∧ s.unreadable (table + dev) then some (table + dev) else none

/-- The port of a remote device under the routing table; none when unreachable (R407). -/
def State.portOf (s : State) (dev : Nat) : Option (Fin 21) :=
  let table := (s.homeWord routingWord).toNat
  let b :=
    match s.routes.find? fun r => r.1 == dev with
    | some r => r.2
    | none => if table = 0 ∨ (s.routeBad dev).isSome then 0xFF else s.homeByte (table + dev)
  if h : b.toNat < 18 then some ⟨b.toNat, by omega⟩ else none

/-- The port that a key's home lies beyond: the Evsen link for host memory, a Sahair port for another device's. -/
def State.portOfKey (s : State) (k : Nat) : Option (Fin 21) :=
  if isHost k then some 18 else if isRemote k then s.portOf ((k - 2 ^ 61) / 2 ^ 40) else none

def State.fld (s : State) (f : FieldId) : Field := s.fields[f.val]

/-- The field whose stacks hold an HBM byte (R14, R320). -/
def fieldOfKey (k : Nat) : FieldId := ⟨stackOf k / 2 % 8, Nat.mod_lt _ (by decide)⟩

/-- A store to this key is discarded: its port is down, or no port leads there; its field has been lost; its channel is retired (R381, R384,
R397, R407). -/
def State.keyDown (s : State) (k : Nat) : Bool :=
  if isHbm k then (s.fld (fieldOfKey k)).fenced || s.isRetired k
  else if k < 2 ^ 60 then false
  else
    match s.portOfKey k with
    | some p => s.ports[p.val].down
    | none => true

/-- An event for the error ring (R392). -/
def State.report (s : State) (kind : Byte) (field : FieldId) (loc : BitVec 16) (pa : Word) (ctx : BitVec 16) : State :=
  { s with reports := s.reports ++ [⟨(s.fld field).cycle, kind, field, loc, 1, pa, ctx⟩] }

/-- The field of an event at a port: the Evsen link lies in F0 (R397). -/
def portField (p : Nat) : FieldId := if p = 18 then 0 else Config.portField p

/-- An event at a port (R392). -/
def State.reportPort (s : State) (p : Nat) (ctx : BitVec 16) : State := s.report 9 (portField p) (BitVec.ofNat 16 p) 0 ctx

/-- Places of error records (assumption 23): a lane row; a channel with a bank, where one is known; the channel and bank of an HBM byte; a hop. -/
def rowLoc (h : HartId) (row : Fin 64) : BitVec 16 := Config.errorLoc (h.val * 64 + row.val)
def channelLoc (stack channel : Nat) (bank : Option Nat) : BitVec 16 :=
  Config.errorLoc (0x10_0000 + (stack * 32 + channel) * 0x1000 + match bank with | some b => b % 0xFFF + 1 | none => 0)
def dataLoc (k : Nat) : BitVec 16 := Config.errorLoc (0x100_0000 + lineOf k)
def hopLoc (hop : Nat) : BitVec 16 := Config.errorLoc (0x2_0000 + hop)

/-- A write discarded, for a context or 0xFFFF for none: at a port that is down, in a channel that is retired, or on the way to a field that is
lost, which for the other die's is the die-to-die port (R381, R384, R392). -/
def State.reportLoss (s : State) (c : BitVec 16) (k : Nat) : State :=
  if isHbm k then
    if s.isRetired k then s.report 8 (fieldOfKey k) (channelLoc (stackOf k) (channelOf (frameOf k)).val none) (BitVec.ofNat 64 k) c
    else s.reportPort (if 4 ≤ (fieldOfKey k).val then 19 else 20) c
  else s.reportPort (match s.portOfKey k with | some p => p.val | none => 0xFF) c

/-- A store discarded for a context. -/
def State.reportLost (s : State) (ctx : CtxId) (k : Nat) : State := s.reportLoss (BitVec.ofNat 16 ctx.val) k

/-- An event of a kind that is counted by location: the first at its place, and each 1,024th after it, is recorded (R392). -/
def ErrCount.isOf (e : ErrCount) (kind : Byte) (field : FieldId) (loc : BitVec 16) : Bool := e.kind == kind && e.field == field && e.loc == loc

def State.countEvent (s : State) (kind : Byte) (field : FieldId) (loc : BitVec 16) (pa : Word) (ctx : BitVec 16) : State :=
  let old := (s.errCounts.find? fun x => x.isOf kind field loc).getD ⟨kind, field, loc, 0, 0⟩
  let rest := s.errCounts.filter fun x => !x.isOf kind field loc
  if old.seen % 1024 = 0 then
    { s with
      errCounts := rest ++ [{ old with seen := old.seen + 1, since := 0 }]
      reports := s.reports ++ [⟨(s.fld field).cycle, kind, field, loc, BitVec.ofNat 32 (old.since + 1), pa, ctx⟩] }
  else { s with errCounts := rest ++ [{ old with seen := old.seen + 1, since := old.since + 1 }] }

/-- A frame whose data are found bad is poisoned, and recorded (R171, R378, R392). -/
def State.poison (s : State) (k : Nat) : State :=
  if isHbm k then
    { s with tags := Sparse.set 0 s.tags (frameOf k) (Sparse.get 0 s.tags (frameOf k) ||| 0x0010) }.report 3 (fieldOfKey k) (dataLoc k)
      (BitVec.ofNat 64 k) 0xFFFF
  else s

/-- The errors that an access to these bytes finds: each frame with a bad unit is poisoned (R171, R378). -/
def State.findErrors (s : State) (keys : List Nat) : State :=
  ((((keys.filter s.isBad).map unitOf).dedup)).foldl State.poison s

/-! ## Performing a write at its home -/

/-- A write to a watched line sets the change bit of each thread that watches it (R288). -/
def State.noticeThreads (s : State) (watched : Nat → Bool) : State :=
  { s with threads := vmap (fun t => if watched t.watchLine then { t with change := true } else t) s.threads }

def State.noticeWrite (s : State) (lines : List Nat) : State := if lines.isEmpty then s else s.noticeThreads lines.contains

/-- A write of every byte from lo up to but not including hi (R288). -/
def State.noticeRange (s : State) (lo hi : Nat) : State := s.noticeThreads fun l => decide (lo ≤ l) && decide (l < hi) && l % 64 == 0

/-- Revive a region: zero-fill it, so that its units and those of its tags are good again, clear its tags, mark it live in the map and in the table
(R288, R379, R385). -/
def State.revive (s : State) (r : Nat) : State :=
  let k := livenessBase + r / 8
  let tags := tagKey (r * 2 ^ 21)
  let outside (x : Nat) : Bool :=
    (decide (x < r * 2 ^ 21) || decide ((r + 1) * 2 ^ 21 ≤ x)) && (decide (x < tags) || decide (tags + 1024 ≤ x))
  State.noticeWrite (State.noticeRange { s with
    mem := Memory.write (Sparse.clear (r * 2 ^ 21) ((r + 1) * 2 ^ 21) s.mem) k
      (Memory.read s.mem k ||| BitVec.ofNat 8 (2 ^ (r % 8)))
    tags := Sparse.clear (r * 2 ^ 21) ((r + 1) * 2 ^ 21) s.tags
    bad := s.bad.filter outside
    covers := s.covers.filter fun c => outside c.unit
    dead := s.dead.filter (· ≠ r) } (r * 2 ^ 21) ((r + 1) * 2 ^ 21)) [lineOf k]

/-- The slices' maps after a byte of the liveness table has been written (R334, R385). -/
def deadAfter (dead : List Nat) (k : Nat) (b : Byte) : List Nat :=
  (List.range 8).foldl (fun d j =>
    let r := (k - livenessBase) * 8 + j
    let rest := d.filter (· ≠ r)
    if b.getLsbD j || alwaysLive r then rest else r :: rest) dead

/-- The first write to a region that is not live revives it (R385). -/
def State.reviveAt (s : State) (k : Nat) : State := if s.isDead k then s.revive (regionOf k) else s

/-- One byte performed at its home; a reserved byte of the management block stays 0 (R404). -/
def State.performByte (s : State) (b : SByte) : State :=
  let s := s.reviveAt b.key
  let v := if reservedByte b.key then 0 else mergeByte (Memory.read s.mem b.key) b
  { s with
    mem := Memory.write s.mem b.key v
    dead := if livenessBase ≤ b.key ∧ b.key < livenessEnd then deadAfter s.dead b.key v else s.dead
    routes := if routingWord ≤ b.key ∧ b.key < routingWord + 8 then [] else s.routes }

/-- A tag change performed with its write, or as a write of its own (R172, R385). -/
def State.performTag (s : State) (p : Nat × TagWrite) : State :=
  if isTagged p.1 then
    let s := s.reviveAt p.1
    { s with tags := Sparse.set 0 s.tags p.1 (applyTag (Sparse.get 0 s.tags p.1) p.2) }
  else s

/-- A bad unit that one access writes whole becomes good (R379). -/
def healed (bytes : List SByte) (bad : List Nat) : List Nat :=
  bad.filter fun u => !(List.range (unitLen u)).all fun j => bytes.any fun b => b.key == u + j && b.mask == 0xFF#8

/-- A context whose descriptor a write has made other than resident is not resident until the device has taken it up again, and one that has been
free since then comes back from free (R323). -/
def State.noticeDescriptor (s : State) (k : Nat) : State :=
  if h : k / 256 < 64 then
    let c : CtxId := ⟨k / 256, h⟩
    let st := s.descState c
    if st = 1 then s else { s with known := s.known.set c.val (if s.known[c.val] = 0 then 0 else st) }
  else s

/-- One access performed at its home as one step: its bytes, its tags, the checks generated afresh, the descriptors, the watch lines. -/
def State.perform (s : State) (bytes : List SByte) (tags : List (Nat × TagWrite)) : State :=
  let s := bytes.foldl State.performByte s
  let s := tags.foldl State.performTag s
  let s := { s with bad := if s.bad.isEmpty then [] else healed bytes s.bad }
  let s := ((bytes.map SByte.key).filter fun k => decide (k < livenessBase)).foldl State.noticeDescriptor s
  s.noticeWrite (bytes.map fun b => lineOf b.key).dedup

/-! ## Places -/

def hartOf (t : Tid) : HartId := ⟨t.val / 8, by omega⟩
def threadOf (t : Tid) : Nat := t.val % 8
def tidOf (h : HartId) (n : Fin 8) : Tid := ⟨h.val * 8 + n.val, by omega⟩
def hartThreads (h : HartId) : List Tid := (List.range 8).map fun n => tidOf h ⟨n % 8, Nat.mod_lt _ (by decide)⟩
def quadOf (h : HartId) : QuadId := ⟨h.val / 4, by omega⟩
def fieldOf (h : HartId) : FieldId := ⟨h.val / 64, by omega⟩
def siteOf (h : HartId) : Nat := h.val / 4 % 16
def positionOf (h : HartId) : Nat := h.val % 4

/-! ## What the debugger's watches report (R393) -/

/-- A request that a home performs, on behalf of a thread's instruction where there is one: one report for each watched line among these bytes, with
the elements it serves, for as long as a launch of the watch's context runs. -/
def State.reportHits (s : State) (writes : Bool) (by_ : Option (Tid × Word × Nat)) (l : List (Option Nat × Nat)) : State :=
  if s.watches.isEmpty then s
  else
    { s with
      debugLog := s.debugLog ++ s.watches.zipIdx.flatMap fun w =>
        if s.launches.any fun x => x.ctx == w.1.ctx then
          w.1.lines.filterMap fun v =>
            if l.any fun p => lineOf p.2 == v.2 then
              some (.request w.2 v.1 writes by_ ((l.filter fun p => lineOf p.2 == v.2).filterMap Prod.fst))
            else none
        else [] }

/-! ## The path of a store (R218) -/

def Point.rank : Point → Nat
  | .held => 0
  | .closing => 1
  | .queue => 2
  | .hart => 2
  | .quad => 3
  | .field => 4
  | .pkg => 5

/-- The point at which a store is visible at a scope; at system scope it is performed at its home. -/
def scopeRank : Scope → Nat
  | .hart => 2
  | .quad => 3
  | .field => 4
  | .pkg => 5
  | .sys => 6

def pointOfRank (n : Nat) : Point :=
  match n with
  | 0 => .held | 1 => .closing | 2 => .hart | 3 => .quad | 4 => .field | _ => .pkg

/-- The agents of thread `t` read this store: it is its own, or it is visible at a scope that contains `t` (R217). -/
def StoreEntry.visibleTo (e : StoreEntry) (t : Tid) : Bool :=
  match e.point with
  | .held => e.tid == t
  | .closing => e.tid == t
  | .queue => e.tid == t
  | .hart => hartOf e.tid == hartOf t
  | .quad => quadOf (hartOf e.tid) == quadOf (hartOf t)
  | .field => fieldOf (hartOf e.tid) == fieldOf (hartOf t)
  | .pkg => true

def StoreEntry.touches (e : StoreEntry) (keys : List Nat) : Bool := e.bytes.any fun b => keys.contains b.key
def StoreEntry.keys (e : StoreEntry) : List Nat := e.bytes.map SByte.key
/-- Frames whose tags the entry changes, as keys. -/
def StoreEntry.frames (e : StoreEntry) : List Nat := e.tags.map Prod.fst

/-- What the stores that go hold: bytes, ordered instructions, and tag changes. -/
structure Gone where
  keys   : List Nat
  chains : List Nat
  tags   : List (Nat × TagWrite)

/-- A store must go with those that go after it: it has a byte of theirs, or another change of a tag that they change, or is an earlier element
of an ordered store among them (R172, R219, R223). Two equal changes of one tag commute. -/
def StoreEntry.mustGo (e : StoreEntry) (g : Gone) : Bool :=
  e.touches g.keys || (e.chain != 0 && g.chains.contains e.chain) ||
    e.tags.any fun p => g.tags.any fun q => q.1 == p.1 && q.2 != p.2

def Gone.add (g : Gone) (e : StoreEntry) : Gone :=
  ⟨e.keys ++ g.keys, if e.chain = 0 then g.chains else e.chain :: g.chains, e.tags ++ g.tags⟩

/-- What one store is ordered behind. -/
def goneFor (e : StoreEntry) : Gone := Gone.add ⟨[], [], []⟩ e

/-- What an access to these bytes is ordered behind. -/
def goneOf (keys : List Nat) : Gone := ⟨keys, [], ((keys.filter isTagged).map frameOf).dedup.map fun f => (f, .raw)⟩

/-- A write of several accesses as one store a byte: bytes travel together only within one single-copy-atomic access, and a tag change travels
with each byte of its frame (R172, R219). -/
def StoreEntry.bytewise (e : StoreEntry) : List StoreEntry :=
  e.bytes.map fun b => { e with bytes := [b], tags := e.tags.filter fun p => p.1 == frameOf b.key }

/-- The stores at one point that must go, from the newest back: the selected ones, and every earlier one that must go with them (R218, R219).
Answers what stays, what goes in order, and what has gone. -/
def goingAt (p : Point) (t : Tid) (sel : StoreEntry → Bool) (gone : Gone) (es : List StoreEntry) : List StoreEntry × List StoreEntry × Gone :=
  es.foldr (fun e acc =>
    if e.point == p && e.visibleTo t && (sel e || e.mustGo acc.2.2) then (acc.1, e :: acc.2.1, acc.2.2.add e)
    else (e :: acc.1, acc.2.1, acc.2.2)) ([], [], gone)

/-- Everything on `t`'s path below `rank` that must go, farthest first, and what stays. -/
def going (rank : Nat) (t : Tid) (sel : StoreEntry → Bool) (keys : List Nat) (es : List StoreEntry) :
    List StoreEntry × List StoreEntry :=
  let r := [Point.queue, Point.hart, Point.quad, Point.field, Point.pkg].foldl (fun acc p =>
    if p.rank < rank then
      let g := goingAt p t sel acc.2.2 acc.1
      (g.1, g.2.1 ++ acc.2.1, g.2.2)
    else acc) (es, ([] : List StoreEntry), goneOf keys)
  (r.1, r.2.1)

/-- The bytes of a bad unit that a vector store has written, with those of one more element. -/
def coverOf (covers : List Cover) (u whole : Nat) (bytes : List SByte) : List Nat :=
  ((bytes.filter fun b => unitOf b.key == u && b.mask == 0xFF#8).map SByte.key) ++
    ((covers.filter fun c => c.unit == u && c.whole == whole).flatMap Cover.keys)

/-- An element of a vector store is performed: a bad unit becomes good once the store has written its every byte (R379). -/
def State.coverBad (s : State) (e : StoreEntry) : State :=
  if s.bad.isEmpty || e.whole == 0 then s
  else
    let units := ((e.bytes.map fun b => unitOf b.key).dedup).filter s.bad.contains
    let full (u : Nat) : Bool := (List.range (unitLen u)).all fun j => (coverOf s.covers u e.whole e.bytes).contains (u + j)
    { s with
      bad := s.bad.filter fun u => !(units.contains u && full u)
      covers := (s.covers.filter fun c => s.bad.contains c.unit && !(units.contains c.unit && (c.whole == e.whole || full c.unit))) ++
        (units.filter fun u => !full u).map fun u => ⟨u, e.whole, coverOf s.covers u e.whole e.bytes⟩ }

/-- A store reaches its home, or is discarded where its port is down (R381). -/
def State.performEntry (s : State) (e : StoreEntry) : State :=
  let lost := (e.keys ++ e.frames).filter s.keyDown
  let note (s : State) (bytes : List SByte) : State :=
    s.reportHits true (e.origin.site.map fun p => (e.tid, p)) (bytes.map fun b => (e.origin.elem, b.key))
  match lost with
  | [] => note ((s.perform e.bytes e.tags).coverBad e) e.bytes
  | k :: _ =>
    let kept := e.bytes.filter fun b => !lost.contains b.key
    (note (s.perform kept (e.tags.filter fun p => !lost.contains p.1)) kept).reportLost e.ctx k

/-- The first point on the way from hart h that lies at or beyond the home of a key: the home slice is the package's point on the same die, and
a scratchpad or scalar memory lies inside the scopes of its hart (R218). -/
def homeRank (h : HartId) (k : Nat) : Nat :=
  if isHbm k then (if stackOf k / 8 = h.val / 256 then 5 else 6)
  else if isLocal k then
    let g := (k - 2 ^ 40) / 2 ^ 24
    if g = h.val then 3 else if g / 4 = h.val / 4 then 4 else if g / 64 = h.val / 64 then 5 else 6
  else 6

/-- A store that has passed the point of this rank has reached its home (R218). -/
def StoreEntry.homeBy (e : StoreEntry) (rank : Nat) : Bool := (e.keys ++ e.frames).all fun k => decide (homeRank (hartOf e.tid) k ≤ rank)

/-- Perform the selected stores of `t`'s path, and those that must go before them. -/
def State.drainHome (s : State) (t : Tid) (sel : StoreEntry → Bool) (keys : List Nat) : State :=
  let g := going 6 t sel keys s.stores
  if g.2.isEmpty then s else g.2.foldl State.performEntry { s with stores := g.1 }

/-- Perform the selected stores of every thread of a hart, with those that must go before them. -/
def State.drainHart (s : State) (h : HartId) (sel : StoreEntry → Bool) : State :=
  (hartThreads h).foldl (fun s t => s.drainHome t (fun e => e.tid == t && sel e) []) s

/-- Make the selected released stores of `t`'s path visible at a scope, or perform them; those whose home lies inside the scope are performed,
and so are elements that wait behind others of their vstxo (R223). -/
def State.drain (s : State) (t : Tid) (scope : Scope) (sel : StoreEntry → Bool) (keys : List Nat) : State :=
  let rank := scopeRank scope
  if rank = 6 then s.drainHome t sel keys
  else
    let s := s.drainHome t (fun e => e.point == .queue && sel e) []
    let g := going rank t sel keys s.stores
    if g.2.isEmpty then s
    else
      State.drainHome { s with stores := g.1 ++ g.2.map fun e => { e with point := pointOfRank rank } } t
        (fun e => e.point.rank == rank && e.homeBy rank) []

/-- Every earlier store of the thread of the kinds named, visible at the scope (R226). -/
def State.drainOwn (s : State) (t : Tid) (scope : Scope) (scalar vector : Bool) : State :=
  s.drain t scope (fun e => e.tid == t && !e.engine && ((scalar && !e.vector) || (vector && e.vector))) []

/-- Move every store still between `t`'s hart and the home of these bytes ahead (R232). -/
def State.drainAhead (s : State) (t : Tid) (keys : List Nat) : State := s.drain t .sys (fun _ => false) keys

/-- One store enters the release queue behind what has been released: it waits there while an element before it of its vstxo has not been
performed, or a store that it must not pass waits there (R219, R223). -/
def enqueue (l : List StoreEntry) (e : StoreEntry) : List StoreEntry :=
  let behind := l.any fun x =>
    (e.chain != 0 && x.chain == e.chain && x.point != .held && x.point != .closing) ||
      (x.tid == e.tid && x.point == .queue && x.mustGo (goneFor e))
  l ++ [{ e with point := if behind then .queue else .hart }]

/-- Held stores of t at these points enter the release queue, in order (R207, R257). -/
def State.releaseAt (s : State) (t : Tid) (at_ : Point → Bool) : State :=
  let mine := s.stores.filter fun e => e.tid == t && at_ e.point
  if mine.isEmpty then s
  else { s with stores := mine.foldl enqueue (s.stores.filter fun e => !(e.tid == t && at_ e.point)) }

/-- The strip's held stores enter the release queue (R257). -/
def State.release (s : State) (t : Tid) : State := s.releaseAt t fun p => p == .held || p == .closing

/-- Only the earlier strip's stores enter the release queue; those of the strip that follows stay held (R257). -/
def State.releaseClosing (s : State) (t : Tid) : State := s.releaseAt t fun p => p == .closing

/-- A strip restart drops the held stores (R199, R259). -/
def State.dropHeld (s : State) (t : Tid) : State :=
  { s with stores := s.stores.filter fun e => !(e.tid == t && (e.point == .held || e.point == .closing)) }

/-! ## What a thread reads -/

/-- The points from the home inward. -/
def inward : List Point := [.pkg, .field, .quad, .hart, .queue, .closing, .held]

/-- A byte as the home holds it, under the stores on their way that `sees` admits, farthest point first. -/
def State.byteSeen (s : State) (sees : StoreEntry → Bool) (k : Nat) : Byte :=
  if s.stores.isEmpty || reservedByte k then s.homeByte k
  else
    inward.foldl (fun v p =>
      s.stores.foldl (fun v e =>
        if e.point == p && sees e then e.bytes.foldl (fun v b => if b.key == k then mergeByte v b else v) v else v) v)
      (s.homeByte k)

/-- A byte as thread `t` reads it: the home's, then every store on its way that is visible to `t`, its own held ones last (R199, R217). -/
def State.byteFor (s : State) (t : Tid) (k : Nat) : Byte := s.byteSeen (fun e => e.visibleTo t) k

/-- A frame's tag under the stores that `sees` admits. -/
def State.tagSeen (s : State) (sees : StoreEntry → Bool) (frame : Nat) : BitVec 16 :=
  if s.stores.isEmpty || s.isRetired frame then s.tagAt frame
  else
    inward.foldl (fun v p =>
      s.stores.foldl (fun v e =>
        if e.point == p && sees e then e.tags.foldl (fun v q => if q.1 == frame then applyTag v q.2 else v) v else v) v)
      (s.tagAt frame)

/-- A read of a frame's tag meets an uncorrectable error, unless a store that is seen on its way writes the tag whole (R378, R379). -/
def State.tagLost (s : State) (sees : StoreEntry → Bool) (frame : Nat) : Bool :=
  s.tagBad frame && !s.stores.any fun e => sees e && e.tags.any fun q => q.1 == frame && (match q.2 with | .set _ => true | _ => false)

/-- A frame's tag as thread `t` sees it (R172). -/
def State.tagFor (s : State) (t : Tid) (frame : Nat) : BitVec 16 := s.tagSeen (fun e => e.visibleTo t) frame

/-- Everything that one access writes whose store `e` is on its way: the store, or with it every element of its vector store (R379;
assumption 47). -/
def State.accessBytes (s : State) (t : Tid) (e : StoreEntry) : List SByte :=
  if e.whole = 0 then e.bytes else ((s.stores.filter fun x => x.whole == e.whole && x.visibleTo t).flatMap StoreEntry.bytes)

/-- An access on its way that thread t reads from covers the whole unit, so that no error of the home is read under it (R379). -/
def State.covered (s : State) (t : Tid) (u : Nat) : Bool :=
  s.stores.any fun e => e.visibleTo t && (e.bytes.any fun b => unitOf b.key == u) &&
    (List.range (unitLen u)).all fun j => (s.accessBytes t e).any fun b => b.key == u + j && b.mask == 0xFF#8

/-- The bytes of a key range in an unreadable unit, if any: a bad unit that no store covers (R379). -/
def State.hasBad (s : State) (t : Tid) (k len : Nat) : Bool :=
  !s.bad.isEmpty && (List.range len).any fun j => s.isBad (k + j) && !s.covered t (unitOf (k + j))

/-- A read of a region that is not live adds 1 to its slice's elided-read counter, which is recorded by place (R385, R392). -/
def State.noteElided (s : State) (k : Nat) : State :=
  if s.isDead k then
    let s := { s with elided := s.elided.set (sliceOf k).val (s.elided[(sliceOf k).val] + 1) }
    s.countEvent 11 (fieldOfKey k) (dataLoc k) (BitVec.ofNat 64 k) 0xFFFF
  else s

/-- Each distinct line that an access reads counts where its region is not live (R194, R385; assumption 34). -/
def State.noteLines (s : State) (keys : List Nat) : State :=
  if s.dead.isEmpty then s else (keys.map lineOf).dedup.foldl State.noteElided s

/-- An access has read these bytes at their homes, each for an element where it serves one: what the slices count and the watches report (R385,
R393). -/
def State.noteRead (s : State) (by_ : Option (Tid × Word × Nat)) (l : List (Option Nat × Nat)) : State :=
  (s.noteLines (l.map Prod.snd)).reportHits false by_ l

end Sys2Proof.Machine
end

