-- ==== Sys2Proof/Machine/Ops.lean ====
section
/-! DEFINITION. The named operations over registers, checkpoints, translation and memory that the meanings share, and taking an exception
(spec/01_machine.md, spec/12_strips_convoys.md R255 to R260, spec/18_contexts_translation.md R324 to R331, spec/21_traps_restart.md R365 to
R371). -/

namespace Sys2Proof.Machine

/-! ## How an instruction's meaning ends early -/

/-- A meaning that does not complete: a trap with its cause and TVAL, or a wait, after which the instruction is executed again. -/
inductive Stop where
  | trap (cause : BitVec 8) (val : Word)
  | wait
deriving DecidableEq, Repr

abbrev Outcome := Host.Outcome State Fault Refusal

/-! ## Accessors -/

def State.thr (s : State) (t : Tid) : Thread := s.threads[t.val]
def State.setThr (s : State) (t : Tid) (th : Thread) : State := { s with threads := s.threads.set t.val th }
def State.modThr (s : State) (t : Tid) (f : Thread → Thread) : State := s.setThr t (f (s.thr t))
def State.arch (s : State) (t : Tid) : Arch := (s.thr t).arch
def State.setArch (s : State) (t : Tid) (a : Arch) : State := s.setThr t { s.thr t with arch := a }
def State.hrt (s : State) (h : HartId) : Hart := s.harts[h.val]
def State.setHrt (s : State) (h : HartId) (x : Hart) : State := { s with harts := s.harts.set h.val x }
def State.setFld (s : State) (f : FieldId) (x : Field) : State := { s with fields := s.fields.set f.val x }
def State.cycleOf (s : State) (t : Tid) : Word := (s.fld (fieldOf (hartOf t))).cycle

/-- x registers: x0 reads as zero and ignores writes (R16). -/
def Arch.getX (a : Arch) (r : XReg) : Word := if r = 0 then 0 else a.x[r.toNat]'(r.isLt)
def Arch.setX (a : Arch) (r : XReg) (v : Word) : Arch := if r = 0 then a else { a with x := a.x.set r.toNat v r.isLt }
def State.x (s : State) (r : XReg) : Word := (s.arch s.cur).getX r
def State.setX (s : State) (r : XReg) (v : Word) : State := s.setArch s.cur ((s.arch s.cur).setX r v)
def State.pc (s : State) : Word := (s.arch s.cur).pc

/-- OR flags into a thread's FFLAGS (R78). -/
def State.raise (s : State) (t : Tid) (fl : BitVec 5) : State :=
  if fl = 0 then s else s.setThr t { s.thr t with fflags := (s.thr t).fflags ||| fl }

/-- Healthy active lane rows of the clusters a thread holds (R107). -/
def rowsIn (h : Hart) (l : Lanes) : Nat := ((h.rows.toArray.toList.drop l.first).take l.count).foldl (fun n r => n + r.val) 0
def State.rows (s : State) (t : Tid) : Nat :=
  match (s.thr t).lanes with
  | some l => rowsIn (s.hrt (hartOf t)) l
  | none => 0

/-! ## The loop stack (R281 to R284) -/

def lcntActive (w : Word) : Bool := w.extractLsb' 0 32 != 0#32
/-- The depth: the smallest k whose LCNTk[31:0] is 0, or 4. -/
def Arch.loopDepth (a : Arch) : Nat :=
  if !lcntActive a.lcnt[0] then 0 else if !lcntActive a.lcnt[1] then 1
  else if !lcntActive a.lcnt[2] then 2 else if !lcntActive a.lcnt[3] then 3 else 4
def Arch.lpcAt (a : Arch) (k : Nat) : Word := (a.lpc.toArray.toList)[k]?.getD 0
def Arch.lcntAt (a : Arch) (k : Nat) : Word := (a.lcnt.toArray.toList)[k]?.getD 0
def Arch.setLoop (a : Arch) (k : Nat) (e c : Word) : Arch :=
  if h : k < 4 then { a with lpc := a.lpc.set k e, lcnt := a.lcnt.set k c } else a
/-- The body's first word of level k: E - 4 (L - 1). -/
def Arch.loopStart (a : Arch) (k : Nat) : Word := a.lpcAt k - 4 * ((a.lcntAt k).extractLsb' 32 16).setWidth 64 + 4

/-- The end of a pass, checked when an instruction retires with this next pc (R283). -/
def Arch.endOfPass : Nat → Arch → Word → Arch × Word
  | 0, a, next => (a, next)
  | fuel + 1, a, next =>
    let d := a.loopDepth
    if d = 0 then (a, next)
    else
      let k := d - 1
      if next = a.lpcAt k + 4 then
        if 1 < ((a.lcntAt k).extractLsb' 0 32).toNat then
          (a.setLoop k (a.lpcAt k) (a.lcntAt k - 1), a.loopStart k)
        else Arch.endOfPass fuel (a.setLoop k 0 0) next
      else (a, next)

/-- A taken branch at b leaves every loop whose body holds b and not the target (R284). -/
def Arch.exitLoops : Nat → Arch → Word → Word → Arch
  | 0, a, _, _ => a
  | fuel + 1, a, b, target =>
    let d := a.loopDepth
    if d = 0 then a
    else
      let k := d - 1
      if a.loopStart k ≤ b ∧ b ≤ a.lpcAt k ∧ (target < a.loopStart k ∨ a.lpcAt k < target) then
        Arch.exitLoops fuel (a.setLoop k 0 0) b target
      else a

/-- The loop stack after the instruction before `next`, when control runs on there: loops that end there are left, and none begins another pass
(R58, R283). -/
def Arch.goesOn (a : Arch) (next : Word) : Option Arch :=
  let r := Arch.endOfPass 4 a next
  if r.2 = next then some r.1 else none

/-! ## Convoys -/

def noProgress : Vector (BitVec 6) 4 := Vector.replicate 4 0
def progressAt (v : Vector (BitVec 6) 4) (k : Nat) : BitVec 6 := (v.toArray.toList)[k]?.getD 0
def setProgress (v : Vector (BitVec 6) 4) (k : Nat) (x : BitVec 6) : Vector (BitVec 6) 4 := if h : k < 4 then v.set k x else v

/-- The convoy a thread is in; a new one begins where there is none (R58). -/
def Arch.convoyHere (a : Arch) : Convoy := a.convoy.getD ⟨a.pc, 0, noProgress, false⟩

/-- The address of the instruction of a convoy at which the thread stands (R59). -/
def Arch.site (a : Arch) : Word := a.convoyHere.addr + BitVec.ofNat 64 (4 * a.convoyHere.member)

/-! ## Retiring -/

/-- Advance to `next`, which the end of a pass may change; a target begins a convoy (R58, R283). -/
def Arch.advance (a : Arch) (next : Word) : Arch :=
  let r := Arch.endOfPass 4 a next
  { r.1 with pc := r.2, convoy := none }

/-- A scalar instruction, or one that is a convoy of one, retires with the next pc given (R24, R283). -/
def State.retireTo (s : State) (next : Word) : State :=
  let th := s.thr s.cur
  s.setThr s.cur { th with arch := th.arch.advance next, instret := th.instret + 1 }

def State.retire (s : State) : State := s.retireTo (s.pc + 4)

/-- A taken conditional branch retires at its target without an end of pass (R283, R284). -/
def State.retireBranch (s : State) (target : Word) : State :=
  let th := s.thr s.cur
  let a := Arch.exitLoops 4 th.arch th.arch.pc target
  s.setThr s.cur { th with arch := { a with pc := target, convoy := none }, instret := th.instret + 1 }

/-- Write xd and retire. -/
def State.completeX (s : State) (d : XReg) (v : Word) : Outcome := .next (s.setX d v).retire

/-! ## Address translation -/

inductive Access where
  | load | store | atomic | fetch
deriving DecidableEq, Repr

/-- Where an access is performed. -/
structure Loc where
  key    : Nat
  device : Bool
  /-- the port to the home is down: a store is discarded, any other access meets 0x16 (R381) -/
  lost   : Bool
deriving DecidableEq, Repr

/-- On whose behalf an access is translated (R331, R419). -/
structure Who where
  tid    : Tid
  ctx    : CtxId
  pgroot : Word
  mode   : Mode
  checkU : Bool
  /-- reaches the local window, and the translation buffer of its hart: threads and engines only -/
  window : Bool
  /-- the address of the convoy or instruction, and the member, that it acts for; none for the launch unit (R393) -/
  site   : Option (Word × Nat)
deriving DecidableEq, Repr

def State.who (s : State) (t : Tid) : Who :=
  let th := s.thr t
  ⟨t, th.ctx, th.pgroot, th.arch.mode, true, true, some (th.arch.convoyHere.addr, th.arch.convoyHere.member)⟩

/-- The thread and the place in its program on whose behalf a request is made. -/
def Who.maker (w : Who) : Option (Tid × Word × Nat) := w.site.map fun p => (w.tid, p)

/-- A store of thread t's instruction. -/
def State.originOf (s : State) (t : Tid) (elem : Option Nat) : Origin := ⟨(s.who t).site, elem⟩

def Access.absent : Access → BitVec 8
  | .load => 0x04
  | .fetch => 0x04
  | .store => 0x05
  | .atomic => 0x05

/-- Page-table entry fields (R327). -/
def pteV (e : Word) : Bool := e.getLsbD 0
def pteL (e : Word) : Bool := e.getLsbD 1
def pteR (e : Word) : Bool := e.getLsbD 2
def pteW (e : Word) : Bool := e.getLsbD 3
def pteX (e : Word) : Bool := e.getLsbD 4
def pteU (e : Word) : Bool := e.getLsbD 5
def pteD (e : Word) : Bool := e.getLsbD 6
def pteAddr (e : Word) : Nat := (e.extractLsb' 8 32).toNat * 256
def pteTarget (e : Word) : Nat := (e.extractLsb' 40 2).toNat
def pteExt (e : Word) : BitVec 18 := e.extractLsb' 42 18

/-- Index width, lowest index bit, table alignment of a level (R326). -/
def levelBits (level : Nat) : Nat := if level = 4 then 8 else if level = 0 then 5 else 9
def levelShift (level : Nat) : Nat := match level with | 0 => 16 | 1 => 21 | 2 => 30 | 3 => 39 | _ => 48
def tableAlign (level : Nat) : Nat := if level = 4 then 2048 else if level = 0 then 256 else 4096

/-- The range of HBM from pa touches a tag region or names no stack (R320). -/
def mapsForbidden (pa len : Nat) : Bool :=
  !namesHbm pa || !namesHbm (pa + len - 1) || inTagRegion pa || inTagRegion (pa + len - 1) || decide (stackOf pa ≠ stackOf (pa + len - 1))

/-- A present entry that breaks the forms of R327 at its level. A target 2 entry that names this device counts as target 0. -/
def State.pteMalformed (s : State) (level : Nat) (e : Word) : Bool :=
  let ownDevice := pteTarget e == 2 && pteExt e == s.devid
  let target0 := pteTarget e == 0 || ownDevice
  e.getLsbD 7 || e.extractLsb' 60 4 != 0#4 || pteTarget e == 3 ||
  (if pteL e then
    3 ≤ level || (pteW e && !pteR e) || (target0 && pteD e) || (pteTarget e == 0 && pteExt e != 0#18) ||
      pteAddr e % 2 ^ levelShift level != 0 || (target0 && mapsForbidden (pteAddr e) (2 ^ levelShift level))
  else
    level == 0 || pteR e || pteW e || pteX e || pteU e || pteD e || !target0 || (pteTarget e == 0 && pteExt e != 0#18) ||
      pteAddr e % tableAlign (level - 1) != 0)

inductive Walk where
  /-- an entry that is not present, and its home where it was read there -/
  | absent (home : Option Nat)
  | malformed
  /-- the entry at this home cannot be read (R379, R384) -/
  | bad (home : Nat)
  | leaf (level : Nat) (e : Word)
deriving DecidableEq, Repr

/-- The walker's cached entry of one level on va's path (R330). -/
def State.cachedEntry (s : State) (w : Who) (va : Word) (level : Nat) : Option Word :=
  ((s.fld (fieldOf (hartOf w.tid))).ptrs.find? fun p =>
    p.ctx == w.ctx && p.level == level && p.page == va.toNat / 2 ^ levelShift level).map PtrEntry.entry

/-- The home of the entry of one level on va's path, in the table at `base` (R326). -/
def entryHome (va : Word) (level base : Nat) : Nat := base + va.toNat / 2 ^ levelShift level % 2 ^ levelBits level * 8

/-- A walk from a level down: each entry is the walker's cached one, or is read at its home (R326, R328 to R330), wherever in the 40-bit space its
table lies (assumption 71). -/
def State.walkFrom (s : State) (w : Who) (va : Word) : List Nat → Nat → Walk
  | [], _ => .malformed
  | level :: rest, base =>
    let home := entryHome va level base
    let cached := s.cachedEntry w va level
    let e := cached.getD (s.homeWord home)
    if cached.isNone && (s.isBad home || s.isRetired home) then .bad home
    else if !pteV e then .absent (if cached.isNone then some home else none)
    else if s.pteMalformed level e then .malformed
    else if pteL e then .leaf level e
    else s.walkFrom w va rest (pteAddr e)

def rootOf (pgroot : Word) : Nat := (pgroot.extractLsb' 11 29).toNat * 2048

def State.walk (s : State) (w : Who) (va : Word) : Walk :=
  match (if w.window then (s.hrt (hartOf w.tid)).tlb else []).find? fun e => e.ctx == w.ctx && e.page == va.toNat / 2 ^ levelShift e.level with
  | some e => .leaf e.level e.leaf
  | none => s.walkFrom w va [4, 3, 2, 1, 0] (rootOf w.pgroot)

/-- A thread on the side of a reclaimed hart that received the upper halves (R306). -/
def State.upperSide (s : State) (t : Tid) : Bool :=
  match (s.hrt (hartOf t)).reclaim with
  | .passed => threadOf t == 1
  | .returning => threadOf t == 1
  | _ => false

def State.isReclaimed (s : State) (h : HartId) : Bool :=
  match (s.hrt h).reclaim with
  | .passed => true
  | .returning => true
  | _ => false

/-- The scratchpad byte at offset o of a hart, as one side of a reclaimed hart sees it (R306). -/
def State.scratchKey (s : State) (h : HartId) (upper : Bool) (o : Nat) : Option Nat :=
  if s.isReclaimed h then
    if o < 0x10_0000 then some (localKey h (0x10_0000 + (if upper then 0x10_0000 + o else o))) else none
  else if o < 0x20_0000 then some (localKey h (0x10_0000 + o)) else none

/-- A sibling hart's memories are part of the window of thread t: they hold its context's data, or no context's yet and the thread is the runtime's
(R37, R335; assumption 20). -/
def State.seesSibling (s : State) (t : Tid) (h : HartId) : Bool :=
  match (s.hrt h).lastCtx with
  | .of c => c == (s.thr t).ctx
  | .nobody => (s.thr t).launch.isNone
  | .former => false

/-- The local window (R26, R27, R306): an offset from LW as thread t sees it. A sibling that holds another context's data is no part of the
window (R37; assumption 20). Where both halves of a reclaimed sibling serve the thread's context, the lower is seen (assumption 20). -/
def State.windowKey (s : State) (t : Tid) (off : Nat) : Option Nat :=
  let h := hartOf t
  if off < 0x1_0000 then
    if s.isReclaimed h then
      if off < 0x8000 then some (localKey h (if s.upperSide t then 0x8000 + off else off)) else none
    else some (localKey h off)
  else if 0x10_0000 ≤ off ∧ off < 0x30_0000 then s.scratchKey h (s.upperSide t) (off - 0x10_0000)
  else if 0x100_0000 ≤ off ∧ off < 0x200_0000 then
    let p := (off - 0x100_0000) / 0x40_0000
    let o := (off - 0x100_0000) % 0x40_0000
    if o < 0x20_0000 then
      if p = positionOf h then s.scratchKey h (s.upperSide t) o
      else
        let h' : HartId := ⟨(h.val / 4 * 4 + p) % 512, Nat.mod_lt _ (by decide)⟩
        let ctx := (s.thr t).ctx
        if s.isReclaimed h' then
          let lower := (s.thr (tidOf h' 0)).ctx == ctx
          let upper := (s.thr (tidOf h' 1)).ctx == ctx
          if lower then s.scratchKey h' false o else if upper then s.scratchKey h' true o else none
        else if s.seesSibling t h' then s.scratchKey h' false o
        else none
    else none
  else none

/-- A location in this device's HBM: absent in a fenced field (R397). -/
def State.hbmLoc (s : State) (pa : Nat) (a : Access) : Except (BitVec 8) Loc :=
  if (s.fld (fieldOfKey pa)).fenced then .error a.absent else .ok ⟨pa, false, false⟩

/-- The place a leaf maps an address to (R327, R332, R381, R407). -/
def State.leafLoc (s : State) (a : Access) (va : Word) (level : Nat) (e : Word) : Except (BitVec 8) Loc :=
  let pa := pteAddr e + va.toNat % 2 ^ levelShift level
  if pteTarget e = 1 then .ok ⟨hostKey ((pteExt e).toNat * 2 ^ 40 + pa), pteD e, s.ports[18].down⟩
  else if pteTarget e = 2 ∧ pteExt e ≠ s.devid then
    if (s.routeBad (pteExt e).toNat).isSome then .error 0x16
    else
      match s.portOf (pteExt e).toNat with
      | none => .error 0x06
      | some p => .ok ⟨remoteKey (pteExt e).toNat pa, pteD e, s.ports[p.val].down⟩
  else s.hbmLoc pa a

/-- A leaf that maps an address to this device's HBM on a fenced field's stacks: as a page not present (R397). -/
def State.leafFenced (s : State) (va : Word) (level : Nat) (e : Word) : Bool :=
  (pteTarget e == 0 || (pteTarget e == 2 && pteExt e == s.devid)) &&
    (s.fld (fieldOfKey (pteAddr e + va.toNat % 2 ^ levelShift level))).fenced

/-- A leaf's R, W, X and U bits under the mode (R324, R419). -/
def leafAllows (w : Who) (a : Access) (e : Word) : Bool :=
  match a with
  | .load => pteR e && (!w.checkU || w.mode == .supervisor || pteU e)
  | .store => pteW e && (!w.checkU || w.mode == .supervisor || pteU e)
  | .atomic => pteW e && (!w.checkU || w.mode == .supervisor || pteU e)
  | .fetch => pteX e && (if w.mode == .supervisor then !pteU e else pteU e)

/-- Where an address leads: conditions 2 to 5 of R201. `devOk` says that the access may reach device-class memory (R197). An untranslated address
of a tag region names plain bytes there, which hold no tags (R170, R325; assumption 55). -/
def State.mapped (s : State) (w : Who) (a : Access) (devOk : Bool) (va : Word) : Except (BitVec 8) Loc :=
  if va.extractLsb' 56 8 ≠ 0#8 then .error 0x06
  else if va.extractLsb' 48 8 = 0xFF#8 then
    if w.window && a != .fetch then
      match s.windowKey w.tid (va.extractLsb' 0 48).toNat with
      | some k => .ok ⟨k, false, false⟩
      | none => .error 0x06
    else .error 0x06
  else if rootOf w.pgroot = 0 then
    if w.mode = .user then .error a.absent
    else if va.toNat < 2 ^ 40 then (if namesHbm va.toNat then s.hbmLoc va.toNat a else .error 0x06)
    else .error a.absent
  else
    match s.walk w va with
    | .absent _ => .error a.absent
    | .malformed => .error 0x06
    | .bad _ => .error 0x16
    | .leaf level e =>
      if s.leafFenced va level e then .error a.absent
      else if !leafAllows w a e then .error 0x06
      else if pteD e && !devOk then .error 0x07
      else s.leafLoc a va level e

/-- The next access of the thread that goes this way is lost: over a hop, through a port, or at a peer (R380, R381, R407; assumption 52). -/
def State.losesTo (s : State) (t : Tid) (fetch : Bool) (k : Nat) : Bool :=
  let h := hartOf t
  match (s.thr t).lost with
  | none => false
  | some l =>
    l.fetch == fetch &&
      match l.way with
      | .hop => !(isLocal k && (k - 2 ^ 40) / 2 ^ 24 == h.val)
      | .port p => s.portOfKey k == some p || (decide (19 ≤ p.val) && isHbm k && stackOf k / 8 != h.val / 256)
      | .peer => isRemote k

/-- A load, a fetch or an atomic that is lost so meets 0x16 (R380, R381, R399, R407). -/
def State.losesLoad (s : State) (w : Who) (a : Access) (k : Nat) : Bool :=
  a != .store && w.window && s.losesTo w.tid (a == .fetch) k

/-- An access on its way to a field that has been lost with it (R380, R381, R397). -/
def State.lostBeyond (s : State) (w : Who) (a : Access) (devOk : Bool) (va : Word) : Bool :=
  (a != .store && w.window && (s.thr w.tid).lost.isSome) &&
    match State.mapped { s with fields := vmap (fun f => { f with fenced := false }) s.fields } w a devOk va with
    | .ok loc => s.losesLoad w a loc.key
    | .error _ => false

/-- Where an access leads, or its fault, that of an access on its way to a field as the field is lost among them (R201, R380, R397). -/
def State.placed (s : State) (w : Who) (a : Access) (devOk : Bool) (va : Word) : Except (BitVec 8) Loc :=
  match s.mapped w a devOk va with
  | .error c => .error (if s.lostBeyond w a devOk va then 0x16 else c)
  | .ok loc => .ok loc

/-- One access: where it is performed, or its fault; every access to a retired channel meets 0x16 (R201, R384), and so does one other than a store
that is lost on its way or whose port is down (R381). -/
def State.translate (s : State) (w : Who) (a : Access) (devOk : Bool) (va : Word) : Except (BitVec 8) Loc :=
  match s.placed w a devOk va with
  | .error c => .error c
  | .ok loc => if s.isRetired loc.key || (loc.lost && a != .store) || s.losesLoad w a loc.key then .error 0x16 else .ok loc

/-! ## The copy scoreboard (R248) -/

/-- Thread t's accesses to these local keys wait for a copy in flight: its destination, unless the access acquires the chunk through v0
(R247), or its source, for a store. `acquired k` says that the access reads pennant bit k as 1. -/
def State.copyStalls (s : State) (t : Tid) (keys : List Nat) (store : Bool) (acquired : Transfer → Nat → Bool) : Bool :=
  (List.range 4).any fun p =>
    let h : HartId := ⟨((hartOf t).val / 4 * 4 + p) % 512, Nat.mod_lt _ (by decide)⟩
    (s.hrt h).transfers.any fun tr =>
      decide (tr.kind = .cpy) && keys.any fun k =>
        isLocal k &&
          ((List.range tr.count).any fun c =>
            let lo := c * 2 ^ tr.shift
            let hi := min ((c + 1) * 2 ^ tr.shift) tr.len
            let within (base : Word) : Bool :=
              base.extractLsb' 48 8 == 0xFF#8 && decide (0x10_0000 ≤ (base.extractLsb' 0 48).toNat) &&
                match s.windowKey tr.tid (base.extractLsb' 0 48).toNat with
                | some b => decide (b + lo ≤ k) && decide (k < b + hi)
                | none => false
            (within tr.dst && !(tr.tid == t && acquired tr c)) || (store && within tr.src))

def noneAcquired : Transfer → Nat → Bool := fun _ _ => false

/-- A store on its way that a copy in flight holds back from its home (R248). -/
def State.entryStalls (s : State) (e : StoreEntry) : Bool := !e.engine && s.copyStalls e.tid e.keys true noneAcquired

/-- Stores that an instruction completes at a scope wait for a copy in flight (R226, R248). -/
def State.drainWaits (s : State) (t : Tid) (scope : Scope) (sel : StoreEntry → Bool) : Bool :=
  s.stores.any fun e => e.visibleTo t && sel e && e.homeBy (scopeRank scope) && s.entryStalls e

/-- Stores of a hart's threads that are to be performed wait for a copy in flight (R31, R248). -/
def State.hartWaits (s : State) (h : HartId) (sel : StoreEntry → Bool) : Bool := s.stores.any fun e => hartOf e.tid == h && sel e && s.entryStalls e

/-- The thread's own accesses of the kinds named. -/
def StoreEntry.ownKind (t : Tid) (scalar vector : Bool) (e : StoreEntry) : Bool :=
  e.tid == t && !e.engine && ((scalar && !e.vector) || (vector && e.vector))

/-! ## Reading and storing -/

/-- A little-endian number of `len` bytes at a home, as thread t reads it. -/
def State.numAt (s : State) (t : Tid) (k len : Nat) : Nat :=
  (List.range len).foldr (fun j acc => acc * 256 + (s.byteFor t (k + j)).toNat) 0

/-- An idempotent access reads its bytes: 0x16 where a unit is bad (R379). -/
def State.readLoc (s : State) (t : Tid) (loc : Loc) (len : Nat) (va : Word) : Except Stop Nat :=
  if s.hasBad t loc.key len then .error (.trap 0x16 va) else .ok (s.numAt t loc.key len)

/-- A little-endian number of `len` bytes as their home holds them. -/
def State.homeNum (s : State) (k len : Nat) : Nat :=
  (List.range len).foldr (fun j acc => acc * 256 + (s.homeByte (k + j)).toNat) 0

/-- Reads performed ahead that thread t's later loads may no longer use (R222; assumption 49). -/
def State.pruneAhead (s : State) (t : Tid) (gone : Ahead → Bool) : State :=
  if (s.thr t).ahead.isEmpty then s else s.modThr t fun th => { th with ahead := th.ahead.filter fun x => !gone x }

def Ahead.overlaps (x : Ahead) (keys : List Nat) : Bool := keys.any fun k => decide (x.key ≤ k) && decide (k < x.key + x.len)

/-- Thread t has accessed these bytes now: none of its later loads returns what an earlier read of them found (R219, R222). -/
def State.accessNow (s : State) (t : Tid) (keys : List Nat) : State := s.pruneAhead t fun x => x.overlaps keys

/-- Every later load of thread t is performed after this point (R226, R233, R252). -/
def State.dropAhead (s : State) (t : Tid) : State := s.pruneAhead t fun _ => true

/-- What a read performed ahead found for a load at this address and place: of a scalar load, or of element `elem` of a vector load. -/
def State.aheadFor (s : State) (t : Tid) (vec : Bool) (elem : Nat) (va : Word) (key len : Nat) : Option Ahead :=
  (s.thr t).ahead.find? fun x => x.vec == vec && x.elem == elem && x.va == va && x.key == key && x.len == len

/-- A load has taken what a read ahead found: later loads of its bytes return nothing older (R219). -/
def State.useAhead (s : State) (t : Tid) (x : Ahead) : State :=
  s.pruneAhead t fun y => decide (y.stamp ≤ x.stamp) && y.overlaps ((List.range x.len).map (x.key + ·))

/-- A device-class read, performed once at the home, after the thread's earlier stores to the same bytes (R197, R219; assumption 7). -/
def State.deviceRead (s : State) (t : Tid) (loc : Loc) (len : Nat) : Nat × State :=
  let keys := (List.range len).map (loc.key + ·)
  let s := (s.drainAhead t keys).accessNow t keys
  let r := s.noteRead (s.who t).maker [(none, loc.key)]
  (s.homeNum loc.key len, { r with linkOut := r.linkOut ++ [.deviceRead t loc.key len] })

/-- The low `len` bytes of a number. -/
def bytesOf (v len : Nat) : List Byte := (List.range len).map fun j => BitVec.ofNat 8 (v / 2 ^ (8 * j))

def storeBytes (key : Nat) (bytes : List Byte) : List SByte :=
  (List.range bytes.length).zipWith (fun j b => ⟨key + j, b, 0xFF⟩) bytes

/-- Frames touched by a plain write, with their tag change (R171). -/
def rawTags (bytes : List SByte) : List (Nat × TagWrite) :=
  ((bytes.filter fun b => isTagged b.key).map fun b => frameOf b.key).dedup.map fun f => (f, .raw)

/-- A store that thread t performs at once at its home, reported to the debugger's watches (R393). -/
def State.performNow (s : State) (t : Tid) (bytes : List SByte) : State :=
  ((s.accessNow t (bytes.map SByte.key)).perform bytes (rawTags bytes)).reportHits true (s.who t).maker (bytes.map fun b => (none, b.key))

/-- A device-class write, performed once at the home (R197; assumption 7); discarded and reported where the port is down, or where it is lost on its
way (R380, R381, R407). -/
def State.deviceWrite (s : State) (t : Tid) (loc : Loc) (bytes : List SByte) : State :=
  if loc.lost then s.reportLost (s.thr t).ctx loc.key
  else if s.losesTo t false loc.key then (s.reportLost (s.thr t).ctx loc.key).modThr t fun th => { th with lost := none }
  else
    let s := (s.drainAhead t (bytes.map SByte.key)).performNow t bytes
    { s with linkOut := s.linkOut ++ [.deviceWrite t loc.key (bytes.map SByte.val)] }

/-- Put a store on its way: into the thread's strip, or, for a thread without one, into the release queue (R198). -/
def State.putStore (s : State) (t : Tid) (vector : Bool) (bytes : List SByte) (tags : List (Nat × TagWrite)) : State :=
  let th := s.thr t
  let e : StoreEntry := ⟨t, th.ctx, .held, vector, false, bytes, tags, 0, 0, s.originOf t none⟩
  let s := s.accessNow t (bytes.map SByte.key)
  let s := { s with stores := if th.lanes.isSome then s.stores ++ [e] else enqueue s.stores e }
  if th.lanes.isSome && th.heldFrom.isNone then s.modThr t fun th => { th with heldFrom := some (s.cycleOf t) } else s

/-- A store to a located range; discarded and reported where the port is down (R381). -/
def State.storeLoc (s : State) (t : Tid) (vector : Bool) (loc : Loc) (bytes : List Byte) : State :=
  if loc.lost then s.reportLost (s.thr t).ctx loc.key
  else
    let bs := storeBytes loc.key bytes
    s.putStore t vector bs (rawTags bs)

/-- The entries of the strip store buffer that a hart's held stores fill: each a thread's 16-byte granule (R200). -/
def State.heldGranules (s : State) (h : HartId) : List (Nat × Nat) :=
  ((s.stores.filter fun e => hartOf e.tid == h && (e.point == .held || e.point == .closing)).flatMap fun e =>
    e.bytes.map fun b => (e.tid.val, b.key / 16)).dedup

/-- Write performed at its home at once by the device or a supervisor store, after the earlier stores of the path (R232, R365). -/
def State.performAt (s : State) (t : Tid) (key : Nat) (bytes : List Byte) : State :=
  let bs := storeBytes key bytes
  (s.drainAhead t (bs.map SByte.key)).performNow t bs

/-- Bytes written at their homes for thread t after the earlier stores of its path (R232); discarded and reported where the port is down (R381). -/
def State.performFor (s : State) (t : Tid) (origin : Origin) (keys : List Nat) (bytes : List Byte) : State :=
  let bs := keys.zipWith (fun k b => (⟨k, b, 0xFF⟩ : SByte)) bytes
  (s.drainAhead t keys).performEntry ⟨t, (s.thr t).ctx, .hart, false, false, bs, rawTags bs, 0, 0, origin⟩

/-- A structure's bytes so written by the thread's own instruction (R365). -/
def State.performStruct (s : State) (t : Tid) (keys : List Nat) (bytes : List Byte) : State :=
  (s.accessNow t keys).performFor t (s.originOf t none) keys bytes

/-! ## Structures in memory: read and written as bytes (R201) -/

/-- Locate each byte of [va, va + len), one translation per 4 KiB frame; the first failure with its address. -/
def locateBy (place : Word → Except (BitVec 8) Loc) (va : Word) : Nat → Nat → Except Stop (List Nat)
  | 0, _ => .ok []
  | fuel + 1, len =>
    if len = 0 then .ok []
    else
      match place va with
      | .error c => .error (.trap c va)
      | .ok loc =>
        let n := min len (4096 - va.toNat % 4096)
        match locateBy place (va + BitVec.ofNat 64 n) fuel (len - n) with
        | .error e => .error e
        | .ok rest => .ok ((List.range n).map (loc.key + ·) ++ rest)

def State.locateStruct (s : State) (w : Who) (a : Access) (va : Word) (len : Nat) : Except Stop (List Nat) :=
  locateBy (s.translate w a false) va (len / 4096 + 2) len

/-- Where a structure lies, short of the check for a retired channel (R180 order 8). -/
def State.mapStruct (s : State) (w : Who) (a : Access) (va : Word) (len : Nat) : Except Stop (List Nat) :=
  locateBy (s.placed w a false) va (len / 4096 + 2) len

/-- A structure's bytes have been read at their homes: what the slices count and the watches report (R385, R393; assumption 34). -/
def State.noteStruct (s : State) (w : Who) (va : Word) (len : Nat) : State :=
  if s.dead.isEmpty && s.watches.isEmpty then s
  else
    match s.locateStruct w .load va len with
    | .ok keys => s.noteRead w.maker (keys.map fun k => (none, k))
    | .error _ => s

/-- Structures read one after the other. -/
def State.noteReads (s : State) (w : Who) (l : List (Word × Nat)) : State := l.foldl (fun s p => s.noteStruct w p.1 p.2) s

/-- A thread's instruction reads structures: its later loads find nothing older there (R219). -/
def State.ownReads (s : State) (w : Who) (l : List (Word × Nat)) : State :=
  let s := s.noteReads w l
  if w.site.isNone || (s.thr w.tid).ahead.isEmpty then s
  else l.foldl (fun s p => match s.locateStruct w .load p.1 p.2 with | .ok keys => s.accessNow w.tid keys | .error _ => s) s

/-- Read a structure's bytes; an uncorrectable error traps with the address of its first bad byte (R379). -/
def State.readStruct (s : State) (w : Who) (va : Word) (len : Nat) : Except Stop (List Byte) := do
  let keys ← s.locateStruct w .load va len
  if s.copyStalls w.tid keys false noneAcquired then .error .wait
  match (List.range len).find? fun j => s.hasBad w.tid ((keys[j]?).getD 0) 1 with
  | some j => .error (.trap 0x16 (va + BitVec.ofNat 64 j))
  | none => .ok (keys.map fun k => s.byteFor w.tid k)

/-- A little-endian field of a structure. -/
def fieldAt (bytes : List Byte) (off len : Nat) : Nat :=
  ((bytes.drop off).take len).foldr (fun b acc => acc * 256 + b.toNat) 0

def State.readWord (s : State) (w : Who) (va : Word) (len : Nat) : Except Stop Nat := do
  let b ← s.readStruct w va len
  return fieldAt b 0 len

/-! ## Checkpoints (R255 to R259) -/

/-- A checkpoint takes effect: the held stores are released, the history freed, the copy replaced (R257). -/
def State.takeCkpt (s : State) (t : Tid) (c : Ckpt) : State :=
  let s := s.release t
  s.setThr t { s.thr t with
    ckpt := some c, due := none, history := [], closingHistory := [], heldFrom := none, closingFrom := none, restarts := 0 }

/-- A checkpoint that is due takes effect once every earlier instruction has retired: the earlier strip's stores are released, its history is
freed, its copy replaced (R257). -/
def State.settle (s : State) (t : Tid) : State :=
  match (s.thr t).due with
  | none => s
  | some c =>
    let s := s.releaseClosing t
    s.setThr t { s.thr t with ckpt := some c, due := none, restarts := 0, closingFrom := none, closingHistory := [] }

/-- An implicit checkpoint at the thread's present state; a thread without a lane group has no strip (R198, R255). -/
def State.implicitCkpt (s : State) (t : Tid) : State :=
  if (s.thr t).lanes.isSome then s.takeCkpt t ⟨.implicit, s.arch t, s.arch t⟩ else s

/-- An explicit checkpoint made by a strip-opening instruction: due until it takes effect (R257, R259). -/
def State.openStrip (s : State) (t : Tid) (pre post : Arch) : State :=
  let s := s.settle t
  let s := { s with stores := s.stores.map fun (e : StoreEntry) => if e.tid == t && e.point == Point.held then { e with point := Point.closing } else e }
  let th := s.thr t
  s.setThr t { th with
    due := some ⟨.explicit, pre, post⟩, history := [], closingHistory := th.history, heldFrom := none, closingFrom := th.heldFrom }

/-- The thread has an open strip that holds a store. -/
def State.holdsStore (s : State) (t : Tid) : Bool :=
  s.stores.any fun e => e.tid == t && (e.point == .held || e.point == .closing)

/-! ## The nest frame (R366) -/

def Nest.image (n : Nest) : Word :=
  0#6 ++ BitVec.ofBool n.tailOpen ++ BitVec.ofBool n.headOpen ++ n.c[3] ++ n.c[2] ++ n.c[1] ++ n.c[0] ++ n.base ++ BitVec.ofNat 3 n.d.val

/-- The nest an image stands for; none when it is malformed (R371). Counts above D are kept as they stand (assumption 50). -/
def nestOfImage (w : Word) : Option Nest :=
  if w.extractLsb' 58 6 ≠ 0#6 then none
  else if h : (w.extractLsb' 0 3).toNat < 5 then
    some ⟨⟨_, h⟩, w.extractLsb' 3 5,
      ((((Vector.replicate 4 0#12).set 0 (w.extractLsb' 8 12)).set 1 (w.extractLsb' 20 12)).set 2 (w.extractLsb' 32 12)).set 3
        (w.extractLsb' 44 12), w.getLsbD 56, w.getLsbD 57⟩
  else none

def wordBytes64 (w : Word) : List Byte := bytesOf w.toNat 8
def nestFrame (a : Arch) : List Byte := a.nests.toArray.toList.flatMap fun n => wordBytes64 n.image

/-! ## Fetching -/

/-- The word at an address under the checks of a 4-byte load (R279). -/
def State.fetchAt (s : State) (t : Tid) (pc : Word) : Except Stop IWord :=
  if pc.toNat % 4 ≠ 0 then .error (.trap 0x03 pc)
  else
    match s.translate (s.who t) .fetch false pc with
    | .error c => .error (.trap c pc)
    | .ok loc => (s.readLoc t loc 4 pc).map fun n => BitVec.ofNat 32 n

def State.fetch (s : State) (t : Tid) : Except Stop IWord := s.fetchAt t (s.arch t).pc

/-- A vector instruction for convoy formation: a legal word of majors 0x1A to 0x23 (R58). -/
def vectorWord (w : IWord) : Bool :=
  decide (0x1A ≤ (majorOf w).toNat) && decide ((majorOf w).toNat ≤ 0x23) && (match decode w with | .ok _ => true | .error _ => false)

/-- The instruction at an address is a vector instruction. -/
def State.vectorAt (s : State) (t : Tid) (pc : Word) : Bool :=
  match s.fetchAt t pc with
  | .ok w => vectorWord w
  | .error _ => false

/-- The word opens a strip: a setvl, setvlr or setvlm (R255). -/
def stripWord (w : IWord) : Bool :=
  match decode w with
  | .ok (.setvl ..) => true
  | .ok (.setvlr ..) => true
  | .ok (.setvlm ..) => true
  | _ => false

/-- Strip state for a TEPC: 2 for a thread that holds no lane group, 0 where TEPC is a strip-opening instruction, else 1 (R364). -/
def State.stripState (s : State) (t : Tid) (tepc : Word) : Nat :=
  if (s.thr t).lanes.isNone then 2
  else
    match s.fetchAt t tepc with
    | .ok w => if stripWord w then 0 else 1
    | .error _ => 1

/-! ## Taking an exception (R364, R365) -/

/-- TSTATUS as R364 lays it out. -/
def tstatusOf (a : Arch) (member stripState : Nat) (async : Bool) (prog : Vector (BitVec 6) 4) : Word :=
  0#24 ++ prog[3] ++ prog[2] ++ prog[1] ++ prog[0] ++ 0#6 ++ BitVec.ofBool a.cf ++ BitVec.ofBool async ++
    BitVec.ofNat 3 a.loopDepth ++ BitVec.ofNat 2 stripState ++ BitVec.ofNat 2 member ++ BitVec.ofBool (a.mode == .supervisor)

/-- The four progress fields of TSTATUS (R364). -/
def progressOf (ts : Word) : Vector (BitVec 6) 4 :=
  (((noProgress.set 0 (ts.extractLsb' 16 6)).set 1 (ts.extractLsb' 22 6)).set 2 (ts.extractLsb' 28 6)).set 3 (ts.extractLsb' 34 6)

/-- The words from an address on that may be members of the convoy that begins there, up to n: control runs on through them, and none is known
to be no vector instruction. One that cannot be fetched counts (R58; assumption 61). -/
def State.convoyLen (s : State) (t : Tid) (a : Arch) : Nat → Word → Nat
  | 0, _ => 0
  | n + 1, pc =>
    match s.fetchAt t pc with
    | .ok w =>
      if vectorWord w then (match a.goesOn (pc + 4) with | some b => s.convoyLen t b n (pc + 4) + 1 | none => 1) else 0
    | .error _ => n + 1

/-- Progress as TSTATUS and eret take it: 0 for a member that the convoy at the address does not have (R364). -/
def State.cleanProgress (s : State) (t : Tid) (pc : Word) (p : Vector (BitVec 6) 4) : Vector (BitVec 6) 4 :=
  if p = noProgress then p
  else
    let n := s.convoyLen t (s.arch t) 4 pc
    let keep (k : Nat) (x : BitVec 6) : BitVec 6 := if k < n then x else 0
    (((noProgress.set 0 (keep 0 p[0])).set 1 (keep 1 p[1])).set 2 (keep 2 p[2])).set 3 (keep 3 p[3])

/-- The progress that a trap at this boundary reports: the convoy's, when the instruction at pc begins one that resumes (R364). -/
def State.boundaryProgress (s : State) (t : Tid) : Vector (BitVec 6) 4 :=
  match (s.arch t).convoy with
  | some c => if c.member = 0 then s.cleanProgress t c.addr c.resume else noProgress
  | none => noProgress

/-- What a trap tells beside its cause and value. -/
structure TrapInfo where
  tepc   : Word
  async  : Bool
  strip  : Nat
  member : Nat
  prog   : Vector (BitVec 6) 4
deriving DecidableEq, Repr

/-- A double fault: the thread stops and the controller reports it for the context (R365). -/
def State.doubleFault (s : State) (t : Tid) : State :=
  { s.setThr t { s.thr t with status := .doubleFault } with doubleFaults := s.doubleFaults ++ [(s.thr t).ctx] }

/-- The stack pointer below which a trap writes the nest frame (R365). -/
def State.frameTop (s : State) (t : Tid) : Word := if (s.arch t).mode = .user then (s.thr t).tscratch else (s.arch t).getX 2

/-- The nest frame's place, as a supervisor store finds it (R365). -/
def State.framePlace (s : State) (t : Tid) : Except Stop (List Nat) :=
  s.locateStruct { s.who t with mode := .supervisor } .store (s.frameTop t - 64) 64

/-- The frame's store, and the trap with it, waits for a copy in flight (R248; assumption 62). -/
def State.trapWaits (s : State) (t : Tid) : Bool :=
  match s.framePlace t with
  | .error _ => false
  | .ok keys => s.copyStalls t keys true noneAcquired

/-- The byte that an access to this address reads, or the unreadable table or routing entry that it meets on the way: whoever may read it, as the
access that reports it has read it (R171, R378). -/
def State.foundAt (s : State) (w : Who) (va : Word) : Option Nat :=
  if va.extractLsb' 56 8 ≠ 0#8 then none
  else if va.extractLsb' 48 8 = 0xFF#8 then (if w.window then s.windowKey w.tid (va.extractLsb' 0 48).toNat else none)
  else if rootOf w.pgroot = 0 then (if namesHbm va.toNat then some va.toNat else none)
  else
    match s.walk w va with
    | .bad k => some k
    | .leaf level e =>
      match (if pteTarget e = 2 ∧ pteExt e ≠ s.devid then s.routeBad (pteExt e).toNat else none) with
      | some k => some k
      | none => match s.leafLoc .load va level e with | .ok loc => some loc.key | .error _ => none
    | _ => none

/-- A read at this address has found an unreadable unit, its frame's tag unreadable, or an unreadable table entry on the way there: the frame is
poisoned (R171, R378). -/
def State.noteFound (s : State) (w : Who) (va : Word) : State :=
  match s.foundAt w va with
  | some k => if s.isBad k then s.findErrors [k] else if s.tagBad (frameOf k) then s.poison k else s
  | none => s

/-- A read that ends so has found what it meets (R171, R378). -/
def State.noteFault {α : Type} (s : State) (w : Who) (r : Except Stop α) : State :=
  match r with
  | .error (.trap c va) => if c = 0x16 then s.noteFound w va else s
  | _ => s

/-- What the access that trapped has done in memory: an unreadable unit has been found, or a table entry read in a region that is not live
(R171, R378, R385). -/
def State.noteTrap (s : State) (t : Tid) (cause : BitVec 8) (va : Word) : State :=
  let w := s.who t
  if cause = 0x16 then s.noteFound w va
  else if (cause = 0x04 ∨ cause = 0x05) ∧ rootOf w.pgroot ≠ 0 then
    match s.walk w va with
    | .absent (some k) => s.noteLines [k]
    | _ => s
  else s

/-- Trap entry from the precise point at which the thread stands (R365). A thread that holds no lane group has no strip, and keeps no checkpoint
copy (R198, R299; assumption 53). -/
def State.trapEntry (s : State) (t : Tid) (cause : BitVec 8) (val : Word) (info : TrapInfo) : State :=
  let s := if info.async then s else s.noteTrap t cause val
  let s := (s.settle t).release t
  let th := s.thr t
  let a := th.arch
  let user := a.mode == .user
  let sp := s.frameTop t
  let th := { th with
    tcause := cause, tval := val, tepc := info.tepc &&& ~~~3#64
    tstatus := tstatusOf a info.member info.strip info.async info.prog }
  let s := s.setThr t th
  match s.framePlace t with
  | .error _ => s.doubleFault t
  | .ok keys =>
    let s := s.performStruct t keys (nestFrame a)
    if th.tvec = 0 then s.doubleFault t
    else
      let th := s.thr t
      let a' := { (a.setX 2 (sp - 64)) with mode := .supervisor, pc := th.tvec, convoy := none }
      s.setThr t { th with
        arch := a', status := .running, tscratch := if user then a.getX 2 else th.tscratch
        ckpt := if th.lanes.isSome then some ⟨.implicit, a', a'⟩ else none, due := none, history := [], closingHistory := []
        heldFrom := none, closingFrom := none, restarts := 0, ahead := [], lost := none }

/-- A synchronous trap of an instruction outside a convoy, or of a convoy of one: nothing of it has been written (R370). -/
def State.syncTrap (s : State) (t : Tid) (cause : BitVec 8) (val tepc : Word) : State :=
  if s.trapWaits t then s else s.trapEntry t cause val ⟨tepc, false, s.stripState t tepc, 0, s.boundaryProgress t⟩

/-- The outcome of a meaning: its next state, the trap it raises, or the wait. -/
def finish (s : State) : Except Stop State → Outcome
  | .ok s' => .next s'
  | .error (.trap c v) => .next (s.syncTrap s.cur c v s.pc)
  | .error .wait => .next s

/-- The strip closes and a new one opens at the instruction itself (R255, R259): where an instruction that is a checkpoint waits, it waits so. -/
def State.fenceOpen (s : State) (t : Tid) : State := (s.settle t).implicitCkpt t

/-- The outcome of a meaning that reads structures: where it traps, `note` says what it has read on its way (R385, R393). -/
def finishReads (s : State) (note : State → State) (r : Except Stop State) : Outcome :=
  match r with
  | .error (.trap _ _) => finish (note s) r
  | r => finish s r

/-- The outcome of an instruction that closes its strip and opens a new one before it waits (R255, R286). -/
def finishOpen (s : State) (r : Except Stop State) : Outcome :=
  match r with
  | .error .wait => .next (s.fenceOpen s.cur)
  | r => finish s r

/-- R19: an instruction of the vector majors needs a lane group. -/
def State.needLanes (s : State) (word : Word) : Except Stop Unit :=
  if (s.thr s.cur).lanes.isSome then .ok () else .error (.trap 0x01 word)

/-! ## Restart and forced pre-emption (R259, R309, R374) -/

/-- A strip restart: registers, rows and progress return to the checkpoint, held stores are dropped; FFLAGS, MG, INSTRET and released memory
stay (R256, R259). Pennant bits that an engine sets are set in the checkpoint copies too, so they stay (R243). A thread without a lane group has
no strip to go back in (R198; assumption 53). -/
def State.rollback (s : State) (t : Tid) (post : Bool) : State :=
  match (s.thr t).ckpt with
  | none => s
  | some c =>
    let s := s.dropHeld t
    s.setThr t { s.thr t with
      arch := if post then c.post else c.pre, due := none, history := [], closingHistory := [], heldFrom := none, closingFrom := none, ahead := [] }

/-- YSTAT after a forced pre-emption or a yield: [2:1] as given, request cleared (R308, R309). -/
def ystatAfter (y : BitVec 4) (how : BitVec 2) : BitVec 4 := y.extractLsb' 3 1 ++ how ++ 0#1

/-- The whole hart is to be saved: a lane reclaim that was asked for and has not happened is over (R307, R308). -/
def State.endAsk (s : State) (t : Tid) : State :=
  let h := hartOf t
  match (s.hrt h).reclaim with
  | .asked .. => if (s.thr t).lanes.isSome then s.setHrt h { s.hrt h with reclaim := .none } else s
  | _ => s

/-- The pending asynchronous trap that is taken first: 0x16, then 0x15, in the order they arose (R367). -/
def firstPending (l : List (BitVec 8 × Word)) : Option (BitVec 8 × Word) :=
  match l.find? fun p => p.1 == 0x16 with
  | some p => some p
  | none => l.head?

/-- Take a pending asynchronous trap where the thread stands (R365, R367). -/
def State.pendingTrap (s : State) (t : Tid) (p : BitVec 8 × Word) (strip : Nat) : State :=
  let s' := s.setThr t { s.thr t with pending := (s.thr t).pending.erase p }
  s'.trapEntry t p.1 p.2 ⟨(s.arch t).pc, true, strip, 0, s.boundaryProgress t⟩

/-- Where a forced pre-emption returns to: the last checkpoint, or the wfe in which the thread sleeps (R289, R309). -/
def State.preemptPoint (s : State) (t : Tid) : State :=
  ((if (s.thr t).status = .wfe then s.implicitCkpt t else s).rollback t false).endAsk t

/-- Forced pre-emption: rollback, then trap 0x17 with TEPC the checkpoint's pc (R309). A pending 0x16 or 0x15 is taken first, and the 0x17 at the
next eret to user mode (R367). -/
def State.forcedPreempt (s : State) (t : Tid) : State :=
  let explicit := (s.thr t).status ≠ .wfe ∧ (s.thr t).lanes.isSome ∧ (s.thr t).ckpt.map Ckpt.kind = some .explicit
  let s := s.preemptPoint t
  let th := s.thr t
  let strip := if explicit then 0 else s.stripState t th.arch.pc
  match firstPending th.pending with
  | some p => State.pendingTrap (s.setThr t { th with preemptDue := true }) t p strip
  | none =>
    let s := s.setThr t { th with ystat := ystatAfter th.ystat 2, ydead := 0, preemptDue := false }
    s.trapEntry t 0x17 0 ⟨th.arch.pc, true, strip, 0, s.boundaryProgress t⟩

end Sys2Proof.Machine
end

