-- ==== Sys2Proof/Machine/Flags.lean ====
section
/-! DEFINITION. The flag computations: how results' flags gather and reach FFLAGS (spec/03_number_formats.md R77 to R81). The flags of each
rounding are computed with it in Float.lean. -/

namespace Sys2Proof.Machine

/-- The OR of the flags of several results (R79). -/
def orFlags (l : List (BitVec 5)) : BitVec 5 := l.foldl (· ||| ·) 0

/-- FFLAGS as rsys reads it: bits [63:5] reserved (R77, R6). -/
def fflagsImage (fl : BitVec 5) : Word := fl.setWidth 64

/-- OR an instruction's flags into the issuing thread's FFLAGS (R78, R104). -/
def State.raiseOwn (s : State) (fl : BitVec 5) : State := s.raise s.cur fl

end Sys2Proof.Machine
end

