-- ==== Sys2Proof/Machine/Operands.lean ====
section
/-! DEFINITION. Operand forms: scalar floating operands (spec/04_scalar_arithmetic.md R96), vector elements, groups, masks and tails
(spec/05_vector_arithmetic.md R106 to R116), nests and depths (spec/06_nested_vectors.md R126 to R130), and the parts a vector instruction is
executed in (spec/12_strips_convoys.md R261 to R264, spec/21_traps_restart.md R368, R369). -/

namespace Sys2Proof.Machine

/-! ## Scalar floating point (R17, R96) -/

def precFmt : Prec → Fmt
  | .s => .fp32
  | .d => .fp64
/-- The floating-point value of xn in the instruction's format. -/
def fpOperand (p : Prec) (v : Word) : FVal := unpack (precFmt p) (v.toNat % 2 ^ (precFmt p).width)
def fpBits (p : Prec) (v : Word) : Nat := v.toNat % 2 ^ (precFmt p).width

/-! ## The VTYPE image (R51) -/

def ewOf (img : BitVec 16) : Nat := (img.extractLsb' 0 3).toNat
/-- The element width in bits: 4, 8, 16, 32 or 64. -/
def widthOf (img : BitVec 16) : Nat := 4 * 2 ^ ewOf img
/-- The group multiplier: 1, 2, 4 or 8. -/
def multOf (img : BitVec 16) : Nat := 2 ^ (img.extractLsb' 3 2).toNat
def tailZero (img : BitVec 16) : Bool := img.getLsbD 5
/-- The floating-point format of the element width (R106). -/
def fmtOf (img : BitVec 16) : Fmt :=
  if ewOf img = 4 then .fp64 else if ewOf img = 3 then .fp32 else if img.getLsbD 6 then .bf16 else .fp16
/-- VLMAX of an image on a number of rows (R107). -/
def vlmaxOf (img : BitVec 16) (rows : Nat) : Nat := multOf img * rows * 2048 / widthOf img

/-! ## Elements and masks (R60, R111, R112) -/

/-- Bits of one register on these rows. -/
def regBits (rows : Nat) : Nat := rows * 2048

def Arch.vreg (a : Arch) (n : Nat) : VWord := (a.v.toArray.toList)[n]?.getD 0
def Arch.setVreg (a : Arch) (n : Nat) (x : VWord) : Arch := if h : n < 32 then { a with v := a.v.set n x } else a

/-- Element i at width w of the registers starting at v. -/
def Arch.elem (a : Arch) (rows v w i : Nat) : Nat :=
  ((a.vreg (v + i * w / regBits rows)).toNat >>> (i * w % regBits rows)) % 2 ^ w

def putBits (x : VWord) (off w val : Nat) : VWord :=
  (x &&& ~~~(BitVec.ofNat 131072 ((2 ^ w - 1) <<< off))) ||| BitVec.ofNat 131072 ((val % 2 ^ w) <<< off)

def Arch.setElem (a : Arch) (rows v w i val : Nat) : Arch :=
  let r := v + i * w / regBits rows
  a.setVreg r (putBits (a.vreg r) (i * w % regBits rows) w val)

/-- Bit i of the mask held at v. -/
def Arch.maskBit (a : Arch) (rows v i : Nat) : Bool := a.elem rows v 1 i == 1
/-- Element i is not masked off (R8). -/
def Arch.active (a : Arch) (rows : Nat) (m : Bool) (i : Nat) : Bool := !m || a.maskBit rows 0 i

/-- The positions of width w in a register group (R106). -/
def Arch.positions (a : Arch) (w : Nat) : Nat := a.vlmax * widthOf a.vtype / w

def sext (w v : Nat) : Int := if v % 2 ^ w < 2 ^ (w - 1) then (v % 2 ^ w : Nat) else (v % 2 ^ w : Nat) - (2 ^ w : Nat)
def wrap (w : Nat) (n : Int) : Nat := (n % (2 ^ w : Nat)).toNat
/-- Clamp to the signed or unsigned range of w bits (R61). -/
def satS (w : Nat) (n : Int) : Nat :=
  wrap w (if n < -(2 ^ (w - 1) : Nat) then -(2 ^ (w - 1) : Nat) else if (2 ^ (w - 1) : Nat) - 1 < n then (2 ^ (w - 1) : Nat) - 1 else n)
def satU (w : Nat) (n : Int) : Nat := if n < 0 then 0 else if (2 ^ w : Nat) - 1 < n then 2 ^ w - 1 else n.toNat

/-- The third operand of VIALU and VCMP: element i of a group, or the low bits of a scalar (R106). -/
def Arch.srcElem (a : Arch) (rows w : Nat) (b : VSrc) (i : Nat) : Nat :=
  match b with
  | .vec v => a.elem rows v.toNat w i
  | .scal x => (a.getX x).toNat % 2 ^ w

/-- A group field of R111: a multiple of the multiplier. -/
def groupOk (v mult : Nat) : Bool := v % mult == 0 && decide (v + mult ≤ 32)
def srcGroupOk (b : VSrc) (mult : Nat) : Bool := match b with | .vec v => groupOk v.toNat mult | .scal _ => true
/-- Registers that a mask spans, and the rule for a mask field (R112). -/
def maskRegs (img : BitVec 16) : Nat := if ewOf img = 0 ∧ multOf img = 8 then 2 else 1
def maskOk (img : BitVec 16) (v : Nat) : Bool := v % maskRegs img == 0

/-! ## Parts of a vector instruction -/

/-- What a vector instruction has done in one go: the state, the element groups committed so far, and the element group and trap at which it
stopped. -/
structure Part where
  st    : State
  done  : Nat
  fault : Option (Nat × BitVec 8 × Word)
  /-- it waits, and the wait is for room in the strip store buffer -/
  wait  : Bool
  full  : Bool

/-- A vector instruction at issue, as a member of a convoy. `run lo hi` commits its element groups from lo up to but not including hi. -/
structure Member where
  word    : Word
  /-- the checks made when it issues -/
  issue   : Except Stop Unit
  /-- the element groups (register, group) that its own group g waits for, mask bits among them (R263) -/
  needs   : Nat → List (Nat × Nat)
  /-- the element groups that its every group waits for (R263) -/
  whole   : List (Nat × Nat)
  /-- registers it reads at groups other than its own, reads as a mask, and writes (R264) -/
  across  : List Nat
  masks   : List Nat
  writes  : List Nat
  /-- R263 lists it as reading across groups, so that it is undone whole -/
  cross   : Bool
  scalarDest : Bool
  deviceClass : Bool
  groups  : Nat
  /-- element groups it overwrites, for the history buffer -/
  touches : List (Nat × Nat)
  /-- the (register, group) reads of the banked file that element group g makes, one list a cycle, in the order of R271 -/
  banks   : Nat → List (List (Nat × Nat))
  /-- the 16-byte granules it stores to from a group on, as its operands stand; the vector registers that decide them; and how many they are at
  most (R200) -/
  granules : Nat → List Nat := fun _ => []
  places  : List Nat := []
  mostGranules : Nat := 0
  /-- the flags of its groups below one, which stay set where it is undone whole (R78, R369) -/
  accrue  : Nat → State → BitVec 5 := fun _ _ => 0
  run     : Nat → Nat → State → Part

/-- One past the last of its element groups that it writes; a write of a register counts as committed from there on (R262). -/
def Member.reach (m : Member) : Nat :=
  if m.writes.isEmpty then m.groups
  else (m.touches.map fun p => m.writes.idxOf p.1 * 4 + p.2 + 1).foldl max 0

def okPart (s : State) (done : Nat) : Part := ⟨s, done, none, false, false⟩

def regsFrom (v n : Nat) : List Nat := (List.range n).map (v + ·)

/-- Element groups of a register group that elements below n of width w reach; all of them when the tail is written. -/
def touchedGroups (rows v w n regs : Nat) (all : Bool) : List (Nat × Nat) :=
  let total := regs * 4
  let k := if all then total else min total ((n * w + rows * 512 - 1) / (rows * 512))
  (List.range k).map fun g => (v + g / 4, g % 4)

/-- Element groups that a range of elements of width w spans. -/
def groupsOf (rows w n : Nat) : Nat := (n * w + rows * 512 - 1) / (rows * 512)

/-- Write elements i of [lo, hi) of a destination: `f` answers the result and flags, or none to keep the old value. Sources are read in the
state before (R114). -/
def writeElems (a0 : Arch) (rows d w : Nat) (f : Nat → Option (Nat × BitVec 5)) (idx : List Nat) : Arch × BitVec 5 :=
  idx.foldl (fun acc i =>
    match f i with
    | none => acc
    | some r => (acc.1.setElem rows d w i r.1, acc.2 ||| r.2)) (a0, 0)

def rangeList (lo hi : Nat) : List Nat := (List.range (hi - lo)).map (lo + ·)

/-- The element-wise skeleton of R117 over the element groups [lo, hi): results below VL, then the tail up to the end of the group. -/
def elementwiseRun (t : Tid) (d w : Nat) (f : Arch → Nat → Option (Nat × BitVec 5)) (lo hi : Nat) (s : State) : Part :=
  let a := s.arch t
  let rows := s.rows t
  let e := rows * 512 / w
  let r := writeElems a rows d w (f a) (rangeList (lo * e) (min a.vl (hi * e)))
  let a' :=
    if tailZero a.vtype then
      (writeElems r.1 rows d w (fun _ => some (0, 0)) (rangeList (max a.vl (lo * e)) (min (a.positions w) (hi * e)))).1
    else r.1
  okPart ((s.setArch t a').raise t r.2) hi

/-- The skeleton for a mask destination: bits below VL of active elements, no tail (R113, R120). -/
def maskRun (t : Tid) (d : Nat) (f : Arch → Nat → Option (Bool × BitVec 5)) (lo hi : Nat) (s : State) : Part :=
  let a := s.arch t
  let rows := s.rows t
  let e := rows * 512
  let r := writeElems a rows d 1 (fun i => (f a i).map fun p => (if p.1 then 1 else 0, p.2)) (rangeList (lo * e) (min a.vl (hi * e)))
  okPart ((s.setArch t r.1).raise t r.2) hi

/-- An element below VL that is active gets `r`. -/
def Arch.ifActive (a : Arch) (rows : Nat) (m : Bool) (i : Nat) (r : Nat × BitVec 5) : Option (Nat × BitVec 5) :=
  if a.active rows m i then some r else none

/-- Registers of the implicit mask (R112). -/
def maskReads (img : BitVec 16) (m : Bool) : List Nat := if m then regsFrom 0 (maskRegs img) else []

/-- An operand check at issue: trap 0x01 with the word (R116). -/
def issueCheck (ok : Bool) (word : Word) : Except Stop Unit := if ok then .ok () else .error (.trap 0x01 word)

/-- Some element of group g, of n elements each, is active, so that its sources are read (R273). -/
def Arch.groupReads (a : Arch) (rows : Nat) (m : Bool) (n g : Nat) : Bool :=
  (rangeList (g * n) (min a.vl ((g + 1) * n))).any fun i => a.active rows m i

/-- The element groups of a source, elements of width `sw` from register v on, that hold the elements of group g of width w. -/
def srcPieces (rows w : Nat) (src : Nat × Nat) (g : Nat) : List (Nat × Nat) :=
  let n := rows * 512 / w
  let lo := g * n * src.2 / (rows * 512)
  let hi := ((g + 1) * n * src.2 + rows * 512 - 1) / (rows * 512)
  (List.range (hi - lo)).map fun j => (src.1 + (lo + j) / 4, (lo + j) % 4)

/-- Reads of group g, each source with the width of its elements, then the mask; a source that spans several groups is read one a cycle. -/
def groupBanks (a : Arch) (rows : Nat) (m : Bool) (w : Nat) (srcs : List (Nat × Nat)) (g : Nat) : List (List (Nat × Nat)) :=
  if a.groupReads rows m (rows * 512 / w) g then
    let pieces := (srcs ++ if m then [(0, 1)] else []).map fun p => srcPieces rows w p g
    (List.range ((pieces.map List.length).foldl max 0)).map fun j => pieces.filterMap fun l => l[j]?
  else []

/-- The read of v31 as scales beside the first reads of a group (R149, R271). -/
def withScales (l : List (List (Nat × Nat))) : List (List (Nat × Nat)) :=
  match l with
  | [] => []
  | c :: rest => (c ++ [(31, 0)]) :: rest

def atWidth (w : Nat) (srcs : List Nat) : List (Nat × Nat) := srcs.map fun v => (v, w)

/-- The element groups of sources, each with the width of its elements, and of the mask, that group g of width w reads (R263). -/
def groupNeeds (rows w : Nat) (m : Bool) (srcs : List (Nat × Nat)) (g : Nat) : List (Nat × Nat) :=
  (srcs ++ if m then [(0, 1)] else []).flatMap fun (p : Nat × Nat) => srcPieces rows w p g

/-- The element groups that the first n elements of sources and of the mask fill (R263). -/
def wholeNeeds (rows n : Nat) (m : Bool) (srcs : List (Nat × Nat)) : List (Nat × Nat) :=
  (srcs ++ if m then [(0, 1)] else []).flatMap fun (p : Nat × Nat) => (List.range (groupsOf rows p.2 n)).map fun g => (p.1 + g / 4, g % 4)

/-- Results at positions with their values and flags: the flags of those below group hi of width w. -/
def flagsBelow (rows w hi : Nat) (l : List (Nat × Nat × BitVec 5)) : BitVec 5 :=
  orFlags ((l.filter fun r => decide (r.1 < hi * (rows * 512 / w))).map fun r => r.2.2)

/-- What a member that commits whole has accrued of the results it works out. -/
def accrueOf (w : Nat) (f : State → Except Stop (List (Nat × Nat × BitVec 5))) (hi : Nat) (s : State) : BitVec 5 :=
  match f s with
  | .ok l => flagsBelow (s.rows s.cur) w hi l
  | .error _ => 0

/-- An element-wise member (R117): `dw` is the width of the destination, `srcs` its sources with their widths in the order of R271, `cross` that
it reads across groups. -/
def elemMember (s : State) (word : Word) (ok : Bool) (m : Bool) (d : VReg) (dw : Nat) (srcs : List (Nat × Nat)) (cross : Bool)
    (f : Arch → Nat → Option (Nat × BitVec 5)) : Member :=
  let t := s.cur
  let a := s.arch t
  let rows := s.rows t
  let mult := multOf a.vtype
  { word := word, issue := issueCheck (ok && groupOk d.toNat mult) word
    needs := groupNeeds rows dw m srcs, whole := []
    across := if cross then srcs.flatMap (fun v => regsFrom v.1 mult) else []
    masks := maskReads a.vtype m
    accrue := fun hi s => (writeElems (s.arch s.cur) rows d.toNat dw (f (s.arch s.cur)) (List.range (min (s.arch s.cur).vl (hi * (rows * 512 / dw))))).2
    writes := regsFrom d.toNat mult, cross := cross, scalarDest := false, deviceClass := false
    groups := mult * 4
    touches := touchedGroups rows d.toNat dw a.vl mult (tailZero a.vtype)
    banks := groupBanks a rows m dw srcs
    run := fun lo hi s => elementwiseRun s.cur d.toNat dw f lo hi s }

/-- A member that writes a mask (R113, R120, R124). `w` is the width of its sources' elements. -/
def maskMember (s : State) (word : Word) (ok : Bool) (m : Bool) (d : VReg) (w : Nat) (srcs : List Nat) (srcRegs : Nat) (cross : Bool)
    (f : Arch → Nat → Option (Bool × BitVec 5)) : Member :=
  let t := s.cur
  let a := s.arch t
  let rows := s.rows t
  let span := maskRegs a.vtype
  { word := word, issue := issueCheck (ok && maskOk a.vtype d.toNat) word
    needs := groupNeeds rows 1 m (atWidth w srcs), whole := []
    across := if cross then srcs.flatMap (fun v => regsFrom v srcRegs) else []
    masks := maskReads a.vtype m
    accrue := fun hi s => orFlags ((List.range (min (s.arch s.cur).vl (hi * (rows * 512)))).filterMap fun i => (f (s.arch s.cur) i).map Prod.snd)
    writes := regsFrom d.toNat span, cross := cross, scalarDest := false, deviceClass := false
    groups := span * 4
    touches := touchedGroups rows d.toNat 1 a.vl span false
    banks := groupBanks a rows m 1 (atWidth w srcs)
    run := fun lo hi s => maskRun s.cur d.toNat f lo hi s }

/-- A member whose result goes to a scalar register when it retires (R124, R141). -/
def scalarMember (s : State) (word : Word) (ok : Bool) (m : Bool) (w : Nat) (srcs : List Nat) (srcRegs : Nat) (d : XReg) (f : State → Except Stop Word) :
    Member :=
  let t := s.cur
  let a := s.arch t
  { word := word, issue := issueCheck ok word
    needs := fun _ => [], whole := wholeNeeds (s.rows t) a.vl m (atWidth w srcs)
    across := srcs.flatMap (fun v => regsFrom v srcRegs), masks := maskReads a.vtype m
    writes := [], cross := true, scalarDest := true, deviceClass := false, groups := srcRegs * 4, touches := []
    banks := groupBanks a (s.rows t) m w (atWidth w srcs)
    run := fun _ hi s =>
      if hi = 0 then okPart s 0
      else
        match f s with
        | .ok v => okPart (s.setX d v) hi
        | .error (.trap c val) => ⟨s, 0, some (0, c, val), false, false⟩
        | .error .wait => ⟨s, 0, none, true, false⟩ }

/-- A member that reads across groups and commits whole (R263): `f` gives the state after it, or its trap before it has written anything. `levels`
are the registers of nest levels that it reads, each with how many entries. -/
def crossMember (s : State) (word : Word) (ok : Bool) (m : Bool) (w : Nat) (srcs : List (Nat × Nat)) (srcRegs : Nat) (levels : List (Nat × Nat))
    (writes : List Nat) (touches : List (Nat × Nat)) (f : State → Except Stop State) : Member :=
  let a := s.arch s.cur
  { word := word, issue := issueCheck ok word
    needs := fun _ => []
    whole := wholeNeeds (s.rows s.cur) a.vl m srcs ++ levels.flatMap fun l => wholeNeeds (s.rows s.cur) l.2 false [(l.1, 32)]
    across := srcs.flatMap (fun v => regsFrom v.1 srcRegs) ++ levels.map Prod.fst, masks := maskReads a.vtype m
    writes := writes, cross := true, scalarDest := false, deviceClass := false
    groups := max 1 (writes.length * 4), touches := touches
    banks := groupBanks a (s.rows s.cur) m w srcs
    run := fun _ hi s =>
      if hi = 0 then okPart s 0
      else
        match f s with
        | .ok s' => okPart s' hi
        | .error (.trap c val) => ⟨s, 0, some (0, c, val), false, false⟩
        | .error .wait => ⟨s, 0, none, true, false⟩ }

/-- Elements written at positions given with their values. -/
def Arch.putElems (a : Arch) (rows d w : Nat) (l : List (Nat × Nat)) : Arch := l.foldl (fun a p => a.setElem rows d w p.1 p.2) a

/-- tailfrom(v, w, c): zero from position c when the tail policy says so (R135). -/
def Arch.tailFrom (a : Arch) (rows d w c : Nat) : Arch :=
  if tailZero a.vtype then a.putElems rows d w ((rangeList c (a.positions w)).map fun i => (i, 0)) else a

/-! ## Nests (R126 to R129) -/

def Nest.count (n : Nest) (level : Nat) : Nat := ((n.c.toArray.toList)[level - 1]?.getD 0).toNat
def Nest.setCount (n : Nest) (level c : Nat) : Nest :=
  if h : level - 1 < 4 then { n with c := n.c.set (level - 1) (BitVec.ofNat 12 c) } else n
def Nest.reg (n : Nest) (level : Nat) : Nat := n.base.toNat + level - 1

def Arch.nest (a : Arch) (n : NReg) : Nest := a.nests[n.toNat]'(n.isLt)
def Arch.setNest (a : Arch) (n : NReg) (x : Nest) : Arch := { a with nests := a.nests.set n.toNat x n.isLt }

/-- Entry k of level ℓ: an unsigned 32-bit offset in one register (R127). -/
def Arch.off (a : Arch) (rows : Nat) (n : Nest) (level k : Nat) : Nat := a.elem rows (n.reg level) 32 k

def nestTrap (level code : Nat) : Stop := .trap 0x08 (BitVec.ofNat 64 (level * 2 ^ 32 + code))

/-- The first entry at which a level breaks R127, given the count of the level below. -/
def Arch.levelBreak (a : Arch) (rows : Nat) (n : Nest) (level below : Nat) : Option Nat :=
  let c := n.count level
  (List.range (c + 1)).find? fun k =>
    let v := a.off rows n level k
    (k == 0 && v != 0) || (k != 0 && decide (v < a.off rows n level (k - 1))) || (k == c && v != below)

/-- Levels from the innermost outward. -/
def levelsDown (lo hi : Nat) : List Nat := (rangeList lo (hi + 1)).reverse

/-- Conditions 3, 4 and 5 of R129 for levels lo to D, with a level the instruction writes beside them. -/
def Arch.checkLevels (a : Arch) (rows : Nat) (n : Nest) (lo : Nat) (written : Option (Nat × Nat)) : Except Stop Unit :=
  let levels := levelsDown lo n.d.val
  let outer := (match written with | some (l, _) => [l] | none => []) ++ levels
  match outer.find? fun l => decide (31 < n.reg l) with
  | some l => .error (nestTrap l 0xFFFF_FFFE)
  | none =>
    let tooMany (l : Nat) : Bool :=
      match written with
      | some (l', c) => if l = l' then decide (64 * rows < c + 1) else decide (64 * rows < n.count l + 1)
      | none => decide (64 * rows < n.count l + 1)
    match outer.find? tooMany with
    | some l => .error (nestTrap l 0xFFFF_FFFD)
    | none =>
      levels.foldl (fun r l =>
        match r with
        | .error e => .error e
        | .ok () =>
          match a.levelBreak rows n l (if l = n.d.val then a.vl else n.count (l + 1)) with
          | some k => .error (nestTrap l k)
          | none => .ok ()) (.ok ())

/-- A depth operand's checks: it must not exceed D, and levels d to D must pass (R129). -/
def Arch.checkDepth (a : Arch) (rows : Nat) (n : Nest) (d : Nat) : Except Stop Unit :=
  if d = 0 then .ok ()
  else if n.d.val < d then .error (nestTrap d 0xFFFF_FFFF)
  else a.checkLevels rows n d none

/-- The segment boundaries of a depth (R128). -/
def Arch.segs (a : Arch) (rows : Nat) (n : Nest) (d : Nat) : List Nat :=
  if d = 0 then [0, a.vl]
  else
    let s0 := (List.range (n.count d + 1)).map fun k => a.off rows n d k
    (rangeList (d + 1) (n.d.val + 1)).foldl (fun s l => s.map fun k => a.off rows n l k) s0

/-- The segments as pairs of first element and end. -/
def segPairs (s : List Nat) : List (Nat × Nat) := s.zip s.tail

/-- For each element below VL: its segment, the segment's start and end. -/
def segOfElems (s : List Nat) : List (Nat × Nat × Nat) :=
  ((segPairs s).zipIdx).flatMap fun p => List.replicate (p.1.2 - p.1.1) (p.2, p.1.1, p.1.2)

/-- Registers of levels d to D, each with its entries. -/
def Nest.regsFrom (n : Nest) (d : Nat) : List (Nat × Nat) :=
  if d = 0 then [] else (rangeList d (n.d.val + 1)).map fun l => (n.reg l, n.count l + 1)

/-- The segments of a depth: one, or as many as its level counts (R128). -/
def Nest.segments (n : Nest) (d : Nat) : Nat := if d = 0 then 1 else n.count d

/-! ## History, store buffer and pennants -/

/-- Bytes at these keys fit in the hart's strip store buffer of 8,192 granules (R200). -/
def State.storeFits (s : State) (t : Tid) (keys : List Nat) : Bool :=
  let held := s.heldGranules (hartOf t)
  let need := ((keys.map fun k => (t.val, k / 16)).dedup.filter fun g => !held.contains g).length
  decide (held.length + need ≤ 8192)

/-- Bytes of one entry of the history buffer: an accumulator row (register number 32) 1 KiB, an element group 64 bytes a row (R258). -/
def historyEntry (rows : Nat) (e : Nat × Nat) : Nat := if e.1 = 32 then 1024 else rows * 64

/-- The history buffer of a hart, shared by its lane groups: 256 KiB (R258, R274). -/
def historySize : Nat := 0x4_0000
def State.historyUse (s : State) (h : HartId) : Nat :=
  (List.range 8).foldl (fun n k =>
    let t := tidOf h ⟨k % 8, Nat.mod_lt _ (by decide)⟩
    (((s.thr t).history ++ (s.thr t).closingHistory).map (historyEntry (s.rows t))).foldl (· + ·) n) 0

/-- The entries a strip has not yet recorded, and their size. -/
def State.newHistory (s : State) (t : Tid) (items : List (Nat × Nat)) : List (Nat × Nat) :=
  items.dedup.filter fun e => !(s.thr t).history.contains e
def State.historyNeed (s : State) (t : Tid) (items : List (Nat × Nat)) : Nat :=
  ((s.newHistory t items).map (historyEntry (s.rows t))).foldl (· + ·) 0
def State.historyFits (s : State) (t : Tid) (items : List (Nat × Nat)) : Bool :=
  decide (s.historyUse (hartOf t) + s.historyNeed t items ≤ historySize)
def State.record (s : State) (t : Tid) (items : List (Nat × Nat)) : State :=
  if items.isEmpty then s else s.setThr t { s.thr t with history := s.newHistory t items ++ (s.thr t).history }

/-- Record entries, after an implicit checkpoint when they would overflow the buffer (R166, R260). -/
def State.reserve (s : State) (t : Tid) (items : List (Nat × Nat)) : State :=
  (if s.historyFits t items then s else s.implicitCkpt t).record t items

/-- A transfer or fold of thread t in flight names one of these registers as its pennant register (R243). -/
def State.pennantBusy (s : State) (t : Tid) (regs : List Nat) : Bool :=
  (s.hrt (hartOf t)).transfers.any fun x => x.tid == t && regs.contains x.vp.toNat

/-! ## Progress (R262) -/

/-- PROG of a destination group: idle with index 4, or busy with the index that its committed groups give (R262). -/
def Arch.putProg (a : Arch) (regs : List Nat) (done : Option Nat) : Arch :=
  (regs.zipIdx).foldl (fun (a : Arch) p =>
    let v : BitVec 4 := match done with | none => 4 | some g => 8 ||| BitVec.ofNat 4 (min 4 (g - 4 * p.2))
    if h : p.1 < 32 then (if a.prog[p.1] = v then a else { a with prog := a.prog.set p.1 v }) else a) a

/-! ## Loss counters (R271, R272) -/

/-- Replayed reads of each bank counted. -/
def State.addLosses (s : State) (t : Tid) (n : Nat → Nat) : State :=
  let th := s.thr t
  let v := (List.range 16).foldl (fun (v : Vector (BitVec 32) 16) b =>
    if h : b < 16 then (if n b = 0 then v else v.set b (v[b] + BitVec.ofNat 32 (n b))) else v) th.rfloss
  s.setThr t { th with rfloss := v }

/-- An instruction outside a convoy reads these registers, in cycles that the spec does not give: its losses are free in a bank that holds two of
them (assumption 9). -/
def State.countShared (s : State) (t : Tid) (regs : List Nat) : State :=
  if (List.range 16).all fun b => decide ((regs.dedup.filter fun r => r % 16 == b).length < 2) then s
  else
    let s' := s.addLosses t fun b => if 2 ≤ (regs.dedup.filter fun r => r % 16 == b).length then Config.bankReplays (s.fresh + b) else 0
    { s' with fresh := s'.fresh + 16 }

/-! ## Identities (R94) -/

inductive RedOp where
  | sum | min | max | and | or | xor | fsum | fmin | fmax
deriving DecidableEq, Repr

def identOf (op : RedOp) (f : Fmt) (w : Nat) : Nat :=
  match op with
  | .sum => 0
  | .min => 2 ^ (w - 1) - 1
  | .max => 2 ^ (w - 1)
  | .and => 2 ^ w - 1
  | .or => 0
  | .xor => 0
  | .fsum => 0
  | .fmin => f.infBits
  | .fmax => f.signBit + f.infBits

/-- Fold active values pairwise from the identity; min and max of floating values propagate NaN (R72, R93). -/
def reduceVals (op : RedOp) (f : Fmt) (w : Nat) (vals : List Nat) : Nat × BitVec 5 :=
  let step (g : Nat → Nat → Nat) : Nat × BitVec 5 := (vals.foldl g (identOf op f w), 0)
  match op with
  | .sum => step fun x y => (x + y) % 2 ^ w
  | .min => step fun x y => if sext w y < sext w x then y else x
  | .max => step fun x y => if sext w x < sext w y then y else x
  | .and => step fun x y => x &&& y
  | .or => step fun x y => x ||| y
  | .xor => step fun x y => x ^^^ y
  | .fsum => fsum f (vals.map some)
  | .fmin => vals.foldl (fun acc y => let r := fminmax f false acc.1 y; (r.1, acc.2 ||| r.2)) (identOf op f w, 0)
  | .fmax => vals.foldl (fun acc y => let r := fminmax f true acc.1 y; (r.1, acc.2 ||| r.2)) (identOf op f w, 0)

/-- Reduce a segment's positions, none where masked off: FP64 sums keep the positions for their pairing (R92). -/
def reduceSeg (op : RedOp) (f : Fmt) (w : Nat) (l : List (Option Nat)) : Nat × BitVec 5 :=
  match op with
  | .fsum => fsum f l
  | op => reduceVals op f w (l.filterMap id)

end Sys2Proof.Machine
end

