-- ==== Sys2Proof/Machine/Vialu.lean ====
section
/-! DEFINITION. Element-wise integer instructions as convoy members (spec/05_vector_arithmetic.md R106, R111 to R119). -/

namespace Sys2Proof.Machine

/-- Registers a third operand reads. -/
def srcRegsOf (b : VSrc) : List Nat := match b with | .vec v => [v.toNat] | .scal _ => []

/-- The shift amount: the low log2(w) bits of B (R118). -/
def shiftOf (w b : Nat) : Nat := b % w

/-- A two-source member of width w, accepted from element width code `lo` to `hi` (R116, R118). -/
def intMember (s : State) (word : Word) (lo hi : Nat) (m : Bool) (d a : VReg) (b : VSrc) (f : Nat → Nat → Nat → Nat) : Member :=
  let img := (s.arch s.cur).vtype
  let rows := s.rows s.cur
  let w := widthOf img
  let mult := multOf img
  elemMember s word (decide (lo ≤ ewOf img) && decide (ewOf img ≤ hi) && groupOk a.toNat mult && srcGroupOk b mult) m d w
    (atWidth w (a.toNat :: srcRegsOf b)) false
    fun x i => x.ifActive rows m i (f w (x.elem rows a.toNat w i) (x.srcElem rows w b i) % 2 ^ w, 0)

/-- vadd: A + B (R118). -/
def memberVadd (m : Bool) (d a : VReg) (b : VSrc) (s : State) : Member :=
  intMember s (wordOf (.vadd m d a b)) 1 4 m d a b fun _ x y => x + y

/-- vsub: A - B (R118). -/
def memberVsub (m : Bool) (d a : VReg) (b : VSrc) (s : State) : Member :=
  intMember s (wordOf (.vsub m d a b)) 1 4 m d a b fun w x y => x + 2 ^ w - y

/-- vmul: the low w bits of A times B (R118). -/
def memberVmul (m : Bool) (d a : VReg) (b : VSrc) (s : State) : Member :=
  intMember s (wordOf (.vmul m d a b)) 1 4 m d a b fun _ x y => x * y

/-- vand: A and B (R118). -/
def memberVand (m : Bool) (d a : VReg) (b : VSrc) (s : State) : Member :=
  intMember s (wordOf (.vand m d a b)) 0 4 m d a b fun _ x y => x &&& y

/-- vor: A or B (R118). -/
def memberVor (m : Bool) (d a : VReg) (b : VSrc) (s : State) : Member :=
  intMember s (wordOf (.vor m d a b)) 0 4 m d a b fun _ x y => x ||| y

/-- vxor: A exclusive or B (R118). -/
def memberVxor (m : Bool) (d a : VReg) (b : VSrc) (s : State) : Member :=
  intMember s (wordOf (.vxor m d a b)) 0 4 m d a b fun _ x y => x ^^^ y

/-- vsll: A shifted left (R118). -/
def memberVsll (m : Bool) (d a : VReg) (b : VSrc) (s : State) : Member :=
  intMember s (wordOf (.vsll m d a b)) 1 4 m d a b fun w x y => x * 2 ^ shiftOf w y

/-- vsrl: A shifted right logically (R118). -/
def memberVsrl (m : Bool) (d a : VReg) (b : VSrc) (s : State) : Member :=
  intMember s (wordOf (.vsrl m d a b)) 1 4 m d a b fun w x y => x / 2 ^ shiftOf w y

/-- vsra: A shifted right arithmetically (R118). -/
def memberVsra (m : Bool) (d a : VReg) (b : VSrc) (s : State) : Member :=
  intMember s (wordOf (.vsra m d a b)) 1 4 m d a b fun w x y => wrap w (sext w x / (2 ^ shiftOf w y : Nat))

/-- vmin: the smaller, signed (R118). -/
def memberVmin (m : Bool) (d a : VReg) (b : VSrc) (s : State) : Member :=
  intMember s (wordOf (.vmin m d a b)) 1 4 m d a b fun w x y => if sext w y < sext w x then y else x

/-- vmax: the larger, signed (R118). -/
def memberVmax (m : Bool) (d a : VReg) (b : VSrc) (s : State) : Member :=
  intMember s (wordOf (.vmax m d a b)) 1 4 m d a b fun w x y => if sext w x < sext w y then y else x

/-- vsadd: the saturating signed sum (R118). -/
def memberVsadd (m : Bool) (d a : VReg) (b : VSrc) (s : State) : Member :=
  intMember s (wordOf (.vsadd m d a b)) 1 4 m d a b fun w x y => satS w (sext w x + sext w y)

/-- vssub: the saturating signed difference (R118). -/
def memberVssub (m : Bool) (d a : VReg) (b : VSrc) (s : State) : Member :=
  intMember s (wordOf (.vssub m d a b)) 1 4 m d a b fun w x y => satS w (sext w x - sext w y)

/-- One bits of a number below 2^w. -/
def onesIn (w x : Nat) : Nat := (List.range w).foldl (fun n j => n + x / 2 ^ j % 2) 0

/-- vpopc: one bits of A (R118). -/
def memberVpopc (m : Bool) (d a : VReg) (s : State) : Member :=
  let img := (s.arch s.cur).vtype
  let rows := s.rows s.cur
  let w := widthOf img
  elemMember s (wordOf (.vpopc m d a)) (decide (1 ≤ ewOf img) && groupOk a.toNat (multOf img)) m d w [(a.toNat, w)] false
    fun x i => x.ifActive rows m i (onesIn w (x.elem rows a.toNat w i), 0)

/-- vmerge: B where the mask bit is set, else A, for every element below VL (R118). -/
def memberVmerge (d a : VReg) (b : VSrc) (s : State) : Member :=
  let img := (s.arch s.cur).vtype
  let rows := s.rows s.cur
  let w := widthOf img
  let mult := multOf img
  let base := elemMember s (wordOf (.vmerge d a b)) (groupOk a.toNat mult && srcGroupOk b mult) false d w (atWidth w (a.toNat :: srcRegsOf b)) false
    fun x i => some (if x.maskBit rows 0 i then x.srcElem rows w b i else x.elem rows a.toNat w i, 0)
  { base with
    needs := groupNeeds rows w true (atWidth w (a.toNat :: srcRegsOf b))
    masks := maskReads img true
    banks := groupBanks (s.arch s.cur) rows false w (atWidth w (a.toNat :: srcRegsOf b) ++ [(0, 1)]) }

/-- vmv: A (R118). -/
def memberVmv (m : Bool) (d a : VReg) (s : State) : Member :=
  let img := (s.arch s.cur).vtype
  let rows := s.rows s.cur
  let w := widthOf img
  elemMember s (wordOf (.vmv m d a)) (groupOk a.toNat (multOf img)) m d w [(a.toNat, w)] false
    fun x i => x.ifActive rows m i (x.elem rows a.toNat w i, 0)

/-- vmv in its scalar form: X[b] in every element (R118). -/
def memberVmvScalar (m : Bool) (d : VReg) (b : XReg) (s : State) : Member :=
  let img := (s.arch s.cur).vtype
  let rows := s.rows s.cur
  let w := widthOf img
  elemMember s (wordOf (.vmvScalar m d b)) true m d w [] false
    fun x i => x.ifActive rows m i ((x.getX b).toNat % 2 ^ w, 0)

/-- vid: i mod 2^w (R118). -/
def memberVid (m : Bool) (d : VReg) (s : State) : Member :=
  let img := (s.arch s.cur).vtype
  let rows := s.rows s.cur
  let w := widthOf img
  elemMember s (wordOf (.vid m d)) (decide (1 ≤ ewOf img)) m d w [] false
    fun x i => x.ifActive rows m i (i % 2 ^ w, 0)

/-- vwiden: the narrow element extended, then shifted left (R119). -/
def memberVwiden (m sgn : Bool) (d a : VReg) (b : VSrc) (s : State) : Member :=
  let img := (s.arch s.cur).vtype
  let rows := s.rows s.cur
  let w := widthOf img
  let h := w / 2
  let mult := multOf img
  elemMember s (wordOf (.vwiden m sgn d a b)) (decide (2 ≤ ewOf img) && groupOk a.toNat mult && srcGroupOk b mult) m d w
    ((a.toNat, h) :: atWidth w (srcRegsOf b)) true
    fun x i =>
      let n := x.elem rows a.toNat h i
      let v := if sgn then wrap w (sext h n) else n
      x.ifActive rows m i (v * 2 ^ shiftOf w (x.srcElem rows w b i) % 2 ^ w, 0)

/-- vnarrow: shifted right rounding down, then saturated to half the width (R119). -/
def memberVnarrow (m sgn : Bool) (d a : VReg) (b : VSrc) (s : State) : Member :=
  let img := (s.arch s.cur).vtype
  let rows := s.rows s.cur
  let w := widthOf img
  let h := w / 2
  let mult := multOf img
  elemMember s (wordOf (.vnarrow m sgn d a b)) (decide (2 ≤ ewOf img) && groupOk a.toNat mult && srcGroupOk b mult) m d h
    (atWidth w (a.toNat :: srcRegsOf b)) true
    fun x i =>
      let n := x.elem rows a.toNat w i
      let k := shiftOf w (x.srcElem rows w b i)
      x.ifActive rows m i (if sgn then satS h (sext w n / (2 ^ k : Nat)) else satU h ((n / 2 ^ k : Nat) : Int), 0)

end Sys2Proof.Machine
end

