-- ==== Sys2Proof/Machine/Vcmp.lean ====
section
/-! DEFINITION. Comparisons to a mask (spec/05_vector_arithmetic.md R120). -/

namespace Sys2Proof.Machine

/-- A comparison member: `rel` answers the bit and its flags from the width, the format and the two elements. -/
def cmpMember (s : State) (word : Word) (lo : Nat) (m : Bool) (d a : VReg) (b : VSrc) (rel : Nat → Fmt → Nat → Nat → Bool × BitVec 5) : Member :=
  let img := (s.arch s.cur).vtype
  let rows := s.rows s.cur
  let w := widthOf img
  let mult := multOf img
  maskMember s word (decide (lo ≤ ewOf img) && groupOk a.toNat mult && srcGroupOk b mult) m d w (a.toNat :: srcRegsOf b) mult true
    fun x i =>
      if x.active rows m i then some (rel w (fmtOf img) (x.elem rows a.toNat w i) (x.srcElem rows w b i)) else none

/-- vcmpeq: A = B (R120). -/
def memberVcmpeq (m : Bool) (d a : VReg) (b : VSrc) (s : State) : Member :=
  cmpMember s (wordOf (.vcmpeq m d a b)) 1 m d a b fun _ _ x y => (x == y, 0)

/-- vcmpne: A ≠ B (R120). -/
def memberVcmpne (m : Bool) (d a : VReg) (b : VSrc) (s : State) : Member :=
  cmpMember s (wordOf (.vcmpne m d a b)) 1 m d a b fun _ _ x y => (x != y, 0)

/-- vcmplt: A < B, signed (R120). -/
def memberVcmplt (m : Bool) (d a : VReg) (b : VSrc) (s : State) : Member :=
  cmpMember s (wordOf (.vcmplt m d a b)) 1 m d a b fun w _ x y => (decide (sext w x < sext w y), 0)

/-- vcmpltu: A < B, unsigned (R120). -/
def memberVcmpltu (m : Bool) (d a : VReg) (b : VSrc) (s : State) : Member :=
  cmpMember s (wordOf (.vcmpltu m d a b)) 1 m d a b fun _ _ x y => (decide (x < y), 0)

/-- vcmple: A ≤ B, signed (R120). -/
def memberVcmple (m : Bool) (d a : VReg) (b : VSrc) (s : State) : Member :=
  cmpMember s (wordOf (.vcmple m d a b)) 1 m d a b fun w _ x y => (decide (sext w x ≤ sext w y), 0)

/-- vcmpleu: A ≤ B, unsigned (R120). -/
def memberVcmpleu (m : Bool) (d a : VReg) (b : VSrc) (s : State) : Member :=
  cmpMember s (wordOf (.vcmpleu m d a b)) 1 m d a b fun _ _ x y => (decide (x ≤ y), 0)

/-- vfcmpeq: A = B in fmt (R120). -/
def memberVfcmpeq (m : Bool) (d a : VReg) (b : VSrc) (s : State) : Member :=
  cmpMember s (wordOf (.vfcmpeq m d a b)) 2 m d a b fun _ f x y => fcmp .eq (unpack f x) (unpack f y)

/-- vfcmplt: A < B in fmt (R120). -/
def memberVfcmplt (m : Bool) (d a : VReg) (b : VSrc) (s : State) : Member :=
  cmpMember s (wordOf (.vfcmplt m d a b)) 2 m d a b fun _ f x y => fcmp .lt (unpack f x) (unpack f y)

/-- vfcmple: A ≤ B in fmt (R120). -/
def memberVfcmple (m : Bool) (d a : VReg) (b : VSrc) (s : State) : Member :=
  cmpMember s (wordOf (.vfcmple m d a b)) 2 m d a b fun _ f x y => fcmp .le (unpack f x) (unpack f y)

end Sys2Proof.Machine
end

