-- ==== Sys2Proof/Machine/Vfpu.lean ====
section
/-! DEFINITION. Element-wise floating-point instructions (spec/05_vector_arithmetic.md R121 to R123). -/

namespace Sys2Proof.Machine

/-- A member over A, B and the old D in the format of the element width (R121). -/
def fpMember (s : State) (word : Word) (m : Bool) (d a : VReg) (b : Option VReg) (readsD : Bool) (f : Fmt → Nat → Nat → Nat → Nat × BitVec 5) :
    Member :=
  let img := (s.arch s.cur).vtype
  let rows := s.rows s.cur
  let w := widthOf img
  let mult := multOf img
  let vb := match b with | some v => [v.toNat] | none => []
  elemMember s word (decide (2 ≤ ewOf img) && groupOk a.toNat mult && vb.all fun v => groupOk v mult) m d w
    (atWidth w (a.toNat :: vb ++ (if readsD then [d.toNat] else []))) false
    fun x i =>
      let y := match b with | some v => x.elem rows v.toNat w i | none => 0
      if x.active rows m i then some (f (fmtOf img) (x.elem rows a.toNat w i) y (if readsD then x.elem rows d.toNat w i else 0)) else none

/-- vfadd: the rounded sum (R121). -/
def memberVfadd (m : Bool) (d a b : VReg) (s : State) : Member :=
  fpMember s (wordOf (.vfadd m d a b)) m d a (some b) false fun f x y _ => fadd f (unpack f x) (unpack f y)

/-- vfsub: the rounded difference (R121). -/
def memberVfsub (m : Bool) (d a b : VReg) (s : State) : Member :=
  fpMember s (wordOf (.vfsub m d a b)) m d a (some b) false fun f x y _ => fsub f (unpack f x) (unpack f y)

/-- vfmul: the rounded product (R121). -/
def memberVfmul (m : Bool) (d a b : VReg) (s : State) : Member :=
  fpMember s (wordOf (.vfmul m d a b)) m d a (some b) false fun f x y _ => fmul f (unpack f x) (unpack f y)

/-- vfma: A times B plus the old D, one rounding (R121). -/
def memberVfma (m : Bool) (d a b : VReg) (s : State) : Member :=
  fpMember s (wordOf (.vfma m d a b)) m d a (some b) true fun f x y z => ffma f (unpack f x) (unpack f y) (unpack f z)

/-- vfdiv: the rounded quotient (R121). -/
def memberVfdiv (m : Bool) (d a b : VReg) (s : State) : Member :=
  fpMember s (wordOf (.vfdiv m d a b)) m d a (some b) false fun f x y _ => fdiv f (unpack f x) (unpack f y)

/-- vfmin: minimum under R72 (R121). -/
def memberVfmin (m : Bool) (d a b : VReg) (s : State) : Member :=
  fpMember s (wordOf (.vfmin m d a b)) m d a (some b) false fun f x y _ => fminmax f false x y

/-- vfmax: maximum under R72 (R121). -/
def memberVfmax (m : Bool) (d a b : VReg) (s : State) : Member :=
  fpMember s (wordOf (.vfmax m d a b)) m d a (some b) false fun f x y _ => fminmax f true x y

/-- vfscale: A times 2 to the signed integer B, one rounding (R121). -/
def memberVfscale (m : Bool) (d a b : VReg) (s : State) : Member :=
  fpMember s (wordOf (.vfscale m d a b)) m d a (some b) false fun f x y _ => fscale f (unpack f x) (sext f.width y)

/-- vflogt: the logit of R123 from x = A, M = B and T the old D (R121). -/
def memberVflogt (m : Bool) (d a b : VReg) (s : State) : Member :=
  fpMember s (wordOf (.vflogt m d a b)) m d a (some b) true fun f x y z => flogt f (unpack f x) (unpack f y) (unpack f z)

/-- vfcvtfi: the signed integer A in fmt (R75). -/
def memberVfcvtfi (m : Bool) (d a : VReg) (s : State) : Member :=
  fpMember s (wordOf (.vfcvtfi m d a)) m d a none false fun f x _ _ => ofInt f (sext f.width x)

/-- vfcvtif: A to a signed integer of width w in the mode r (R74). -/
def memberVfcvtif (m : Bool) (r : RMode) (d a : VReg) (s : State) : Member :=
  fpMember s (wordOf (.vfcvtif m r d a)) m d a none false fun f x _ _ => toInt r f.width (unpack f x)

/-- The narrow format of a variant under an element width, when accepted (R116, R122). -/
def narrowFmt (ew : Nat) (n : Narrow) : Option Fmt :=
  if ew = 3 then some (match n with | .e4m3 => .e4m3 | .e5m2 => .e5m2 | .bf16 => .bf16 | .f16 => .fp16)
  else if ew = 4 ∧ n = .e4m3 then some .fp32
  else none

/-- vfwiden: the narrow element, exactly (R122). -/
def memberVfwiden (m : Bool) (n : Narrow) (d a : VReg) (s : State) : Member :=
  let img := (s.arch s.cur).vtype
  let rows := s.rows s.cur
  let nf := (narrowFmt (ewOf img) n).getD .fp32
  elemMember s (wordOf (.vfwiden m n d a)) ((narrowFmt (ewOf img) n).isSome && groupOk a.toNat (multOf img)) m d (widthOf img) [(a.toNat, nf.width)] true
    fun x i => if x.active rows m i then some (convert nf (fmtOf img) .standard (x.elem rows a.toNat nf.width i)) else none

/-- vfnarrow: A rounded once into the narrow format (R122). -/
def memberVfnarrow (m : Bool) (n : Narrow) (d a : VReg) (s : State) : Member :=
  let img := (s.arch s.cur).vtype
  let rows := s.rows s.cur
  let w := widthOf img
  let nf := (narrowFmt (ewOf img) n).getD .fp32
  elemMember s (wordOf (.vfnarrow m n d a)) ((narrowFmt (ewOf img) n).isSome && groupOk a.toNat (multOf img)) m d nf.width [(a.toNat, w)] true
    fun x i => if x.active rows m i then some (convert (fmtOf img) nf .standard (x.elem rows a.toNat w i)) else none

end Sys2Proof.Machine
end

