-- ==== Sys2Proof/Machine/Vmask.lean ====
section
/-! DEFINITION. Mask instructions (spec/05_vector_arithmetic.md R124). -/

namespace Sys2Proof.Machine

/-- A member over two masks. -/
def maskOpMember (s : State) (word : Word) (m : Bool) (d a b : VReg) (f : Bool → Bool → Bool) : Member :=
  let img := (s.arch s.cur).vtype
  let rows := s.rows s.cur
  maskMember s word (maskOk img a.toNat && maskOk img b.toNat) m d 1 [a.toNat, b.toNat] (maskRegs img) false
    fun x i => if x.active rows m i then some (f (x.maskBit rows a.toNat i) (x.maskBit rows b.toNat i), 0) else none

/-- vmand (R124). -/
def memberVmand (m : Bool) (d a b : VReg) (s : State) : Member := maskOpMember s (wordOf (.vmand m d a b)) m d a b (· && ·)
/-- vmor (R124). -/
def memberVmor (m : Bool) (d a b : VReg) (s : State) : Member := maskOpMember s (wordOf (.vmor m d a b)) m d a b (· || ·)
/-- vmxor (R124). -/
def memberVmxor (m : Bool) (d a b : VReg) (s : State) : Member := maskOpMember s (wordOf (.vmxor m d a b)) m d a b (· != ·)

/-- The set bits below VL of active elements of a mask. -/
def Arch.setBits (a : Arch) (rows : Nat) (m : Bool) (v : VReg) : List Nat :=
  (List.range a.vl).filter fun i => a.active rows m i && a.maskBit rows v.toNat i

/-- vmpopc: the number of set bits (R124). -/
def memberVmpopc (m : Bool) (d : XReg) (a : VReg) (s : State) : Member :=
  let img := (s.arch s.cur).vtype
  scalarMember s (wordOf (.vmpopc m d a)) (maskOk img a.toNat) m 1 [a.toNat] (maskRegs img) d
    fun s => .ok (BitVec.ofNat 64 ((s.arch s.cur).setBits (s.rows s.cur) m a).length)

/-- vmfirst: the lowest set bit, or -1 (R124). -/
def memberVmfirst (m : Bool) (d : XReg) (a : VReg) (s : State) : Member :=
  let img := (s.arch s.cur).vtype
  scalarMember s (wordOf (.vmfirst m d a)) (maskOk img a.toNat) m 1 [a.toNat] (maskRegs img) d
    fun s => .ok (match (s.arch s.cur).setBits (s.rows s.cur) m a with | [] => BitVec.allOnes 64 | i :: _ => BitVec.ofNat 64 i)

end Sys2Proof.Machine
end

