-- ==== Sys2Proof/Machine/ScalarMem.lean ====
section
/-! DEFINITION. Scalar loads and stores (spec/09_memory_access.md R197 to R202, spec/13_control_flow.md R288). -/

namespace Sys2Proof.Machine

/-- The address of a scalar access: X[a] + sext13(offset), modulo 2^64 (R202). -/
def State.scalarAddr (s : State) (a : XReg) (off : BitVec 13) : Word := s.x a + off.signExtend 64

/-- The conditions of R201 for a scalar access of `len` bytes, which admits device-class memory (R197). -/
def State.scalarLoc (s : State) (acc : Access) (va : Word) (len : Nat) : Except Stop Loc :=
  if va.toNat % len ≠ 0 then .error (.trap 0x03 va)
  else
    match s.translate (s.who s.cur) acc true va with
    | .error c => .error (.trap c va)
    | .ok loc => .ok loc

/-- The returned value of a load or atomic moves the watch line and clears the change bit (R288). -/
def State.watch (s : State) (key : Nat) : State :=
  s.setThr s.cur { s.thr s.cur with watchLine := lineOf key, change := false }

/-- Load `len` bytes: the value and the state after the access. A device-class load is performed once (R197); another takes what a read performed ahead
found, or reads its place now (R221; assumption 49). -/
def State.scalarLoad (s : State) (va : Word) (len : Nat) : Except Stop (Nat × Loc × State) := do
  let loc ← s.scalarLoc .load va len
  if loc.device then
    let r := ((s.settle s.cur).release s.cur).deviceRead s.cur loc len
    return (r.1, loc, r.2.watch loc.key)
  else
    match s.aheadFor s.cur false 0 va loc.key len with
    | some x => return (x.val, loc, (s.useAhead s.cur x).watch loc.key)
    | none =>
      let keys := (List.range len).map (loc.key + ·)
      if s.copyStalls s.cur keys false noneAcquired then .error .wait
      else do
        let n ← s.readLoc s.cur loc len va
        return (n, loc, ((s.noteRead (s.who s.cur).maker [(none, loc.key)]).accessNow s.cur keys).watch loc.key)

/-- A load's effect with its extension to 64 bits; a device-class access is a checkpoint (R198, R255). -/
def State.loadTo (s : State) (d : XReg) (va : Word) (len : Nat) (ext : Nat → Word) : Outcome :=
  finish s do
    let r ← s.scalarLoad va len
    let s' := (r.2.2.setX d (ext r.1)).retire
    return if r.2.1.device then s'.implicitCkpt s'.cur else s'

/-- Room for the bytes at these keys in the strip store buffer, after an implicit checkpoint if need be (R200, R255). -/
def State.roomFor (s : State) (t : Tid) (keys : List Nat) : Except Stop State :=
  if (s.thr t).lanes.isNone || s.storeFits t keys then .ok s
  else
    let s := s.implicitCkpt t
    if s.storeFits t keys then .ok s else .error .wait

/-- Store the low `len` bytes of X[d]. -/
def State.storeFrom (s : State) (d : XReg) (va : Word) (len : Nat) : Outcome :=
  finish s do
    let loc ← s.scalarLoc .store va len
    let bytes := bytesOf (s.x d).toNat len
    if loc.device then
      let s' := (((s.settle s.cur).release s.cur).deviceWrite s.cur loc (storeBytes loc.key bytes)).retire
      return s'.implicitCkpt s'.cur
    else if s.copyStalls s.cur ((List.range len).map (loc.key + ·)) true noneAcquired then .error .wait
    else
      let s ← s.roomFor s.cur ((List.range len).map (loc.key + ·))
      return (s.storeLoc s.cur false loc bytes).retire

/-- ldb: loads a byte, signed (R202). -/
def execLdb (d a : XReg) (off : BitVec 13) (s : State) : Outcome :=
  s.loadTo d (s.scalarAddr a off) 1 (fun n => (BitVec.ofNat 8 n).signExtend 64)

/-- ldbu: loads a byte, unsigned (R202). -/
def execLdbu (d a : XReg) (off : BitVec 13) (s : State) : Outcome :=
  s.loadTo d (s.scalarAddr a off) 1 (fun n => (BitVec.ofNat 8 n).setWidth 64)

/-- ldw: loads 32 bits, signed (R202). -/
def execLdw (d a : XReg) (off : BitVec 13) (s : State) : Outcome :=
  s.loadTo d (s.scalarAddr a off) 4 (fun n => (BitVec.ofNat 32 n).signExtend 64)

/-- ldwu: loads 32 bits, unsigned (R202). -/
def execLdwu (d a : XReg) (off : BitVec 13) (s : State) : Outcome :=
  s.loadTo d (s.scalarAddr a off) 4 (fun n => (BitVec.ofNat 32 n).setWidth 64)

/-- ldd: loads 64 bits (R202). -/
def execLdd (d a : XReg) (off : BitVec 13) (s : State) : Outcome :=
  s.loadTo d (s.scalarAddr a off) 8 (BitVec.ofNat 64)

/-- stb: stores the low 8 bits of xd (R202). -/
def execStb (d a : XReg) (off : BitVec 13) (s : State) : Outcome :=
  s.storeFrom d (s.scalarAddr a off) 1

/-- stw: stores the low 32 bits of xd (R202). -/
def execStw (d a : XReg) (off : BitVec 13) (s : State) : Outcome :=
  s.storeFrom d (s.scalarAddr a off) 4

/-- std: stores the low 64 bits of xd (R202). -/
def execStd (d a : XReg) (off : BitVec 13) (s : State) : Outcome :=
  s.storeFrom d (s.scalarAddr a off) 8

end Sys2Proof.Machine
end

