-- ==== Sys2Proof/Machine/Vmem.lean ====
section
/-! DEFINITION. Vector loads and stores (spec/09_memory_access.md R194 to R211). -/

namespace Sys2Proof.Machine

/-! ## Addresses (R203 to R205) -/

/-- The access forms. -/
inductive VForm where
  | unit
  | strided (b : XReg)
  | indexed (v : VReg)
deriving DecidableEq, Repr

/-- Registers that an index group spans (R204). -/
def indexSpan (img : BitVec 16) : Nat := multOf img * max 1 (32 / widthOf img)

/-- The checks of R204 at issue: the element width, the data group and the index group. -/
def vmemOk (img : BitVec 16) (form : VForm) (d : VReg) : Bool :=
  groupOk d.toNat (multOf img) &&
    match form with
    | .unit => true
    | .strided _ => decide (1 ≤ ewOf img)
    | .indexed v => decide (1 ≤ ewOf img) && v.toNat % indexSpan img == 0 && decide (v.toNat + indexSpan img ≤ 32)

/-- The address of element i (R205), from the registers as they stood before the instruction. -/
def Arch.elemAddr (a : Arch) (rows : Nat) (form : VForm) (base : XReg) (i : Nat) : Word :=
  let w := widthOf a.vtype
  match form with
  | .unit => a.getX base + BitVec.ofNat 64 (i * w / 8)
  | .strided b => a.getX base + BitVec.ofNat 64 i * a.getX b
  | .indexed v => a.getX base + BitVec.ofNat 64 (a.elem rows v.toNat 32 i * w / 8)

/-- Bytes that an element touches: one for a nibble. -/
def elemBytes (w : Nat) : Nat := max 1 (w / 8)

/-- The conditions of R201 for one element. -/
def State.elemLoc (s : State) (t : Tid) (acc : Access) (devOk : Bool) (w : Nat) (va : Word) : Except (BitVec 8) Loc :=
  if va.toNat % elemBytes w ≠ 0 then .error 0x03 else s.translate (s.who t) acc devOk va

/-- A vector memory access as its instruction describes it. -/
structure VAccess where
  acc    : Access
  form   : VForm
  data   : VReg
  base   : XReg
  m      : Bool
  /-- vld and vst reach device-class memory (R197) -/
  admits : Bool
  /-- vfill and vspill: whole element groups, no mask, no tail (R210) -/
  whole  : Bool
  /-- vldff (R208) -/
  firstFault : Bool
  /-- vldxo and vstxo (R207) -/
  ordered : Bool

/-- Elements of width w in one element group. -/
def perGroup (rows w : Nat) : Nat := rows * 512 / w

/-- One past the last element accessed: VL, or whole groups for vfill and vspill. -/
def VAccess.count (q : VAccess) (a : Arch) (rows : Nat) : Nat :=
  let e := perGroup rows (widthOf a.vtype)
  if q.whole then (a.vl + e - 1) / e * e else a.vl

/-- The active elements among [lo, hi). -/
def VAccess.actives (q : VAccess) (a : Arch) (rows lo hi : Nat) : List Nat :=
  (rangeList lo (min (q.count a rows) hi)).filter fun i => q.whole || a.active rows q.m i

/-- Whether the active elements touch device-class and idempotent memory (R197). -/
def State.classes (s : State) (q : VAccess) (t : Tid) : Bool × Bool :=
  let a := s.arch t
  let rows := s.rows t
  (q.actives a rows 0 (q.count a rows)).foldl (fun c i =>
    match s.elemLoc t q.acc true (widthOf a.vtype) (a.elemAddr rows q.form q.base i) with
    | .ok loc => if loc.device then (true, c.2) else (c.1, true)
    | .error _ => c) (false, false)

/-- An access through v0 acquires chunk c of a copy whose pennants v0 holds (R247). -/
def VAccess.acquires (q : VAccess) (a : Arch) (rows : Nat) (tr : Transfer) (c : Nat) : Bool :=
  q.m && tr.vp == 0 && decide (c < a.vl) && a.maskBit rows 0 c

/-- How the scan of one element group ends. -/
inductive Scan where
  | ok (locs : List (Nat × Loc))
  | fault (locs : List (Nat × Loc)) (i : Nat) (cause : BitVec 8) (va : Word)
  | wait
deriving Repr

/-- What a read performed ahead found for element i of a load at this place; an access through v0 takes none that a pennant bit of v0 has been set
after (R206, R221, R247; assumption 49). -/
def State.aheadElem (s : State) (q : VAccess) (t : Tid) (a : Arch) (rows i : Nat) (loc : Loc) : Option Ahead :=
  if q.acc == .load then
    (s.aheadFor t true i (a.elemAddr rows q.form q.base i) loc.key (elemBytes (widthOf a.vtype))).filter fun x => !(q.m && x.passed)
  else none

/-- Check elements in ascending order; the first that fails decides (R201, R379), and one that the copy scoreboard holds back waits (R248). One
that has been read ahead has passed both. -/
def State.scan (s : State) (q : VAccess) (t : Tid) (a : Arch) (rows : Nat) : List Nat → List (Nat × Loc) → Scan
  | [], got => .ok got.reverse
  | i :: rest, got =>
    let w := widthOf a.vtype
    let va := a.elemAddr rows q.form q.base i
    match s.elemLoc t q.acc false w va with
    | .error c => .fault got.reverse i c va
    | .ok loc =>
      if !q.ordered && (s.aheadElem q t a rows i loc).isSome then s.scan q t a rows rest ((i, loc) :: got)
      else if q.acc == .load && s.hasBad t loc.key (elemBytes w) then .fault got.reverse i 0x16 va
      else if s.copyStalls t ((List.range (elemBytes w)).map (loc.key + ·)) (q.acc == .store) (q.acquires a rows) then .wait
      else s.scan q t a rows rest ((i, loc) :: got)

/-! ## Loads -/

/-- The value at an element's place: w bits, or a nibble of its byte. -/
def nibbleOf (w i n : Nat) : Nat := if w = 4 then n / 16 ^ (i % 2) % 16 else n

/-- An element of a load that has its value: the bytes it read, and the order of a read that was performed ahead, or none for one performed now. -/
structure Taken where
  elem  : Nat
  keys  : List Nat
  stamp : Option Nat

/-- A load of elements takes its values: from reads performed ahead, or from their places now. Those of vldxo take only reads that were performed in
their order, and none behind an element that is read now (R206, R207). Elements of the instruction before these are in `seen`. -/
def State.takeElems (s : State) (q : VAccess) (t : Tid) (a : Arch) (rows : Nat) (locs : List (Nat × Loc)) (seen : List Taken) :
    List (Nat × Nat) × List Taken :=
  let w := widthOf a.vtype
  let value (p : Nat × Loc) : Nat := nibbleOf w p.1 (s.numAt t p.2.key (elemBytes w))
  if (s.thr t).ahead.isEmpty then (locs.map fun p => (p.1, value p), seen)
  else
    locs.foldl (fun acc p =>
      let x := (s.aheadElem q t a rows p.1 p.2).filter fun x =>
        !q.ordered || acc.2.all fun y => match y.stamp with | some n => decide (n < x.stamp) | none => false
      ((p.1, (x.map fun y => nibbleOf w p.1 y.val).getD (value p)) :: acc.1,
        ⟨p.1, (List.range (elemBytes w)).map (p.2.key + ·), x.map Ahead.stamp⟩ :: acc.2)) ([], seen)

/-- A load has taken its elements: the thread's later loads return nothing older (R219, R222). -/
def State.endTaken (s : State) (t : Tid) (seen : List Taken) : State :=
  s.pruneAhead t fun x => seen.any fun y => x.overlaps y.keys && match y.stamp with | some n => decide (x.stamp ≤ n) | none => true

/-- The elements of a group that are read now have been read at their homes (R385, R393). -/
def State.noteElems (s : State) (t : Tid) (locs : List (Nat × Loc)) (seen : List Taken) : State :=
  s.noteRead (s.who t).maker ((locs.filter fun p => !seen.any fun y => y.elem == p.1 && y.stamp.isSome).map fun p => (some p.1, p.2.key))

/-- The tail of positions from c within the element group [lo, hi). -/
def Arch.tailIn (a : Arch) (rows d w c lo hi : Nat) : Arch :=
  if tailZero a.vtype then a.putElems rows d w ((rangeList (max c lo) (min (a.positions w) hi)).map fun i => (i, 0)) else a

/-- Positions from VL on after vfill: a free value (R210; assumption 3). -/
def State.fillFree (s : State) (t : Tid) (d : VReg) : State :=
  let a := s.arch t
  let rows := s.rows t
  let w := widthOf a.vtype
  let b := (rangeList a.vl (a.positions w)).foldl (fun (b : Arch) i =>
    b.setElem rows d.toNat w i ((Config.freeVector (s.fresh + i * w / regBits rows)).toNat >>> (i * w % regBits rows) % 2 ^ w)) a
  { s.setArch t b with fresh := s.fresh + multOf a.vtype }

/-- Groups of a data register group. -/
def dataGroups (a : Arch) : Nat := multOf a.vtype * 4

/-- A load's end, once its last group is committed: FFST of a vldff that stopped nowhere, and the undefined rest of a vfill (R208, R210). -/
def State.loadEnd (s : State) (q : VAccess) (t : Tid) (a : Arch) : State :=
  if q.firstFault then s.setArch t { s.arch t with ffst := BitVec.ofNat 64 a.vl }
  else if q.whole && decide (a.vl ≠ 0) then s.fillFree t q.data
  else s

/-- A vldff's end at element i above 0: the elements before it, the tail from it, and FFST with the cause (R208). -/
def State.loadStop (s : State) (q : VAccess) (t : Tid) (a : Arch) (rows : Nat) (locs : List (Nat × Loc)) (i : Nat) (c : BitVec 8)
    (seen : List Taken) : State :=
  let w := widthOf a.vtype
  let r := s.takeElems q t a rows locs seen
  let b := ((s.arch t).putElems rows q.data.toNat w r.1).tailFrom rows q.data.toNat w i
  ((s.noteElems t locs r.2).setArch t { b with ffst := BitVec.ofNat 64 (i + c.toNat * 2 ^ 32) }).endTaken t r.2

/-- The element groups of a load in turn; a faulting group writes nothing, but for a vldff that stops above element 0 (R206, R208). What it has read
before the fault has been read (R393). -/
def State.loadGroups (q : VAccess) (t : Tid) (a : Arch) (rows hi : Nat) : List Nat → List Taken → State → Part
  | [], seen, s => okPart ((if hi = dataGroups a then s.loadEnd q t a else s).endTaken t seen) hi
  | g :: rest, seen, s =>
    let w := widthOf a.vtype
    let e := perGroup rows w
    match s.scan q t a rows (q.actives a rows (g * e) ((g + 1) * e)) [] with
    | .wait => ⟨s.endTaken t seen, g, none, true, false⟩
    | .fault locs i c va =>
      if q.firstFault && i != 0 && c != 0x16 then
        (if hi = dataGroups a then okPart (s.loadStop q t a rows locs i c seen) hi else okPart s g)
      else ⟨s.noteElems t locs [], g, some (g, c, va), false, false⟩
    | .ok locs =>
      let r := s.takeElems q t a rows locs seen
      let b := (s.arch t).putElems rows q.data.toNat w r.1
      let b := if q.whole then b else b.tailIn rows q.data.toNat w a.vl (g * e) ((g + 1) * e)
      State.loadGroups q t a rows hi rest r.2 ((s.noteElems t locs r.2).setArch t b)

/-- A device-class vld: every active element checked, then performed once each in ascending order (R197). -/
def State.deviceLoad (s : State) (q : VAccess) (t : Tid) : Part :=
  let a := s.arch t
  let rows := s.rows t
  let w := widthOf a.vtype
  let idx := q.actives a rows 0 a.vl
  let where_ (i : Nat) := s.elemLoc t .load true w (a.elemAddr rows q.form q.base i)
  match idx.find? fun i => match where_ i with | .error _ => true | .ok _ => false with
  | some i =>
    match where_ i with
    | .error c => ⟨s, 0, some (i / perGroup rows w, c, a.elemAddr rows q.form q.base i), false, false⟩
    | .ok _ => okPart s 0
  | none =>
    let r := idx.foldl (fun (s : State) i =>
      match where_ i with
      | .ok loc =>
        let r := s.deviceRead t loc (elemBytes w)
        r.2.setArch t ((r.2.arch t).setElem rows q.data.toNat w i (nibbleOf w i r.1))
      | .error _ => s) (((s.settle t).release t))
    okPart (r.setArch t ((r.arch t).tailFrom rows q.data.toNat w a.vl)) (dataGroups a)

/-- A load's element groups from lo to hi. -/
def State.vload (q : VAccess) (lo hi : Nat) (s : State) : Part :=
  let t := s.cur
  let cls := if q.admits then s.classes q t else (false, false)
  if cls.1 && !cls.2 then s.deviceLoad q t
  else State.loadGroups q t (s.arch t) (s.rows t) hi (rangeList lo hi) (if q.ordered && lo != 0 then [⟨0, [], none⟩] else []) s

/-! ## Stores -/

/-- The bytes an element stores: its value, or its nibble under a mask (R206). -/
def elemStore (w i key v : Nat) : List SByte :=
  if w = 4 then [⟨key, BitVec.ofNat 8 (v * 16 ^ (i % 2)), if i % 2 = 0 then 0x0F else 0xF0⟩]
  else storeBytes key (bytesOf v (w / 8))

/-- Held elements of the same vector store to the same bytes: which of them remains is not defined (R206). -/
def StoreEntry.rivals (e x : StoreEntry) : Bool := x.tid == e.tid && x.point == .held && x.whole == e.whole && x.touches e.keys

/-- Put an element behind all stores, or before its k-th rival (assumption 19). -/
def placeElem (e : StoreEntry) : Nat → List StoreEntry → List StoreEntry
  | _, [] => [e]
  | k, x :: rest =>
    if e.rivals x then
      match k with
      | 0 => e :: x :: rest
      | k + 1 => x :: placeElem e k rest
    else x :: placeElem e k rest

/-- Hold one element's store among the others of its instruction; elements of a store with no order that write one byte may end in any order (R9,
R206). -/
def State.holdElem (s : State) (free : Bool) (e : StoreEntry) : State :=
  if free && s.stores.any e.rivals then
    { s with
      stores := placeElem e (Config.elemPlace s.fresh % ((s.stores.filter e.rivals).length + 1)) s.stores
      fresh := s.fresh + 1 }
  else { s with stores := s.stores ++ [e] }

/-- Hold the stores of one group's elements, one entry an element. -/
def State.holdElems (s : State) (q : VAccess) (t : Tid) (whole : Nat) (locs : List (Nat × Loc)) : State :=
  let a := s.arch t
  let rows := s.rows t
  let w := widthOf a.vtype
  let th := s.thr t
  let es := (locs.filter fun p => !p.2.lost).map fun p =>
    let bs := elemStore w p.1 p.2.key (a.elem rows q.data.toNat w p.1)
    (⟨t, th.ctx, .held, true, false, bs, rawTags bs, if q.ordered then whole else 0, whole, s.originOf t (some p.1)⟩ : StoreEntry)
  let s := (es.foldl (fun s e => s.holdElem (!q.ordered) e) s).accessNow t (es.flatMap StoreEntry.keys)
  let s := if es.isEmpty || th.heldFrom.isSome then s else s.modThr t fun th => { th with heldFrom := some (s.cycleOf t) }
  match locs.find? fun p => p.2.lost with
  | some p => s.reportLost th.ctx p.2.key
  | none => s

/-- The element groups of a store in turn. A group that does not fit in the strip store buffer waits for a checkpoint before it (R200). -/
def State.storeGroups (q : VAccess) (t : Tid) (a : Arch) (rows hi whole : Nat) : List Nat → State → Part
  | [], s => okPart s hi
  | g :: rest, s =>
    let e := perGroup rows (widthOf a.vtype)
    match s.scan q t a rows (q.actives a rows (g * e) ((g + 1) * e)) [] with
    | .wait => ⟨s, g, none, true, false⟩
    | .fault _ i c va => ⟨s, g, some (i / e, c, va), false, false⟩
    | .ok locs =>
      if s.storeFits t (locs.map fun p => p.2.key) then State.storeGroups q t a rows hi whole rest (s.holdElems q t whole locs)
      else ⟨s, g, none, true, true⟩

/-- Element groups across a store's whole access (R364). -/
def storeTotal (q : VAccess) (a : Arch) (rows : Nat) : Nat :=
  (q.count a rows + perGroup rows (widthOf a.vtype) - 1) / perGroup rows (widthOf a.vtype)

/-- A device-class vst: every active element checked, then performed once each in ascending order (R197). -/
def State.deviceStore (s : State) (q : VAccess) (t : Tid) : Part :=
  let a := s.arch t
  let rows := s.rows t
  let w := widthOf a.vtype
  let idx := q.actives a rows 0 a.vl
  let locOf (i : Nat) := s.elemLoc t .store true w (a.elemAddr rows q.form q.base i)
  match idx.find? fun i => match locOf i with | .error _ => true | .ok _ => false with
  | some i =>
    match locOf i with
    | .error c => ⟨s, 0, some (i / perGroup rows w, c, a.elemAddr rows q.form q.base i), false, false⟩
    | .ok _ => okPart s 0
  | none =>
    let r := idx.foldl (fun (s : State) i =>
      match locOf i with
      | .ok loc => s.deviceWrite t loc (elemStore w i loc.key (a.elem rows q.data.toNat w i))
      | .error _ => s) ((s.settle t).release t)
    okPart r (storeTotal q a rows)

/-- The vector store at which the thread stands, and the name its elements carry: a new one at its first group, the same again when it goes on
after a trap, a wait or a checkpoint between its groups (R207, R371). -/
def State.beginRun (s : State) (t : Tid) (lo : Nat) : Nat × State :=
  let a := s.arch t
  match (if lo = 0 then none else a.runs.find? fun x => x.site == a.site && x.mode == a.mode) with
  | some x => (x.id, s)
  | none =>
    let n := s.fresh + 1
    (n, { s.setArch t { a with runs := ⟨a.site, a.mode, n⟩ :: a.runs } with fresh := n })

def State.endRun (s : State) (t : Tid) (id : Nat) : State :=
  let a := s.arch t
  s.setArch t { a with runs := a.runs.filter fun x => x.id != id }

/-- A store's element groups from lo to hi. -/
def State.vstore (q : VAccess) (lo hi : Nat) (s : State) : Part :=
  let t := s.cur
  let cls := if q.admits then s.classes q t else (false, false)
  if cls.1 && !cls.2 then s.deviceStore q t
  else
    let b := s.beginRun t lo
    let p := State.storeGroups q t (s.arch t) (s.rows t) hi b.1 (rangeList lo hi) b.2
    if p.fault.isNone && !p.wait && decide (storeTotal q (s.arch t) (s.rows t) ≤ p.done) then { p with st := p.st.endRun t b.1 } else p

/-! ## Members -/

def VForm.regs (f : VForm) (img : BitVec 16) : List Nat := match f with | .indexed v => regsFrom v.toNat (indexSpan img) | _ => []
def VForm.base (f : VForm) : List Nat := match f with | .indexed v => [v.toNat] | _ => []

/-- The alignment check of vfill and vspill, at every VL (R210, R211). -/
def State.wholeAligned (s : State) (base : XReg) : Except Stop Unit :=
  if (s.x base).toNat % 64 ≠ 0 then .error (.trap 0x03 (s.x base)) else .ok ()

/-- Issue checks: R204, then the alignment of R210. -/
def State.vmemIssue (s : State) (q : VAccess) (word : Word) : Except Stop Unit := do
  issueCheck (vmemOk (s.arch s.cur).vtype q.form q.data) word
  if q.whole then s.wholeAligned q.base

def loadMember (s : State) (word : Word) (q : VAccess) : Member :=
  let t := s.cur
  let a := s.arch t
  let rows := s.rows t
  let mult := multOf a.vtype
  let cls := if q.admits then s.classes q t else (false, false)
  { word := word, issue := s.vmemIssue q word
    needs := groupNeeds rows (widthOf a.vtype) q.m (atWidth 32 q.form.base), whole := []
    across := if widthOf a.vtype = 32 then [] else q.form.regs a.vtype
    masks := maskReads a.vtype q.m
    writes := regsFrom q.data.toNat mult, cross := false, scalarDest := false, deviceClass := cls.1 && !cls.2
    groups := dataGroups a
    touches := if q.whole && decide (a.vl = 0) then [] else
      touchedGroups rows q.data.toNat (widthOf a.vtype) a.vl mult (tailZero a.vtype || q.whole || q.firstFault)
    banks := groupBanks a rows q.m (widthOf a.vtype) (atWidth 32 q.form.base)
    run := State.vload q }

/-- The granules that a store's elements from group lo on take in the strip store buffer, as the registers stand (R200). -/
def State.storeGranules (s : State) (q : VAccess) (t : Tid) (lo : Nat) : List Nat :=
  let a := s.arch t
  let rows := s.rows t
  let w := widthOf a.vtype
  ((q.actives a rows (lo * perGroup rows w) (q.count a rows)).filterMap fun i =>
    match s.elemLoc t .store true w (a.elemAddr rows q.form q.base i) with
    | .ok loc => if loc.device || loc.lost then none else some (loc.key / 16)
    | .error _ => none).dedup

def storeMember (s : State) (word : Word) (q : VAccess) : Member :=
  let t := s.cur
  let a := s.arch t
  let rows := s.rows t
  let w := widthOf a.vtype
  let cls := if q.admits then s.classes q t else (false, false)
  let n := q.count a rows
  { word := word, issue := s.vmemIssue q word
    needs := groupNeeds rows w q.m (atWidth 32 q.form.base ++ [(q.data.toNat, w)]), whole := []
    across := if w = 32 then [] else q.form.regs a.vtype
    masks := maskReads a.vtype q.m
    writes := [], cross := false, scalarDest := false, deviceClass := cls.1 && !cls.2
    groups := storeTotal q a rows
    touches := []
    granules := s.storeGranules q t
    places := q.form.regs a.vtype ++ maskReads a.vtype q.m
    mostGranules := match q.form with | .unit => (n * w / 8 + 15) / 16 + 1 | _ => n
    banks := groupBanks a rows q.m w (atWidth 32 q.form.base ++ [(q.data.toNat, w)])
    run := State.vstore q }

/-- vld: unit stride (R206). -/
def memberVld (m : Bool) (c : Cache) (d : VReg) (a : XReg) (s : State) : Member :=
  loadMember s (wordOf (.vld m c d a)) ⟨.load, .unit, d, a, m, true, false, false, false⟩

/-- vlds: by the signed byte stride X[b] (R206). -/
def memberVlds (m : Bool) (c : Cache) (d : VReg) (a b : XReg) (s : State) : Member :=
  loadMember s (wordOf (.vlds m c d a b)) ⟨.load, .strided b, d, a, m, false, false, false, false⟩

/-- vldx: by index (R206). -/
def memberVldx (m : Bool) (c : Cache) (d : VReg) (a : XReg) (b : VReg) (s : State) : Member :=
  loadMember s (wordOf (.vldx m c d a b)) ⟨.load, .indexed b, d, a, m, false, false, false, false⟩

/-- vldxo: by index, in element order (R207). -/
def memberVldxo (m : Bool) (c : Cache) (d : VReg) (a : XReg) (b : VReg) (s : State) : Member :=
  loadMember s (wordOf (.vldxo m c d a b)) ⟨.load, .indexed b, d, a, m, false, false, false, true⟩

/-- vldff: unit stride, stopping at the first fault above element 0 (R208). -/
def memberVldff (c : Cache) (d : VReg) (a : XReg) (s : State) : Member :=
  loadMember s (wordOf (.vldff c d a)) ⟨.load, .unit, d, a, false, false, false, true, false⟩

/-- vfill: whole element groups (R210). -/
def memberVfill (c : Cache) (d : VReg) (a : XReg) (s : State) : Member :=
  loadMember s (wordOf (.vfill c d a)) ⟨.load, .unit, d, a, false, false, true, false, false⟩

/-- vst: unit stride (R206). -/
def memberVst (m : Bool) (c : Cache) (d : VReg) (a : XReg) (s : State) : Member :=
  storeMember s (wordOf (.vst m c d a)) ⟨.store, .unit, d, a, m, true, false, false, false⟩

/-- vsts: by the signed byte stride X[b] (R206). -/
def memberVsts (m : Bool) (c : Cache) (d : VReg) (a b : XReg) (s : State) : Member :=
  storeMember s (wordOf (.vsts m c d a b)) ⟨.store, .strided b, d, a, m, false, false, false, false⟩

/-- vstx: by index (R206). -/
def memberVstx (m : Bool) (c : Cache) (d : VReg) (a : XReg) (b : VReg) (s : State) : Member :=
  storeMember s (wordOf (.vstx m c d a b)) ⟨.store, .indexed b, d, a, m, false, false, false, false⟩

/-- vstxo: by index, in element order (R207). -/
def memberVstxo (m : Bool) (c : Cache) (d : VReg) (a : XReg) (b : VReg) (s : State) : Member :=
  storeMember s (wordOf (.vstxo m c d a b)) ⟨.store, .indexed b, d, a, m, false, false, false, true⟩

/-- vspill: whole element groups (R210). -/
def memberVspill (c : Cache) (d : VReg) (a : XReg) (s : State) : Member :=
  storeMember s (wordOf (.vspill c d a)) ⟨.store, .unit, d, a, false, false, true, false, false⟩

end Sys2Proof.Machine
end

