-- ==== Sys2Proof/Machine/Vred.lean ====
section
/-! DEFINITION. Reductions over the segments of a depth (spec/06_nested_vectors.md R133 to R137, spec/03_number_formats.md R89 to R95). -/

namespace Sys2Proof.Machine

/-- The segments of a depth after the checks of R129, or the trap. -/
def Arch.segments (a : Arch) (rows : Nat) (n : Nest) (p : Nat) : Except Stop (List Nat) := do
  a.checkDepth rows n p
  return a.segs rows n p

/-- Condition 7 of R129: more segments than positions in the destination. -/
def Arch.segmentsFit (a : Arch) (w p c : Nat) : Except Stop Unit := if a.positions w < c then .error (nestTrap p 0xFFFF_FFFD) else .ok ()

/-- The values of a segment's positions, none where masked off. -/
def Arch.segValues (a : Arch) (rows v w : Nat) (m : Bool) (lo hi : Nat) : List (Option Nat) :=
  (rangeList lo hi).map fun i => if a.active rows m i then some (a.elem rows v w i) else none

/-- The results of VRED: one for each segment (R136). -/
def State.reduceResults (s : State) (op : RedOp) (m : Bool) (p : Depth) (a : VReg) (n : NReg) : Except Stop (List (Nat × Nat × BitVec 5)) := do
  let x := s.arch s.cur
  let rows := s.rows s.cur
  let w := widthOf x.vtype
  let ss ← x.segments rows (x.nest n) p.val
  let pairs := segPairs ss
  x.segmentsFit w p.val pairs.length
  return pairs.zipIdx.map fun q => (q.2, reduceSeg op (fmtOf x.vtype) w (x.segValues rows a.toNat w m q.1.1 q.1.2))

/-- Results of width w written at their positions, then the tail from position c, and their flags (R135). -/
def State.putResults (s : State) (d w c : Nat) (l : List (Nat × Nat × BitVec 5)) : State :=
  let t := s.cur
  let rows := s.rows t
  let y := ((s.arch t).putElems rows d w (l.map fun r => (r.1, r.2.1))).tailFrom rows d w c
  (s.setArch t y).raise t (orFlags (l.map fun r => r.2.2))

/-- VRED: one result for each segment, then the tail from the segment count (R136). -/
def State.reduceTo (s : State) (op : RedOp) (m : Bool) (p : Depth) (d a : VReg) (n : NReg) : Except Stop State := do
  let rs ← s.reduceResults op m p a n
  return s.putResults d.toNat (widthOf (s.arch s.cur).vtype) rs.length rs

/-- The registers of a nest's levels from a depth inward, each with its entries. -/
def State.levelRegs (s : State) (n : NReg) (p : Depth) : List (Nat × Nat) := ((s.arch s.cur).nest n).regsFrom p.val

/-- The element groups of registers from d on that one element of width w for each segment fills, and the tail with them where it is written
(R135, R262). -/
def State.segTouches (s : State) (d w regs : Nat) (p : Depth) (n : NReg) : List (Nat × Nat) :=
  let x := s.arch s.cur
  touchedGroups (s.rows s.cur) d w ((x.nest n).segments p.val) regs (tailZero x.vtype)

def redMember (s : State) (word : Word) (lo : Nat) (op : RedOp) (m : Bool) (p : Depth) (d a : VReg) (n : NReg) : Member :=
  let x := s.arch s.cur
  let img := x.vtype
  let mult := multOf img
  let base := crossMember s word (decide (lo ≤ ewOf img) && groupOk a.toNat mult && groupOk d.toNat mult) m (widthOf img)
    [(a.toNat, widthOf img)] mult (s.levelRegs n p) (regsFrom d.toNat mult) (s.segTouches d.toNat (widthOf img) mult p n)
    fun s => s.reduceTo op m p d a n
  { base with accrue := accrueOf (widthOf img) fun s => s.reduceResults op m p a n }

/-- vredsum: wrapping integer sum (R136). -/
def memberVredsum (m : Bool) (p : Depth) (d a : VReg) (n : NReg) (s : State) : Member :=
  redMember s (wordOf (.vredsum m p d a n)) 1 .sum m p d a n

/-- vredmin: signed minimum (R136). -/
def memberVredmin (m : Bool) (p : Depth) (d a : VReg) (n : NReg) (s : State) : Member :=
  redMember s (wordOf (.vredmin m p d a n)) 1 .min m p d a n

/-- vredmax: signed maximum (R136). -/
def memberVredmax (m : Bool) (p : Depth) (d a : VReg) (n : NReg) (s : State) : Member :=
  redMember s (wordOf (.vredmax m p d a n)) 1 .max m p d a n

/-- vredand: bitwise and (R136). -/
def memberVredand (m : Bool) (p : Depth) (d a : VReg) (n : NReg) (s : State) : Member :=
  redMember s (wordOf (.vredand m p d a n)) 1 .and m p d a n

/-- vredor: bitwise or (R136). -/
def memberVredor (m : Bool) (p : Depth) (d a : VReg) (n : NReg) (s : State) : Member :=
  redMember s (wordOf (.vredor m p d a n)) 1 .or m p d a n

/-- vredxor: bitwise exclusive or (R136). -/
def memberVredxor (m : Bool) (p : Depth) (d a : VReg) (n : NReg) (s : State) : Member :=
  redMember s (wordOf (.vredxor m p d a n)) 1 .xor m p d a n

/-- vfredsum: exact sum rounded once; FP64 by the fixed pairing (R136). -/
def memberVfredsum (m : Bool) (p : Depth) (d a : VReg) (n : NReg) (s : State) : Member :=
  redMember s (wordOf (.vfredsum m p d a n)) 2 .fsum m p d a n

/-- vfredmin: minimum under R72 (R136). -/
def memberVfredmin (m : Bool) (p : Depth) (d a : VReg) (n : NReg) (s : State) : Member :=
  redMember s (wordOf (.vfredmin m p d a n)) 2 .fmin m p d a n

/-- vfredmax: maximum under R72 (R136). -/
def memberVfredmax (m : Bool) (p : Depth) (d a : VReg) (n : NReg) (s : State) : Member :=
  redMember s (wordOf (.vfredmax m p d a n)) 2 .fmax m p d a n

/-- The chosen value with its position, -1 where no element is active; the lowest position on a tie, and the lowest NaN first (R95). -/
def indexedSeg (fp : Bool) (f : Fmt) (w : Nat) (l : List (Option Nat)) : Nat × Nat × BitVec 5 :=
  let actives := (l.zipIdx).filterMap fun q => q.1.map fun v => (v, q.2)
  match actives with
  | [] => (identOf (if fp then .fmax else .min) f w, 0xFFFF_FFFF, 0)
  | (v0, j0) :: rest =>
    if fp then
      let fl := if actives.any fun q => (unpack f q.1).signals then flNV else 0
      match actives.find? fun q => (unpack f q.1).isNaN with
      | some q => (f.canonNaN, q.2, fl)
      | none =>
        let best := rest.foldl (fun b q => if ltMin (unpack f b.1) (unpack f q.1) then q else b) (v0, j0)
        (best.1, best.2, 0)
    else
      let best := rest.foldl (fun b q => if sext w q.1 < sext w b.1 then q else b) (v0, j0)
      (best.1, best.2, 0)

/-- For each segment its chosen value, its position and the flags (R137). -/
def State.indexResults (s : State) (fp m : Bool) (p : Depth) (a : VReg) (n : NReg) : Except Stop (List (Nat × Nat × Nat × BitVec 5)) := do
  let x := s.arch s.cur
  let rows := s.rows s.cur
  let w := widthOf x.vtype
  let ss ← x.segments rows (x.nest n) p.val
  let pairs := segPairs ss
  x.segmentsFit w p.val pairs.length
  return pairs.zipIdx.map fun q => (q.2, indexedSeg fp (fmtOf x.vtype) w (x.segValues rows a.toNat w m q.1.1 q.1.2))

/-- Value to vd and 32-bit position to v(d+1), each with its tail (R137). -/
def State.reduceIndexed (s : State) (fp m : Bool) (p : Depth) (h : BitVec 4) (a : VReg) (n : NReg) : Except Stop State := do
  let d := h.toNat * 2
  let rs ← s.indexResults fp m p a n
  let s := s.putResults d (widthOf (s.arch s.cur).vtype) rs.length (rs.map fun r => (r.1, r.2.1, r.2.2.2))
  return s.putResults (d + 1) 32 rs.length (rs.map fun r => (r.1, r.2.2.1, 0))

def indexMember (s : State) (word : Word) (lo : Nat) (fp m : Bool) (p : Depth) (h : BitVec 4) (a : VReg) (n : NReg) : Member :=
  let x := s.arch s.cur
  let img := x.vtype
  let d := h.toNat * 2
  let base := crossMember s word (decide (lo ≤ ewOf img) && decide (multOf img = 1)) m (widthOf img) [(a.toNat, widthOf img)] 1
    (s.levelRegs n p) [d, d + 1] (s.segTouches d (widthOf img) 1 p n ++ s.segTouches (d + 1) 32 1 p n)
    fun s => s.reduceIndexed fp m p h a n
  { base with accrue := accrueOf (widthOf img) fun s => (s.indexResults fp m p a n).map fun l => l.map fun r => (r.1, r.2.1, r.2.2.2) }

/-- vredminx: signed minimum with its position (R137). -/
def memberVredminx (m : Bool) (p : Depth) (h : BitVec 4) (a : VReg) (n : NReg) (s : State) : Member :=
  indexMember s (wordOf (.vredminx m p h a n)) 1 false m p h a n

/-- vfredmaxx: maximum with its position (R137). -/
def memberVfredmaxx (m : Bool) (p : Depth) (h : BitVec 4) (a : VReg) (n : NReg) (s : State) : Member :=
  indexMember s (wordOf (.vfredmaxx m p h a n)) 2 true m p h a n

end Sys2Proof.Machine
end

