-- ==== Sys2Proof/Machine/Vscan.lean ====
section
/-! DEFINITION. Scans within the segments of a depth (spec/06_nested_vectors.md R138). -/

namespace Sys2Proof.Machine

/-- VSCAN: each active element gets the reduction of its segment's active elements up to it, or before it. -/
def State.scanResults (s : State) (op : RedOp) (m ex : Bool) (p : Depth) (a : VReg) (n : NReg) : Except Stop (List (Nat × Nat × BitVec 5)) := do
  let x := s.arch s.cur
  let rows := s.rows s.cur
  let w := widthOf x.vtype
  let ss ← x.segments rows (x.nest n) p.val
  return (segPairs ss).flatMap fun q =>
    (rangeList q.1 q.2).filterMap fun i =>
      if x.active rows m i then
        some (i, reduceSeg op (fmtOf x.vtype) w (x.segValues rows a.toNat w m q.1 (if ex then i else i + 1)))
      else none

def State.scanTo (s : State) (op : RedOp) (m ex : Bool) (p : Depth) (d a : VReg) (n : NReg) : Except Stop State := do
  let rs ← s.scanResults op m ex p a n
  return s.putResults d.toNat (widthOf (s.arch s.cur).vtype) (s.arch s.cur).vl rs

def scanMember (s : State) (word : Word) (lo : Nat) (op : RedOp) (m ex : Bool) (p : Depth) (d a : VReg) (n : NReg) : Member :=
  let x := s.arch s.cur
  let img := x.vtype
  let rows := s.rows s.cur
  let mult := multOf img
  let base := crossMember s word (decide (lo ≤ ewOf img) && groupOk a.toNat mult && groupOk d.toNat mult) m (widthOf img)
    [(a.toNat, widthOf img)] mult (s.levelRegs n p) (regsFrom d.toNat mult)
    (touchedGroups rows d.toNat (widthOf img) x.vl mult (tailZero img))
    fun s => s.scanTo op m ex p d a n
  { base with accrue := accrueOf (widthOf img) fun s => s.scanResults op m ex p a n }

/-- vscansum: wrapping integer sum (R138). -/
def memberVscansum (m ex : Bool) (p : Depth) (d a : VReg) (n : NReg) (s : State) : Member :=
  scanMember s (wordOf (.vscansum m ex p d a n)) 1 .sum m ex p d a n

/-- vscanmax: signed maximum (R138). -/
def memberVscanmax (m ex : Bool) (p : Depth) (d a : VReg) (n : NReg) (s : State) : Member :=
  scanMember s (wordOf (.vscanmax m ex p d a n)) 1 .max m ex p d a n

/-- vfscansum: each prefix summed exactly and rounded once; FP64 by the pairing (R138). -/
def memberVfscansum (m ex : Bool) (p : Depth) (d a : VReg) (n : NReg) (s : State) : Member :=
  scanMember s (wordOf (.vfscansum m ex p d a n)) 2 .fsum m ex p d a n

/-- vfscanmax: maximum under R72 (R138). -/
def memberVfscanmax (m ex : Bool) (p : Depth) (d a : VReg) (n : NReg) (s : State) : Member :=
  scanMember s (wordOf (.vfscanmax m ex p d a n)) 2 .fmax m ex p d a n

end Sys2Proof.Machine
end

