-- ==== Sys2Proof/Machine/Vscl.lean ====
section
/-! DEFINITION. Block-scaled code instructions (spec/07_scaled_and_matrix.md R149 to R154). -/

namespace Sys2Proof.Machine

/-- A group field accepted by the code instructions: under R111, and its group does not hold v31 (R149). -/
def codeGroupOk (v mult : Nat) : Bool := groupOk v mult && decide (v + mult ≤ 31)

/-- The value of the code at nibble i of a group, under scale byte k of v31 (R82, R149). -/
def Arch.codeAt (a : Arch) (rows v i k : Nat) : FVal := codeValue (a.elem rows v 4 i) (a.elem rows 31 8 k)

/-- vdec4: codes to values of the wide format, exactly (R152). -/
def memberVdec4 (m : Bool) (d a : VReg) (s : State) : Member :=
  let img := (s.arch s.cur).vtype
  let rows := s.rows s.cur
  let mult := multOf img
  let ok := (decide (ewOf img = 2) && img.getLsbD 6 || decide (3 ≤ ewOf img)) && codeGroupOk a.toNat mult && codeGroupOk d.toNat mult
  let base := elemMember s (wordOf (.vdec4 m d a)) ok m d (widthOf img) [(a.toNat, 4)] true
    fun x i => if x.active rows m i then some ((rne (fmtOf img) (x.codeAt rows a.toNat i (i / 32))).1, 0) else none
  { base with
    needs := fun g => (31, 0) :: base.needs g
    across := base.across ++ [31]
    banks := fun g => withScales (base.banks g) }

/-- The blocks of venc4: number, elements, scale, codes and flags (R153). -/
def State.encodedBlocks (s : State) (ct : CodeType) (a : VReg) : List (Nat × List Nat × Nat × List Nat × BitVec 5) :=
  let x := s.arch s.cur
  let w := widthOf x.vtype
  (List.range ((x.vl + 31) / 32)).map fun b =>
    let idx := rangeList (32 * b) (min (32 * b + 32) x.vl)
    (b, idx, encodeBlock ct (idx.map fun i => unpack (fmtOf x.vtype) (x.elem (s.rows s.cur) a.toNat w i)))

/-- venc4: each block's scale and codes (R153). -/
def State.encodeTo (s : State) (ct : CodeType) (d a : VReg) : State :=
  let t := s.cur
  let x := s.arch t
  let rows := s.rows t
  let blocks := s.encodedBlocks ct a
  let y := blocks.foldl (fun (y : Arch) q =>
    let y := y.setElem rows 31 8 q.1 q.2.2.1
    y.putElems rows d.toNat 4 (q.2.1.zip q.2.2.2.1)) x
  (s.setArch t (y.tailFrom rows d.toNat 4 x.vl)).raise t (orFlags (blocks.map fun q => q.2.2.2.2))

def memberVenc4 (ct : CodeType) (d a : VReg) (s : State) : Member :=
  let x := s.arch s.cur
  let rows := s.rows s.cur
  let mult := multOf x.vtype
  let base := crossMember s (wordOf (.venc4 ct d a)) (decide (2 ≤ ewOf x.vtype) && codeGroupOk a.toNat mult && codeGroupOk d.toNat mult) false
    (widthOf x.vtype) [(a.toNat, widthOf x.vtype)] mult [] (regsFrom d.toNat mult ++ [31])
    (touchedGroups rows d.toNat 4 x.vl mult (tailZero x.vtype) ++ touchedGroups rows 31 8 ((x.vl + 31) / 32) 1 false)
    fun s => .ok (s.encodeTo ct d a)
  { base with accrue := accrueOf 4 fun s => .ok ((s.encodedBlocks ct a).map fun q => (32 * q.1, 0, q.2.2.2.2)) }

/-- The term of element i: its code's value times its FP32 multiplier, or the value alone where the vb field is 0; a quiet NaN that signals
nothing where its block is invalid (R154). -/
def Arch.bsumTerm (x : Arch) (rows : Nat) (a b : VReg) (i : Nat) : FVal :=
  let v := x.codeAt rows a.toNat i (i / 32)
  if b = 0 ∨ v.isNaN then v else mulX v (unpack .fp32 (x.elem rows b.toNat 32 i))

/-- vbsum: each segment's exact sum, rounded once to FP32 (R154). -/
def State.bsumResults (s : State) (m : Bool) (p : Depth) (a b : VReg) : Except Stop (List (Nat × Nat × BitVec 5)) := do
  let x := s.arch s.cur
  let rows := s.rows s.cur
  let ss ← x.segments rows (x.nest 0) p.val
  let pairs := segPairs ss
  x.segmentsFit 32 p.val pairs.length
  return pairs.zipIdx.map fun q =>
    (q.2, exactSum .fp32 ((rangeList q.1.1 q.1.2).filterMap fun i => if x.active rows m i then some (x.bsumTerm rows a b i) else none))

def State.bsumTo (s : State) (m : Bool) (p : Depth) (d a b : VReg) : Except Stop State := do
  let rs ← s.bsumResults m p a b
  return s.putResults d.toNat 32 rs.length rs

def memberVbsum (m : Bool) (p : Depth) (d a b : VReg) (s : State) : Member :=
  let x := s.arch s.cur
  let mult := multOf x.vtype
  let vb := if b = 0 then [] else [b.toNat]
  let base := crossMember s (wordOf (.vbsum m p d a b))
    (decide (ewOf x.vtype = 3) && codeGroupOk a.toNat mult && codeGroupOk d.toNat mult && vb.all fun v => codeGroupOk v mult) m 32
    ((a.toNat, 4) :: atWidth 32 vb) mult (s.levelRegs 0 p) (regsFrom d.toNat mult)
    (s.segTouches d.toNat 32 mult p 0)
    fun s => s.bsumTo m p d a b
  { base with
    whole := (31, 0) :: base.whole
    across := 31 :: base.across
    accrue := accrueOf 32 fun s => s.bsumResults m p a b
    banks := fun g => withScales (base.banks g) }

end Sys2Proof.Machine
end

