-- ==== Sys2Proof/Machine/Vshape.lean ====
section
/-! DEFINITION. Distribution, identity, length, slides, gather, and the building and taking down of levels
(spec/06_nested_vectors.md R139 to R147). -/

namespace Sys2Proof.Machine

/-- Each active element below VL gets f of its index, its segment, and the segment's start and end; then the tail (R139 to R141). -/
def State.shapeTo (s : State) (m : Bool) (p : Depth) (d : VReg) (n : Nest) (f : Arch → Nat → Nat → Nat → Nat → Nat) : Except Stop State := do
  let t := s.cur
  let x := s.arch t
  let rows := s.rows t
  let w := widthOf x.vtype
  let ss ← x.segments rows n p.val
  let rs := ((segPairs ss).zipIdx).flatMap fun q =>
    (rangeList q.1.1 q.1.2).filterMap fun i => if x.active rows m i then some (i, f x i q.2 q.1.1 q.1.2) else none
  let y := (x.putElems rows d.toNat w rs).tailFrom rows d.toNat w x.vl
  return s.setArch t y

/-- A member with the skeleton of `shapeTo`, over sources of whole groups. -/
def shapeMember (s : State) (word : Word) (lo : Nat) (m : Bool) (p : Depth) (d : VReg) (srcs : List VReg) (n : NReg)
    (f : Arch → Nat → Nat → Nat → Nat → Nat) : Member :=
  let x := s.arch s.cur
  let img := x.vtype
  let rows := s.rows s.cur
  let mult := multOf img
  crossMember s word (decide (lo ≤ ewOf img) && (srcs.all fun v => groupOk v.toNat mult) && groupOk d.toNat mult) m (widthOf img)
    (atWidth (widthOf img) (srcs.map BitVec.toNat)) mult (s.levelRegs n p) (regsFrom d.toNat mult)
    (touchedGroups rows d.toNat (widthOf img) x.vl mult (tailZero img))
    fun s => s.shapeTo m p d ((s.arch s.cur).nest n) f

/-- vdist: the element of va at the segment's index; 0 beyond va (R139). -/
def memberVdist (m : Bool) (p : Depth) (d a : VReg) (n : NReg) (s : State) : Member :=
  let rows := s.rows s.cur
  let x := s.arch s.cur
  let w := widthOf x.vtype
  let base := shapeMember s (wordOf (.vdist m p d a n)) 0 m p d [a] n
    fun x _ k _ _ => let w := widthOf x.vtype; if k < x.positions w then x.elem rows a.toNat w k else 0
  { base with whole := base.whole ++ wholeNeeds rows (min ((x.nest n).segments p.val) (x.positions w)) false [(a.toNat, w)] }

/-- vsegid: the segment's index (R139). -/
def memberVsegid (m : Bool) (p : Depth) (d : VReg) (n : NReg) (s : State) : Member :=
  shapeMember s (wordOf (.vsegid m p d n)) 3 m p d [] n fun x _ k _ _ => k % 2 ^ widthOf x.vtype

/-- vseglen: the length of each segment, then the tail from the segment count (R139). -/
def State.seglenTo (s : State) (p : Depth) (d : VReg) (n : NReg) : Except Stop State := do
  let t := s.cur
  let x := s.arch t
  let rows := s.rows t
  let w := widthOf x.vtype
  let ss ← x.segments rows (x.nest n) p.val
  let pairs := segPairs ss
  x.segmentsFit w p.val pairs.length
  return s.setArch t
    ((x.putElems rows d.toNat w (pairs.zipIdx.map fun q => (q.2, (q.1.2 - q.1.1) % 2 ^ w))).tailFrom rows d.toNat w pairs.length)

def memberVseglen (p : Depth) (d : VReg) (n : NReg) (s : State) : Member :=
  let x := s.arch s.cur
  let mult := multOf x.vtype
  crossMember s (wordOf (.vseglen p d n)) (decide (3 ≤ ewOf x.vtype) && groupOk d.toNat mult) false (widthOf x.vtype) [] mult
    (s.levelRegs n p) (regsFrom d.toNat mult) (s.segTouches d.toNat (widthOf x.vtype) mult p n)
    fun s => s.seglenTo p d n

/-- vslideup: the element s positions before, inside the segment of n0; else 0 (R140). -/
def memberVslideup (m : Bool) (p : Depth) (d a : VReg) (b : XReg) (s : State) : Member :=
  let rows := s.rows s.cur
  shapeMember s (wordOf (.vslideup m p d a b)) 0 m p d [a] 0
    fun x i _ lo _ => let k := (x.getX b).toNat; if k ≤ i - lo then x.elem rows a.toNat (widthOf x.vtype) (i - k) else 0

/-- vslidedn: the element s positions after, inside the segment of n0; else 0 (R140). -/
def memberVslidedn (m : Bool) (p : Depth) (d a : VReg) (b : XReg) (s : State) : Member :=
  let rows := s.rows s.cur
  shapeMember s (wordOf (.vslidedn m p d a b)) 0 m p d [a] 0
    fun x i _ _ hi => let k := (x.getX b).toNat; if i + k < hi then x.elem rows a.toNat (widthOf x.vtype) (i + k) else 0

/-- vrgather: the element at a position relative to the segment of n0; else 0 (R141). -/
def memberVrgather (m : Bool) (p : Depth) (d a b : VReg) (s : State) : Member :=
  let rows := s.rows s.cur
  shapeMember s (wordOf (.vrgather m p d a b)) 0 m p d [a, b] 0
    fun x i _ lo hi =>
      let w := widthOf x.vtype
      let j := lo + x.elem rows b.toNat w i
      if j < hi then x.elem rows a.toNat w j else 0

/-- vmvxs: element u(X[b]) of the group va, sign-extended; 0 beyond the group (R142). -/
def memberVmvxs (d : XReg) (a : VReg) (b : XReg) (s : State) : Member :=
  let x := s.arch s.cur
  let img := x.vtype
  let place := (x.getX b).toNat * widthOf img / (s.rows s.cur * 512)
  let piece := if (x.getX b).toNat < x.positions (widthOf img) then [(a.toNat + place / 4, place % 4)] else []
  let base := scalarMember s (wordOf (.vmvxs d a b)) (groupOk a.toNat (multOf img)) false (widthOf img) [a.toNat] (multOf img) d
    fun s =>
      let x := s.arch s.cur
      let w := widthOf x.vtype
      let j := (x.getX b).toNat
      .ok (if j < x.positions w then BitVec.ofInt 64 (sext w (x.elem (s.rows s.cur) a.toNat w j)) else 0)
  { base with whole := piece, banks := fun g => if g = 0 then [piece] else [] }

/-! ## Levels -/

/-- nset: one level at va with the count and the open flags of X[b] (R143). -/
def State.nsetTo (s : State) (n : NReg) (a : VReg) (v : Word) : Except Stop State :=
  let t := s.cur
  let c := (v.extractLsb' 0 32).toNat
  if v.extractLsb' 34 30 ≠ 0#30 then .error (nestTrap 0 0xFFFF_FFFB)
  else if 64 * s.rows t < c + 1 then .error (nestTrap 1 0xFFFF_FFFD)
  else
    .ok (s.setArch t ((s.arch t).setNest n
      ⟨1, a, (Vector.replicate 4 0).set 0 (BitVec.ofNat 12 c), v.getLsbD 32, v.getLsbD 33⟩))

def memberNset (n : NReg) (a : VReg) (b : XReg) (s : State) : Member :=
  crossMember s (wordOf (.nset n a b)) true false 32 [] 1 [] [] [] fun s => s.nsetTo n a (s.x b)

/-- npush: a new innermost level (R143). -/
def State.npushTo (s : State) (n : NReg) (v : Word) : Except Stop State :=
  let t := s.cur
  let x := s.arch t
  let q := x.nest n
  let c := (v.extractLsb' 0 32).toNat
  let d := q.d.val + 1
  if v.extractLsb' 32 32 ≠ 0#32 then .error (nestTrap 0 0xFFFF_FFFB)
  else if h : d < 5 then
    if 31 < q.base.toNat + q.d.val then .error (nestTrap d 0xFFFF_FFFE)
    else if 64 * s.rows t < c + 1 then .error (nestTrap d 0xFFFF_FFFD)
    else .ok (s.setArch t (x.setNest n { q.setCount d c with d := ⟨d, h⟩ }))
  else .error (.trap 0x09 0)

def memberNpush (n : NReg) (b : XReg) (s : State) : Member :=
  crossMember s (wordOf (.npush n b)) true false 32 [] 1 [] [] [] fun s => s.npushTo n (s.x b)

/-- A nest one level shallower, its innermost count 0. -/
def Nest.drop (q : Nest) : Nest := { q.setCount q.d.val 0 with d := ⟨q.d.val - 1, by omega⟩ }

/-- Level l's entries composed through level l + 1. -/
def Arch.composed (a : Arch) (rows : Nat) (q : Nest) (l : Nat) : List (Nat × Nat) :=
  (List.range (q.count l + 1)).map fun k => (k, a.off rows q (l + 1) (a.off rows q l k))

/-- npop (R144). -/
def State.npopTo (s : State) (flat : Bool) (n : NReg) : Except Stop State := do
  let t := s.cur
  let x := s.arch t
  let rows := s.rows t
  let q := x.nest n
  let d := q.d.val
  if d = 0 then .error (nestTrap 0 0xFFFF_FFFF)
  else if d = 1 then return s.setArch t (x.setNest n q.drop)
  else if !flat then
    x.checkLevels rows q (d - 1) none
    return s.setArch t ((x.putElems rows (q.reg (d - 1)) 32 (x.composed rows q (d - 1))).setNest n q.drop)
  else
    x.checkLevels rows q (if 3 ≤ d then d - 2 else d - 1) none
    let y := if 3 ≤ d then x.putElems rows (q.reg (d - 2)) 32 (x.composed rows q (d - 2)) else x
    let y := y.putElems rows (q.reg (d - 1)) 32 ((List.range (q.count d + 1)).map fun k => (k, x.off rows q d k))
    return s.setArch t (y.setNest n (q.setCount (d - 1) (q.count d)).drop)

def memberNpop (flat : Bool) (n : NReg) (s : State) : Member :=
  let x := s.arch s.cur
  let q := x.nest n
  let d := q.d.val
  let rows := s.rows s.cur
  let two := flat && decide (3 ≤ d)
  let wr := if d ≤ 1 then [] else (q.reg (d - 1), (if flat then q.count d else q.count (d - 1)) + 1) ::
    if two then [(q.reg (d - 2), q.count (d - 2) + 1)] else []
  crossMember s (wordOf (.npop flat n)) true false 32 [] 1 (if d ≤ 1 then [] else q.regsFrom (if two then d - 2 else d - 1)) (wr.map Prod.fst)
    (wr.flatMap fun r => touchedGroups rows r.1 32 r.2 1 false)
    fun s => s.npopTo flat n

/-- Condition 6 of R129: the data group at vd overlaps a level register that the instruction writes, innermost level first. -/
def overlapCheck (d mult : Nat) (written : List (Nat × Nat)) : Except Stop Unit :=
  match written.find? fun p => decide (d ≤ p.2) && decide (p.2 < d + mult) with
  | some p => .error (nestTrap p.1 0xFFFF_FFFC)
  | none => .ok ()

/-- vpack: each innermost segment partitioned stably by v0, and a level pushed that splits it (R145). -/
def State.packTo (s : State) (d a : VReg) (n : NReg) : Except Stop State := do
  let t := s.cur
  let x := s.arch t
  let rows := s.rows t
  let w := widthOf x.vtype
  let q := x.nest n
  let depth := q.d.val
  if h : depth + 1 < 5 then
    let c := if depth = 0 then 1 else q.count depth
    x.checkLevels rows q (if depth = 0 then 1 else depth) (some (depth + 1, 2 * c))
    overlapCheck d.toNat (multOf x.vtype) ((depth + 1, q.reg (depth + 1)) :: if depth = 0 then [] else [(depth, q.reg depth)])
    let pairs := segPairs (x.segs rows q depth)
    let parts := pairs.map fun p =>
      let l := rangeList p.1 p.2
      (p.1, l.filter (fun i => x.maskBit rows 0 i), l.filter fun i => !x.maskBit rows 0 i)
    let order := parts.flatMap fun p => p.2.1 ++ p.2.2
    let y := x.putElems rows d.toNat w (order.zipIdx.map fun p => (p.2, x.elem rows a.toNat w p.1))
    let bounds := parts.flatMap (fun p => [p.1, p.1 + p.2.1.length]) ++ [x.vl]
    let y := if depth = 0 then y else y.putElems rows (q.reg depth) 32 ((List.range (c + 1)).map fun k => (k, 2 * k))
    let y := y.putElems rows (q.reg (depth + 1)) 32 (bounds.zipIdx.map fun p => (p.2, p.1))
    let y := y.setNest n { q.setCount (depth + 1) (2 * c) with d := ⟨depth + 1, h⟩ }
    return s.setArch t (y.tailFrom rows d.toNat w x.vl)
  else .error (.trap 0x09 0)

def memberVpack (d a : VReg) (n : NReg) (s : State) : Member :=
  let x := s.arch s.cur
  let q := x.nest n
  let depth := q.d.val
  let rows := s.rows s.cur
  let mult := multOf x.vtype
  let c := if depth = 0 then 1 else q.count depth
  let levels := if depth = 0 then [q.reg 1] else [q.reg (depth + 1), q.reg depth]
  let base := crossMember s (wordOf (.vpack d a n)) (groupOk a.toNat mult && groupOk d.toNat mult) false (widthOf x.vtype) [(a.toNat, widthOf x.vtype)] mult
    (q.regsFrom depth) (regsFrom d.toNat mult ++ levels)
    (touchedGroups rows d.toNat (widthOf x.vtype) x.vl mult (tailZero x.vtype) ++ levels.flatMap fun r => touchedGroups rows r 32 (2 * c + 1) 1 false)
    fun s => s.packTo d a n
  { base with whole := base.whole ++ wholeNeeds rows x.vl true [], masks := maskReads x.vtype true, across := base.across ++ maskReads x.vtype true }

/-- vcompress: the elements whose v0 bit is 1, packed from element 0, and the innermost offsets rewritten (R146). -/
def State.compressTo (s : State) (d a : VReg) (n : NReg) : Except Stop State := do
  let t := s.cur
  let x := s.arch t
  let rows := s.rows t
  let w := widthOf x.vtype
  let q := x.nest n
  let depth := q.d.val
  if depth ≠ 0 then
    x.checkLevels rows q depth none
    overlapCheck d.toNat (multOf x.vtype) [(depth, q.reg depth)]
  let kept := (List.range x.vl).filter fun i => x.maskBit rows 0 i
  let y := x.putElems rows d.toNat w (kept.zipIdx.map fun p => (p.2, x.elem rows a.toNat w p.1))
  let y :=
    if depth = 0 then y
    else y.putElems rows (q.reg depth) 32 ((List.range (q.count depth + 1)).map fun k =>
      (k, (kept.filter fun i => decide (i < x.off rows q depth k)).length))
  return s.setArch t (y.tailFrom rows d.toNat w kept.length)

def memberVcompress (d a : VReg) (n : NReg) (s : State) : Member :=
  let x := s.arch s.cur
  let q := x.nest n
  let depth := q.d.val
  let rows := s.rows s.cur
  let mult := multOf x.vtype
  let levels := if depth = 0 then [] else [q.reg depth]
  let kept := ((List.range x.vl).filter fun i => x.maskBit rows 0 i).length
  let base := crossMember s (wordOf (.vcompress d a n)) (groupOk a.toNat mult && groupOk d.toNat mult) false (widthOf x.vtype) [(a.toNat, widthOf x.vtype)] mult
    (q.regsFrom depth) (regsFrom d.toNat mult ++ levels)
    (touchedGroups rows d.toNat (widthOf x.vtype) kept mult (tailZero x.vtype) ++ levels.flatMap fun r => touchedGroups rows r 32 (q.count depth + 1) 1 false)
    fun s => s.compressTo d a n
  { base with whole := base.whole ++ wholeNeeds rows x.vl true [], masks := maskReads x.vtype true, across := base.across ++ maskReads x.vtype true }

/-- vtree: node depths from a parent table, checked in ascending order (R147). -/
def State.treeTo (s : State) (d a : VReg) : Except Stop State :=
  let t := s.cur
  let x := s.arch t
  let rows := s.rows t
  let parent (i : Nat) : Int := sext 32 (x.elem rows a.toNat 32 i)
  match (List.range x.vl).find? fun i => decide (parent i < -1) || decide ((i : Int) ≤ parent i) with
  | some i => .error (.trap 0x0A (BitVec.ofNat 64 i))
  | none =>
    let depths := (List.range x.vl).foldl (fun (acc : List Nat) i =>
      acc ++ [if parent i = -1 then 0 else (acc[(parent i).toNat]?.getD 0) + 1]) []
    .ok (s.setArch t ((x.putElems rows d.toNat 32 (depths.zipIdx.map fun p => (p.2, p.1))).tailFrom rows d.toNat 32 x.vl))

def memberVtree (d a : VReg) (s : State) : Member :=
  let x := s.arch s.cur
  let mult := multOf x.vtype
  crossMember s (wordOf (.vtree d a)) (decide (ewOf x.vtype = 3) && groupOk a.toNat mult && groupOk d.toNat mult) false 32 [(a.toNat, 32)] mult []
    (regsFrom d.toNat mult) (touchedGroups (s.rows s.cur) d.toNat 32 x.vl mult (tailZero x.vtype))
    fun s => s.treeTo d a

end Sys2Proof.Machine
end

