-- ==== Sys2Proof/Machine/Convoy.lean ====
section
/-! DEFINITION. Convoys: formation, the reservations before one, the completion of a member, and the precise point of a convoy that faults
(spec/02_instruction_words.md R58, R59, spec/09_memory_access.md R200, spec/12_strips_convoys.md R260 to R272, spec/21_traps_restart.md R368 to
R372). Members execute one turn each, in order; chaining never alters a result (R34). -/

namespace Sys2Proof.Machine

/-- A vector instruction as a member of a convoy; none for the others. -/
def memberOf (i : Instr) (s : State) : Option Member :=
  match i with
  | .vadd m d a b => some (memberVadd m d a b s)
  | .vsub m d a b => some (memberVsub m d a b s)
  | .vmul m d a b => some (memberVmul m d a b s)
  | .vand m d a b => some (memberVand m d a b s)
  | .vor m d a b => some (memberVor m d a b s)
  | .vxor m d a b => some (memberVxor m d a b s)
  | .vsll m d a b => some (memberVsll m d a b s)
  | .vsrl m d a b => some (memberVsrl m d a b s)
  | .vsra m d a b => some (memberVsra m d a b s)
  | .vmin m d a b => some (memberVmin m d a b s)
  | .vmax m d a b => some (memberVmax m d a b s)
  | .vsadd m d a b => some (memberVsadd m d a b s)
  | .vssub m d a b => some (memberVssub m d a b s)
  | .vpopc m d a => some (memberVpopc m d a s)
  | .vmerge d a b => some (memberVmerge d a b s)
  | .vmv m d a => some (memberVmv m d a s)
  | .vmvScalar m d b => some (memberVmvScalar m d b s)
  | .vid m d => some (memberVid m d s)
  | .vwiden m sgn d a b => some (memberVwiden m sgn d a b s)
  | .vnarrow m sgn d a b => some (memberVnarrow m sgn d a b s)
  | .vcmpeq m d a b => some (memberVcmpeq m d a b s)
  | .vcmpne m d a b => some (memberVcmpne m d a b s)
  | .vcmplt m d a b => some (memberVcmplt m d a b s)
  | .vcmpltu m d a b => some (memberVcmpltu m d a b s)
  | .vcmple m d a b => some (memberVcmple m d a b s)
  | .vcmpleu m d a b => some (memberVcmpleu m d a b s)
  | .vfcmpeq m d a b => some (memberVfcmpeq m d a b s)
  | .vfcmplt m d a b => some (memberVfcmplt m d a b s)
  | .vfcmple m d a b => some (memberVfcmple m d a b s)
  | .vfadd m d a b => some (memberVfadd m d a b s)
  | .vfsub m d a b => some (memberVfsub m d a b s)
  | .vfmul m d a b => some (memberVfmul m d a b s)
  | .vfma m d a b => some (memberVfma m d a b s)
  | .vfdiv m d a b => some (memberVfdiv m d a b s)
  | .vfmin m d a b => some (memberVfmin m d a b s)
  | .vfmax m d a b => some (memberVfmax m d a b s)
  | .vfscale m d a b => some (memberVfscale m d a b s)
  | .vfcvtfi m d a => some (memberVfcvtfi m d a s)
  | .vfcvtif m r d a => some (memberVfcvtif m r d a s)
  | .vfwiden m n d a => some (memberVfwiden m n d a s)
  | .vfnarrow m n d a => some (memberVfnarrow m n d a s)
  | .vflogt m d a b => some (memberVflogt m d a b s)
  | .vmand m d a b => some (memberVmand m d a b s)
  | .vmor m d a b => some (memberVmor m d a b s)
  | .vmxor m d a b => some (memberVmxor m d a b s)
  | .vmpopc m d a => some (memberVmpopc m d a s)
  | .vmfirst m d a => some (memberVmfirst m d a s)
  | .vredsum m p d a n => some (memberVredsum m p d a n s)
  | .vredmin m p d a n => some (memberVredmin m p d a n s)
  | .vredmax m p d a n => some (memberVredmax m p d a n s)
  | .vredand m p d a n => some (memberVredand m p d a n s)
  | .vredor m p d a n => some (memberVredor m p d a n s)
  | .vredxor m p d a n => some (memberVredxor m p d a n s)
  | .vfredsum m p d a n => some (memberVfredsum m p d a n s)
  | .vfredmin m p d a n => some (memberVfredmin m p d a n s)
  | .vfredmax m p d a n => some (memberVfredmax m p d a n s)
  | .vredminx m p h a n => some (memberVredminx m p h a n s)
  | .vfredmaxx m p h a n => some (memberVfredmaxx m p h a n s)
  | .vscansum m ex p d a n => some (memberVscansum m ex p d a n s)
  | .vscanmax m ex p d a n => some (memberVscanmax m ex p d a n s)
  | .vfscansum m ex p d a n => some (memberVfscansum m ex p d a n s)
  | .vfscanmax m ex p d a n => some (memberVfscanmax m ex p d a n s)
  | .vdist m p d a n => some (memberVdist m p d a n s)
  | .vpack d a n => some (memberVpack d a n s)
  | .vcompress d a n => some (memberVcompress d a n s)
  | .vsegid m p d n => some (memberVsegid m p d n s)
  | .vseglen p d n => some (memberVseglen p d n s)
  | .vtree d a => some (memberVtree d a s)
  | .nset n a b => some (memberNset n a b s)
  | .npush n b => some (memberNpush n b s)
  | .npop flat n => some (memberNpop flat n s)
  | .vslideup m p d a b => some (memberVslideup m p d a b s)
  | .vslidedn m p d a b => some (memberVslidedn m p d a b s)
  | .vrgather m p d a b => some (memberVrgather m p d a b s)
  | .vmvxs d a b => some (memberVmvxs d a b s)
  | .vdec4 m d a => some (memberVdec4 m d a s)
  | .venc4 t d a => some (memberVenc4 t d a s)
  | .vbsum m p d a b => some (memberVbsum m p d a b s)
  | .vld m c d a => some (memberVld m c d a s)
  | .vlds m c d a b => some (memberVlds m c d a b s)
  | .vldx m c d a b => some (memberVldx m c d a b s)
  | .vldxo m c d a b => some (memberVldxo m c d a b s)
  | .vldff c d a => some (memberVldff c d a s)
  | .vfill c d a => some (memberVfill c d a s)
  | .vst m c d a => some (memberVst m c d a s)
  | .vsts m c d a b => some (memberVsts m c d a b s)
  | .vstx m c d a b => some (memberVstx m c d a b s)
  | .vstxo m c d a b => some (memberVstxo m c d a b s)
  | .vspill c d a => some (memberVspill c d a s)
  | _ => none

def srcX (b : VSrc) : List XReg := match b with | .vec _ => [] | .scal x => [x]

/-- Scalar registers that a vector instruction reads. -/
def xReads (i : Instr) : List XReg :=
  match i with
  | .vadd _ _ _ b | .vsub _ _ _ b | .vmul _ _ _ b | .vand _ _ _ b | .vor _ _ _ b | .vxor _ _ _ b | .vsll _ _ _ b | .vsrl _ _ _ b | .vsra _ _ _ b
  | .vmin _ _ _ b | .vmax _ _ _ b | .vsadd _ _ _ b | .vssub _ _ _ b | .vmerge _ _ b | .vwiden _ _ _ _ b | .vnarrow _ _ _ _ b | .vcmpeq _ _ _ b
  | .vcmpne _ _ _ b | .vcmplt _ _ _ b | .vcmpltu _ _ _ b | .vcmple _ _ _ b | .vcmpleu _ _ _ b | .vfcmpeq _ _ _ b | .vfcmplt _ _ _ b
  | .vfcmple _ _ _ b => srcX b
  | .vmvScalar _ _ b | .nset _ _ b | .npush _ b | .vslideup _ _ _ _ b | .vslidedn _ _ _ _ b | .vmvxs _ _ b => [b]
  | .vld _ _ _ a | .vldx _ _ _ a _ | .vldxo _ _ _ a _ | .vldff _ _ a | .vfill _ _ a | .vst _ _ _ a | .vstx _ _ _ a _ | .vstxo _ _ _ a _
  | .vspill _ _ a => [a]
  | .vlds _ _ _ a b | .vsts _ _ _ a b => [a, b]
  | _ => []

/-- The scalar register it writes when it retires. -/
def xWrites (i : Instr) : List XReg :=
  match i with
  | .vmpopc _ d _ | .vmfirst _ d _ | .vmvxs d _ _ => [d]
  | _ => []

/-- Nests that it reads, and those that it writes (R126). -/
def nestReads (i : Instr) : List NReg :=
  match i with
  | .vredsum _ _ _ _ n | .vredmin _ _ _ _ n | .vredmax _ _ _ _ n | .vredand _ _ _ _ n | .vredor _ _ _ _ n | .vredxor _ _ _ _ n | .vfredsum _ _ _ _ n
  | .vfredmin _ _ _ _ n | .vfredmax _ _ _ _ n | .vredminx _ _ _ _ n | .vfredmaxx _ _ _ _ n | .vscansum _ _ _ _ _ n | .vscanmax _ _ _ _ _ n
  | .vfscansum _ _ _ _ _ n | .vfscanmax _ _ _ _ _ n | .vdist _ _ _ _ n | .vpack _ _ n | .vcompress _ _ n | .vsegid _ _ _ n | .vseglen _ _ n
  | .nset n _ _ | .npush n _ | .npop _ n => [n]
  | .vslideup _ p _ _ _ | .vslidedn _ p _ _ _ | .vrgather _ p _ _ _ | .vbsum _ p _ _ _ => if p = 0 then [] else [0]
  | _ => []

def nestWrites (i : Instr) : List NReg :=
  match i with
  | .nset n _ _ | .npush n _ | .npop _ n | .vpack _ _ n => [n]
  | _ => []

/-! ## Progress -/

/-- The thread stands at an instruction boundary: not between two members of a convoy, nor inside one that has begun (R261, R312). -/
def Arch.atBoundary (a : Arch) : Bool :=
  match a.convoy with
  | none => true
  | some c => c.member == 0 && !c.begun

/-- The next of a convoy's members follows in sequence: no end of pass sends control elsewhere, and the word is a vector instruction (R58). -/
def State.follows (s : State) (t : Tid) (next : Word) : Bool := ((s.arch t).goesOn next).isSome && s.vectorAt t next

def State.memberAt (s : State) (t : Tid) (pc : Word) : Option (Instr × Member) :=
  match s.fetchAt t pc with
  | .error _ => none
  | .ok w =>
    match decode w with
    | .error _ => none
    | .ok i => (memberOf i s).map fun m => (i, m)

/-- The members of a convoy that follow the one at an address, up to n, as they stand at its issue; `a` holds the loop stack there. -/
def State.membersAfter (s : State) (t : Tid) (a : Arch) : Nat → Word → List (Instr × Member)
  | 0, _ => []
  | n + 1, pc =>
    match a.goesOn (pc + 4), s.memberAt t (pc + 4) with
    | some b, some x => x :: s.membersAfter t b n (pc + 4)
    | _, _ => []

/-- The members of the convoy at an address. -/
def State.membersFrom (s : State) (t : Tid) (pc : Word) : List (Instr × Member) :=
  match s.memberAt t pc with
  | some x => x :: s.membersAfter t (s.arch t) 3 pc
  | none => []

/-- The destinations of a convoy's members that have not completed read busy, with the index that their progress gives (R369, R371). -/
def State.resumeProg (s : State) (t : Tid) : State :=
  match (s.arch t).convoy with
  | none => s
  | some c =>
    ((s.membersFrom t c.addr).zipIdx).foldl (fun (s : State) p =>
      let f := progressAt c.resume p.2
      if f = 63 then s else s.setArch t ((s.arch t).putProg p.1.2.writes (some f.toNat))) s

/-! ## Reservations (R200, R260) -/

/-- The state a checkpoint between two members or element groups keeps: the convoy at its address, with the progress of its members (R259). -/
def Arch.atConvoy (a : Arch) : Arch :=
  match a.convoy with
  | none => a
  | some c => { a with pc := c.addr, convoy := if c.resume = noProgress then none else some ⟨c.addr, 0, c.resume, false⟩ }

/-- An implicit checkpoint before the convoy, or inside it. -/
def State.convoyCkpt (s : State) (t : Tid) : State :=
  if (s.thr t).lanes.isSome then
    let a := (s.arch t).atConvoy
    s.takeCkpt t ⟨.implicit, a, a⟩
  else s

/-- What a convoy's members need of the strip store buffer: the granules they store to beyond those already found, and a bound for the stores
whose places an earlier member has yet to write. -/
def granulesOf (c : Convoy) (ms : List ((Instr × Member) × Nat)) : List Nat × Nat :=
  (ms.foldl (fun (acc : (List Nat × Nat) × List Nat × List XReg) p =>
    let m := p.1.2
    let open_ := (m.places.any acc.2.1.contains) || (xReads p.1.1).any acc.2.2.contains
    let got := if open_ then (acc.1.1, acc.1.2 + m.mostGranules) else (m.granules (progressAt c.resume p.2).toNat ++ acc.1.1, acc.1.2)
    (got, m.writes ++ acc.2.1, xWrites p.1.1 ++ acc.2.2)) (([], 0), [], [])).1

/-- The convoy's stores fit in the strip store buffer beside what the hart holds (R200). -/
def State.convoyFits (s : State) (t : Tid) (c : Convoy) (ms : List ((Instr × Member) × Nat)) : Bool :=
  let held := s.heldGranules (hartOf t)
  let most := (ms.map fun p => p.1.2.mostGranules).foldl (· + ·) 0
  most == 0 || decide (held.length + most ≤ 8192) ||
    (let g := granulesOf c ms
     let new := ((g.1.map fun k => (t.val, k)).dedup.filter fun k => !held.contains k).length
     decide (held.length + new + g.2 ≤ 8192))

/-- Before a convoy: room in the history buffer and in the strip store buffer for all of it, or an implicit checkpoint. -/
def State.reserveConvoy (s : State) (t : Tid) (c : Convoy) (ms : List (Instr × Member)) : State :=
  let left := ms.zipIdx.filter fun p => progressAt c.resume p.2 != 63
  if s.convoyFits t c left && s.historyFits t (left.flatMap fun p => p.1.2.touches) then s else s.convoyCkpt t

/-- Before a member: its own history, after a checkpoint inside the convoy where it does not fit. Where the other lane groups' history leaves too
little room, it is recorded beside theirs all the same (assumption 58). -/
def State.reserveMember (s : State) (t : Tid) (m : Member) : State :=
  (if s.historyFits t m.touches then s else s.convoyCkpt t).record t m.touches

/-! ## Bank conflicts (R271, R272) -/

/-- k reads of one bank in one cycle replay k (k - 1) / 2 times; reads of one group of one register share. -/
def bankLoss (reads : List (Nat × Nat)) (bank : Nat) : Nat :=
  let k := (reads.dedup.filter fun p => p.1 % 16 == bank).length
  k * (k - 1) / 2

/-- The banks from which a member reads. -/
def Member.readsBanks (m : Member) : List Nat := ((List.range m.groups).flatMap m.needs ++ m.whole).map fun p => p.1 % 16

/-- Reads of a bank that are replayed while a member executes its groups from lo to hi. It loses to itself, and to older members that read the same
bank, those of `older`; how their reads fall beside its own is not fixed, so there its losses are free (assumption 9). -/
def State.lossOf (s : State) (m : Member) (older : List Nat) (lo hi bank : Nat) : Nat :=
  let cycles := (rangeList lo hi).flatMap m.banks
  if older.contains bank && cycles.any (·.any fun p => p.1 % 16 == bank) then Config.bankReplays (s.fresh + bank)
  else cycles.foldl (fun n c => n + bankLoss c bank) 0

def State.countBanks (s : State) (t : Tid) (m : Member) (older : List Nat) (lo hi : Nat) : State :=
  let s := s.addLosses t fun b => s.lossOf m older lo hi b
  if older.isEmpty then s else { s with fresh := s.fresh + 16 }

/-- The banks from which the members of the convoy before the one at which the thread stands read. -/
def State.olderBanks (s : State) (t : Tid) (c : Convoy) : List Nat :=
  if c.member = 0 then [] else ((s.membersFrom t c.addr).take c.member).flatMap fun p => p.2.readsBanks

/-! ## Completion -/

/-- Member k is done with: its progress field is 63, and control passes to the next member, or out of the convoy. A member that ran retires. -/
def State.passMember (s : State) (t : Tid) (c : Convoy) (k : Nat) (ran : Bool) : State :=
  let th := s.thr t
  let a := th.arch
  let next := a.pc + 4
  let r := Arch.endOfPass 4 a next
  let more := decide (k < 3) && s.follows t next
  s.setThr t { th with
    arch := { r.1 with pc := r.2, convoy := if more then some ⟨c.addr, k + 1, setProgress c.resume k 63, false⟩ else none }
    instret := if ran then th.instret + 1 else th.instret }

/-! ## The precise point (R368, R369) -/

/-- A fault that a member reports: the element group, the member, and the trap. -/
structure Found where
  group  : Nat
  member : Nat
  cause  : BitVec 8
  val    : Word

/-- The lower group is reported, and at one group the lower member (R368). -/
def Found.before (x y : Found) : Bool := decide (x.group < y.group) || (x.group == y.group && decide (x.member < y.member))

/-- A member that has not completed, with the groups it has committed. -/
structure Undone where
  instr : Instr
  mem   : Member
  done  : Nat

/-- A convoy that faults: its state, the progress of its members, and those among them that have not completed. -/
structure Stopping where
  st     : State
  /-- the banks that its members so far read from (R271) -/
  banks  : List Nat
  resume : Vector (BitVec 6) 4
  undone : List Undone

/-- Scalar registers that hold something: not x0 (R16). -/
def live (l : List XReg) : List XReg := l.filter (· ≠ 0)

def shares {α : Type} [BEq α] (a b : List α) : Bool := a.any fun x => b.contains x

/-- A member that commits nothing unless it completes: one that reads across groups, reaches device-class memory, or overwrites what it still has
to read for its later groups (R114, R263, R369). -/
def Member.isWhole (m : Member) : Bool := m.cross || m.deviceClass || shares m.writes (m.across ++ m.masks)

/-- The place (register, group) of a member's own group g among the registers it writes. -/
def Member.place (m : Member) (g : Nat) : Option (Nat × Nat) := (m.writes[g / 4]?).map fun r => (r, g % 4)

/-- This element group is one that the member has still to write. -/
def Undone.holds (e : Undone) (p : Nat × Nat) : Bool := e.mem.writes.contains p.1 && decide (e.done ≤ e.mem.writes.idxOf p.1 * 4 + p.2)

/-- The element groups that the member has still to read. -/
def Undone.reads (e : Undone) : List (Nat × Nat) := (rangeList e.done e.mem.groups).flatMap e.mem.needs ++ e.mem.whole

/-- The first of a member's groups that a condition holds back, or all of them. -/
def Member.upTo (m : Member) (held : Nat → Bool) : Nat := ((List.range m.groups).find? held).getD m.groups

/-- The groups of a later member whose sources one that has not completed has committed, scalar registers and nests among them (R263). -/
def Undone.ready (e : Undone) (i : Instr) (m : Member) : Nat :=
  if shares (xReads i) (live (xWrites e.instr)) || shares (nestReads i) (nestWrites e.instr) || m.whole.any e.holds then 0
  else m.upTo fun g => (m.needs g).any e.holds

/-- The groups that a later member may commit beside one that has not completed: none that the earlier one has still to read, none of a register
that it still writes, none at all of one that it reads at other groups than its own, and no more than it has committed where both write
(R264, R265). -/
def Undone.bound (e : Undone) (i : Instr) (m : Member) : Nat :=
  let x := e.mem
  if shares (live (xWrites i)) (xReads e.instr ++ xWrites e.instr) || shares (nestWrites i) (nestReads e.instr ++ nestWrites e.instr) ||
      shares m.writes (x.masks ++ x.across) then 0
  else
    let n := m.upTo fun g => (m.place g).any fun p => e.reads.contains p || (x.writes.contains p.1 && decide (e.done < x.writes.idxOf p.1 * 4 + 4))
    if !m.writes.isEmpty && !x.writes.isEmpty then min n e.done else n

/-- The groups whose sources allow a member, and those that its destination allows too. -/
def Stopping.ready (x : Stopping) (i : Instr) (m : Member) : Nat := x.undone.foldl (fun n e => min n (e.ready i m)) m.groups

def Stopping.allows (x : Stopping) (t : Tid) (i : Instr) (m : Member) : Nat :=
  if x.st.pennantBusy t m.writes then 0
  else x.undone.foldl (fun n e => min n (e.bound i m)) (x.ready i m)

/-- A member stands with `done` groups committed. -/
def Stopping.stop (x : Stopping) (st : State) (i : Instr) (m : Member) (k done : Nat) : Stopping :=
  ⟨st, m.readsBanks ++ x.banks, setProgress x.resume k (BitVec.ofNat 6 done), x.undone ++ [⟨i, m, done⟩]⟩

/-- A member completes. -/
def Stopping.complete (x : Stopping) (st : State) (t : Tid) (m : Member) (k : Nat) : Stopping :=
  let th := st.thr t
  { x with
    banks := m.readsBanks ++ x.banks
    st := st.setThr t { th with arch := th.arch.putProg m.writes none, instret := th.instret + 1 }
    resume := setProgress x.resume k 63 }

/-- Member j beside the reported fault f: an earlier member runs on; the reporting one and the later ones commit groups below f's only, and a member
that commits whole does so only where all it writes lies below. One that R263 lists is undone whole, and the flags it has accrued stay (R369). The
second answer is a fault of its own, which a member whose sources are there meets whether or not it may commit (R368). -/
def Stopping.member (x : Stopping) (t : Tid) (f : Found) (i : Instr) (m : Member) (j : Nat) : Stopping × Option Found :=
  let start := if m.isWhole then 0 else (progressAt x.resume j).toNat
  match m.issue with
  | .error (.trap c v) => (x.stop x.st i m j start, some ⟨0, j, c, v⟩)
  | .error .wait => (x.stop x.st i m j start, none)
  | .ok () =>
    let n := min (x.allows t i m) (if j < f.member then m.groups else f.group)
    if m.isWhole then
      let undone := x.stop (if m.cross then x.st.raise t (m.accrue n x.st) else x.st) i m j 0
      if decide (x.ready i m < m.groups) || m.deviceClass then (undone, none)
      else
        let p := m.run 0 m.groups x.st
        match p.fault with
        | some (g, c, v) => (x.stop x.st i m j 0, some ⟨g, j, c, v⟩)
        | none =>
          if !p.wait && (decide (j < f.member) || !m.scalarDest) && decide (0 < n) && decide (m.reach ≤ n) then
            (x.complete (p.st.countBanks t m x.banks 0 p.done) t m j, none)
          else (undone, none)
    else
      let hi := if 0 < n ∧ m.reach ≤ n then m.groups else n
      if hi ≤ start then (x.stop x.st i m j start, none)
      else
        let p := m.run start hi x.st
        let st := p.st.countBanks t m x.banks start p.done
        match p.fault with
        | some (g, c, v) => (x.stop st i m j g, some ⟨g, j, c, v⟩)
        | none => if !p.wait && decide (m.groups ≤ p.done) then (x.complete st t m j, none) else (x.stop st i m j p.done, none)

/-- The members from the list in turn, each at its address, as control runs on through the loop stack of `a`; one that reports before f ends the
pass. -/
def Stopping.pass (t : Tid) (addr : Word) (f : Found) : List Nat → Arch → Stopping → Stopping × Option Found
  | [], _, x => (x, none)
  | j :: more, a, x =>
    let pc := addr + BitVec.ofNat 64 (4 * j)
    match a.goesOn pc with
    | none => (x, none)
    | some b =>
      if progressAt x.resume j = 63 then Stopping.pass t addr f more b x
      else
        let x := { x with st := x.st.setArch t { x.st.arch t with convoy := some ⟨addr, j, x.resume, true⟩ } }
        match x.st.memberAt t pc with
        | none => (x, none)
        | some (i, m) =>
          match x.member t f i m j with
          | (x', some g) => if g.before f then (x', some g) else Stopping.pass t addr f more b x'
          | (x', none) => Stopping.pass t addr f more b x'

/-- The fault that the convoy reports, and its members at the precise point: a pass that meets a fault reported before f is taken again with it
(R368, R369). -/
def Stopping.settle (t : Tid) (addr : Word) (js : List Nat) (x : Stopping) : Nat → Found → Stopping × Found
  | 0, f => ((Stopping.pass t addr f js (x.st.arch t) x).1, f)
  | n + 1, f =>
    match Stopping.pass t addr f js (x.st.arch t) x with
    | (x', none) => (x', f)
    | (_, some g) => Stopping.settle t addr js x n g

/-- A state in which nothing of a member has been done, but for what its reads at their homes have left there (R385, R393). -/
def State.keepNotes (before s : State) : State :=
  { before with elided := s.elided, errCounts := s.errCounts, reports := s.reports, debugLog := s.debugLog }

/-- The convoy traps at the member at which the thread stands, which has a fault at group g; `s` is the state with the groups below committed,
`before` the state in which nothing of the member has been done. -/
def State.convoyTrap (before s : State) (t : Tid) (c : Convoy) (i : Instr) (m : Member) (g : Nat) (cause : BitVec 8) (val : Word) : State :=
  if before.trapWaits t then before
  else
    let done := if m.isWhole then 0 else max g (progressAt c.resume c.member).toNat
    let x := Stopping.stop ⟨s, before.olderBanks t c, c.resume, []⟩ (if m.isWhole then before.keepNotes s else s) i m c.member done
    let r := Stopping.settle t c.addr (rangeList (c.member + 1) 4) x 4 ⟨g, c.member, cause, val⟩
    let st := r.1.st
    let a := r.1.undone.foldr (fun e (a : Arch) => a.putProg e.mem.writes (some e.done)) (st.arch t)
    (st.setArch t a).trapEntry t r.2.cause r.2.val ⟨c.addr, false, st.stripState t c.addr, r.2.member, st.cleanProgress t c.addr r.1.resume⟩

/-! ## Execution -/

/-- R19, then the member's own checks at issue. -/
def State.memberIssue (s : State) (m : Member) : Except Stop Unit := do
  s.needLanes m.word
  m.issue

/-- The member stops part-way and waits: with the groups it has committed, or with none where it commits whole (R248, R262, R312). -/
def State.holdMember (before s : State) (t : Tid) (c : Convoy) (m : Member) (start done : Nat) : State :=
  if m.isWhole then before
  else
    let a := s.arch t
    let a := if done = start then a else a.putProg m.writes (some done)
    s.setArch t { a with
      convoy := some { c with resume := setProgress c.resume c.member (BitVec.ofNat 6 done), begun := c.begun || decide (start < done) } }

/-- The member runs from its first group not yet committed (R371, R372). A handler's read of a register whose write is in flight reads it whole
(assumption 60). -/
def State.runMember (s : State) (t : Tid) (c : Convoy) (i : Instr) (m : Member) : State :=
  let start := (progressAt c.resume c.member).toNat
  let p := m.run start m.groups s
  let st := p.st.countBanks t m (s.olderBanks t c) start p.done
  match p.fault with
  | some (g, cause, val) => s.convoyTrap st t c i m g cause val
  | none =>
    if p.wait then
      let held := s.holdMember st t c m start p.done
      if p.full then held.convoyCkpt t else held
    else
      let st := st.setArch t ((st.arch t).putProg m.writes none)
      let st := st.passMember t c c.member true
      if m.deviceClass then st.convoyCkpt t else st

/-- The turn of a vector instruction: skipped when it completed before a trap; else issued, and run once no transfer in flight names a register
that it writes (R243). -/
def State.runVector (s : State) (i : Instr) (f : State → Member) : Outcome :=
  let t := s.cur
  let c := (s.arch t).convoyHere
  if progressAt c.resume c.member = 63 then .next (s.passMember t c c.member false)
  else
    let m := f s
    match s.memberIssue m with
    | .error (.trap cause val) => .next (s.convoyTrap s t c i m 0 cause val)
    | .error .wait => .next s
    | .ok () =>
      if s.pennantBusy t m.writes then .next s
      else
        let s := if c.member = 0 then s.reserveConvoy t c ((i, m) :: s.membersAfter t (s.arch t) 3 c.addr) else s
        let s := s.reserveMember t m
        .next (s.runMember t c i (f s))

end Sys2Proof.Machine
end

