-- ==== Sys2Proof/Machine/Amo.lean ====
section
/-! DEFINITION. Atomics (spec/10_ordering_rules.md R229 to R235). -/

namespace Sys2Proof.Machine

def amoBytes : AWidth → Nat
  | .w32 => 4
  | .w64 => 8

def atomicFmt (w : AWidth) : Fmt := if w = .w32 then .fp32 else .fp64

/-- new(op, old, b, e): the value written, or none where amocas finds another value; and the flags of famoadd (R229, R231). -/
def atomicNew (op : AtomicOp) (w : AWidth) (old b e : Nat) : Option Nat × BitVec 5 :=
  let bits := 8 * (amoBytes w)
  match op with
  | .add => (some ((old + b) % 2 ^ bits), 0)
  | .and => (some (old &&& b), 0)
  | .or => (some (old ||| b), 0)
  | .xor => (some (old ^^^ b), 0)
  | .min => (some (if sext bits b < sext bits old then b else old), 0)
  | .max => (some (if sext bits old < sext bits b then b else old), 0)
  | .swap => (some b, 0)
  | .cas => (if old = e then some b else none, 0)
  | .fadd =>
    let r := fadd (atomicFmt w) (unpack (atomicFmt w) old) (unpack (atomicFmt w) b)
    (some r.1, r.2)

/-- A read of a thread's atomic access that writes nothing (R385, R393); one that writes is reported by its write. -/
def State.noteAtomic (s : State) (t : Tid) (key : Nat) (writes : Bool) : State :=
  if writes then s.noteLines [key] else s.noteRead (s.who t).maker [(none, key)]

/-- One indivisible access at the home, after the earlier stores of thread t's path to the same bytes (R232): the old value, and the flags. -/
def State.atomicAt (s : State) (t : Tid) (loc : Loc) (op : AtomicOp) (w : AWidth) (b e : Nat) : Nat × BitVec 5 × State :=
  let len := (amoBytes w)
  if loc.device then
    let r := s.deviceRead t loc len
    let n := atomicNew op w r.1 b e
    (r.1, n.2, match n.1 with | some v => r.2.deviceWrite t loc (storeBytes loc.key (bytesOf v len)) | none => r.2)
  else
    let keys := (List.range len).map (loc.key + ·)
    let s := (s.drainAhead t keys).accessNow t keys
    let old := s.homeNum loc.key len
    let n := atomicNew op w old b e
    match n.1 with
    | none => (old, n.2, s.noteAtomic t loc.key false)
    | some v => (old, n.2, (s.noteAtomic t loc.key true).performNow t (storeBytes loc.key (bytesOf v len)))

/-- The checks of R235 and the copy scoreboard; a port that is down answers the value's return with 0x16 (R381). -/
def State.atomicLoc (s : State) (t : Tid) (va : Word) (len : Nat) : Except Stop Loc :=
  if va.toNat % len ≠ 0 then .error (.trap 0x03 va)
  else
    match s.translate (s.who t) .atomic true va with
    | .error c => .error (.trap c va)
    | .ok loc =>
      if loc.device then .ok loc
      else if s.hasBad t loc.key len then .error (.trap 0x16 va)
      else if s.copyStalls t ((List.range len).map (loc.key + ·)) true noneAcquired then .error .wait
      else .ok loc

/-- Release: every earlier access of the thread complete at the scope, once its strip has closed (R230, R233). -/
def State.acqRel (s : State) (t : Tid) (scope : Scope) (ar : Bool) : State := if ar then s.drainOwn t scope true true else s

/-- X[d] after an atomic: the old value sign-extended; an FP32 old value under R17. -/
def atomicResult (op : AtomicOp) (w : AWidth) (old : Nat) : Word :=
  match w, op with
  | .w64, _ => BitVec.ofNat 64 old
  | .w32, .fadd => BitVec.ofNat 64 old
  | .w32, _ => (BitVec.ofNat 32 old).signExtend 64

/-- An atomic of the AMO major (R230). -/
def State.amo (s : State) (op : AtomicOp) (w : AWidth) (scope : Scope) (ar : Bool) (d a b : XReg) : Outcome :=
  finish s do
    let va := s.x a
    let loc ← s.atomicLoc s.cur va (amoBytes w)
    let s0 := (s.settle s.cur).release s.cur
    if ar && s0.drainWaits s.cur scope (StoreEntry.ownKind s.cur true true) then return s.fenceOpen s.cur
    let s1 := s0.acqRel s.cur scope ar
    let r := s1.atomicAt s.cur loc op w ((s.x b).toNat % 2 ^ (8 * (amoBytes w))) ((s.x d).toNat % 2 ^ (8 * (amoBytes w)))
    let s2 := ((((if ar then r.2.2.dropAhead s.cur else r.2.2).watch loc.key).setX d (atomicResult op w r.1)).raiseOwn r.2.1).retire
    return s2.implicitCkpt s2.cur

/-- amoadd (R229, R230). -/
def execAmoadd (w : AWidth) (scope : Scope) (ar : Bool) (d a b : XReg) (s : State) : Outcome :=
  s.amo .add w scope ar d a b

/-- amoand (R229, R230). -/
def execAmoand (w : AWidth) (scope : Scope) (ar : Bool) (d a b : XReg) (s : State) : Outcome :=
  s.amo .and w scope ar d a b

/-- amoor (R229, R230). -/
def execAmoor (w : AWidth) (scope : Scope) (ar : Bool) (d a b : XReg) (s : State) : Outcome :=
  s.amo .or w scope ar d a b

/-- amoxor (R229, R230). -/
def execAmoxor (w : AWidth) (scope : Scope) (ar : Bool) (d a b : XReg) (s : State) : Outcome :=
  s.amo .xor w scope ar d a b

/-- amomin (R229, R230). -/
def execAmomin (w : AWidth) (scope : Scope) (ar : Bool) (d a b : XReg) (s : State) : Outcome :=
  s.amo .min w scope ar d a b

/-- amomax (R229, R230). -/
def execAmomax (w : AWidth) (scope : Scope) (ar : Bool) (d a b : XReg) (s : State) : Outcome :=
  s.amo .max w scope ar d a b

/-- amoswap (R229, R230). -/
def execAmoswap (w : AWidth) (scope : Scope) (ar : Bool) (d a b : XReg) (s : State) : Outcome :=
  s.amo .swap w scope ar d a b

/-- amocas (R229, R230). -/
def execAmocas (w : AWidth) (scope : Scope) (ar : Bool) (d a b : XReg) (s : State) : Outcome :=
  s.amo .cas w scope ar d a b

/-- famoadd (R229, R230). -/
def execFamoadd (w : AWidth) (scope : Scope) (ar : Bool) (d a b : XReg) (s : State) : Outcome :=
  s.amo .fadd w scope ar d a b

end Sys2Proof.Machine
end

