-- ==== Sys2Proof/Machine/Lanes.lean ====
section
/-! DEFINITION. Lanes as they pass between groups, kernels and contexts: lane groups (spec/12_strips_convoys.md R274 to R277), row repair
(spec/22_errors_spares.md R387), scrubbing (spec/18_contexts_translation.md R335), the start of a kernel's threads (spec/01_machine.md R29,
spec/14_scheduling.md R298, R299) and the end of a kernel (R31). -/

namespace Sys2Proof.Machine

/-! ## Registers on rows -/

/-- A register's bytes on `rows` rows; what lies beyond is lost (R387, R306). -/
def clipReg (rows : Nat) (x : VWord) : VWord := BitVec.ofNat 131072 (x.toNat % 2 ^ regBits rows)
def Arch.clip (a : Arch) (rows : Nat) : Arch := { a with v := vmap (clipReg rows) a.v }

/-- The slice of a register that starts above `below` rows and spans `rows` rows (R274). -/
def sliceReg (below rows : Nat) (x : VWord) : VWord := BitVec.ofNat 131072 (x.toNat / 2 ^ regBits below % 2 ^ regBits rows)

/-- Slices joined in group order, each with its rows (R276). -/
def joinSlices : List (Nat × VWord) → Nat
  | [] => 0
  | (rows, x) :: rest => x.toNat % 2 ^ regBits rows + joinSlices rest * 2 ^ regBits rows

/-- Registers v0 to v31 with entry i given by a function. -/
def vregsOf (f : Nat → VWord) : Vector VWord 32 := ⟨⟨(List.range 32).map f⟩, by simp⟩
def xregsOf (f : Nat → Word) : Vector Word 32 := ⟨⟨(List.range 32).map f⟩, by simp⟩
def nestsOf (f : Nat → Nest) : Vector Nest 8 := ⟨⟨(List.range 8).map f⟩, by simp⟩

/-- Nests at depth 0 and progress indices idle (R275, R276). -/
def Arch.freshNests (a : Arch) : Arch := { a with nests := Vector.replicate 8 Nest.zero, prog := Vector.replicate 32 4 }

/-- Registers undefined under R7 (R371, R375): free values in the scalar, vector and nest registers and the granted rows (assumption 3). x0
stays 0; `keepX2` keeps the stack pointer that eret has just used. -/
def State.scramble (s : State) (t : Tid) (keepX2 : Bool) : State :=
  let a := s.arch t
  let n := s.fresh
  { s.setArch t { a with
      v := vregsOf fun i => Config.freeVector (n + i)
      x := xregsOf fun i => if i = 0 then 0 else if i = 2 ∧ keepX2 then a.x[2] else Config.freeWord (n + i)
      nests := nestsOf fun i => (nestOfImage (Config.freeNest (n + i))).getD Nest.zero
      acc := (List.range a.acc.length).map fun i => (Config.freeVector (n + 32 + i)).setWidth 8192 } with fresh := n + 32 + a.acc.length }

/-! ## Row repair -/

/-- The cluster that a row lies in (R386, R387). -/
def clusterOf (row : Fin 64) : Fin 16 := ⟨row.val / 4, by omega⟩

/-- At a strip-opening boundary a failed row is replaced by a spare, or retires; each with its report (R387, R392). -/
def State.serveRow (s : State) (h : HartId) (row : Fin 64) : State :=
  let x := s.hrt h
  let left := x.failed.filter (· ≠ row)
  let c := clusterOf row
  if 0 < x.spares then
    (s.setHrt h { x with spares := x.spares - 1, failed := left }).report 5 (fieldOf h) (rowLoc h row) 0 0xFFFF
  else
    (s.setHrt h { x with rows := x.rows.set c.val ⟨x.rows[c.val].val - 1, by omega⟩, failed := left, goneRows := row :: x.goneRows }).report 6
      (fieldOf h) (rowLoc h row) 0 0xFFFF

/-- The failed rows of these clusters are served. -/
def State.serveRows (s : State) (h : HartId) (l : Lanes) : State :=
  ((s.hrt h).failed.filter fun row => decide (l.first ≤ (clusterOf row).val) && decide ((clusterOf row).val < l.first + l.count)).foldl
    (fun s row => s.serveRow h row) s

/-! ## Scrubbing (R335) -/

/-- Zero the bytes of a hart's local window at offsets from lo up to but not including hi. Stores to them that are still on their way are
performed before, so that nothing of them is left (R37, R335). -/
def State.clearLocal (s : State) (h : HartId) (lo hi : Nat) : State :=
  let inside (k : Nat) : Bool := decide (localKey h lo ≤ k) && decide (k < localKey h hi)
  State.noticeRange { s with
    mem := Sparse.clear (localKey h lo) (localKey h hi) s.mem
    stores := (s.stores.map fun (e : StoreEntry) => { e with bytes := e.bytes.filter fun b => !inside b.key }).filter fun e =>
      !(e.bytes.isEmpty && e.tags.isEmpty)
    bad := s.bad.filter fun u => u < localKey h lo || localKey h hi ≤ u
    covers := s.covers.filter fun c => c.unit < localKey h lo || localKey h hi ≤ c.unit } (localKey h lo) (localKey h hi)

/-- A hart passes to a context: every byte of its local memories is zeroed, unless it has served that context last. -/
def State.claim (s : State) (h : HartId) (ctx : CtxId) : State :=
  let x := s.hrt h
  if x.lastCtx = .of ctx then s else (s.setHrt h { x with lastCtx := .of ctx }).clearLocal h 0 (2 ^ 24)

/-- The other harts of its quad, whose scratchpads its window shows (R27). -/
def siblings (h : HartId) : List HartId :=
  ((List.range 4).map fun p => (⟨(h.val / 4 * 4 + p) % 512, Nat.mod_lt _ (by decide)⟩ : HartId)).filter (· ≠ h)

/-- A hart passes to a context, and with it the siblings that no context holds yet (R37, R335; assumption 20). -/
def State.scrub (s : State) (h : HartId) (ctx : CtxId) : State :=
  ((siblings h).filter fun x => (s.hrt x).lastCtx == .nobody).foldl (fun s x => s.claim x ctx) (s.claim h ctx)

/-- A hart's lanes and registers pass to this context from another (R335). -/
def State.passes (s : State) (h : HartId) (ctx : CtxId) : Bool := (s.hrt h).lastCtx != .of ctx && (s.hrt h).lastCtx != .nobody

/-- The upper halves of scalar data memory and of the scratchpad (R306). -/
def State.clearUpper (s : State) (h : HartId) : State := (s.clearLocal h 0x8000 0x1_0000).clearLocal h 0x20_0000 0x30_0000

/-! ## Starting threads -/

/-- Accumulator rows of a quad's pool that no grant holds (R155). -/
def State.freeRows (s : State) (q : QuadId) : Nat :=
  256 - (List.range 32).foldl (fun n k => n + (s.threads.toArray.toList[q.val * 32 + k]?.elim 0 fun th => th.arch.acc.length)) 0

/-- The field of a launch record's words (R294). -/
def recCount (r : RecordImage) : Nat := (r[1].extractLsb' 0 16).toNat
def recPriority (r : RecordImage) : Nat := (r[1].extractLsb' 16 3).toNat
def recHelpers (r : RecordImage) : Nat := (r[1].extractLsb' 20 3).toNat
def recReclaim (r : RecordImage) : Bool := r[1].getLsbD 23
def recOperands (r : RecordImage) : Nat := (r[1].extractLsb' 24 2).toNat
def recOperator (r : RecordImage) : Nat := (r[1].extractLsb' 32 16).toNat
def recFarm (r : RecordImage) : BitVec 32 := r[2].extractLsb' 0 32
def recMap (r : RecordImage) : Word := r[3]
def recDepAddr (r : RecordImage) : Word := r[4]
def recDepValue (r : RecordImage) : Word := r[5]
def recCounter (r : RecordImage) : Word := r[6]
def recArgs (r : RecordImage) : Word := r[7]

/-- LW, and the stack tops (R26, R29). -/
def localWindow : Word := 0x00FF_0000_0000_0000
def stackTop (reclaimable : Bool) : Word := localWindow + if reclaimable then 0x8000 else 0x1_0000

/-- A context's PGROOT, HTBASE and TCBASE images, with reserved bits dropped (R322, R325, R340). -/
def rootBits : Word := 0x0000_00FF_FFFF_F800
def tableBits : Word := 0x00FF_FFFF_FFFF_F000
def State.loadRoots (s : State) (t : Tid) (c : CtxId) : State :=
  s.setThr t { s.thr t with
    ctx := c
    pgroot := s.homeWord (descriptorOf c + 8) &&& rootBits
    htbase := s.homeWord (descriptorOf c + 16) &&& tableBits
    tcbase := s.homeWord (descriptorOf c + 24) }

/-- A thread of a launch starts under R29; `passed` says that the lanes have just passed from another context. VLMAX at entry is that of
image 0 on its rows (assumption 12). -/
def State.startThread (s : State) (t : Tid) (l : Launch) (index : Nat) (lanes : Option Lanes) (sp : Word) (passed reclaimed : Bool) : State :=
  let s := s.loadRoots t l.ctx
  let th := s.thr t
  let n := s.fresh
  let rows := match lanes with | some g => rowsIn (s.hrt (hartOf t)) g | none => 0
  let x0 : Vector Word 32 := Vector.replicate 32 0
  let a : Arch := { Arch.zero with
    pc := l.entry
    x := ((((x0.set 2 sp).set 10 (recArgs l.image)).set 11 (BitVec.ofNat 64 index)).set 12 (BitVec.ofNat 64 (recCount l.image))).set 13 l.method
    vlmax := vlmaxOf 0 rows
    v := if passed then Vector.replicate 32 0 else vregsOf fun i => clipReg rows (Config.freeVector (n + i))
    nests := if passed then Vector.replicate 8 Nest.zero else nestsOf fun i => (nestOfImage (Config.freeNest (n + i))).getD Nest.zero }
  { s.setThr t { th with
      arch := a, status := .running, fflags := 0
      farm := if recFarm l.image = 0 then 0 else l.rcd + 16
      ydead := 0, ystat := if reclaimed then 8 else 0
      rfloss := if passed then Vector.replicate 16 0 else th.rfloss
      watchLine := noLine, change := false, wakeOnce := false, lanes := lanes
      ckpt := if lanes.isSome then some ⟨.implicit, a, a⟩ else none
      due := none, heldFrom := none, closingFrom := none, history := [], closingHistory := [], restarts := 0, pending := [], preemptDue := false
      debugAsk := .no, debugPass := .no, lost := none, ahead := [], launch := some l.id } with
    fresh := n + 32 }

/-- A hart of a launch starts: thread 0 with the whole hart, and its helper threads (R298, R299). -/
def State.startHart (s : State) (h : HartId) (l : Launch) (index : Nat) : State :=
  let passed := s.passes h l.ctx
  let s := s.scrub h l.ctx
  let s := s.setHrt h { s.hrt h with groups := 1, reclaim := .none, startedAt := (s.fld (fieldOf h)).cycle }
  let s := s.startThread (tidOf h 0) l index (some ⟨0, 16⟩) (stackTop (recReclaim l.image)) passed false
  (List.range (recHelpers l.image)).foldl (fun s k =>
    s.startThread (tidOf h ⟨(k + 1) % 8, Nat.mod_lt _ (by decide)⟩) l index none
      (stackTop false - BitVec.ofNat 64 ((k + 1) * 0x2000)) passed false) s

/-- One more hart of a launch is placed. -/
def State.notePlaced (s : State) (id : Nat) : State :=
  { s with launches := s.launches.map fun l => if l.id = id then { l with placed := l.placed + 1 } else l }

def State.launchOf (s : State) (id : Option Nat) : Option Launch :=
  match id with
  | some n => s.launches.find? fun l => l.id = n
  | none => none

/-! ## Splitting and fusing (R275, R276) -/

def State.groupThread (t : Tid) (g : Nat) : Tid := tidOf (hartOf t) ⟨g % 8, Nat.mod_lt _ (by decide)⟩

/-- A helper thread runs on one of threads 1 to n - 1 (R275, R299). -/
def State.helperRuns (s : State) (h : HartId) (n : Nat) : Bool :=
  (List.range n).any fun g =>
    let th := s.thr (tidOf h ⟨g % 8, Nat.mod_lt _ (by decide)⟩)
    g != 0 && th.status != .off && th.lanes.isNone

/-- Group g of n after a split: its rows and those below it. -/
def groupLanes (n g : Nat) : Lanes := ⟨g * (16 / n), 16 / n⟩

/-- The effect of lsplit on the groups, before thread 0 goes on (R275). A request that is pending for the hart is pending for each group (R307,
R308). The new threads keep the other bits of YSTAT and the INSTRET that their threads held, and watch no line (assumption 59). -/
def State.split (s : State) (t : Tid) (n : Nat) (start value : Word) : State :=
  let h := hartOf t
  let hart := s.hrt h
  let th0 := s.thr t
  let a0 := th0.arch
  let reclaimable := match s.launchOf th0.launch with | some l => recReclaim l.image | none => false
  let step : Word := if reclaimable then 0x1000 else 0x2000
  let rowsOf (g : Nat) : Nat := rowsIn hart (groupLanes n g)
  let below (g : Nat) : Nat := rowsIn hart ⟨0, g * (16 / n)⟩
  let s := s.setHrt h { hart with groups := n }
  let s := (List.range n).foldl (fun (s : State) g =>
    if g = 0 then s
    else
      let t' := State.groupThread t g
      let th := s.thr t'
      let x0 : Vector Word 32 := Vector.replicate 32 0
      let a : Arch := { Arch.zero with
        pc := start
        x := ((x0.set 2 (stackTop reclaimable - BitVec.ofNat 64 g * step)).set 10 (BitVec.ofNat 64 g)).set 11 value
        vtype := a0.vtype
        vlmax := vlmaxOf a0.vtype (rowsOf g)
        v := vmap (sliceReg (below g) (rowsOf g)) a0.v }
      s.setThr t' { th with
        arch := a, status := .running, ctx := th0.ctx, fflags := 0
        tcbase := th0.tcbase, htbase := th0.htbase, farm := th0.farm, pgroot := th0.pgroot
        rfloss := Vector.replicate 16 0, watchLine := noLine, change := false, wakeOnce := false, lanes := some (groupLanes n g)
        ystat := (th.ystat &&& 0xE) ||| (th0.ystat &&& 1), ydead := if th0.ystat.getLsbD 0 then th0.ydead else 0, deadFrom := th0.deadFrom
        ckpt := some ⟨.implicit, a, a⟩, due := none, heldFrom := none, closingFrom := none, history := [], closingHistory := [], restarts := 0
        pending := [], preemptDue := false, debugAsk := .no, debugPass := .no, lost := none, ahead := [], launch := th0.launch }) s
  s.setThr t { s.thr t with
    lanes := some (groupLanes n 0)
    arch := { (a0.clip (rowsOf 0)).freshNests with vl := 0, vlmax := vlmaxOf a0.vtype (rowsOf 0) } }

/-- A thread's transfers and folds in flight (R246, R355). -/
def State.inFlight (s : State) (t : Tid) : Bool := (s.hrt (hartOf t)).transfers.any fun x => x.tid == t

/-- Group g of a split hart has fused: its strip closed, its failed rows served, its grant released, its thread stopped (R276, R387). -/
def State.fuseGroup (s : State) (t : Tid) : State :=
  let s := (s.settle t).release t
  let s := match (s.thr t).lanes with | some l => s.serveRows (hartOf t) l | none => s
  let th := s.thr t
  s.setThr t { th with
    arch := { th.arch.clip (s.rows t) with acc := [] }, status := .fused, ydead := 0, ystat := th.ystat &&& 0xE, ckpt := none, due := none, heldFrom := none, closingFrom := none
    history := [], closingHistory := [] }

/-- The lanes of a split hart rejoin under thread 0; failed rows are served group by group from the lowest (R276, R387). -/
def State.fuseHart (s : State) (t : Tid) : State :=
  let h := hartOf t
  let n := (s.hrt h).groups
  let s := (List.range n).foldl (fun s g => s.serveRows h (groupLanes n g)) s
  let hart := s.hrt h
  let group (g : Nat) : Thread := s.thr (State.groupThread t g)
  let gs := List.range n
  let joined : Vector VWord 32 :=
    vregsOf fun i => BitVec.ofNat 131072
      (joinSlices (gs.map fun g => (rowsIn hart (groupLanes n g), ((group g).arch.v.toArray.toList)[i]?.getD 0)))
  let flags := gs.foldl (fun fl g => fl ||| (group g).fflags) 0#5
  let loss : Vector (BitVec 32) 16 :=
    ⟨⟨(List.range 16).map fun k => gs.foldl (fun (c : BitVec 32) g => c + ((group g).rfloss.toArray.toList)[k]?.getD 0) 0⟩, by simp⟩
  let s := s.setHrt h { hart with groups := 1 }
  let s := gs.foldl (fun (s : State) g =>
    if g = 0 then s
    else
      let t' := State.groupThread t g
      s.setThr t' { s.thr t' with
        arch := Arch.zero, status := .off, lanes := none, launch := none, fflags := 0, ckpt := none, ahead := []
        ydead := 0, ystat := (s.thr t').ystat &&& 0xE }) s
  let th := s.thr t
  s.setThr t { th with
    lanes := some ⟨0, 16⟩, fflags := flags, rfloss := loss
    arch := { th.arch.freshNests with v := joined, vl := 0, vlmax := vlmaxOf th.arch.vtype (rowsIn hart ⟨0, 16⟩) } }

/-- Every group but the first has fused. -/
def State.allFused (s : State) (t : Tid) : Bool :=
  (List.range (s.hrt (hartOf t)).groups).all fun g => g == 0 || (s.thr (State.groupThread t g)).status == .fused

/-! ## The end of a kernel (R31, R286, R299) -/

/-- A helper thread of the kernel that thread t runs has not stopped. -/
def State.helpersRun (s : State) (t : Tid) : Bool := threadOf t == 0 && s.helperRuns (hartOf t) 8

/-- A thread stops for good, its stores released. -/
def State.stopThread (s : State) (t : Tid) : State :=
  let s := (s.settle t).release t
  let th := s.thr t
  s.setThr t { th with
    arch := { th.arch with acc := [] }, status := .off, lanes := none, ckpt := none, due := none, heldFrom := none, closingFrom := none
    history := [], closingHistory := [], ahead := [], lost := none, pending := [], preemptDue := false, launch := none, ydead := 0, ystat := th.ystat &&& 0xE }

/-- The lanes after the kernel of thread t has ended on a hart that lanes were reclaimed from, or asked of (R307). -/
def State.laneAfterEnd (s : State) (t : Tid) : State :=
  let h := hartOf t
  let hart := s.hrt h
  let other := if threadOf t = 0 then tidOf h 1 else tidOf h 0
  let otherOff := (s.thr other).status == .off
  match hart.reclaim with
  | .asked .. => s.setHrt h { hart with reclaim := .none }
  | .passed =>
    if otherOff then (s.setHrt h { hart with reclaim := .none }).clearUpper h
    else if threadOf t = 1 then s.setHrt h { hart with reclaim := .returning }
    else s
  | .returning => if otherOff || threadOf t == 0 then (s.setHrt h { hart with reclaim := .none }).clearUpper h else s
  | .none => s

/-- Count this hart in its launch (R298). -/
def State.noteCounted (s : State) (id : Option Nat) : State :=
  match id with
  | none => s
  | some n => { s with launches := s.launches.map fun l => if l.id = n then { l with counted := l.counted + 1 } else l }

/-- The kernel of thread t, which holds its lanes, ends: waits, the counter's check, the stores of the hart at system scope, the count, and the
release of grant and lanes (R31). The instruction retires with it. -/
def State.endKernel (s : State) (t : Tid) : Except Stop State := do
  let th := s.thr t
  let l := s.launchOf th.launch
  if (s.hrt (hartOf t)).transfers.any fun x => x.tid == t || threadOf t == 0 && hartOf x.tid == hartOf t && (s.thr x.tid).ctx == th.ctx then
    .error .wait
  else if s.helpersRun t then .error .wait
  else if s.hartWaits (hartOf t) fun e => e.ctx == th.ctx then .error .wait
  else
    let counter := match l with | some l => recCounter l.image | none => 0
    let closed := fun (s : State) =>
      ((s.settle t).release t).drainHart (hartOf t) fun e => e.ctx == th.ctx
    let s ←
      if counter = 0 then pure (closed s)
      else do
        let loc ← s.atomicLoc t counter 8
        pure ((closed s).atomicAt t loc .add .w64 1 0).2.2
    let s := s.noteCounted (if l.isSome then th.launch else none)
    let s := s.stopThread t
    let th := s.thr t
    let s := s.setThr t { th with instret := th.instret + 1, arch := { th.arch with pc := th.arch.pc + 4, convoy := none } }
    return s.laneAfterEnd t

end Sys2Proof.Machine
end

