-- ==== Sys2Proof/Machine/Saved.lean ====
section
/-! DEFINITION. Who waits for a hart, and how a saved hart comes back: the contexts that are served (spec/18_contexts_translation.md R322, R323),
candidates and their order (spec/14_scheduling.md R302), saved harts and where they fit (spec/21_traps_restart.md R376, R377; assumption 17), and
lane reclaim at a victim's strip-opening instruction (R303, R306, R307). -/

namespace Sys2Proof.Machine

def allHarts : List HartId := (List.range 512).map fun n => ⟨n % 512, Nat.mod_lt _ (by decide)⟩
def allFields : List FieldId := (List.range 8).map fun n => ⟨n % 8, Nat.mod_lt _ (by decide)⟩

/-! ## Contexts (R322) -/

/-- The launch unit serves only resident descriptors, as the device has taken them (R323). -/
def State.serves (s : State) (c : CtxId) : Bool := s.known[c.val] == 1 && s.descState c == 1

/-- The launch unit's authority: supervisor for headers and slots, user for what a record names (R419). -/
def State.launchWho (s : State) (c : CtxId) (user : Bool) : Who :=
  ⟨0, c, s.homeWord (descriptorOf c + 8) &&& rootBits, if user then .user else .supervisor, true, false, none⟩

def State.launchClock (s : State) : Word := (s.fld 0).cycle

/-! ## Queues and harts -/

def queueIndex (c : CtxId) (q : Fin 8) : Fin 512 := ⟨c.val * 8 + q.val, by omega⟩
def State.queue (s : State) (c : CtxId) (q : Fin 8) : Queue := s.queues[(queueIndex c q).val]
def State.setQueue (s : State) (c : CtxId) (q : Fin 8) (x : Queue) : State := { s with queues := s.queues.set (queueIndex c q).val x }

/-- A hart that exists: on an enabled site of a field that is up and not fenced (R14, R397). -/
def State.enabledHart (s : State) (h : HartId) : Bool :=
  let f := s.fld (fieldOf h)
  f.up && !f.fenced && f.sites.getLsbD (siteOf h)

/-- A hart that may start: it runs nothing and holds no transfer, and bring-up has started the runtime (R396). -/
def State.freeHart (s : State) (h : HartId) : Bool :=
  s.boot.started && s.enabledHart h && (hartThreads h).all (fun t => (s.thr t).status == .off) && (s.hrt h).transfers.isEmpty

/-- The one that no other beats, the first on a tie. -/
def firstBest {α : Type} (better : α → α → Bool) (l : List α) : Option α :=
  match l with
  | [] => none
  | a :: rest => some (rest.foldl (fun b x => if better x b then x else b) a)

/-! ## Candidates (R302) -/

/-- A head record that still needs harts, or a saved hart. -/
inductive Candidate where
  | record (l : Launch)
  | saved (i : Nat) (h : SavedHart)

def Candidate.ctx : Candidate → CtxId
  | .record l => l.ctx
  | .saved _ h => h.ctx

/-- The priority of the record that started a saved hart. -/
def State.savedPriority (s : State) (h : SavedHart) : Nat :=
  match s.launchOf (some h.launch) with
  | some l => l.queue.val
  | none => 0

def State.effective (s : State) : Candidate → Nat
  | .record l => min 7 (l.queue.val + l.aged)
  | .saved _ h => min 7 (s.savedPriority h + h.aged)

def Candidate.isSaved : Candidate → Bool
  | .record _ => false
  | .saved _ _ => true

/-- A candidate's own name. -/
def Candidate.name : Candidate → Bool × Nat
  | .record l => (false, l.id)
  | .saved _ h => (true, h.id)

/-- Lower is served first: effective priority, saved harts, those passed over before, the turn of the contexts, then base priority or the order of
saving. -/
def State.rankOf (s : State) (c : Candidate) : Nat :=
  let e := s.effective c
  let last := if h : e < 8 then s.lastServed[e] else none
  let turn :=
    match s.owed.findIdx? (· == c.name) with
    | some i => min i 191
    | none => 192 + match last with | some l => (c.ctx.val + 63 - l.val) % 64 | none => c.ctx.val
  let tail := match c with | .record l => 7 - l.queue.val | .saved i _ => i
  (((7 - e) * 2 + if c.isSaved then 0 else 1) * 256 + turn) * 65536 + tail

/-- A launch whose record stands at the head of its queue with harts still to place. -/
def State.atHead (s : State) (l : Launch) : Bool :=
  (s.queue l.ctx l.queue).stage == .ready l.id && decide (l.placed < recCount l.image) && s.serves l.ctx

def State.candidates (s : State) : List Candidate :=
  (s.launches.filter s.atHead).map Candidate.record ++
    ((s.saved.zipIdx).filter fun p => s.serves p.1.ctx).map fun p => Candidate.saved p.2 p.1

/-! ## Saved harts (R376, R377) -/

/-- A saved thread fits rows of a target (R377). -/
def threadFits (th : Thread) (old new : Nat) : Bool :=
  let strip := (th.tstatus.extractLsb' 3 2).toNat
  let prog := (progressOf th.tstatus).toArray.toList
  let part := prog.any fun p => p != 0 && p != 63
  let levels := th.arch.nests.toArray.toList.all fun n =>
    (List.range n.d.val).all fun k => decide (n.count (k + 1) + 1 ≤ 64 * new)
  if strip = 3 then false
  else if strip = 0 ∨ strip = 2 ∨ th.lanes.isNone then true
  else if part then old == new
  else decide (th.arch.vl ≤ vlmaxOf th.arch.vtype new) && levels

def rowsOn (h : Hart) (th : Thread) : Nat := match th.lanes with | some l => rowsIn h l | none => 0

/-- Saved threads may be placed on hart h, each on the lanes that `on` gives it: the table of R377, and the rows of its grants. -/
def State.fits (s : State) (x : SavedHart) (h : HartId) (on : Thread → Thread) : Bool :=
  let ths := x.threads.toArray.toList.filter fun th => th.status != .off
  ths.all (fun th => threadFits th (rowsOn x.hart th) (rowsOn (s.hrt h) (on th))) &&
    decide ((ths.map fun th => th.arch.acc.length).foldl (· + ·) 0 ≤ s.freeRows (quadOf h))

/-- The lanes of one half of a reclaimed hart. -/
def halfLanes (upper : Bool) : Lanes := ⟨if upper then 8 else 0, 8⟩

/-- A kernel on one half of a reclaimed hart, or on a whole hart that is not split, on the lanes of a half. -/
def onHalf (upper : Bool) (th : Thread) : Thread := { th with lanes := if th.lanes.isSome then some (halfLanes upper) else none }

/-- The lanes of a hart that a saved kernel has whole. -/
def onWhole (x : SavedHart) (th : Thread) : Thread := { th with lanes := if th.lanes.isSome && x.hart.groups == 1 then some ⟨0, 16⟩ else th.lanes }

/-- The lower half of a reclaimed hart is free: its kernel has ended or been saved (R301, R307). -/
def State.freeHalf (s : State) (h : HartId) : Bool :=
  s.enabledHart h && (s.hrt h).reclaim == .passed && (s.thr (tidOf h 0)).status == .off && !(s.hrt h).transfers.any fun x => threadOf x.tid == 0

/-- The kernel was saved from one half of a reclaimed hart. -/
def SavedHart.half (x : SavedHart) : Bool := match x.hart.reclaim with | .passed => true | .returning => true | _ => false

/-- A saved kernel that runs on its thread 0 alone, and keeps the promise of R306 or was saved from a half, may go to a half: its window lies there
(assumption 17). -/
def State.halfSuits (s : State) (x : SavedHart) (h : HartId) (upper : Bool) : Bool :=
  x.hart.groups == 1 && ((x.threads.toArray.toList.filter fun th => th.status != .off).all fun th => th.lanes.isSome) &&
    (x.half || match s.launchOf (some x.launch) with | some l => recReclaim l.image | none => false) && s.fits x h (onHalf upper)

/-- A saved hart may be placed on hart h (R301, R377). -/
def State.restorable (s : State) (x : SavedHart) (h : HartId) : Bool :=
  (s.freeHart h && s.fits x h (onWhole x)) || (s.freeHalf h && s.halfSuits x h false)

/-- A saved thread on its new hart, on `lanes`: what R376 restores, the roots from the descriptor, its registers on the target's rows, whose further
bytes are undefined (R323, R377; assumption 3). INSTRET, TVEC and RFLOSS are the target's own, RFLOSS zeroed where the lanes pass from another
context (R335), and no line is watched. Strip state 0 leaves VL at 0, and an empty loop stack reads as 0 throughout (R281, R376). The refilled
registers stand idle (R262). Its supervisor stack is the target's, with the nest frame on it (R366, R376). -/
def State.restoreThread (s : State) (t : Tid) (th : Thread) (frame : List Byte) (old : Nat) (lanes : Option Lanes) (passed reclaimed : Bool) : State :=
  if th.status = .off then s
  else
    let n := s.fresh
    let new := match lanes with | some l => rowsIn (s.hrt (hartOf t)) l | none => 0
    let grow (i : Nat) (x : VWord) : VWord :=
      if old < new then BitVec.ofNat 131072 (x.toNat % 2 ^ regBits old + (Config.freeVector (n + i)).toNat / 2 ^ regBits old * 2 ^ regBits old) else x
    let a := th.arch
    let v := vregsOf fun i => clipReg new (grow i ((a.v.toArray.toList)[i]?.getD 0))
    let most := vlmaxOf a.vtype new
    let vl := if (th.tstatus.extractLsb' 3 2).toNat = 0 then 0 else min a.vl most
    let a := if lanes.isSome then { a with v := v, vlmax := most, vl := vl, prog := Vector.replicate 32 4 } else a
    let a := if a.loopDepth = 0 then { a with lcnt := Vector.replicate 4 0 } else a
    let own := s.thr t
    let a := { a with x := a.x.set 2 (own.tscratch - 64) }
    let s := s.setThr t { th with
      arch := a, ckpt := th.ckpt.map fun c => { c with pre := a, post := a }
      instret := own.instret, tvec := own.tvec, rfloss := if passed then Vector.replicate 16 0 else own.rfloss, watchLine := noLine, change := false
      ystat := BitVec.ofBool reclaimed ++ th.ystat.extractLsb' 0 3, lanes := lanes, lost := none, ahead := [] }
    let s := { s.loadRoots t th.ctx with fresh := n + 32 }
    match s.locateStruct (s.who t) .store (own.tscratch - 64) frame.length with
    | .ok keys => s.performStruct t keys frame
    | .error _ => s

/-- The nest frame that a saved hart keeps for its thread of this number. -/
def SavedHart.frame (x : SavedHart) (k : Nat) : List Byte := ((x.frames.find? fun f => threadOf f.1 == k).map Prod.snd).getD []

/-- The bytes of a saved kernel's window on its new hart, or on its upper half. -/
def State.putWindow (s : State) (h : HartId) (upper : Bool) (i : Nat) (x : SavedHart) : State :=
  let place (o : Nat) : Nat := localKey h (if upper then (if o < 0x8000 then o + 0x8000 else o + 0x10_0000) else o)
  State.noticeWrite { s with
    mem := x.window.foldl (fun m p => Memory.write m (place p.1) p.2) s.mem
    saved := s.saved.eraseIdx i } ((x.window.map fun p => lineOf (place p.1)).dedup)

/-- Put a saved hart on hart h, or on its free half (R301, R306, R335, R376). -/
def State.restoreHart (s : State) (h : HartId) (i : Nat) (x : SavedHart) : State :=
  let now := (s.fld (fieldOf h)).cycle
  let passed := s.passes h x.ctx
  if s.freeHart h then
    let s := s.scrub h x.ctx
    let s := s.setHrt h { s.hrt h with groups := x.hart.groups, reclaim := .none, startedAt := now }
    let s := (x.threads.toArray.toList.zip (hartThreads h)).foldl
      (fun (s : State) p => s.restoreThread p.2 p.1 (x.frame (threadOf p.2)) (rowsOn x.hart p.1) (onWhole x p.1).lanes passed false) s
    s.putWindow h false i x
  else
    let s := if (s.hrt h).lastCtx = .of x.ctx then s else (s.clearLocal h 0 0x8000).clearLocal h 0x10_0000 0x20_0000
    let s := s.setHrt h { s.hrt h with lastCtx := .of x.ctx, startedAt := now }
    let th := x.threads[0]
    (s.restoreThread (tidOf h 0) th (x.frame 0) (rowsOn x.hart th) (onHalf false th).lanes passed true).putWindow h false i x

/-! ## Service in turn (R302) -/

/-- Insert by rank. -/
def State.insertRanked (s : State) (c : Candidate) : List Candidate → List Candidate
  | [] => [c]
  | x :: rest => if s.rankOf c ≤ s.rankOf x then c :: x :: rest else x :: s.insertRanked c rest

/-- A candidate has been served: its context at its level, and those that stood before it and could not be, which keep their places (R302). -/
def State.noteServed (s : State) (c : Candidate) : State :=
  let e := s.effective c
  let others := s.candidates.filter fun x => x.name != c.name
  let before := (others.filter fun x => decide (s.rankOf x < s.rankOf c)).foldr s.insertRanked []
  let kept := s.owed.filter (others.map Candidate.name).contains
  let s := { s with owed := kept ++ (before.map Candidate.name).filter fun x => !kept.contains x }
  if h : e < 8 then { s with lastServed := s.lastServed.set e (some c.ctx) } else s

/-! ## Lane reclaim at the victim's strip-opening instruction (R306, R307) -/

/-- The candidate for which lanes were asked, while it still waits and may have them: the head record of that launch, which starts no helper threads
(R299), or the first saved hart of it that suits the half (R303). -/
def State.incoming (s : State) (h : HartId) (id : Nat) (again : Bool) : Option Candidate :=
  s.candidates.find? fun c =>
    match c with
    | .record l => !again && l.id == id && recHelpers l.image == 0
    | .saved _ x => again && x.launch == id && s.halfSuits x h true

/-- Clusters 8 to 15, the upper halves and thread 1 pass to the candidate that asked, if it still needs a hart. -/
def State.passLanes (s : State) (h : HartId) (id : Nat) (again : Bool) : State :=
  let v := tidOf h 0
  let th := s.thr v
  match s.incoming h id again with
  | none => (s.setHrt h { s.hrt h with reclaim := .none }).setThr v { th with ystat := th.ystat &&& 0xE, ydead := 0 }
  | some c =>
    let s := s.noteServed c
    let s := s.setHrt h { s.hrt h with reclaim := .passed, upperAt := (s.fld (fieldOf h)).cycle }
    let s := s.setThr v { th with lanes := some (halfLanes false), ydead := 0, ystat := 0xE }
    let s := s.clearUpper h
    match c with
    | .record l => (s.startThread (tidOf h 1) l l.placed (some (halfLanes true)) (localWindow + 0x8000) true true).notePlaced id
    | .saved i x =>
      let th := x.threads[0]
      (s.restoreThread (tidOf h 1) th (x.frame 0) (rowsOn x.hart th) (onHalf true th).lanes true true).putWindow h true i x

/-- The passed clusters and halves return, zeroed. -/
def State.returnLanes (s : State) (h : HartId) : State :=
  let v := tidOf h 0
  let s := s.setHrt h { s.hrt h with reclaim := .none }
  let s := s.clearUpper h
  let th := s.thr v
  s.setThr v { th with
    lanes := some ⟨0, 16⟩, ystat := th.ystat &&& 0x7
    arch := th.arch.clip (rowsIn (s.hrt h) ⟨0, 8⟩) }

/-- Registers on the rows that are left, and what VLMAX is on them. -/
def Arch.onRows (a : Arch) (rows : Nat) : Arch :=
  let most := vlmaxOf a.vtype rows
  { a.clip rows with vlmax := most, vl := min a.vl most }

/-- What happens to the lanes at a strip-opening instruction of thread t, before its VLMAX is formed: reclaim or return, then row repair; the
registers keep what still fits. -/
def State.openLanes (s : State) (t : Tid) : State :=
  let h := hartOf t
  let before := s.rows t
  let s :=
    if threadOf t = 0 ∧ (s.hrt h).groups = 1 then
      match (s.hrt h).reclaim with
      | .asked id again => s.passLanes h id again
      | .returning => s.returnLanes h
      | _ => s
    else s
  match (s.thr t).lanes with
  | none => s
  | some l =>
    let s := s.serveRows h l
    if s.rows t = before then s else s.setArch t ((s.arch t).onRows (s.rows t))

end Sys2Proof.Machine
end

