-- ==== Sys2Proof/Machine/Vcfg.lean ====
section
/-! DEFINITION. Vector length and type (spec/05_vector_arithmetic.md R107 to R110, spec/02_instruction_words.md R51, R52). -/

namespace Sys2Proof.Machine

/-- A malformed VTYPE image (R52). -/
def imageBad (img : BitVec 16) : Bool :=
  decide (4 < ewOf img) || (img.getLsbD 6 && ewOf img != 2) || img.extractLsb' 7 9 != 0#9

/-- An image taken from a scalar register, bits [63:16] included (R52). -/
def imageOf (v : Word) : Option (BitVec 16) :=
  if v.extractLsb' 16 48 ≠ 0#48 ∨ imageBad (v.extractLsb' 0 16) then none else some (v.extractLsb' 0 16)

/-- Open a strip with an image and a requested length: VTYPE, VLMAX, VL, X[d], and the remainder for setvlm (R108, R109). The checkpoint is
explicit (R255, R259); where the thread's rows have changed with it, it takes effect at once, so that no restart goes back to the rows that are gone
(R306, R387). -/
def State.openWith (s : State) (img : BitVec 16) (want : Word) (d : XReg) (rest : Option XReg) : State :=
  let t := s.cur
  let before := s.rows t
  let s := s.openLanes t
  let changed := s.rows t != before
  let a := s.arch t
  let most := vlmaxOf img (s.rows t)
  let n := min want.toNat most
  let a1 := Arch.setX { a with vtype := img, vlmax := most, vl := n } d (BitVec.ofNat 64 n)
  let a2 := match rest with | some r => a1.setX r (want - BitVec.ofNat 64 n) | none => a1
  let s := (s.setArch t a2).retire
  let s := s.openStrip t a (s.arch t)
  if changed then s.settle t else s

/-- setvl: the image is the immediate (R108). -/
def execSetvl (d a : XReg) (img : BitVec 16) (s : State) : Outcome :=
  finish s do
    let w := wordOf (.setvl d a img)
    if imageBad img then .error (.trap 0x01 w)
    else do
      s.needLanes w
      return s.openWith img (s.x a) d none

/-- setvlr: the image comes from X[b] (R109). -/
def execSetvlr (d a b : XReg) (s : State) : Outcome :=
  finish s do
    let w := wordOf (.setvlr d a b)
    s.needLanes w
    match imageOf (s.x b) with
    | none => .error (.trap 0x01 w)
    | some img => return s.openWith img (s.x a) d none

/-- setvlm: VTYPE unchanged; X[a] ends holding the elements left (R109). -/
def execSetvlm (d a : XReg) (s : State) : Outcome :=
  finish s do
    s.needLanes (wordOf (.setvlm d a))
    return s.openWith (s.arch s.cur).vtype (s.x a) d (some a)

/-- vlq: VLMAX of an image on the present rows; opens no strip (R109). -/
def execVlq (d b : XReg) (s : State) : Outcome :=
  finish s do
    let w := wordOf (.vlq d b)
    s.needLanes w
    match imageOf (s.x b) with
    | none => .error (.trap 0x01 w)
    | some img => return (s.setX d (BitVec.ofNat 64 (vlmaxOf img (s.rows s.cur)))).retire

end Sys2Proof.Machine
end

