-- ==== Sys2Proof/Machine/Sync.lean ====
section
/-! DEFINITION. Strip farms, barriers and lane groups: fclaim (spec/14_scheduling.md R304), vfbar and bwait (spec/11_engines_barriers.md R249 to
R253), lsplit and lfuse (spec/12_strips_convoys.md R275, R276). -/

namespace Sys2Proof.Machine

/-- The strip closes before an instruction that is a checkpoint (R255). -/
def State.closeStrip (s : State) (t : Tid) : State := (s.settle t).release t

/-- One indivisible access to a 64-bit word at its home, after the earlier stores of the path: f answers the value written, if any. -/
def State.rmwWord (s : State) (t : Tid) (loc : Loc) (f : Word → Option Word) : Word × State :=
  if loc.device then
    let r := s.deviceRead t loc 8
    let old := BitVec.ofNat 64 r.1
    (old, match f old with | some v => r.2.deviceWrite t loc (storeBytes loc.key (wordBytes64 v)) | none => r.2)
  else
    let keys := (List.range 8).map (loc.key + ·)
    let s := (s.drainAhead t keys).accessNow t keys
    let old := s.homeWord loc.key
    match f old with
    | none => (old, s.noteAtomic t loc.key false)
    | some v => (old, (s.noteAtomic t loc.key true).performNow t (storeBytes loc.key (wordBytes64 v)))

/-- The farm word after a claim, or none once the count is reached (R304). -/
def farmClaim (w : Word) : Option Word :=
  if (w.extractLsb' 32 32).toNat < (w.extractLsb' 0 32).toNat then some (w + 0x1_0000_0000) else none

/-- fclaim: the next strip index, or -1 (R304). -/
def execFclaim (d : XReg) (s : State) : Outcome :=
  finish s do
    let t := s.cur
    let farm := (s.thr t).farm
    if farm = 0 then
      let s := ((s.closeStrip t).setX d (BitVec.allOnes 64)).retire
      return s.implicitCkpt t
    else
      let loc ← s.atomicLoc t farm 8
      let r := (s.closeStrip t).rmwWord t loc farmClaim
      let k := if (farmClaim r.1).isSome then (r.1.extractLsb' 32 32).setWidth 64 else BitVec.allOnes 64
      let s := (r.2.setX d k).retire
      return s.implicitCkpt t

/-- The barrier word after an arrival, and whether the arrival completes the phase (R251). -/
def barrierArrive (old : Word) : Word × Bool :=
  let a := (old.extractLsb' 0 32).toNat + 1
  let target := old.extractLsb' 32 16
  if target.toNat ≤ a then ((old.extractLsb' 48 16 + 1) ++ target ++ 0#32, true)
  else (old.extractLsb' 32 32 ++ BitVec.ofNat 32 a, false)

/-- The address checks of vfbar and bwait: aligned, translated, never device-class (R251, R252). -/
def State.barrierLoc (s : State) (t : Tid) (acc : Access) (va : Word) : Except Stop Loc :=
  if va.toNat % 8 ≠ 0 then .error (.trap 0x03 va)
  else
    match s.translate (s.who t) acc false va with
    | .error c => .error (.trap c va)
    | .ok loc =>
      if s.hasBad t loc.key 8 then .error (.trap 0x16 va)
      else if s.copyStalls t ((List.range 8).map (loc.key + ·)) (acc == .atomic) noneAcquired then .error .wait
      else .ok loc

/-- vfbar: every earlier access complete at the scope, then the arrival (R251). -/
def execVfbar (scope : Scope) (d a : XReg) (s : State) : Outcome :=
  finish s do
    let t := s.cur
    let loc ← s.barrierLoc t .atomic (s.x a)
    if (s.closeStrip t).drainWaits t scope (StoreEntry.ownKind t true true) then return s.fenceOpen t
    let s := (s.closeStrip t).drainOwn t scope true true
    let r := s.rmwWord t loc fun old => some (barrierArrive old).1
    let done : Word := if (barrierArrive r.1).2 then 0x1_0000 else 0
    let s := (r.2.setX d ((r.1.extractLsb' 48 16).setWidth 64 + done)).retire
    return s.implicitCkpt t

/-- One reading of bwait's word at its home: the state after it, and the word when its phase has moved (R252). -/
def State.bwaitRead (s : State) (t : Tid) (va : Word) (phase : BitVec 16) : Except Stop (State × Option Word) := do
  let loc ← s.barrierLoc t .load va
  let r := (s.closeStrip t).rmwWord t loc fun _ => none
  return (r.2, if r.1.extractLsb' 48 16 ≠ phase then some r.1 else none)

/-- bwait: returns the word once its phase differs from X[b][15:0], else sleeps at the bwait (R252). -/
def execBwait (_scope : Scope) (d a b : XReg) (s : State) : Outcome :=
  finish s do
    let t := s.cur
    let r ← s.bwaitRead t (s.x a) ((s.x b).extractLsb' 0 16)
    match r.2 with
    | some w =>
      let s := r.1.dropAhead t
      let s := ((s.setThr t { s.thr t with status := .running }).setX d w).retire
      return s.implicitCkpt t
    | none =>
      let s := r.1.implicitCkpt t
      return s.setThr t { s.thr t with status := .bwait }

def splitCount : SplitCount → Nat
  | .two => 2
  | .four => 4
  | .eight => 8

/-- The thread's lane group is the whole hart (R275). -/
def State.wholeHart (s : State) (t : Tid) : Bool := (s.thr t).lanes == some ⟨0, 16⟩ && (s.hrt (hartOf t)).groups == 1

/-- lsplit (R275). -/
def execLsplit (a b : XReg) (n : SplitCount) (s : State) : Outcome :=
  finish s do
    let t := s.cur
    let w := wordOf (.lsplit a b n)
    s.needLanes w
    if !s.wholeHart t then .error (.trap 0x01 w)
    else if s.helperRuns (hartOf t) (splitCount n) then .error (.trap 0x01 w)
    else if (s.x a).toNat % 4 ≠ 0 then .error (.trap 0x03 (s.x a))
    else if !(s.hrt (hartOf t)).transfers.isEmpty then .error .wait
    else
      let s := ((s.closeStrip t).split t (splitCount n) (s.x a) (s.x b)).retire
      return s.implicitCkpt t

/-- lfuse in thread 0: VL := 0 on a hart that is not split; else group 0's strip closes, with a checkpoint at the instruction itself, and the
lanes rejoin once every group has fused (R276, R277). A failed row is served at this boundary (R387). The Bool says that it is done. -/
def State.fuseFirst (s : State) (t : Tid) : Except Stop (State × Bool) :=
  if s.inFlight t then .error .wait
  else if (s.hrt (hartOf t)).groups = 1 then
    match (s.thr t).lanes with
    | none => .error .wait
    | some l =>
      let s := s.closeStrip t
      let s := s.serveRows (hartOf t) l
      let a := (s.arch t).clip (s.rows t)
      .ok (s.setArch t { a with vl := 0, vlmax := vlmaxOf a.vtype (s.rows t) }, true)
  else
    let s := (s.settle t).implicitCkpt t
    if s.allFused t then .ok (s.fuseHart t, true) else .ok (s, false)

/-- The thread of a group other than the first of a split hart. -/
def State.isLaterGroup (s : State) (t : Tid) : Bool := (s.hrt (hartOf t)).groups != 1 && threadOf t != 0

/-- lfuse (R276). -/
def execLfuse (s : State) : Outcome :=
  finish s do
    let t := s.cur
    s.needLanes (wordOf .lfuse)
    if s.isLaterGroup t then
      if s.inFlight t then .error .wait
      else return s.retire.fuseGroup t
    else
      let r ← s.fuseFirst t
      return if r.2 then r.1.retire.implicitCkpt t else r.1

end Sys2Proof.Machine
end

