-- ==== Sys2Proof/Machine/Sys.lean ====
section
/-! DEFINITION. Calls to the system, system registers, fences and return from a trap (spec/13_control_flow.md R286 to R292,
spec/01_machine.md R21 to R24, spec/10_ordering_rules.md R224 to R227, spec/21_traps_restart.md R371, R373). -/

namespace Sys2Proof.Machine

/-! ## svc, brk, yield, wfe (R286 to R289, R373) -/

/-- svc 0: a helper stops; a later group of a split hart fuses; thread 0 fuses the hart and ends the kernel, and what has fused stays so while the
end waits; a kernel's only group ends it. A failed check of the completion counter traps at the svc. Each waits, its strip closed, for its transfers in
flight, a helper for those of its hart (R31, R246, R277, R286). -/
def State.svcEnd (s : State) : Outcome :=
  let t := s.cur
  if (s.thr t).lanes.isNone then finishOpen s (if (s.hrt (hartOf t)).transfers.isEmpty then .ok ((s.retire).stopThread t) else .error .wait)
  else if s.isLaterGroup t && !s.isReclaimed (hartOf t) then finishOpen s (if s.inFlight t then .error .wait else .ok (s.retire.fuseGroup t))
  else if (s.hrt (hartOf t)).groups = 1 then finishOpen s (s.endKernel t)
  else
    match s.fuseFirst t with
    | .error e => finishOpen s (.error e)
    | .ok (s1, false) => .next s1
    | .ok (s1, true) => let s2 := s1.implicitCkpt t; finishOpen s2 (s2.endKernel t)

/-- svc: 0 ends; any other call traps with TEPC the next address (R286). -/
def execSvc (n : BitVec 10) (s : State) : Outcome :=
  if n = 0 then s.svcEnd else .next (s.syncTrap s.cur 0x11 (n.setWidth 64) (s.pc + 4))

/-- brk (R373). -/
def execBrk (n : BitVec 10) (s : State) : Outcome := .next (s.syncTrap s.cur 0x12 (n.setWidth 64) s.pc)

/-- The cooperative yield: retired, the request cleared, and the trap that saves the context, the whole hart's where a reclaim of its lanes was
asked for (R287, R308, R362). It keeps pc + 4, and an end of pass there is left to the eret (assumption 30). -/
def State.yieldTrap (s : State) (t : Tid) : State :=
  let s := s.endAsk t
  let th := s.thr t
  let next := th.arch.pc + 4
  let s := s.setThr t { th with
    arch := { th.arch with pc := next, convoy := none }, instret := th.instret + 1, ystat := ystatAfter th.ystat 1, ydead := 0, preemptDue := false }
  s.trapEntry t 0x17 1 ⟨next, true, s.stripState t next, 0, noProgress⟩

/-- yield: a checkpoint; the context save of a requested yield waits for the thread's transfers, its strip closed (R246, R287). -/
def execYield (s : State) : Outcome :=
  let t := s.cur
  if (s.thr t).ystat.getLsbD 0 then (if s.inFlight t || s.trapWaits t then .next (s.fenceOpen t) else .next (s.yieldTrap t))
  else
    let s := (s.closeStrip t).retire
    .next (s.implicitCkpt t)

/-- The check of wfe's address as an 8-byte load, never device-class (R289). -/
def State.wfeLoc (s : State) (t : Tid) (va : Word) : Except Stop Loc :=
  if va.toNat % 8 ≠ 0 then .error (.trap 0x03 va)
  else
    match s.translate (s.who t) .load false va with
    | .error c => .error (.trap c va)
    | .ok loc => .ok loc

/-- A wfe completes (R289). -/
def State.wfeDone (s : State) (t : Tid) : State :=
  s.setThr t { s.thr t with status := .running, change := false }

/-- wfe: returns at once under wake-once; else watches its line and sleeps until a write to it or a yield request (R289). -/
def execWfe (a : XReg) (s : State) : Outcome :=
  finish s do
    let t := s.cur
    let loc ← s.wfeLoc t (s.x a)
    let s := s.settle t
    let s := if s.holdsStore t then s.implicitCkpt t else s
    let th := s.thr t
    if th.wakeOnce then return (s.setThr t { th with wakeOnce := false }).retire
    else
      let th := if lineOf loc.key = th.watchLine then th else { th with watchLine := lineOf loc.key, change := false }
      let s := s.setThr t th
      if th.change || th.ystat.getLsbD 0 then return (s.wfeDone t).retire
      else return s.setThr t { th with status := .wfe }

/-! ## System registers (R21 to R24, R290 to R292) -/

/-- How user and supervisor mode reach a register (R21). -/
inductive SysAccess where
  /-- supervisor only, readable and writable -/
  | sup
  /-- readable and writable in both modes -/
  | rw
  /-- user reads, supervisor reads and writes -/
  | supWrites
  /-- read-only in both modes -/
  | ro
deriving DecidableEq, Repr

/-- The table of R21; none for a number not in it. -/
def sysAccess (n : Nat) : Option SysAccess :=
  if n ≤ 2 ∨ n = 4 then some .ro
  else if n = 3 ∨ n = 5 ∨ n = 6 then some .rw
  else if 0x10 ≤ n ∧ n ≤ 0x2F then some .supWrites
  else if 0x30 ≤ n ∧ n ≤ 0x35 then (if n = 0x33 then some .supWrites else some .ro)
  else if n = 0x40 ∨ n = 0x41 then some .ro
  else if n = 0x50 ∨ n = 0x51 then some .sup
  else if n = 0x52 then some .supWrites
  else if 0x60 ≤ n ∧ n ≤ 0x65 then some .sup
  else if n = 0x70 ∨ n = 0x71 then some .supWrites
  else if n = 0x80 then some .sup
  else if n = 0x90 then some .supWrites
  else if n = 0x91 then some .ro
  else if 0xA0 ≤ n ∧ n ≤ 0xA7 then some .supWrites
  else if 0xB0 ≤ n ∧ n ≤ 0xBF then some .supWrites
  else none

/-- The checks of R22 in their order. -/
def State.sysCheck (s : State) (word : Word) (n : Nat) (write : Bool) : Except Stop Unit :=
  let user := (s.arch s.cur).mode == .user
  match sysAccess n with
  | none => .error (.trap 0x01 word)
  | some .sup => if user then .error (.trap 0x02 word) else .ok ()
  | some .rw => .ok ()
  | some .supWrites => if write && user then .error (.trap 0x02 word) else .ok ()
  | some .ro => if write then .error (.trap (if user then 0x02 else 0x01) word) else .ok ()

/-- The thread whose copy of a hart's registers a thread sees: its own lane group's, or thread 0's for one that holds none (assumption 29). -/
def State.laneOwner (s : State) (t : Tid) : Tid := if (s.thr t).lanes.isSome then t else tidOf (hartOf t) 0

def mlBits : Word := 0xF_FFFF_FFFF
def ffstBits : Word := 0xFF_FFFF_FFFF
def vectorBits : Word := 0x00FF_FFFF_FFFF_FFFC
def tstatusBits : Word := 0xFF_FFFF_03FF
def lcntBits : Word := 0xFFFF_FFFF_FFFF

/-- A register as rsys reads it; reserved bits read as 0 (R6). -/
def State.readSys (s : State) (n : Nat) : Word :=
  let t := s.cur
  let th := s.thr t
  let own := s.thr (s.laneOwner t)
  let f := s.fld (fieldOf (hartOf t))
  if n = 0x00 then BitVec.ofNat 64 own.arch.vl
  else if n = 0x01 then own.arch.vtype.setWidth 64
  else if n = 0x02 then BitVec.ofNat 64 own.arch.vlmax
  else if n = 0x03 then own.arch.ml
  else if n = 0x04 then BitVec.ofNat 64 own.arch.acc.length
  else if n = 0x05 then fflagsImage th.fflags
  else if n = 0x06 then own.arch.ffst
  else if 0x10 ≤ n ∧ n ≤ 0x2F then ((own.arch.prog.toArray.toList)[n - 0x10]?.getD 0).setWidth 64
  else if n = 0x30 then BitVec.ofNat 64 (hartOf t).val
  else if n = 0x31 then BitVec.ofNat 64 (quadOf (hartOf t)).val
  else if n = 0x32 then BitVec.ofNat 64 (fieldOf (hartOf t)).val
  else if n = 0x33 then s.devid.setWidth 64
  else if n = 0x34 then BitVec.ofNat 64 th.ctx.val
  else if n = 0x35 then BitVec.ofNat 64 (threadOf t)
  else if n = 0x40 then f.cycle
  else if n = 0x41 then th.instret
  else if n = 0x50 then th.tcbase
  else if n = 0x51 then th.htbase
  else if n = 0x52 then th.farm
  else if n = 0x60 then th.tcause.setWidth 64
  else if n = 0x61 then th.tepc
  else if n = 0x62 then th.tval
  else if n = 0x63 then th.tstatus
  else if n = 0x64 then th.tvec
  else if n = 0x65 then th.tscratch
  else if n = 0x70 then th.ydead
  else if n = 0x71 then th.ystat.setWidth 64
  else if n = 0x80 then th.pgroot
  else if n = 0x90 then f.islim.setWidth 64
  else if n = 0x91 then f.iscur.setWidth 64
  else if 0xA0 ≤ n ∧ n ≤ 0xA3 then th.arch.lpcAt (n - 0xA0)
  else if 0xA4 ≤ n ∧ n ≤ 0xA7 then th.arch.lcntAt (n - 0xA4)
  else if 0xB0 ≤ n ∧ n ≤ 0xBF then ((own.rfloss.toArray.toList)[n - 0xB0]?.getD 0).setWidth 64
  else 0

/-- Set a lane group's register. -/
def State.modOwner (s : State) (f : Thread → Thread) : State := s.modThr (s.laneOwner s.cur) f

/-- FFLAGS: every earlier instruction's flags are already in it when the value replaces them (R80). -/
def State.writeFflags (s : State) (v : Word) : State := s.modThr s.cur fun th => { th with fflags := v.extractLsb' 0 5 }

/-- TCBASE: the hart's cached type-case contents of the context are discarded and CF is cleared (R187, R188). -/
def State.writeTcbase (s : State) (v : Word) : State :=
  let h := hartOf s.cur
  let ctx := (s.thr s.cur).ctx
  let s := s.setHrt h { s.hrt h with tcase := (s.hrt h).tcase.filter fun e => e.ctx != ctx }
  s.modThr s.cur fun th => { th with tcbase := v, arch := { th.arch with cf := false } }

/-- PROGn: bit 3 busy, bits [2:0] the index; the vector queue is empty here (R262, R265). -/
def State.writeProg (s : State) (k : Nat) (v : Word) : State :=
  if h : k < 32 then s.modOwner fun th => { th with arch := { th.arch with prog := th.arch.prog.set k (v.extractLsb' 0 4) } } else s

/-- LPC0 to LPC3 and LCNT0 to LCNT3 change the loop stack at once, checked no further (R281). -/
def State.writeLoop (s : State) (k : Nat) (v : Word) : State :=
  s.modThr s.cur fun th =>
    let a := th.arch
    if h : k < 4 then { th with arch := { a with lpc := a.lpc.set k (v &&& vectorBits) } }
    else if h : k - 4 < 4 then { th with arch := { a with lcnt := a.lcnt.set (k - 4) (v &&& lcntBits) } }
    else th

/-- PGROOT: the hart's cached translations of the context are dropped, and its walker's pointer entries (R325, R330; assumption 31). -/
def State.writePgroot (s : State) (v : Word) : State :=
  let h := hartOf s.cur
  let ctx := (s.thr s.cur).ctx
  let s := s.setHrt h { s.hrt h with tlb := (s.hrt h).tlb.filter fun e => e.ctx != ctx }
  let f := fieldOf h
  let s := s.setFld f { s.fld f with ptrs := (s.fld f).ptrs.filter fun e => e.ctx != ctx }
  (s.dropAhead s.cur).modThr s.cur fun th => { th with pgroot := v &&& rootBits }

/-- ISLIM: clamped to 360 W; the power manager takes it up at the field's next update (R401, R402). -/
def State.writeIslim (s : State) (v : Word) : State :=
  let f := fieldOf (hartOf s.cur)
  let n := v.extractLsb' 0 16
  s.setFld f { s.fld f with islim := if 0x0B40#16 < n then 0x0B40 else n }

/-- A register of the vector unit that waits for an empty vector queue: PROG0 to PROG31 (R265). -/
def isProg (n : Nat) : Bool := decide (0x10 ≤ n) && decide (n ≤ 0x2F)

/-- wsys of register n, with the further effects of R292; writes to reserved bits are ignored (R6). -/
def State.writeSys (s : State) (n : Nat) (v : Word) : State :=
  let mod := s.modThr s.cur
  if n = 0x03 then s.modOwner fun th => { th with arch := { th.arch with ml := v &&& mlBits } }
  else if n = 0x05 then s.writeFflags v
  else if n = 0x06 then s.modOwner fun th => { th with arch := { th.arch with ffst := v &&& ffstBits } }
  else if 0x10 ≤ n ∧ n ≤ 0x2F then s.writeProg (n - 0x10) v
  else if n = 0x33 then { s with devid := v.extractLsb' 0 18 }
  else if n = 0x50 then s.writeTcbase v
  else if n = 0x51 then mod fun th => { th with htbase := v &&& tableBits }
  else if n = 0x52 then mod fun th => { th with farm := v }
  else if n = 0x60 then mod fun th => { th with tcause := v.extractLsb' 0 8 }
  else if n = 0x61 then mod fun th => { th with tepc := v &&& ~~~3#64 }
  else if n = 0x62 then mod fun th => { th with tval := v }
  else if n = 0x63 then mod fun th => { th with tstatus := v &&& tstatusBits }
  else if n = 0x64 then mod fun th => { th with tvec := v &&& vectorBits }
  else if n = 0x65 then mod fun th => { th with tscratch := v }
  else if n = 0x70 then mod fun th => { th with ydead := v }
  else if n = 0x71 then mod fun th => { th with ystat := v.extractLsb' 0 4 }
  else if n = 0x80 then s.writePgroot v
  else if n = 0x90 then s.writeIslim v
  else if 0xA0 ≤ n ∧ n ≤ 0xA7 then s.writeLoop (n - 0xA0) v
  else if h : 0xB0 ≤ n ∧ n ≤ 0xBF then
    s.modOwner fun th => { th with rfloss := th.rfloss.set (n - 0xB0) (v.extractLsb' 0 32) (by omega) }
  else s

/-- rsys of FFLAGS and of INSTRET waits until every earlier instruction has retired, so that a checkpoint that was due has taken effect (R80, R257,
R291). -/
def waitsRetired (n : Nat) : Bool := n == 0x05 || n == 0x41

/-- rsys (R290, R291). -/
def execRsys (d : XReg) (num : BitVec 10) (s : State) : Outcome :=
  finish s do
    s.sysCheck (wordOf (.rsys d num)) num.toNat false
    let s := if waitsRetired num.toNat then s.settle s.cur else s
    return (s.setX d (s.readSys num.toNat)).retire

/-- A wsys of one register: the checks of R22, then the write (R290, R292). It waits until the earlier instructions have retired, so that a checkpoint
that was due has taken effect (R80, R257, R267); PROGn waits for the end of the convoy of its lane group (R265). -/
def State.wsysOf (s : State) (a : XReg) (n : Nat) : Outcome :=
  finish s do
    s.sysCheck (wordOf (.wsys a (BitVec.ofNat 10 n))) n true
    if isProg n && !(s.arch (s.laneOwner s.cur)).atBoundary then .error .wait
    let s := s.settle s.cur
    return (s.writeSys n (s.x a)).retire

/-- wsys (R290, R292). -/
def execWsys (a : XReg) (num : BitVec 10) (s : State) : Outcome := s.wsysOf a num.toNat

/-- wsys of FFLAGS (R80). -/
def execFflagsWrite (a : XReg) (s : State) : Outcome := s.wsysOf a 0x005
/-- wsys of TCBASE (R187, R188). -/
def execTcbaseWrite (a : XReg) (s : State) : Outcome := s.wsysOf a 0x050
/-- wsys of PROGk (R265). -/
def execProgWrite (k : VReg) (a : XReg) (s : State) : Outcome := s.wsysOf a (0x010 + k.toNat)
/-- wsys of LPC0 to LPC3, LCNT0 to LCNT3 (R281). -/
def execLoopStackWrite (k : BitVec 3) (a : XReg) (s : State) : Outcome := s.wsysOf a (0x0A0 + k.toNat)
/-- wsys of PGROOT (R325). -/
def execPgrootWrite (a : XReg) (s : State) : Outcome := s.wsysOf a 0x080
/-- wsys of ISLIM (R402). -/
def execIslimWrite (a : XReg) (s : State) : Outcome := s.wsysOf a 0x090

/-! ## Fences (R224 to R227) -/

/-- A fence: a checkpoint at the fence; the earlier accesses it names become complete at its scope, which may wait for a copy in flight; then it
retires, and the later loads that it orders take nothing that was read before it (R226; assumptions 4, 8, 49). -/
def State.fence (s : State) (scope : Scope) (scalar vector : Bool) (later : Ahead → Bool) : Outcome :=
  let t := s.cur
  let s := s.fenceOpen t
  if s.drainWaits t scope (StoreEntry.ownKind t scalar vector) then .next s
  else .next ((s.drainOwn t scope scalar vector).pruneAhead t later).retire

/-- fence.sv orders earlier scalar accesses before all (R224). -/
def execFenceSv (scope : Scope) (s : State) : Outcome := s.fence scope true false fun _ => true
/-- fence.vs orders earlier scalar and vector accesses before scalar ones (R224). -/
def execFenceVs (scope : Scope) (s : State) : Outcome := s.fence scope true true fun x => !x.vec
/-- fence.vv orders earlier vector accesses before vector ones (R224). -/
def execFenceVv (scope : Scope) (s : State) : Outcome := s.fence scope false true Ahead.vec

/-! ## eret (R371) -/

/-- TSTATUS as eret accepts it: reserved bits 0, no progress field from 33 to 62. -/
def tstatusOk (ts : Word) : Bool :=
  ts &&& ~~~tstatusBits == 0 &&
    ((progressOf ts).toArray.toList.all fun p => decide (p.toNat ≤ 32) || p == 63)

/-- The eight nests of a frame, when every entry is well formed (R366, R371). -/
def nestsOfFrame (frame : List Byte) : Option (List Nest) :=
  (List.range 8).foldr (fun k acc =>
    match nestOfImage (BitVec.ofNat 64 (fieldAt frame (8 * k) 8)), acc with
    | some n, some l => some (n :: l)
    | _, _ => none) (some [])

/-- The convoy at pc resumes with these progress fields, and its members' destinations read as they stand (R364, R371). -/
def State.resumeAt (s : State) (t : Tid) (prog : Vector (BitVec 6) 4) : State :=
  let a := s.arch t
  let prog := s.cleanProgress t a.pc prog
  if prog = noProgress then s else (s.setArch t { a with convoy := some ⟨a.pc, 0, prog, false⟩ }).resumeProg t

/-- eret: the nests and the stack pointer from the frame at X[2], the mode and CF from TSTATUS, pc := TEPC, and a checkpoint there. A convoy at
TEPC resumes with the progress fields (R371). Strip state 3 leaves the registers undefined. -/
def State.eretTo (s : State) (nests : List Nest) : State :=
  let t := s.cur
  let s := (s.closeStrip t).dropAhead t
  let ts := (s.thr t).tstatus
  let strip := (ts.extractLsb' 3 2).toNat
  let s := if strip = 3 then s.scramble t true else s
  let th := s.thr t
  let user := !ts.getLsbD 0
  let sp := th.arch.getX 2 + 64
  let a := th.arch.setX 2 (if user then th.tscratch else sp)
  let a := Arch.advance { a with
    nests := nestsOf fun k => nests[k]?.getD Nest.zero
    cf := ts.getLsbD 9
    mode := if user then .user else .supervisor } th.tepc
  let s := s.setThr t { th with
    arch := a, tscratch := if user then sp else th.tscratch, wakeOnce := true, instret := th.instret + 1 }
  let s := s.resumeAt t (progressOf ts)
  if th.lanes.isSome then s.takeCkpt t ⟨if strip = 0 then .explicit else .implicit, s.arch t, s.arch t⟩ else s

/-- eret (R371): privileged, and illegal over a malformed frame or TSTATUS. -/
def execEret (s : State) : Outcome :=
  let t := s.cur
  finishReads s (fun s => if (s.arch t).mode = .user then s else s.noteStruct (s.who t) ((s.arch t).getX 2) 64) do
    let w := wordOf .eret
    if (s.arch t).mode = .user then .error (.trap 0x02 w)
    else
      let frame ← s.readStruct (s.who t) ((s.arch t).getX 2) 64
      match nestsOfFrame frame with
      | none => .error (.trap 0x01 w)
      | some nests =>
        if tstatusOk (s.thr t).tstatus then return (s.noteStruct (s.who t) ((s.arch t).getX 2) 64).eretTo nests else .error (.trap 0x01 w)

end Sys2Proof.Machine
end

