-- ==== Sys2Proof/Machine/Stores.lean ====
section
/-! DEFINITION. Events of stores on their way, of checkpoints and of sleeping threads (spec/10_ordering_rules.md R218 to R220,
spec/12_strips_convoys.md R257, spec/13_control_flow.md R288, R289, spec/11_engines_barriers.md R252, spec/18_contexts_translation.md R334,
spec/24_package_links.md R407). An event that cannot happen in a state leaves it as it is. -/

namespace Sys2Proof.Machine

/-- An event that may be unable to happen. -/
def event (s : State) (o : Option State) : Outcome := .next (o.getD s)

/-- Do something as thread t, and give the turn back. -/
def State.asThread (s : State) (t : Tid) (f : State → State) : State := { f { s with cur := t } with cur := s.cur }

/-- An instruction's meaning as thread t. -/
def State.execAs (s : State) (t : Tid) (f : State → Outcome) : Outcome :=
  match f { s with cur := t } with
  | .next s' => .next { s' with cur := s.cur }
  | r => r

/-- The device, or the supervisor, writes bytes performed at their home at once; those for a retired channel or a lost field are discarded and
reported (R384, R397). -/
def State.writeHome (s : State) (key : Nat) (bytes : List Byte) : State :=
  let bs := (storeBytes key bytes).filter fun b => !s.keyDown b.key
  let s' := (s.perform bs (rawTags bs)).reportHits true none (bs.map fun b => (none, b.key))
  match ((List.range bytes.length).map (key + ·)).find? s.keyDown with
  | some k => s'.reportLoss 0xFFFF k
  | none => s'

/-! ## The controller's status word (R397, R404) -/

def State.fencedMask (s : State) : Nat := ((s.fields.toArray.toList.zipIdx).map fun p => if p.1.fenced then 2 ^ p.2 else 0).foldl (· + ·) 0

/-- The status word; bit 16 while a command is being served. -/
def State.controllerStatus (s : State) (serving : Bool) : Word :=
  BitVec.ofNat 64 (s.boot.step % 16 + s.boot.failed % 16 * 16 + s.fencedMask * 256 + if serving then 2 ^ 16 else 0)

/-- The controller writes its status word. -/
def State.putStatus (s : State) : State := s.writeHome (managementBase + 0x28) (wordBytes64 (s.controllerStatus false))

/-- ROUTING_TABLE_ADDRESS_WRITE: the word at +0x20 of the management block is written, and every cached entry is dropped (R407). -/
def execRoutingTableAddressWrite (v : Word) (s : State) : Outcome := .next (s.writeHome routingWord (wordBytes64 v))

/-- LIVENESS_TABLE_WRITE: a byte of the liveness table is written, and the slices' maps with it (R334, R385). -/
def execLivenessTableWrite (idx : Nat) (v : Byte) (s : State) : Outcome :=
  event s (if livenessBase + idx < livenessEnd then some (s.writeHome (livenessBase + idx) [v]) else none)

/-- CHECKPOINT_TAKES_EFFECT: every earlier instruction has retired (R257). -/
def execCheckpointTakesEffect (t : Tid) (s : State) : Outcome := event s (if (s.thr t).due.isSome then some (s.settle t) else none)

/-- The held-store count of a thread has run out, for its open strip or for an earlier one that has not closed, and the debugger does not hold it
(R220, R257, R315). -/
def State.heldTooLong (s : State) (t : Tid) : Bool :=
  let th := s.thr t
  let late (c : Word) : Bool := decide (4000 ≤ (s.cycleOf t).toNat - c.toNat)
  th.debugStop.isNone && (th.heldFrom.any late || th.closingFrom.any late)

/-- HELD_STORE_CHECKPOINT: an implicit checkpoint at an instruction boundary (R220). -/
def execHeldStoreCheckpoint (t : Tid) (s : State) : Outcome :=
  event s (if s.heldTooLong t && (s.arch t).atBoundary then some (s.convoyCkpt t) else none)

/-! ## Stores move on (R218, R219) -/

def StoreEntry.released (e : StoreEntry) : Bool := decide (2 ≤ e.point.rank)

/-- Some store stands before e on its way and must stay before it: at e's point and older, or, where the move ends at a home, beyond it. There a
copy in flight may hold e back (R248). -/
def State.storeBlocked (s : State) (n : Nat) (e : StoreEntry) (home : Bool) : Bool :=
  (home && s.entryStalls e) ||
    (s.stores.zipIdx).any fun p =>
      p.2 != n && p.1.visibleTo e.tid && p.1.mustGo (goneFor e) &&
        ((p.1.point == e.point && decide (p.2 < n)) || (home && decide (e.point.rank < p.1.point.rank)))

/-- An element of a vstxo, or a store behind one, still waits in the release queue: an element before it has not been performed, or a store that it
must not pass waits there too (R219, R223). -/
def State.queueBlocked (s : State) (n : Nat) (e : StoreEntry) : Bool :=
  (s.stores.zipIdx).any fun p =>
    p.2 != n &&
      ((e.chain != 0 && p.1.chain == e.chain && p.1.released && (p.1.point != .queue || decide (p.2 < n))) ||
        (p.1.tid == e.tid && p.1.point == .queue && decide (p.2 < n) && p.1.mustGo (goneFor e)))

/-- STORE_PERFORMED: a released store reaches its home (R218). -/
def execStorePerformed (n : Nat) (s : State) : Outcome :=
  event s
    (match s.stores[n]? with
    | none => none
    | some e =>
      if e.released && e.point != .queue && !s.storeBlocked n e true then some (State.performEntry { s with stores := s.stores.eraseIdx n } e)
      else none)

/-- STORE_PASSES_VISIBILITY_POINT: a released store passes the next point of its way, or is let out of the part of the release queue where it has
waited (R218, R223). -/
def execStorePassesVisibilityPoint (n : Nat) (s : State) : Outcome :=
  event s
    (match s.stores[n]? with
    | none => none
    | some e =>
      let left := s.stores.eraseIdx n
      if e.point == .queue then (if s.queueBlocked n e then none else some { s with stores := left ++ [{ e with point := .hart }] })
      else
        let home := e.homeBy (e.point.rank + 1)
        if e.released && decide (e.point.rank < 5) && !s.storeBlocked n e home then
          some (if home then State.performEntry { s with stores := left } e
            else { s with stores := left ++ [{ e with point := pointOfRank (e.point.rank + 1) }] })
        else none)

/-! ## Asynchronous traps (R362, R364, R365, R367) -/

/-- Take a pending trap at the boundary at which the thread stands, awake or asleep (R245, R365). -/
def State.takePending (s : State) (t : Tid) : Option State :=
  match firstPending (s.thr t).pending with
  | none => none
  | some p => if (s.arch t).atBoundary && !s.trapWaits t then some (s.pendingTrap t p (s.stripState t (s.arch t).pc)) else none

/-- The thread runs, or sleeps: it has not stopped, and the debugger does not hold it. -/
def Thread.alive (th : Thread) : Bool :=
  (th.status == .running || th.status == .wfe || th.status == .bwait) && th.debugStop.isNone

/-- TRAP_ENTRY: an asynchronous trap is taken at the next instruction boundary (R365). -/
def execTrapEntry (t : Tid) (s : State) : Outcome := event s (if (s.thr t).alive then s.takePending t else none)

/-! ## Waking (R252, R288, R289) -/

/-- WFE_WAKE (R289): a pending trap is taken at the wfe; else a write to the line, or a yield request, completes it. -/
def execWfeWake (t : Tid) (s : State) : Outcome :=
  let th := s.thr t
  event s
    (if th.status == .wfe && th.debugStop.isNone then
      if !th.pending.isEmpty then s.takePending t
      else if th.change || th.ystat.getLsbD 0 then some ((s.wfeDone t).asThread t State.retire) else none
    else none)

/-- The bwait that a thread sleeps in. -/
def State.sleepingBwait (s : State) (t : Tid) : Option (Scope × XReg × XReg × XReg) :=
  match s.fetch t with
  | .error _ => none
  | .ok w => match decode w with | .ok (.bwait sc d a b) => some (sc, d, a, b) | _ => none

/-- BWAIT_WAKE: the word is read again at its home, and the bwait returns it once the phase has moved (R252). -/
def execBwaitWake (t : Tid) (s : State) : Outcome :=
  if (s.thr t).status == .bwait && (s.thr t).debugStop.isNone then
    match s.sleepingBwait t with
    | none => .next s
    | some (sc, d, a, b) =>
      match State.bwaitRead { s with cur := t } t ((s.arch t).getX a) (((s.arch t).getX b).extractLsb' 0 16) with
      | .ok (_, none) => .next s
      | _ => s.execAs t (execBwait sc d a b)
  else .next s

/-- REMOTE_WRITE_REPORT: a remote slice reports a write to a watched line (R288). -/
def execRemoteWriteReport (dev : BitVec 18) (line : BitVec 40) (s : State) : Outcome :=
  .next (s.noticeWrite [lineOf (remoteKey dev.toNat line.toNat)])

end Sys2Proof.Machine
end

