-- ==== Sys2Proof/Machine/Handle.lean ====
section
/-! DEFINITION. Frames, tags and shape records (spec/08_tiles_and_dispatch.md R168 to R177), layered-tensor handles, layers and the amended
tile (spec/19_layered_tensors.md R339 to R348), and the authority of the agents that read them (spec/18_contexts_translation.md R331, R419). -/

namespace Sys2Proof.Machine

/-! ## Tags and frames -/

def tagFormat (t : BitVec 16) : Nat := (t.extractLsb' 11 5).toNat
def tagSparsity (t : BitVec 16) : Nat := (t.extractLsb' 8 3).toNat
def tagLayout (t : BitVec 16) : Nat := (t.extractLsb' 5 3).toNat
def tagPoison (t : BitVec 16) : Bool := t.getLsbD 4

/-- A malformed tag (R170). -/
def tagMalformed (t : BitVec 16) : Bool :=
  decide (13 < tagFormat t) || decide (3 < tagSparsity t) || decide (3 < tagLayout t) ||
    ((tagSparsity t == 1 || tagSparsity t == 2) && (tagFormat t == 0 || tagFormat t == 12 || tagFormat t == 13))

/-- Tile rows, tile columns and element bits of a format code; raw and SCALE as a row of bytes (R168). -/
def tileShape (fmt : Nat) : Nat × Nat × Nat :=
  match fmt with
  | 1 => (64, 64, 8)
  | 2 => (32, 64, 16)
  | 3 => (32, 32, 32)
  | 4 => (16, 32, 64)
  | 5 => (64, 64, 8)
  | 6 => (64, 64, 8)
  | 7 => (32, 64, 16)
  | 8 => (32, 64, 16)
  | 9 => (32, 32, 32)
  | 10 => (16, 32, 64)
  | 11 => (64, 128, 4)
  | 13 => (32, 32, 32)
  | _ => (1, 4096, 8)

/-- The floating-point format of a format code. -/
def tileFmt (fmt : Nat) : Option Fmt :=
  match fmt with
  | 5 => some .e4m3
  | 6 => some .e5m2
  | 7 => some .bf16
  | 8 => some .fp16
  | 9 => some .fp32
  | 10 => some .fp64
  | _ => none

/-- The tile row and column of the element at an index (R169). -/
def elementAt (layout tr tc x : Nat) : Nat × Nat :=
  match layout with
  | 0 => (x / tc, x % tc)
  | 1 => (x % tr, x / tr)
  | 2 => (x / (2 * tc) * 2 + x % 2, x % (2 * tc) / 2)
  | _ => (x / (4 * tc) * 4 + x % 4, x % (4 * tc) / 4)

/-- The elements of a frame's bytes, of 4, 8, 16, 32 or 64 bits (R60, R82). -/
def elemsOf (bits : Nat) (bytes : List Byte) : List Nat :=
  if bits = 4 then bytes.flatMap fun b => [b.toNat % 16, b.toNat / 16]
  else if bits = 8 then bytes.map BitVec.toNat
  else
    let n := bits / 8
    (List.range (bytes.length / n)).map fun j => fieldAt bytes (j * n) n

def packPairs : List Nat → List Byte
  | a :: b :: rest => BitVec.ofNat 8 (a % 16 + 16 * (b % 16)) :: packPairs rest
  | _ => []

/-- Elements as bytes. -/
def packElems (bits : Nat) (vals : List Nat) : List Byte :=
  if bits = 4 then packPairs vals else vals.flatMap fun v => bytesOf v (bits / 8)

/-- The expansion of a frame with sparsity 1: four zeros, the first kept value at its position, then the second at its own (R173). -/
def expandFrame (bits : Nat) (bytes : List Byte) : List Byte :=
  let count := 4096 * 8 / bits
  let kept := elemsOf bits (bytes.take 2048)
  let desc := elemsOf 4 ((bytes.drop 2048).take (count / 8))
  packElems bits ((List.range (count / 4)).flatMap fun g =>
    let d := desc[g]?.getD 0
    (((List.replicate 4 0).set (d % 4) (kept[2 * g]?.getD 0)).set (d / 4) (kept[2 * g + 1]?.getD 0)))

/-- A value that counts as zero in its format (R173). -/
def zeroElem (fmt bits v : Nat) : Bool := if (tileFmt fmt).isSome then v % 2 ^ (bits - 1) == 0 else v == 0

/-- The kept positions of a group of four: the nonzero values, filled from the lowest remaining positions (R174). -/
def keptPositions (fmt bits : Nat) (grp : List Nat) : List Nat :=
  let nz := (List.range 4).filter fun p => !zeroElem fmt bits (grp[p]?.getD 0)
  let fill := ((List.range 4).filter fun p => !nz.contains p).take (2 - nz.length)
  (List.range 4).filter fun p => nz.contains p || fill.contains p

/-- The compaction of a dense image, or the first group with more than two nonzero values (R174). -/
def compactFrame (fmt bits : Nat) (bytes : List Byte) : Except Nat (List Byte) :=
  let vals := elemsOf bits bytes
  let groups := (List.range (vals.length / 4)).map fun g => (vals.drop (4 * g)).take 4
  match (groups.zipIdx).find? fun p => decide (2 < (p.1.filter fun v => !zeroElem fmt bits v).length) with
  | some p => .error p.2
  | none =>
    let kept := groups.flatMap fun grp => (keptPositions fmt bits grp).map fun p =>
      let v := grp[p]?.getD 0
      if zeroElem fmt bits v then 0 else v
    let desc := groups.map fun grp =>
      let k := keptPositions fmt bits grp
      k[0]?.getD 0 + 4 * k[1]?.getD 0
    let out := packElems bits kept ++ packElems 4 desc
    .ok (out ++ List.replicate (4096 - out.length) 0)

/-- Each element widened exactly to FP32, without flags (R76, R181). An FP32 element is as wide already and stays as it is, a signalling NaN
too, which sets NV where it is first rounded or delivered (R71; assumption 63). -/
def widenFrame (f : Fmt) (bytes : List Byte) : List Nat :=
  (elemsOf f.width bytes).map fun v => if f = .fp32 then v else (convert f .fp32 .standard v).1

/-! ## Shape records -/

/-- A shape record (R176). -/
structure Shape where
  base  : Word
  count : Word
  scale : Word
  rows  : Nat
  bound : Nat
  cols  : Nat
  tag   : BitVec 16
deriving DecidableEq, Repr

def word64At (bytes : List Byte) (off : Nat) : Word := BitVec.ofNat 64 (fieldAt bytes off 8)

def shapeOf (b : List Byte) : Shape :=
  ⟨word64At b 0, word64At b 8, word64At b 16, fieldAt b 24 2, fieldAt b 26 2, fieldAt b 28 2, BitVec.ofNat 16 (fieldAt b 30 2)⟩

/-- The address of frame (i, j) (R176). -/
def Shape.frame (r : Shape) (i j : Nat) : Word := r.base + BitVec.ofNat 64 ((i * r.cols + j) * 4096)

/-- ER and EC of R342: the tensor's dimensions in elements, by the format of the expected tag. -/
def Shape.elemRows (r : Shape) : Nat := (tileShape (tagFormat r.tag)).1 * (if r.count = 0 then r.rows else r.bound)
def Shape.elemCols (r : Shape) : Nat := (tileShape (tagFormat r.tag)).2.1 * r.cols

/-- The expected tag is amendable (R342). -/
def Shape.amendable (r : Shape) : Bool := r.tag != 0 && decide (5 ≤ tagFormat r.tag) && decide (tagFormat r.tag ≤ 9)

/-! ## Reading at the home (R254, R343, R345) -/

/-- The press and the adders read structures at their homes, under the authority given. -/
def State.readHome (s : State) (w : Who) (va : Word) (len : Nat) : Except Stop (List Byte) := do
  let keys ← s.locateStruct w .load va len
  match (List.range len).find? fun j => s.isBad ((keys[j]?).getD 0) with
  | some j => .error (.trap 0x16 (va + BitVec.ofNat 64 j))
  | none => .ok (keys.map s.homeByte)

/-- The adders act in the mode of the thread and never reach the local window; on handle records with the device's own authority (R419). -/
def State.adder (s : State) (t : Tid) : Who := { s.who t with window := false }
def Who.onRecords (w : Who) : Who := { w with window := false, checkU := false }

/-! ## Handle records -/

def handleTrap (sub h layer : Nat) : Stop := .trap 0x0F (BitVec.ofNat 64 (sub + h * 256 + layer * 2 ^ 20))

/-- A handle operand's index (R339). -/
def handleIndex (x : Word) : Nat := (x.extractLsb' 0 12).toNat
def isHandle (x : Word) : Bool := x.getLsbD 63

/-- A handle record (R341). `reserved` says that a bit not listed is set. -/
structure Handle where
  state    : Nat
  n        : Nat
  busy     : Bool
  k        : Nat
  base     : Word
  gen      : Word
  target   : Word
  layers   : List Word
  reserved : Bool
deriving DecidableEq, Repr

def handleOf (b : List Byte) : Handle :=
  let w := word64At b 0
  ⟨(w.extractLsb' 0 2).toNat, (w.extractLsb' 8 4).toNat, w.getLsbD 16, (w.extractLsb' 20 4).toNat, word64At b 8, word64At b 16,
    word64At b 24, (List.range 8).map fun m => word64At b (32 + 8 * m),
    w &&& 0xFFFF_FFFF_FF0E_F0FC != 0 || fieldAt b 96 32 != 0⟩

def Handle.malformed (r : Handle) : Bool :=
  r.reserved || decide (8 < r.n) || decide (r.n < r.k) || (r.k != 0 && !r.busy) ||
    (r.layers.zipIdx).any fun p => if p.2 < r.n then p.1.toNat % 64 != 0 else p.1 != 0

def Handle.bytes (r : Handle) : List Byte :=
  bytesOf (r.state + r.n * 256 + (if r.busy then 0x1_0000 else 0) + r.k * 2 ^ 20) 8 ++ wordBytes64 r.base ++ wordBytes64 r.gen ++
    wordBytes64 r.target ++ r.layers.flatMap wordBytes64 ++ List.replicate 32 0

/-- The record of a handle, under the table at `ht` (R340, R343). -/
def handleAddr (ht : Word) (h : Nat) : Word := ht + BitVec.ofNat 64 (h * 128)
def State.readHandle (s : State) (w : Who) (ht : Word) (h : Nat) : Except Stop Handle :=
  (s.readHome w.onRecords (handleAddr ht h) 128).map handleOf

/-- Write a record at its home: a write of the device's own, so its frame's format becomes raw (R171, R343). -/
def State.writeHandle (s : State) (t : Tid) (keys : List Nat) (r : Handle) : State :=
  s.performStruct t keys r.bytes

/-- The handle that a tile operand names: subcode 0 for its form, 1 without a table or for a record that is not valid (R180, R342, R357). -/
def State.handleFor (s : State) (w : Who) (ht x : Word) : Except Stop Handle := do
  let h := handleIndex x
  if x.extractLsb' 12 51 ≠ 0#51 then .error (handleTrap 0 h 0)
  else if ht = 0 then .error (handleTrap 1 h 0)
  else
    let r ← s.readHandle w ht h
    if r.state ≠ 1 then .error (handleTrap 1 h 0) else return r

/-! ## Layers (R344, R345) -/

inductive Layer where
  | sparse (t : Nat) (addr : Word)
  | lowRank (q : Nat) (alpha : Nat) (u v : Word)
deriving DecidableEq, Repr

/-- A descriptor's fields under the table of R344; none when they break it. -/
def layerOf (b : List Byte) : Option Layer :=
  let kind := fieldAt b 0 1
  let q := fieldAt b 1 1
  let alpha := fieldAt b 4 4
  let t := fieldAt b 8 8
  let x := word64At b 16
  let y := word64At b 24
  if fieldAt b 2 2 ≠ 0 ∨ fieldAt b 32 32 ≠ 0 then none
  else if kind = 1 then
    if q = 0 ∧ alpha = 0 ∧ 1 ≤ t ∧ t ≤ 2 ^ 24 ∧ x.toNat % 16 = 0 ∧ y = 0 then some (.sparse t x) else none
  else if kind = 2 then
    if 1 ≤ q ∧ q ≤ 64 ∧ t = 0 ∧ x.toNat % 4 = 0 ∧ y.toNat % 4 = 0 then some (.lowRank q alpha x y) else none
  else none

/-- An address names a place outside this device's HBM, whether or not it can be reached; one that leads nowhere faults where it is read
(R320, R327, R345). -/
def State.namesOutside (s : State) (w : Who) (a : Word) : Bool :=
  a.extractLsb' 56 8 != 0#8 || a.extractLsb' 48 8 == 0xFF#8 ||
    if rootOf w.pgroot = 0 then w.mode == .supervisor && decide (a.toNat < 2 ^ 40) && !namesHbm a.toNat
    else
      match s.walk w a with
      | .leaf _ e => pteTarget e == 1 || (pteTarget e == 2 && pteExt e != s.devid)
      | _ => false

/-- Some byte of the range lies outside this device's HBM. -/
def State.offHbm (s : State) (w : Who) (va : Word) (len : Nat) : Bool :=
  decide (len ≠ 0) && (List.range ((va.toNat % 65536 + len + 65535) / 65536)).any fun i =>
    s.namesOutside w (if i = 0 then va else BitVec.ofNat 64 ((va.toNat / 65536 + i) * 65536))

/-- Read and check descriptor m of handle h: the read's fault, or subcode 4 (R345, R347 orders 3 and 4). -/
def State.readLayer (s : State) (w : Who) (r : Shape) (h m : Nat) (va : Word) : Except Stop Layer := do
  let b ← s.readHome w va 64
  match layerOf b with
  | none => .error (handleTrap 4 h m)
  | some l =>
    let off :=
      match l with
      | .sparse t a => s.offHbm w a (16 * t)
      | .lowRank q _ u v => s.offHbm w u (r.elemRows * q * 4) || s.offHbm w v (r.elemCols * q * 4)
    if off then .error (handleTrap 4 h m) else return l

/-- Descriptors in list order. -/
def State.readLayers (s : State) (w : Who) (r : Shape) (h : Nat) : List Word → Nat → Except Stop (List Layer)
  | [], _ => .ok []
  | a :: rest, m => do
    let l ← s.readLayer w r h m a
    let more ← s.readLayers w r h rest (m + 1)
    return l :: more

/-- The triples of a sparse layer, in strictly ascending order and inside the tensor, or subcode 5. The whole array is read: which triples beyond
the frame's a load reads is not fixed (R345; assumption 37). -/
def State.readTriples (s : State) (w : Who) (r : Shape) (h m t : Nat) (va : Word) : Except Stop (List (Nat × Nat × Nat)) := do
  let b ← s.readHome w va (16 * t)
  let l := (List.range t).map fun k => (fieldAt b (16 * k) 4, fieldAt b (16 * k + 4) 4, fieldAt b (16 * k + 8) 4)
  let key (p : Nat × Nat × Nat) : Nat := p.1 * 2 ^ 32 + p.2.1
  if (l.zip l.tail).all (fun p => decide (key p.1 < key p.2)) && l.all (fun p => decide (p.1 < r.elemRows) && decide (p.2.1 < r.elemCols)) then
    return l
  else .error (handleTrap 5 h m)

/-- What one layer adds within a frame: triples of the frame, or rows of U and of V. -/
inductive LayerData where
  | sparse (l : List (Nat × Nat × Nat))
  | lowRank (q alpha : Nat) (u v : List Nat)
deriving DecidableEq, Repr

/-- The data of the layers for the tile whose first element is (y0, z0) (R347 orders 5 and 6). -/
def State.readData (s : State) (w : Who) (r : Shape) (h tr tc y0 z0 : Nat) : List Layer → Nat → Except Stop (List LayerData)
  | [], _ => .ok []
  | l :: rest, m => do
    let d ← match l with
      | .sparse t a => do
        let ts ← s.readTriples w r h m t a
        pure (LayerData.sparse (ts.filter fun p => decide (y0 ≤ p.1 ∧ p.1 < y0 + tr ∧ z0 ≤ p.2.1 ∧ p.2.1 < z0 + tc)))
      | .lowRank q alpha u v => do
        let ub ← s.readHome w (u + BitVec.ofNat 64 (y0 * q * 4)) (tr * q * 4)
        let vb ← s.readHome w (v + BitVec.ofNat 64 (z0 * q * 4)) (tc * q * 4)
        pure (LayerData.lowRank q alpha (elemsOf 32 ub) (elemsOf 32 vb))
    let more ← s.readData w r h tr tc y0 z0 rest (m + 1)
    return d :: more

/-! ## The amended tile (R346) -/

def fp32 (v : Nat) : FVal := unpack .fp32 v

/-- One layer added to the accumulator of tile element (r, c) of the tile at (y0, z0). -/
def LayerData.addTo (d : LayerData) (y0 z0 r c acc : Nat) : Nat × BitVec 5 :=
  match d with
  | .sparse l =>
    match l.find? fun p => p.1 == y0 + r && p.2.1 == z0 + c with
    | some p => fadd .fp32 (fp32 acc) (fp32 p.2.2)
    | none => (acc, 0)
  | .lowRank q alpha u v =>
    let terms := (List.range q).map fun p => mulX (fp32 (u[r * q + p]?.getD 0)) (fp32 (v[c * q + p]?.getD 0))
    let sum := exactSum .fp32 terms
    let prod := fmul .fp32 (fp32 alpha) (fp32 sum.1)
    let out := fadd .fp32 (fp32 acc) (fp32 prod.1)
    (out.1, sum.2 ||| prod.2 ||| out.2)

/-- One element through every layer in list order, each rounded once (R348). -/
def amendElement (layers : List LayerData) (y0 z0 r c base : Nat) : Nat × BitVec 5 :=
  layers.foldl (fun acc d => let x := d.addTo y0 z0 r c acc.1; (x.1, acc.2 ||| x.2)) (base, 0)

/-- The elements of a frame's data under its stored tag: zero, expanded or as stored (R181). -/
def frameImage (tag : BitVec 16) (bytes : List Byte) : List Byte :=
  if tagSparsity tag = 2 then List.replicate 4096 0
  else if tagSparsity tag = 1 then expandFrame (tileShape (tagFormat tag)).2.2 bytes
  else bytes

/-- Frame (i, j) of the base with the layers added, and its flags: FP32 patterns, or the base format's under satrne (R346). -/
def amendFrame (tag : BitVec 16) (f : Fmt) (image : List Byte) (layers : List LayerData) (i j : Nat) (wide : Bool) : List Byte × BitVec 5 :=
  let sh := tileShape (tagFormat tag)
  let accs := (widenFrame f image).zipIdx.map fun p =>
    let rc := elementAt (tagLayout tag) sh.1 sh.2.1 p.2
    amendElement layers (i * sh.1) (j * sh.2.1) rc.1 rc.2 p.1
  if wide then (packElems 32 (accs.map Prod.fst), orFlags (accs.map Prod.snd))
  else
    let out := accs.map fun a => let r := pack f .saturate (fp32 a.1); (r.1, a.2 ||| r.2)
    (packElems f.width (out.map Prod.fst), orFlags (out.map Prod.snd))

/-- A stored tag as an agent reads it, or at the home for the press, the adders and the launch unit; frames elsewhere carry none (R170, R254). A tag
that cannot be read, or whose frame no port leads to, meets 0x16 at the frame's address (R378, R381; assumption 67). -/
def State.readTag (s : State) (w : Who) (home : Bool) (loc : Loc) (fa : Word) : Except Stop (BitVec 16) :=
  if !isTagged loc.key then .ok 0
  else if loc.lost || s.losesLoad w .load loc.key || s.tagLost (fun e => !home && e.visibleTo w.tid) loc.key then .error (.trap 0x16 fa)
  else .ok (if home then s.tagAt loc.key else s.tagFor w.tid loc.key)

/-- Orders 9 and 10 of R180: the expected tag against the stored one, then poison. `fa` is the frame's address. -/
def tagChecks (expected stored : BitVec 16) (fa : Word) : Except Stop Unit :=
  if expected ≠ 0 ∧ expected &&& 0xFFE0 ≠ stored &&& 0xFFE0 then .error (.trap 0x0C (stored.setWidth 64 ||| (expected.setWidth 64 <<< 16)))
  else if tagPoison stored then .error (.trap 0x16 fa)
  else .ok ()

/-- R347 order 2: the base frame in this device's HBM, the expected tag amendable. -/
def amendableFrame (r : Shape) (key h : Nat) : Except Stop Fmt :=
  match tileFmt (tagFormat r.tag) with
  | some f => if r.amendable && isHbm key then .ok f else .error (handleTrap 6 h 0)
  | none => .error (handleTrap 6 h 0)

/-- The bytes of a base frame at its home; a frame with sparsity 2 is not read (R175). -/
def State.baseFrame (s : State) (w : Who) (tag : BitVec 16) (fa : Word) : Except Stop (List Byte) :=
  if tagSparsity tag = 2 then .ok [] else s.readHome w fa 4096

/-- What is read of a list in order: up to the first element that faults, and that one. -/
def readUpTo {α : Type} (ok : α → Bool) : List α → List α
  | [] => []
  | x :: rest => x :: if ok x then readUpTo ok rest else []

/-- What a load through a handle reads of its layers and its base frame, up to the read that faults (R347 from order 3 on). -/
def State.amendedReads (s : State) (w : Who) (r : Shape) (h : Nat) (layers : List Word) (tag : BitVec 16) (fa : Word) (i j : Nat) :
    List (Word × Nat) :=
  let sh := tileShape (tagFormat tag)
  let seen := readUpTo (fun p => (s.readLayer w r h p.2 p.1).isOk) layers.zipIdx
  (seen.map fun p => (p.1, 64)) ++
    match s.readLayers w r h layers 0 with
    | .error _ => []
    | .ok ls =>
      let data (l : Layer) (m : Nat) : Bool := (s.readData w r h sh.1 sh.2.1 (i * sh.1) (j * sh.2.1) [l] m).isOk
      ((readUpTo (fun p => data p.1 p.2) ls.zipIdx).flatMap fun p =>
        match p.1 with
        | .sparse t a => [(a, 16 * t)]
        | .lowRank q _ u v => [(u + BitVec.ofNat 64 (i * sh.1 * q * 4), sh.1 * q * 4), (v + BitVec.ofNat 64 (j * sh.2.1 * q * 4), sh.2.1 * q * 4)]) ++
        if tagSparsity tag = 2 || !ls.zipIdx.all (fun p => data p.1 p.2) then [] else [(fa, 4096)]

/-- The tile at (i, j) through the layers at these addresses: R347 from order 3 on, then R346. -/
def State.amendedTile (s : State) (w : Who) (r : Shape) (h : Nat) (layers : List Word) (f : Fmt) (tag : BitVec 16) (fa : Word) (i j : Nat)
    (wide : Bool) : Except Stop (List Byte × BitVec 5) := do
  let sh := tileShape (tagFormat tag)
  let ls ← s.readLayers w r h layers 0
  let ds ← s.readData w r h sh.1 sh.2.1 (i * sh.1) (j * sh.2.1) ls 0
  let b ← s.baseFrame w tag fa
  return amendFrame tag f (frameImage tag b) ds i j wide

end Sys2Proof.Machine
end

