-- ==== Sys2Proof/Machine/Tile.lean ====
section
/-! DEFINITION. The tile instructions and operator dispatch, major 0x24 (spec/08_tiles_and_dispatch.md R177 to R188). -/

namespace Sys2Proof.Machine

/-! ## Spans (R179) -/

def spanRegs (rows bytes : Nat) : Nat := (bytes + rows * 256 - 1) / (rows * 256)

/-- R180 order 1: the span ends by v31, and leaves v31 to the scales under .sc. -/
def spanCheck (rows d bytes : Nat) (sc : Bool) (word : Word) : Except Stop Unit :=
  let last := d + spanRegs rows bytes - 1
  issueCheck (decide (last ≤ 31) && !(sc && decide (last = 31))) word

/-- A number of bytes into a register on these rows: the rest of it is kept, or zeroed up to the register's end. -/
def putPayload (rows : Nat) (old : VWord) (bytes : List Byte) (zero : Bool) : VWord :=
  let n := bytes.length
  let v := bytes.foldr (fun b acc => acc * 256 + b.toNat) 0
  let keep := if zero then regBits rows else 8 * n
  BitVec.ofNat 131072 (v + old.toNat / 2 ^ keep * 2 ^ keep)

/-- A payload into its span; the rest of the last register follows VTYPE[5]. -/
def Arch.putSpan (a : Arch) (rows d : Nat) (bytes : List Byte) : Arch :=
  (List.range (spanRegs rows bytes.length)).foldl (fun (a : Arch) r =>
    let part := (bytes.drop (r * rows * 256)).take (rows * 256)
    a.setVreg (d + r) (putPayload rows (a.vreg (d + r)) part (tailZero a.vtype))) a

/-- The first n bytes of a span. -/
def Arch.spanBytes (a : Arch) (rows d n : Nat) : List Byte :=
  (List.range (spanRegs rows n)).flatMap fun r => bytesOf (a.vreg (d + r)).toNat (min (rows * 256) (n - r * rows * 256))

/-! ## Operands (R180) -/

/-- A shape fault; the third part of TVAL is X[b][31:0], or the group number (R180). -/
def shapeTrap (sub n : Nat) : Stop := .trap 0x0B (BitVec.ofNat 64 (sub + n % 2 ^ 32 * 2 ^ 16))

/-- A tile operand after orders 2 to 8: its record's address, the agent that reads it, and what it names. -/
structure TileAt where
  rcd    : Word
  who    : Who
  shape  : Shape
  i      : Nat
  j      : Nat
  addr   : Word
  loc    : Loc
  handle : Option Handle

/-- The record's address, on whose behalf it is read, and the handle, if the operand is one: orders 2 and 3 up to the record. -/
def State.tileRecord (s : State) (t : Tid) (xa : Word) (write : Bool) : Except Stop (Word × Who × Option Handle) :=
  if isHandle xa then
    if write then .error (handleTrap 8 (handleIndex xa) 0)
    else (s.handleFor (s.adder t) (s.thr t).htbase xa).map fun r => (r.base, s.adder t, some r)
  else .ok (xa, s.who t, none)

/-- A value that no tst or tset may write as a tag (R180 order 4). -/
def tagRefused (v : Word) : Bool :=
  v.extractLsb' 16 48 != 0#48 || tagMalformed (v.extractLsb' 0 16) || tagSparsity (v.extractLsb' 0 16) == 3

/-- Orders 2 to 8, with the record and the dynamic count read where the spec places them. `newTag` is the 64-bit value whose low half becomes
the tag, for tst and tset. -/
def State.tileAt (s : State) (t : Tid) (xa xb : Word) (newTag : Option (Shape → Word)) : Except Stop TileAt := do
  let o ← s.tileRecord t xa newTag.isSome
  if o.1.toNat % 32 ≠ 0 then .error (.trap 0x03 o.1)
  let r := shapeOf (← s.readStruct o.2.1 o.1 32)
  if r.count.toNat % 4 ≠ 0 then .error (.trap 0x03 r.count)
  let n := (xb.extractLsb' 0 32).toNat
  match newTag with
  | none => pure ()
  | some f =>
    if tagRefused (f r) then .error (shapeTrap 3 n)
  let rows ← if r.count = 0 then pure r.rows else s.readWord o.2.1 r.count 4
  if r.count ≠ 0 ∧ r.bound < rows then .error (shapeTrap 0 n)
  let i := (xb.extractLsb' 16 16).toNat
  let j := (xb.extractLsb' 0 16).toNat
  if xb.extractLsb' 32 32 ≠ 0#32 ∨ rows ≤ i ∨ r.cols ≤ j then .error (shapeTrap 2 n)
  if r.base.toNat % 4096 ≠ 0 then .error (.trap 0x03 r.base)
  let fa := r.frame i j
  match s.placed o.2.1 (if newTag.isSome then .store else .load) false fa with
  | .error c => .error (.trap c fa)
  | .ok loc => return ⟨o.1, o.2.1, r, i, j, fa, loc, o.2.2⟩

/-- A handle record that an operand names has been read, in the table at `ht` (R343, R385, R393). -/
def State.noteHandle (s : State) (w : Who) (ht x : Word) : State :=
  if isHandle x && x.extractLsb' 12 51 == 0#51 && ht != 0 then s.ownReads w.onRecords [(handleAddr ht (handleIndex x), 128)] else s

/-- The structures that finding a tile operand reads: what the slices count and the watches report (R385, R393; assumption 34). -/
def State.noteTile (s : State) (t : Tid) (xa : Word) (p : TileAt) : State :=
  (s.noteHandle (s.adder t) (s.thr t).htbase xa).ownReads p.who ((p.rcd, 32) :: if p.shape.count = 0 then [] else [(p.shape.count, 4)])

/-- A tile instruction reads nothing before it has passed the checks of its issue (R19, R180 order 1). -/
def State.pastIssue (s : State) (span : Except Stop Unit) (noted : State) : State :=
  if (s.thr s.cur).lanes.isSome && span.isOk then noted else s

/-- The same where an operand's fault ends the instruction: what has been read up to there. -/
def State.noteTileTrap (s : State) (t : Tid) (xa : Word) (newTag : Option (Shape → Word)) : State :=
  if newTag.isSome && isHandle xa then s
  else
    let n := s.noteHandle (s.adder t) (s.thr t).htbase xa
    match s.tileRecord t xa newTag.isSome with
    | .error _ => n
    | .ok o =>
      if o.1.toNat % 32 ≠ 0 then n
      else
        let n := n.noteStruct o.2.1 o.1 32
        match s.readStruct o.2.1 o.1 32 with
        | .error _ => n
        | .ok b =>
          let r := shapeOf b
          if r.count = 0 ∨ r.count.toNat % 4 ≠ 0 ∨ newTag.any (fun f => tagRefused (f r)) then n else n.noteStruct o.2.1 r.count 4

/-- What the engines have written for the thread is performed before the thread reads through a handle at the homes: the chunks whose pennant bits
it has read are to be seen there (R247, R254, R350; assumption 64). -/
def State.seeEngine (s : State) (t : Tid) (home : Bool) : State := if home then s.drain t .sys (fun e => e.tid == t && e.engine) [] else s

/-- Keys of a frame. -/
def frameKeys (loc : Loc) : List Nat := (List.range 4096).map (loc.key + ·)

/-- The stored tag of a tile operand: as the thread sees it, or, through a handle, at its home (R170, R254). -/
def State.tileTag (s : State) (t : Tid) (p : TileAt) : Except Stop (BitVec 16) :=
  s.readTag (if p.handle.isSome then s.adder t else s.who t) p.handle.isSome p.loc p.addr

/-- The scale bytes of a frame's record (R181). -/
def TileAt.scaleAddr (p : TileAt) : Word := p.shape.scale + BitVec.ofNat 64 ((p.i * p.shape.cols + p.j) * 256)

/-! ## tld (R181) -/

/-- The payload and its flags (R181, R346, R347). -/
def State.tilePayload (s : State) (t : Tid) (p : TileAt) (tag : BitVec 16) (wide : Bool) (xa : Word) : Except Stop (List Byte × BitVec 5) :=
  match p.handle with
  | some r => do
    let h := handleIndex xa
    if r.malformed then .error (handleTrap 3 h 0)
    let f ← amendableFrame p.shape p.loc.key h
    s.amendedTile (s.adder t) p.shape h (r.layers.take r.n) f tag p.addr p.i p.j wide
  | none => do
    let b ← if tagSparsity tag = 2 then pure [] else s.readStruct (s.who t) p.addr 4096
    let image := frameImage tag b
    match wide, tileFmt (tagFormat tag) with
    | true, some f => return (packElems 32 (widenFrame f image), 0)
    | _, _ => return (image, 0)

/-- What a tld reads for its payload. -/
def State.payloadReads (s : State) (t : Tid) (p : TileAt) (tag : BitVec 16) (xa : Word) : List (Word × Nat) :=
  match p.handle with
  | some r => s.amendedReads (s.adder t) p.shape (handleIndex xa) (r.layers.take r.n) tag p.addr p.i p.j
  | none => if tagSparsity tag = 2 then [] else [(p.addr, 4096)]

/-- Bytes of a widened frame. -/
def widenedBytes (tag : BitVec 16) : Nat := 4096 * 32 / (tileShape (tagFormat tag)).2.2

/-- A tld up to the reading of its data: its operand, the stored tag, whether scale bytes move, and the bytes of its span (R179, R180). -/
def State.tldOperand (s : State) (t : Tid) (sc wide : Bool) (d : Nat) (xa xb w : Word) : Except Stop (TileAt × BitVec 16 × Bool × Nat) := do
  let p ← s.tileAt t xa xb none
  let tag ← s.tileTag t p
  let scaled := sc && tagFormat tag == 11
  let _ ← if scaled then s.mapStruct (s.who t) .load p.scaleAddr 256 else pure []
  tagChecks p.shape.tag tag p.addr
  if wide && !(decide (5 ≤ tagFormat tag) && decide (tagFormat tag ≤ 8)) then .error (shapeTrap 4 (xb.extractLsb' 0 32).toNat)
  let size := if wide then widenedBytes tag else 4096
  spanCheck (s.rows t) d size sc w
  return (p, tag, scaled, size)

/-- What a tld that traps has read on its way (R385, R393). -/
def State.noteTldTrap (s : State) (t : Tid) (sc wide : Bool) (d : Nat) (xa xb w : Word) : State :=
  match s.tldOperand t sc wide d xa xb w with
  | .error _ => s.noteTileTrap t xa none
  | .ok (p, tag, scaled, _) =>
    let n := (s.noteTile t xa p).noteReads p.who (s.payloadReads t p tag xa)
    if scaled && (s.tilePayload t p tag wide xa).isOk then n.noteStruct (s.who t) p.scaleAddr 256 else n

/-- tld: one frame, or an amended tile, into a span (R181). The registers that it writes stand idle after it (R262). -/
def execTld (sc wide : Bool) (d : VReg) (a b : XReg) (s : State) : Outcome :=
  finishReads s (fun s => s.pastIssue (spanCheck (s.rows s.cur) d.toNat 4096 sc 0)
      (s.noteTldTrap s.cur sc wide d.toNat (s.x a) (s.x b) (wordOf (.tld sc wide d a b)))) do
    let t := s.cur
    let w := wordOf (.tld sc wide d a b)
    s.needLanes w
    let rows := s.rows t
    spanCheck rows d.toNat 4096 sc w
    let s := s.seeEngine t (isHandle (s.x a))
    let (p, tag, scaled, size) ← s.tldOperand t sc wide d.toNat (s.x a) (s.x b) w
    let r ← s.tilePayload t p tag wide (s.x a)
    let scales ← if scaled then s.readStruct (s.who t) p.scaleAddr 256 else pure []
    let regs := regsFrom d.toNat (spanRegs rows size) ++ (if scales.isEmpty then [] else [31])
    if s.pennantBusy t regs then .error .wait
    let touched := touchedGroups rows d.toNat 8 size (spanRegs rows size) (tailZero (s.arch t).vtype)
      ++ (if scales.isEmpty then [] else touchedGroups rows 31 8 256 1 false)
    let s := (((s.noteTile t (s.x a) p).ownReads p.who (s.payloadReads t p tag (s.x a))).ownReads (s.who t) [(p.scaleAddr, scales.length)]).reserve t touched
    let x := (s.arch t).putSpan rows d.toNat r.1
    let x := if scales.isEmpty then x else x.setVreg 31 (putPayload rows (x.vreg 31) scales false)
    return ((s.setArch t (x.putProg regs none)).raise t r.2).retire

/-! ## tst, ttag, tset (R182, R183) -/

/-- Hold a tile store, or discard it where its port is down (R381). A frame and its tag are one store: single-copy atomic toward every tld, ttag
and tcall (R172; assumption 65). -/
def State.putTile (s : State) (t : Tid) (loc : Loc) (bytes : List SByte) (tags : List (Nat × TagWrite)) : State :=
  if loc.lost then s.reportLost (s.thr t).ctx loc.key else s.putStore t true bytes tags

/-- Hold the scale bytes of a tst, each a store of its own (R172, R201, R219); those for a port that is down are discarded (R381). -/
def State.putScales (s : State) (t : Tid) (keys : List Nat) (bytes : List Byte) : State :=
  let s := s.accessNow t keys
  let bs := keys.zipWith (fun k v => (⟨k, v, 0xFF⟩ : SByte)) bytes
  let es := StoreEntry.bytewise ⟨t, (s.thr t).ctx, .held, true, false, bs.filter fun b => !s.keyDown b.key,
    (((keys.filter isTagged).map frameOf).dedup.map fun f => (f, .scale)), 0, s.fresh + 1, s.originOf t none⟩
  let s := { s with stores := s.stores ++ es, fresh := s.fresh + 1 }
  let s := if es.isEmpty || (s.thr t).heldFrom.isSome then s else s.setThr t { s.thr t with heldFrom := some (s.cycleOf t) }
  match keys.find? s.keyDown with
  | some k => s.reportLost (s.thr t).ctx k
  | none => s

/-- A write to a retired channel meets 0x16 once the conditions of R180 have passed (R384). -/
def State.retiredAt (s : State) (keys : List Nat) (va : Word) : Except Stop Unit :=
  match (List.range keys.length).find? fun j => s.isRetired (keys[j]?.getD 0) with
  | some j => .error (.trap 0x16 (va + BitVec.ofNat 64 j))
  | none => .ok ()

/-- tst: the frame with its expected tag; with .sc and a CODE4 tag, the scale bytes too (R174, R175, R182). -/
def execTst (sc : Bool) (d : VReg) (a b : XReg) (s : State) : Outcome :=
  finishReads s (fun s => s.pastIssue (spanCheck (s.rows s.cur) d.toNat 4096 sc 0)
      (s.noteTileTrap s.cur (s.x a) (some fun r => r.tag.setWidth 64))) do
    let t := s.cur
    let w := wordOf (.tst sc d a b)
    s.needLanes w
    let rows := s.rows t
    spanCheck rows d.toNat 4096 sc w
    let p ← s.tileAt t (s.x a) (s.x b) (some fun r => r.tag.setWidth 64)
    let tag := p.shape.tag
    let scaleKeys ← if sc && tagFormat tag == 11 then s.mapStruct (s.who t) .store p.scaleAddr 256 else pure []
    let dense := (s.arch t).spanBytes rows d.toNat 4096
    let data ←
      if tagSparsity tag = 2 then pure []
      else if tagSparsity tag = 1 then
        match compactFrame (tagFormat tag) (tileShape (tagFormat tag)).2.2 dense with
        | .ok x => pure x
        | .error g => .error (shapeTrap 1 g)
      else pure dense
    s.retiredAt [p.loc.key] p.addr
    s.retiredAt scaleKeys p.scaleAddr
    let keys := (if data.isEmpty then [] else frameKeys p.loc) ++ scaleKeys
    if s.copyStalls t keys true noneAcquired then .error .wait
    let s ← (s.noteTile t (s.x a) p).roomFor t keys
    let s := s.countShared t ((if data.isEmpty then [] else regsFrom d.toNat (spanRegs rows 4096)) ++ if scaleKeys.isEmpty then [] else [31])
    let s := s.putTile t p.loc (storeBytes p.loc.key data) (if isTagged p.loc.key then [(p.loc.key, .set tag)] else [])
    return (if scaleKeys.isEmpty then s else s.putScales t scaleKeys ((s.arch t).spanBytes rows 31 256)).retire

/-- The tag of a handle's base frame as ttag answers it: sparsity 3, poison 0 (R183). -/
def viewTag (t : BitVec 16) : BitVec 16 := (t &&& 0xF8EF) ||| 0x0300

/-- ttag (R183). A malformed handle record raises its fault when it is used (R340). -/
def execTtag (d a b : XReg) (s : State) : Outcome :=
  finishReads s (fun s => s.pastIssue (.ok ()) (s.noteTileTrap s.cur (s.x a) none)) do
    let t := s.cur
    s.needLanes (wordOf (.ttag d a b))
    let s := s.seeEngine t (isHandle (s.x a))
    let p ← s.tileAt t (s.x a) (s.x b) none
    match p.handle with
    | some r => if r.malformed then .error (handleTrap 3 (handleIndex (s.x a)) 0)
    | none => pure ()
    let tag ← s.tileTag t p
    return ((s.noteTile t (s.x a) p).setX d ((if p.handle.isSome then viewTag tag else tag).setWidth 64)).retire

/-- tset: the tag alone (R183). -/
def execTset (d a b : XReg) (s : State) : Outcome :=
  finishReads s (fun s => s.pastIssue (.ok ()) (s.noteTileTrap s.cur (s.x a) (some fun _ => s.x d))) do
    let t := s.cur
    s.needLanes (wordOf (.tset d a b))
    let p ← s.tileAt t (s.x a) (s.x b) (some fun _ => s.x d)
    s.retiredAt [p.loc.key] p.addr
    if s.copyStalls t (frameKeys p.loc) true noneAcquired then .error .wait
    return ((s.noteTile t (s.x a) p).putTile t p.loc [] (if isTagged p.loc.key then [(p.loc.key, .set ((s.x d).extractLsb' 0 16))] else [])).retire

/-! ## The type case (R184 to R188) -/

/-- Sixteen bytes of a type case that the hart has cached (R188). -/
def State.cachedCase (s : State) (w : Who) (va : Word) : Option CaseEntry :=
  if w.window then (s.hrt (hartOf w.tid)).tcase.find? fun e => e.ctx == w.ctx && e.addr == va else none

/-- Sixteen bytes of the type case: the hart's cached copy, or memory (R188); the launch unit reads at the home. -/
def State.readCase (s : State) (w : Who) (va : Word) : Except Stop (List Byte) :=
  match s.cachedCase w va with
  | some e => .ok (bytesOf e.bytes.toNat 16)
  | none => if w.window then s.readStruct w va 16 else s.readHome w va 16

/-- An entry: its address, its first word and its four tag fields (R184). -/
structure CaseRow where
  addr : Word
  head : Word
  f0   : BitVec 16
  f1   : BitVec 16
  f2   : BitVec 16
  f3   : BitVec 16
deriving DecidableEq, Repr

def caseRow (addr : Word) (b : List Byte) : CaseRow :=
  let f (k : Nat) : BitVec 16 := BitVec.ofNat 16 (fieldAt b (8 + 2 * k) 2)
  ⟨addr, word64At b 0, f 0, f 1, f 2, f 3⟩

def CaseRow.routine (e : CaseRow) : Word := (e.head.extractLsb' 0 56).setWidth 64
def CaseRow.count (e : CaseRow) : Nat := (e.head.extractLsb' 56 2).toNat
def CaseRow.cost (e : CaseRow) : Nat := (e.head.extractLsb' 58 6).toNat

/-- Two tags match in bits [15:5] and [3:0]; an entry's tag with its poison bit set never does (R184). -/
def caseTagMatch (entry key : BitVec 16) : Bool := !entry.getLsbD 4 && entry &&& 0xFFEF == key &&& 0xFFEF

def CaseRow.methodMatches (e : CaseRow) (op : BitVec 16) (tags : List (BitVec 16)) : Bool :=
  let n := tags.length
  e.count == n && e.f0 == op &&
    ([e.f1, e.f2, e.f3].zipIdx).all fun p => if p.2 < n then caseTagMatch p.1 (tags[p.2]?.getD 0) else p.1 == 0

def CaseRow.convMatches (e : CaseRow) (tag : BitVec 16) : Bool :=
  e.count == 0 && e.f2 == 0 && e.f3 == 0 && !e.f1.getLsbD 4 && caseTagMatch e.f0 tag

/-- The rows of a table in order, up to the first that `stop` accepts. -/
def State.readRows (s : State) (w : Who) (base : Word) (stop : CaseRow → Bool) : List Nat → Except Stop (List CaseRow)
  | [] => .ok []
  | k :: rest => do
    let va := base + BitVec.ofNat 64 (16 * k)
    let e := caseRow va (← s.readCase w va)
    if stop e then return [e]
    else
      let more ← s.readRows w base stop rest
      return e :: more

/-- What tcall selects: the method entry, and the conversion of one operand (R186). -/
structure Selection where
  method : CaseRow
  conv   : Option (Nat × CaseRow)

/-- One candidate is better than another: the lower cost, then the lower position, then the lower target tag; the earlier stands otherwise. -/
def betterConv (x y : Nat × CaseRow × CaseRow) : Bool :=
  let cx := x.2.1.cost + x.2.2.cost
  let cy := y.2.1.cost + y.2.2.cost
  decide (cx < cy) || (cx == cy && (decide (x.1 < y.1) || (x.1 == y.1 && decide (x.2.1.f1 < y.2.1.f1))))

/-- Candidates: a conversion of one operand with the first method that then matches. -/
def conversionsOf (methods convs : List CaseRow) (op : BitVec 16) (tags : List (BitVec 16)) : List (Nat × CaseRow × CaseRow) :=
  (tags.zipIdx).flatMap fun tp => convs.filterMap fun c =>
    if c.convMatches tp.1 then
      (methods.find? fun m => m.methodMatches op (tags.set tp.2 c.f1)).map fun m => (tp.2, c, m)
    else none

def bestConv (l : List (Nat × CaseRow × CaseRow)) : Option (Nat × CaseRow × CaseRow) :=
  match l with
  | [] => none
  | c :: rest => some (rest.foldl (fun b x => if betterConv x b then x else b) c)

/-- Search the type case at `tc`; exact only, for the launch unit, or with one conversion. -/
def State.selectCase (s : State) (w : Who) (tc : Word) (op : BitVec 16) (tags : List (BitVec 16)) (exact : Bool) :
    Except Stop (Option Selection) := do
  let h := (← s.readCase w tc) ++ (← s.readCase w (tc + 16))
  let methods ← s.readRows w (word64At h 0) (fun e => e.methodMatches op tags) (List.range (fieldAt h 8 4))
  match methods.find? fun e => e.methodMatches op tags with
  | some m => return some ⟨m, none⟩
  | none =>
    if exact then return none
    else
      let convs ← s.readRows w (word64At h 16) (fun _ => false) (List.range (fieldAt h 12 4))
      return (bestConv (conversionsOf methods convs op tags)).map fun c => ⟨c.2.2, some (c.1, c.2.1)⟩

/-- The sixteen bytes at each address that a search reads from memory, up to the read that faults. -/
def State.caseReads (s : State) (w : Who) (tc : Word) (op : BitVec 16) (tags : List (BitVec 16)) : List (Word × Nat) :=
  let ok (va : Word) : Bool := (s.readCase w va).isOk
  let rows (base : Word) (n : Nat) : List Word := (List.range n).map fun k => base + BitVec.ofNat 64 (16 * k)
  let head := readUpTo ok [tc, tc + 16]
  let body : List Word :=
    match s.readCase w tc, s.readCase w (tc + 16) with
    | .ok x, .ok y =>
      let h := x ++ y
      let others (va : Word) : Bool := match s.readCase w va with | .ok b => !(caseRow va b).methodMatches op tags | .error _ => false
      let methods := rows (word64At h 0) (fieldAt h 8 4)
      readUpTo others methods ++ if methods.all others then readUpTo ok (rows (word64At h 16) (fieldAt h 12 4)) else []
    | _, _ => []
  ((head ++ body).filter fun va => (s.cachedCase w va).isNone).map fun va => (va, 16)

/-- An operand's tag: a frame's stored tag, or a handle's view of frame 0 of its base (R185). `home` reads at the home. -/
def State.operandTag (s : State) (w : Who) (ht x : Word) (home : Bool) : Except Stop (BitVec 16) :=
  if isHandle x then do
    let r ← s.handleFor w ht x
    if r.malformed then .error (handleTrap 3 (handleIndex x) 0)
    if r.base.toNat % 32 ≠ 0 then .error (.trap 0x03 r.base)
    let v := { w with window := false }
    let sh := shapeOf (← if home then s.readHome v r.base 32 else s.readStruct v r.base 32)
    if sh.base.toNat % 4096 ≠ 0 then .error (.trap 0x03 sh.base)
    match s.placed v .load false sh.base with
    | .error c => .error (.trap c sh.base)
    | .ok loc => (s.readTag v true loc sh.base).map viewTag
  else if x.toNat % 4096 ≠ 0 then .error (.trap 0x03 x)
  else
    match s.placed w .load false x with
    | .error c => .error (.trap c x)
    | .ok loc => s.readTag w home loc x

/-- The conversion frame of a thread: one of its two, by CF (R186). -/
def State.convFrame (s : State) (t : Tid) : Word :=
  let th := s.thr t
  localWindow + (if th.ystat.getLsbD 3 then 0x1F_0000 else 0x2F_0000)
    + BitVec.ofNat 64 ((2 * threadOf t + (if th.arch.cf then 1 else 0)) * 0x1000)

/-- TVAL of trap 0x0D: the operator and the tags (R186). -/
def caseKey (op : BitVec 16) (tags : List (BitVec 16)) : Word :=
  BitVec.ofNat 64 ((op :: tags).foldr (fun t acc => acc * 65536 + t.toNat) 0)

def tileCount : TileCount → Nat
  | .one => 1
  | .two => 2
  | .three => 3

def State.operandTags (s : State) (w : Who) (ht : Word) (home : Bool) : List Word → Except Stop (List (BitVec 16))
  | [] => .ok []
  | x :: rest => do
    let tag ← s.operandTag w ht x home
    let more ← s.operandTags w ht home rest
    return tag :: more

/-- What finding the tag of an operand of a tcall or a launch reads beside the tag (R385, R393). -/
def State.noteOperand (w : Who) (ht : Word) (s : State) (x : Word) : State :=
  if isHandle x then
    let n := s.noteHandle w ht x
    match s.handleFor w ht x with
    | .error _ => n
    | .ok r => if r.malformed || r.base.toNat % 32 != 0 then n else n.ownReads { w with window := false } [(r.base, 32)]
  else s

/-- The same for operands in turn, up to the one that faults. -/
def State.noteOperands (s : State) (w : Who) (ht : Word) (home : Bool) (xs : List Word) : State :=
  (readUpTo (fun x => (s.operandTag w ht x home).isOk) xs).foldl (State.noteOperand w ht) s

/-- What a tcall reads, up to the read that faults (R385, R393). -/
def State.noteCall (s : State) (t : Tid) (op : BitVec 16) (operands : List Word) : State :=
  let w := s.who t
  let n := s.noteOperands w (s.thr t).htbase false operands
  match s.operandTags w (s.thr t).htbase false operands with
  | .error _ => n
  | .ok tags => if (s.thr t).tcbase = 0 then n else n.ownReads w (s.caseReads w (s.thr t).tcbase op tags)

/-- The register writes of tcall and its jump, all at once (R186). -/
def State.caseJump (s : State) (sel : Selection) : State :=
  let t := s.cur
  let s1 := (s.setX 13 sel.method.addr).setX 1 (s.pc + 4)
  match sel.conv with
  | none => s1.retireTo sel.method.routine
  | some (p, c) =>
    let f := s.convFrame t
    let s2 := ((s1.setX 14 f).setX 15 sel.method.routine).setX 16 (BitVec.ofNat 64 p)
    (s2.setArch t { s2.arch t with cf := !(s2.arch t).cf }).retireTo c.routine

/-- tcall (R185, R186). -/
def execTcall (a : XReg) (n : TileCount) (s : State) : Outcome :=
  let op := (s.x a).extractLsb' 0 16
  let operands := [s.x 10, s.x 11, s.x 12].take (tileCount n)
  finishReads s (fun s => s.pastIssue (.ok ()) (s.noteCall s.cur op operands)) do
    let t := s.cur
    s.needLanes (wordOf (.tcall a n))
    let s := s.seeEngine t (operands.any isHandle)
    let tags ← s.operandTags (s.who t) (s.thr t).htbase false operands
    let tc := (s.thr t).tcbase
    if tc = 0 then .error (.trap 0x0D (caseKey op tags))
    else
      match ← s.selectCase (s.who t) tc op tags false with
      | none => .error (.trap 0x0D (caseKey op tags))
      | some sel => return (s.noteCall t op operands).caseJump sel

end Sys2Proof.Machine
end

