-- ==== Sys2Proof/Machine/Caches.lean ====
section
/-! DEFINITION. What the translation buffers, walkers, type-case caches and the routing cache take up and let go of by themselves
(spec/18_contexts_translation.md R329, R330, spec/08_tiles_and_dispatch.md R188, spec/24_package_links.md R407; assumption 14), and what other
owners do with their own memory. -/

namespace Sys2Proof.Machine

/-- The pointer entry of a level on va's path, when the walk reaches it and it is present and well formed. -/
def State.pathEntry (s : State) (w : Who) (va : Word) (want : Nat) : List Nat → Nat → Option Word
  | [], _ => none
  | level :: rest, base =>
    let home := entryHome va level base
    let cached := s.cachedEntry w va level
    let e := cached.getD (s.homeWord home)
    if (cached.isNone && (s.isBad home || s.isRetired home)) || !pteV e || s.pteMalformed level e || pteL e then none
    else if level = want then some e
    else s.pathEntry w va want rest (pteAddr e)

def allLevels : List Nat := [4, 3, 2, 1, 0]

/-- One more entry in a cache of n, which lets go of its oldest when it is full. -/
def cacheIn {α : Type} (n : Nat) (l : List α) (x : α) : List α := (if n ≤ l.length then l.drop (l.length + 1 - n) else l) ++ [x]

/-- The hart of t, a thread that runs or sleeps, caches the leaf that maps va; a buffer that is full replaces its oldest entry (R329). -/
def State.fillTlb (s : State) (t : Tid) (va : Word) : State :=
  let w := s.who t
  let h := hartOf t
  if !(s.thr t).alive || rootOf w.pgroot == 0 then s
  else
    match s.walk w va with
    | .leaf level e =>
      let x : TlbEntry := ⟨w.ctx, level, va.toNat / 2 ^ levelShift level, e⟩
      if (s.hrt h).tlb.contains x then s else s.setHrt h { s.hrt h with tlb := cacheIn 2048 (s.hrt h).tlb x }
    | _ => s

/-- The walker of t's field caches a pointer entry (R330). -/
def State.fillPtr (s : State) (t : Tid) (va : Word) (level : Nat) : State :=
  let w := s.who t
  let f := fieldOf (hartOf t)
  if !(s.thr t).alive || rootOf w.pgroot == 0 then s
  else
    match s.pathEntry w va level allLevels (rootOf w.pgroot) with
    | none => s
    | some e =>
      let x : PtrEntry := ⟨w.ctx, level, va.toNat / 2 ^ levelShift level, e⟩
      if (s.fld f).ptrs.contains x then s else s.setFld f { s.fld f with ptrs := (s.fld f).ptrs ++ [x] }

/-- The bytes that a hart's cache takes up: those that every thread of the hart may see, and none that a strip still holds (R188, R217). -/
def State.sharedBytes (s : State) (t : Tid) (va : Word) (len : Nat) : Option (List Byte) :=
  match s.locateStruct (s.who t) .load va len with
  | .error _ => none
  | .ok keys =>
    if keys.any s.unreadable then none else some (keys.map (s.byteSeen fun e => e.visibleTo t && e.released && e.point != .queue))

/-- The hart of t, a thread that runs or sleeps, caches 16 bytes of its type case (R188). -/
def State.fillCase (s : State) (t : Tid) (va : Word) : State :=
  let w := s.who t
  let h := hartOf t
  if !(s.thr t).alive || (s.cachedCase w va).isSome then s
  else
    match s.sharedBytes t va 16 with
    | none => s
    | some b =>
      let x : CaseEntry := ⟨w.ctx, va, BitVec.ofNat 128 (fieldAt b 0 16)⟩
      (s.noteStruct w va 16).setHrt h { s.hrt h with tcase := (s.hrt h).tcase ++ [x] }

/-- The hart lets go of its oldest 16 bytes of a type case (R188). -/
def State.dropCase (s : State) (h : HartId) : State := s.setHrt h { s.hrt h with tcase := (s.hrt h).tcase.drop 1 }

/-- The device caches an entry of the routing table (R407). -/
def State.fillRoute (s : State) (dev : BitVec 18) : State :=
  let table := (s.homeWord routingWord).toNat
  if table = 0 ∨ (s.routes.find? fun r => r.1 == dev.toNat).isSome ∨ (s.routeBad dev.toNat).isSome then s
  else { s with routes := s.routes ++ [(dev.toNat, s.homeByte (table + dev.toNat))] }

/-- The host, or a remote device, changes a byte of its own memory. -/
def State.outsideWrite (s : State) (k : Nat) (b : Byte) : State :=
  if isHost k || isRemote k then { s with mem := Memory.write s.mem k b } else s

end Sys2Proof.Machine
end

