-- ==== Sys2Proof/Machine/Mat.lean ====
section
/-! DEFINITION. The quad matrix unit: grants and outer products (spec/07_scaled_and_matrix.md R155 to R166). -/

namespace Sys2Proof.Machine

/-! ## Rows -/

def rowGet (r : AccRow) (c : Nat) : Nat := (r.toNat >>> (32 * c)) % 2 ^ 32
def rowSet (r : AccRow) (c v : Nat) : AccRow :=
  (r &&& ~~~(BitVec.ofNat 8192 (0xFFFF_FFFF <<< (32 * c)))) ||| BitVec.ofNat 8192 ((v % 2 ^ 32) <<< (32 * c))

def mlRows (ml : Word) : Nat := (ml.extractLsb' 0 16).toNat
def mlCols (ml : Word) : Nat := (ml.extractLsb' 16 16).toNat
def mlFormat (ml : Word) : Nat := (ml.extractLsb' 32 4).toNat

/-! ## Checks (R157) -/

def grantTrap (code : Nat) : Stop := .trap 0x10 (BitVec.ofNat 64 code)

/-- Which format condition of R157 applies. -/
inductive MatForm where
  | any | mopa | mopab
deriving DecidableEq, Repr

def formatBad (f : Nat) (form : MatForm) : Bool :=
  decide (5 < f) || (form == .mopa && f == 5) || (form == .mopab && f != 5)

/-- Orders 1, 3, 4 and 5 of R157 for an image and a row operand. -/
def grantCheck (mg : Nat) (ml : Word) (form : MatForm) (row : Option Nat) : Except Stop Unit :=
  if mg = 0 then .error (grantTrap 0)
  else if formatBad (mlFormat ml) form then .error (grantTrap 2)
  else if mlRows ml = 0 ∨ mg < mlRows ml ∨ mlCols ml = 0 ∨ 256 < mlCols ml then .error (grantTrap 1)
  else
    match row with
    | some r => if mlRows ml ≤ r then .error (grantTrap 3) else .ok ()
    | none => .ok ()

/-- The grant's rows changed at rows below MR, recorded in the history buffer (R166). -/
def State.setRows (s : State) (f : Nat → AccRow → AccRow) (rows : List Nat) : State :=
  let t := s.cur
  let s := s.reserve t (rows.map fun r => (32, r))
  let a := s.arch t
  s.setArch t { a with acc := (a.acc.zipIdx).map fun p => if rows.contains p.2 then f p.2 p.1 else p.1 }

/-! ## The instructions -/

/-- mattach: replaces the grant by rows of zeros, as many as are free (R159). -/
def execMattach (d a : XReg) (s : State) : Outcome :=
  finish s do
    let t := s.cur
    s.needLanes (wordOf (.mattach d a))
    let want := min (((s.x a).toNat + 15) / 16 * 16) 256
    let s := s.closeStrip t
    let s := s.setArch t { s.arch t with acc := [] }
    let g := min want (s.freeRows (quadOf (hartOf t)))
    let x := s.arch t
    let ml := (x.ml &&& ~~~0xFFFF_FFFF#64) ||| BitVec.ofNat 64 (g + if g = 0 then 0 else 256 * 2 ^ 16)
    let s := ((s.setArch t { x with acc := List.replicate g 0, ml := ml }).setX d (BitVec.ofNat 64 g)).retire
    return s.implicitCkpt t

/-- mmode: ML := X[a] after the checks of R157 on the image (R161). -/
def execMmode (a : XReg) (s : State) : Outcome :=
  finish s do
    let t := s.cur
    let v := s.x a
    s.needLanes (wordOf (.mmode a))
    if (s.arch t).acc.isEmpty then .error (grantTrap 0)
    else if v.extractLsb' 36 28 ≠ 0#28 then .error (grantTrap 4)
    else
      grantCheck (s.arch t).acc.length v .any none
      return (s.setArch t { s.arch t with ml := v }).retire

/-- mzero: the window to +0.0 (R161). -/
def execMzero (s : State) : Outcome :=
  finish s do
    let x := s.arch s.cur
    s.needLanes (wordOf .mzero)
    grantCheck x.acc.length x.ml .any none
    let cols := List.range (mlCols x.ml)
    return (s.setRows (fun _ r => cols.foldl (fun r c => rowSet r c 0) r) (List.range (mlRows x.ml))).retire

/-- The rank and the input format (R162). -/
def matRank (f : Nat) : Nat := if f < 3 then 1 else if f < 5 then 2 else 4
def matFmt (f : Nat) : Fmt := match f with | 0 => .fp32 | 1 => .bf16 | 2 => .fp16 | 3 => .e4m3 | _ => .e5m2

/-- Every element of the window: the old value plus the exact products, rounded once (R162, R90, R91). -/
def State.outer (s : State) (left right : Nat → FVal) (k : Nat) : State :=
  let x := s.arch s.cur
  let cols := List.range (mlCols x.ml)
  let cell (r : Nat) (old : AccRow) (c : Nat) : Nat × BitVec 5 :=
    exactSum .fp32 (unpack .fp32 (rowGet old c) :: (List.range k).map fun j => mulX (left (r * k + j)) (right (c * k + j)))
  let newRow (r : Nat) (old : AccRow) : AccRow := cols.foldl (fun acc c => rowSet acc c (cell r old c).1) old
  let fl := orFlags (((x.acc.zipIdx).take (mlRows x.ml)).flatMap fun p => cols.map fun c => (cell p.2 p.1 c).2)
  (s.setRows newRow (List.range (mlRows x.ml))).raiseOwn fl

/-- A register operand of a MAT instruction may not be v31 (R149). -/
def matRegOk (v : VReg) : Bool := v != 31

/-- mopa (R162). Elements that va or vb does not hold are read on from the registers that follow it, and as 0 beyond v31 (assumption 54). -/
def execMopa (a b : VReg) (s : State) : Outcome :=
  finish s do
    let x := s.arch s.cur
    let w := wordOf (.mopa a b)
    s.needLanes w
    issueCheck (matRegOk a && matRegOk b) w
    grantCheck x.acc.length x.ml .mopa none
    let f := matFmt (mlFormat x.ml)
    let rows := s.rows s.cur
    let s := s.countShared s.cur [a.toNat, b.toNat]
    return (s.outer (fun j => unpack f (x.elem rows a.toNat f.width j)) (fun j => unpack f (x.elem rows b.toNat f.width j))
      (matRank (mlFormat x.ml))).retire

/-- mopab: 4-bit codes; the scales of vb stand from byte 32 of v31 (R162). Elements beyond a register are read as for mopa
(assumption 54). -/
def execMopab (a b : VReg) (s : State) : Outcome :=
  finish s do
    let x := s.arch s.cur
    let w := wordOf (.mopab a b)
    s.needLanes w
    issueCheck (matRegOk a && matRegOk b) w
    grantCheck x.acc.length x.ml .mopab none
    let rows := s.rows s.cur
    let s := s.countShared s.cur [a.toNat, b.toNat, 31]
    return (s.outer (fun j => x.codeAt rows a.toNat j (j / 32)) (fun j => x.codeAt rows b.toNat j (32 + j / 32)) 4).retire

/-- mrd: a row's columns to vd, then the tail policy from MC (R163). Columns that vd's group does not hold go on into the registers that follow it,
up to v31 (assumption 54). The registers of vd's group stand idle after it, as after any completed write (R262; assumption 60). -/
def execMrd (d : VReg) (a : XReg) (s : State) : Outcome :=
  finish s do
    let t := s.cur
    let x := s.arch t
    let w := wordOf (.mrd d a)
    let mult := multOf x.vtype
    s.needLanes w
    issueCheck (codeGroupOk d.toNat mult) w
    grantCheck x.acc.length x.ml .any (some (s.x a).toNat)
    if s.pennantBusy t (regsFrom d.toNat mult) then .error .wait
    else
      let rows := s.rows t
      let row := x.acc[(s.x a).toNat]?.getD 0
      let s := s.reserve t (touchedGroups rows d.toNat 32 (mlCols x.ml) mult (tailZero x.vtype))
      let y := (s.arch t).putElems rows d.toNat 32 ((List.range (mlCols x.ml)).map fun c => (c, rowGet row c))
      let y := (y.tailFrom rows d.toNat 32 (mlCols x.ml)).putProg (regsFrom d.toNat mult) none
      return (s.setArch t y).retire

/-- mwr: element patterns of vb to a row's columns (R161). Elements beyond vb are read as for mopa (assumption 54). -/
def execMwr (a : XReg) (b : VReg) (s : State) : Outcome :=
  finish s do
    let x := s.arch s.cur
    let w := wordOf (.mwr a b)
    s.needLanes w
    issueCheck (matRegOk b) w
    grantCheck x.acc.length x.ml .any (some (s.x a).toNat)
    let rows := s.rows s.cur
    let cols := List.range (mlCols x.ml)
    return (s.setRows (fun _ r => cols.foldl (fun r c => rowSet r c (x.elem rows b.toNat 32 c)) r) [(s.x a).toNat]).retire

end Sys2Proof.Machine
end

