-- ==== Sys2Proof/Machine/Launch.lean ====
section
/-! DEFINITION. The launch unit and the scheduler: queues and records (spec/14_scheduling.md R293 to R299), placement (R300, R301), priority and
aging (R302), victims (R303), yield requests and forced pre-emption (R308, R309), saving and restoring harts (spec/21_traps_restart.md R376, R377;
assumption 17). -/

namespace Sys2Proof.Machine

def allContexts : List CtxId := (List.range 64).map fun n => ⟨n % 64, Nat.mod_lt _ (by decide)⟩
def allPriorities : List (Fin 8) := (List.range 8).map fun n => ⟨n % 8, Nat.mod_lt _ (by decide)⟩

/-! ## Queues (R293) -/

structure Header where
  addr  : Word
  base  : Word
  slots : Nat
  head  : Word
deriving DecidableEq, Repr

/-- A queue's header as it stands; none while it keeps the queue from being served. -/
def State.queueHeader (s : State) (c : CtxId) (q : Fin 8) : Option Header :=
  let va := s.homeWord (descriptorOf c + 32 + 8 * q.val)
  if s.descLost c ∨ va = 0 ∨ va.toNat % 64 ≠ 0 then none
  else
    match s.readHome (s.launchWho c false) va 64 with
    | .error _ => none
    | .ok b =>
      let base := word64At b 0
      let n := fieldAt b 8 8
      let inHbm :=
        match s.translate (s.launchWho c false) .load false base with
        | .ok loc => isHbm loc.key
        | .error _ => false
      if fieldAt b 32 32 ≠ 0 ∨ base.toNat % 4096 ≠ 0 ∨ !inHbm ∨ n = 0 ∨ 65536 < n ∨ 2 ^ Nat.log2 n ≠ n then none
      else some ⟨va, base, n, word64At b 24⟩

/-- QUEUE_HEADER_READ (R293). -/
def execQueueHeaderRead (c : CtxId) (q : Fin 8) (s : State) : Outcome :=
  event s
    (if s.serves c then
      let va := s.homeWord (descriptorOf c + 32 + 8 * q.val)
      let w := s.launchWho c false
      let s' := s.setQueue c q { s.queue c q with served := (s.queueHeader c q).isSome }
      some (if va = 0 ∨ va.toNat % 64 ≠ 0 then s' else (s'.noteStruct w va 64).noteFault w (s.readHome w va 64))
    else none)

/-- The launch unit writes 8 bytes at their home; none when the write fails; discarded and reported where the port is down (R381). -/
def State.launchWrite (s : State) (c : CtxId) (va v : Word) : Option State :=
  match s.locateStruct (s.launchWho c false) .store va 8 with
  | .error _ => none
  | .ok keys =>
    let bs := keys.zipWith (fun k b => (⟨k, b, 0xFF⟩ : SByte)) (wordBytes64 v)
    some (s.performEntry ⟨0, c, .pkg, false, true, bs, rawTags bs, 0, 0, ⟨none, none⟩⟩)

/-- The word at +8 of a record with a new status and refusal code (R294). -/
def statusWord (w : Word) (status code : Nat) : Word := (w &&& 0x0000_FFFF_FFFF_FFFF) ||| BitVec.ofNat 64 (status * 2 ^ 48 + code * 2 ^ 56)

def recordStatus (w : Word) : Nat := (w.extractLsb' 48 8).toNat

/-- Give a record its status, keeping the other fields of the word as memory holds them; not while the descriptor cannot be read. -/
def State.setStatus (s : State) (c : CtxId) (rcd : Word) (status code : Nat) : Option State :=
  if s.descLost c then none else
  match s.readHome (s.launchWho c false) (rcd + 8) 8 with
  | .error _ => none
  | .ok b => s.launchWrite c (rcd + 8) (statusWord (word64At b 0) status code)

/-- Head advances past the record, which leaves the queue idle. -/
def State.advanceHead (s : State) (c : CtxId) (q : Fin 8) : Option State :=
  match s.queueHeader c q with
  | none => none
  | some h => (s.launchWrite c (h.addr + 24) (h.head + 1)).map fun s => s.setQueue c q { s.queue c q with stage := .idle }

/-- Status 4 with its code; no counter is touched (R296). -/
def State.refuse (s : State) (c : CtxId) (q : Fin 8) (rcd : Word) (code : Nat) : Option State :=
  match s.setStatus c rcd 4 code with
  | none => none
  | some s => s.advanceHead c q

/-! ## Stage 1 (R296) -/

def State.enabledCount (s : State) : Nat := (allHarts.filter s.enabledHart).length

def imageOfBytes (b : List Byte) : RecordImage := ⟨⟨(List.range 8).map fun k => word64At b (8 * k)⟩, by simp⟩

/-- The refusal code that a record earns by itself, or none. -/
def State.firstStage (s : State) (q : Fin 8) (r : RecordImage) : Option Nat :=
  let w := r[1]
  if w.getLsbD 19 || w.extractLsb' 26 6 != 0#6 then some 1
  else if (recOperands r = 0 ∧ r[0].toNat % 4 ≠ 0) ∨ (recMap r).toNat % 16 ≠ 0 ∨ (recDepAddr r).toNat % 8 ≠ 0 ∨ (recCounter r).toNat % 8 ≠ 0 then
    some 1
  else if recPriority r ≠ q.val ∨ r[2].extractLsb' 32 32 ≠ 0#32 ∨ (recReclaim r ∧ recHelpers r ≠ 0) then some 1
  else if recCount r = 0 ∨ s.enabledCount < recCount r then some 2
  else none

/-- Every hart of the record in hand has been placed, the last perhaps by reclaim: the head goes on (R298). -/
def State.placedAll (s : State) (c : CtxId) (q : Fin 8) : Bool :=
  match (s.queue c q).stage with
  | .ready id => match s.launchOf (some id) with | some l => decide (recCount l.image ≤ l.placed) | none => true
  | _ => false

/-- LAUNCH_RECORD_TAKE: the head advances past a record whose harts are placed; else the record at the head is taken (R296, R298). -/
def execLaunchRecordTake (c : CtxId) (q : Fin 8) (s : State) : Outcome :=
  event s
    (if s.placedAll c q then s.advanceHead c q
    else if s.serves c && (s.queue c q).served && (s.queue c q).stage == .idle then
      match s.queueHeader c q with
      | none => none
      | some h =>
        let rcd := h.base + BitVec.ofNat 64 (h.head.toNat % h.slots * 64)
        let w := s.launchWho c false
        match s.readHome w rcd 64 with
        | .error e => some ((s.noteStruct w rcd 64).noteFault (α := Unit) w (.error e))
        | .ok b =>
          let r := imageOfBytes b
          let s := s.noteStruct w rcd 64
          if recordStatus r[1] ≠ 1 then none
          else
            match s.firstStage q r with
            | some code => s.refuse c q rcd code
            | none => some (s.setQueue c q { s.queue c q with stage := .taken rcd r })
    else none)

/-! ## Stages 2 and 3 (R296, R297, R300) -/

/-- What a dependence says: met, not yet, or unreadable. -/
inductive Dep where
  | met | waits | unreadable
deriving DecidableEq, Repr

def State.dependence (s : State) (c : CtxId) (r : RecordImage) : Dep :=
  if recDepAddr r = 0 then .met
  else
    match s.readHome (s.launchWho c true) (recDepAddr r) 8 with
    | .error _ => .unreadable
    | .ok b => if recDepValue r ≤ word64At b 0 then .met else .waits

/-- The field on whose stacks an address lies; none elsewhere (R300). -/
def State.fieldOfAddress (s : State) (c : CtxId) (va : Word) : Option Nat :=
  match s.mapped (s.launchWho c true) .load true va with
  | .ok loc => if isHbm loc.key then some (stackOf loc.key / 2) else none
  | .error _ => none

/-- A placement map: unreadable is code 4; then its scores, or none when it is malformed (R296, R300). A map whose count is above 256 has no entries
to read. -/
def State.readMap (s : State) (c : CtxId) (va : Word) : Except Stop (Option (Vector Nat 8)) :=
  if va = 0 then .ok (some (Vector.replicate 8 0))
  else do
    let head ← s.readHome (s.launchWho c true) va 16
    let n := fieldAt head 0 4
    if 256 < n then return none
    else
      let b ← s.readHome (s.launchWho c true) (va + 16) (16 * n)
      let rows := (List.range n).map fun k => (word64At b (16 * k), fieldAt b (16 * k + 8) 4, fieldAt b (16 * k + 12) 4)
      if fieldAt head 4 12 ≠ 0 ∨ rows.any fun r => r.2.2 != 0 then return none
      else
        return some (rows.foldl (fun (v : Vector Nat 8) r =>
          match s.fieldOfAddress c r.1 with
          | some f => if h : f < 8 then v.set f (v[f] + r.2.1) else v
          | none => v) (Vector.replicate 8 0))

/-- Entry address and x13: the record's own entry and 0, or the method's routine and its entry; none when no entry matches exactly (R297). -/
def State.launchEntry (s : State) (c : CtxId) (r : RecordImage) : Except Stop (Option (Word × Word)) :=
  if recOperands r = 0 then .ok (some (r[0], 0))
  else do
    let w := s.launchWho c true
    let b ← s.readHome w (recArgs r) (8 * recOperands r)
    let tags ← s.operandTags w (s.homeWord (descriptorOf c + 16) &&& tableBits) true
      ((List.range (recOperands r)).map fun k => word64At b (8 * k))
    let tc := s.homeWord (descriptorOf c + 24)
    if tc = 0 then return none
    else
      let sel ← s.selectCase w tc (BitVec.ofNat 16 (recOperator r)) tags true
      return sel.map fun x => (x.method.routine, x.method.addr)

/-- What stage 3 reads, with the errors that it finds (R171, R296, R297, R300, R378, R385). -/
def State.noteLaunch (s : State) (c : CtxId) (r : RecordImage) : State :=
  let w := s.launchWho c true
  let ht := s.homeWord (descriptorOf c + 16) &&& tableBits
  let map :=
    if recMap r = 0 then []
    else (recMap r, 16) :: match s.readHome w (recMap r) 16 with | .ok b => [(recMap r + 16, 16 * min 256 (fieldAt b 0 4))] | .error _ => []
  let n := (s.noteReads w map).noteFault w (s.readMap c (recMap r))
  if recOperands r = 0 then n
  else
    let n := (n.noteReads w [(recArgs r, 8 * recOperands r)]).noteFault w (s.launchEntry c r)
    match s.readHome w (recArgs r) (8 * recOperands r) with
    | .error _ => n
    | .ok b =>
      let xs := (List.range (recOperands r)).map fun k => word64At b (8 * k)
      let n := n.noteOperands w ht true xs
      let tc := s.homeWord (descriptorOf c + 24)
      match s.operandTags w ht true xs with
      | .error _ => n
      | .ok tags => if tc = 0 then n else n.noteReads w (s.caseReads w tc (BitVec.ofNat 16 (recOperator r)) tags)

/-- DEPENDENCE_MET: the dependence, then the map and the type case; status 2, or a refusal (R296). -/
def execDependenceMet (c : CtxId) (q : Fin 8) (s : State) : Outcome :=
  event s
    (match s.serves c, (s.queue c q).stage with
    | true, .taken rcd r =>
      let w := s.launchWho c true
      let n := if recDepAddr r = 0 then s else (s.noteStruct w (recDepAddr r) 8).noteFault w (s.readHome w (recDepAddr r) 8)
      match s.dependence c r with
      | .waits => none
      | .unreadable => n.refuse c q rcd 4
      | .met =>
        let n := n.noteLaunch c r
        match s.readMap c (recMap r), s.launchEntry c r with
        | .ok (some scores), .ok (some e) =>
          (n.setStatus c rcd 2 0).map fun s =>
            let l : Launch := ⟨s.nextLaunch, c, q, rcd, r, e.1, e.2, scores, 0, 0, s.launchClock, 0⟩
            let s : State := { s.setQueue c q { s.queue c q with stage := .ready l.id } with launches := s.launches ++ [l], nextLaunch := s.nextLaunch + 1 }
            if s.boot.step = 8 ∧ s.boot.started then State.putStatus { s with boot := { s.boot with step := 9 } } else s
        | .ok none, .ok _ => n.refuse c q rcd 1
        | .ok (some _), .ok none => n.refuse c q rcd 3
        | _, _ => n.refuse c q rcd 4
    | _, _ => none)

/-! ## Free harts and eligible fields (R301) -/

/-- 6 W in units of 0.125 W. -/
def hartPower : Nat := 48

/-- The field's current test for one more hart, after `placed` of this pass (R301). -/
def State.headroom (s : State) (f : FieldId) (placed : Nat) : Bool :=
  decide ((s.fld f).iscur.toNat + hartPower * (placed + 1) ≤ (s.fld f).islim.toNat)

/-- The one among the harts that `free` admits that a record's next hart goes to, with the harts of this pass on the fields `placed` (R301). -/
def State.chooseHart (s : State) (scores : Vector Nat 8) (placed : List FieldId) (free : HartId → Bool) : Option HartId :=
  let free := allHarts.filter free
  let fields := allFields.filter fun f =>
    s.headroom f (placed.filter (· == f)).length && free.any fun h => fieldOf h == f
  match firstBest (fun a b => decide (scores[b.val] < scores[a.val])) fields with
  | none => none
  | some f =>
    let inField := free.filter fun h => fieldOf h == f
    match firstBest (fun a b => decide (s.freeRows (quadOf b) < s.freeRows (quadOf a))) inField with
    | none => none
    | some best => inField.find? fun h => s.freeRows (quadOf h) == s.freeRows (quadOf best)

/-- The thread stands in the handler of a trap that it took in user mode, from which the runtime can save its context (R376). -/
def Thread.inHandler (th : Thread) : Bool :=
  th.status == .running && th.arch.mode == .supervisor && !th.tstatus.getLsbD 0 && th.launch.isSome && th.debugStop.isNone

/-- These threads of a hart, which make up one kernel, stand so with these causes, with no transfer in flight, as a save leaves them (R246, R376). -/
def State.standsSaved (s : State) (h : HartId) (ts : List Tid) (cause : BitVec 8 → Bool) : Bool :=
  let active := (ts.map s.thr).filter fun th => th.status != .off && th.status != .fused
  !active.isEmpty && !((s.hrt h).transfers.any fun x => ts.contains x.tid) && active.all fun th => th.inHandler && cause th.tcause

/-- The threads of a hart's kernel: of a reclaimed hart, those of one side. -/
def State.kernelThreads (s : State) (h : HartId) (upper : Bool) : List Tid :=
  if s.isReclaimed h then [tidOf h (if upper then 1 else 0)] else if upper then [] else hartThreads h

/-- A kernel of the hart, of one side where lanes have been reclaimed, has been pre-empted and is ready to be saved. -/
def State.preempted (s : State) (h : HartId) (upper : Bool) : Bool := s.standsSaved h (s.kernelThreads h upper) (· == 0x17)

/-- A kernel of the hart can be saved, whatever it trapped with (R376). -/
def State.savable (s : State) (h : HartId) (upper : Bool) : Bool := s.standsSaved h (s.kernelThreads h upper) fun _ => true

/-- The local memory that a kernel on a hart sees, by offset: on a reclaimed hart its own halves, at the lower offsets (R306). -/
def State.windowBytes (s : State) (h : HartId) (upper : Bool) : List (Nat × Byte) :=
  let all := (s.mem.filter fun p => decide (localKey h 0 ≤ p.1) && decide (p.1 < localKey h (2 ^ 24))).map fun p => (p.1 - localKey h 0, p.2)
  if s.isReclaimed h then
    all.filterMap fun p =>
      if upper then
        (if 0x8000 ≤ p.1 ∧ p.1 < 0x1_0000 then some (p.1 - 0x8000, p.2)
        else if 0x20_0000 ≤ p.1 ∧ p.1 < 0x30_0000 then some (p.1 - 0x10_0000, p.2) else none)
      else if p.1 < 0x8000 ∨ (0x10_0000 ≤ p.1 ∧ p.1 < 0x20_0000) then some p else none
  else all

/-- The nest frame on a thread's supervisor stack (R366). -/
def State.nestFrameOf (s : State) (t : Tid) : Option (List Byte) :=
  match s.locateStruct { s.who t with mode := .supervisor } .load ((s.arch t).getX 2) 64 with
  | .ok keys => some (keys.map fun k => s.byteFor t k)
  | .error _ => none

/-- Save a pre-empted kernel, once every store to the hart's window has been performed; its hart, or its half, is free (R302, R376). The half of an
incoming kernel goes back to the other side as at its end (R307). The thread keeps its supervisor stack, and its nest frame is saved with it
(R365, R366; assumption 17). -/
def State.saveHart (s : State) (h : HartId) (upper : Bool) : State :=
  let ths := s.kernelThreads h upper
  let s := ths.foldl (fun (s : State) t => (s.settle t).release t) s
  let inWindow (e : StoreEntry) : Bool := e.keys.any fun k => decide (localKey h 0 ≤ k) && decide (k < localKey h (2 ^ 24))
  let s := (s.drainHart h inWindow).drainHome (tidOf h 0) inWindow []
  let first := s.thr (tidOf h (if upper then 1 else 0))
  let kept : Vector Thread 8 :=
    if s.isReclaimed h then (Vector.replicate 8 Thread.zero).set 0 first else ⟨⟨(hartThreads h).map s.thr⟩, by simp [hartThreads]⟩
  let frames := ths.filterMap fun t =>
    if (s.thr t).status == .running then (s.nestFrameOf t).map fun b => (if s.isReclaimed h then tidOf h 0 else t, b) else none
  let x : SavedHart :=
    ⟨s.fresh, first.launch.getD 0, first.ctx, s.hrt h, kept, s.windowBytes h upper, frames, s.launchClock, 0⟩
  let s := ths.foldl (fun (s : State) t =>
    let th := s.thr t
    s.setThr t { Thread.zero with
      tvec := th.tvec, tscratch := if th.status == .running then th.arch.getX 2 + 64 else th.tscratch, instret := th.instret, tcause := th.tcause
      tepc := th.tepc, tval := th.tval, tstatus := th.tstatus, ctx := th.ctx, rfloss := th.rfloss, watchLine := th.watchLine
      change := th.change }) s
  let s := if s.isReclaimed h then s.laneAfterEnd (tidOf h (if upper then 1 else 0)) else s.setHrt h { s.hrt h with groups := 1, reclaim := .none }
  { s with saved := s.saved ++ [x], fresh := s.fresh + 1 }

/-! ## Placing (R301, R302) -/

/-- The hart that a candidate can use among those that `ok` admits. -/
def State.hartFor (s : State) (c : Candidate) (ok : HartId → Bool) : Option HartId :=
  match c with
  | .record l => s.chooseHart l.scores [] fun h => ok h && s.freeHart h
  | .saved _ x =>
    let scores := match s.launchOf (some x.launch) with | some l => l.scores | none => Vector.replicate 8 0
    s.chooseHart scores [] fun h => ok h && s.restorable x h

/-- The candidate served first among those that can use a hart that `ok` admits, with its hart. -/
def State.firstCandidate (s : State) (ok : HartId → Bool) : Option (Candidate × HartId) :=
  let able := s.candidates.filterMap fun c => (s.hartFor c ok).map fun h => (c, h)
  firstBest (fun a b => decide (s.rankOf a.1 < s.rankOf b.1)) able

/-- One hart of a launch starts on h; the head advances with the last, or, while the header cannot be read or written, at a later look at the
queue (R293, R298). -/
def State.placeOn (s : State) (l : Launch) (h : HartId) : State :=
  let s := (s.startHart h l l.placed).notePlaced l.id
  if l.placed + 1 = recCount l.image then (s.advanceHead l.ctx l.queue).getD s else s

/-- One pass: harts of a launch placed together while a field is eligible. -/
def State.placePass (id : Nat) : Nat → List FieldId → State → State
  | 0, _, s => s
  | n + 1, placed, s =>
    match s.launchOf (some id) with
    | none => s
    | some l =>
      if recCount l.image ≤ l.placed then s
      else
        match s.chooseHart l.scores placed s.freeHart with
        | none => s
        | some h => State.placePass id n (fieldOf h :: placed) (s.placeOn l h)

/-- HART_PLACEMENT: a pass for the record, when no candidate that could use a free hart comes before it (R301, R302). -/
def execHartPlacement (c : CtxId) (q : Fin 8) (s : State) : Outcome :=
  event s
    (match s.firstCandidate fun _ => true with
    | some (.record l, _h) =>
      if l.ctx == c && l.queue == q then
        let s := s.noteServed (.record l)
        some (State.placePass l.id 512 [] s)
      else none
    | _ => none)

/-- HART_FREED: a pre-empted hart is saved; a free one goes to the first candidate that can use it (R302); a kernel in the handler of another trap may
be saved too (R376). -/
def execHartFreed (h : HartId) (s : State) : Outcome :=
  event s
    (if s.preempted h false then some (s.saveHart h false)
    else if s.preempted h true then some (s.saveHart h true)
    else
      match s.firstCandidate fun x => x == h with
      | some (.record l, h') => some ((s.noteServed (.record l)).placeOn l h')
      | some (.saved i x, h') => some ((s.noteServed (.saved i x)).restoreHart h' i x)
      | none => if s.savable h false then some (s.saveHart h false) else if s.savable h true then some (s.saveHart h true) else none)

/-- One more step of aging when its 65,536 cycles are full, up to effective priority 7 (R302). -/
def agesTo (now since : Word) (aged base : Nat) : Option Nat :=
  if base + aged < 7 ∧ 65536 * (aged + 1) ≤ now.toNat - since.toNat then some (aged + 1) else none

/-- PRIORITY_AGING: of the head record of a queue, and of the saved harts of its launches (R302). -/
def execPriorityAging (c : CtxId) (q : Fin 8) (s : State) : Outcome :=
  let now := s.launchClock
  .next { s with
    launches := s.launches.map fun l =>
      if l.ctx == c && l.queue == q && s.atHead l then { l with aged := (agesTo now l.since l.aged q.val).getD l.aged } else l
    saved := s.saved.map fun x =>
      match s.launchOf (some x.launch) with
      | some l => if l.ctx == c && l.queue == q then { x with aged := (agesTo now x.since x.aged q.val).getD x.aged } else x
      | none => x }

/-- LAUNCH_DONE: status 3 after the last hart has been counted; the head has advanced before, with the last hart placed (R298). -/
def execLaunchDone (n : Nat) (s : State) : Outcome :=
  event s
    (match s.launchOf (some n) with
    | none => none
    | some l =>
      if l.counted = recCount l.image ∧ (s.queue l.ctx l.queue).stage ≠ .ready n then
        (s.setStatus l.ctx l.rcd 3 0).map fun s => { s with launches := s.launches.filter fun x => x.id != n }
      else none)

/-! ## Pre-emption (R303, R306 to R309) -/

/-- A request: YSTAT[0] and the deadline (R308). -/
def State.askYield (s : State) (t : Tid) : State :=
  let th := s.thr t
  s.setThr t { th with ystat := th.ystat ||| 1, ydead := s.cycleOf t + 100000, deadFrom := s.cycleOf t }

def State.requested (s : State) (h : HartId) : Bool := (hartThreads h).any fun t => (s.thr t).status != .off && (s.thr t).ystat.getLsbD 0

/-- A kernel that runs on a hart: its thread 0, or thread 1 on reclaimed lanes; its launch; and when it started on the hart. -/
structure Running where
  hart  : HartId
  upper : Bool
  launch : Launch
  since : Word

def State.runningOn (s : State) (h : HartId) (upper : Bool) : Option Running :=
  let th := s.thr (tidOf h (if upper then 1 else 0))
  if s.enabledHart h && th.status != .off && th.status != .doubleFault && (!upper || s.isReclaimed h) && !s.preempted h upper then
    (s.launchOf th.launch).map fun l => ⟨h, upper, l, if upper then (s.hrt h).upperAt else (s.hrt h).startedAt⟩
  else none

/-- How many harts the current test leaves room for, on the fields that have harts (R301, R397). -/
def State.capacity (s : State) : Nat :=
  ((allFields.filter fun f => (s.fld f).up && !(s.fld f).fenced).map fun f =>
    ((s.fld f).islim.toNat - (s.fld f).iscur.toNat) / hartPower).foldl (· + ·) 0

/-- Harts that candidates which outrank priority p by 2 still need, as R301 would place them (R303). -/
def State.needOver (s : State) (p : Nat) : Nat :=
  min s.capacity ((s.candidates.map fun c =>
    if p + 2 ≤ s.effective c then (match c with | .record l => recCount l.image - l.placed | .saved _ _ => 1) else 0).foldl (· + ·) 0)

/-- The next victim of a candidate: of the kernels of the lowest priority on harts not yet asked, the one that started earliest (R303). -/
def State.nextVictim (s : State) (c : Candidate) : Option Running :=
  if allHarts.any s.freeHart then none
  else
    let running := allHarts.flatMap fun h => if s.requested h then [] else [s.runningOn h false, s.runningOn h true].filterMap id
    let better (a b : Running) : Bool :=
      decide (a.launch.queue.val < b.launch.queue.val) || (a.launch.queue.val == b.launch.queue.val && decide (a.since < b.since))
    match firstBest better running with
    | none => none
    | some v =>
      if v.launch.queue.val + 2 ≤ s.effective c ∧ (allHarts.filter s.requested).length < s.needOver v.launch.queue.val then some v else none

/-- Ask a victim: lane reclaim for a whole, unsplit hart whose record promised it, where the candidate can run on what would pass to it: a record
that starts no helper threads (R299), or a saved hart that suits the half; else a yield of its every thread (R303, R306, R308). Lanes pass only to
the candidate for which they were asked (assumption 68). -/
def State.askVictim (s : State) (c : Candidate) (v : Running) : State :=
  let h := v.hart
  let yields := ((s.kernelThreads h v.upper).filter fun t => (s.thr t).status != .off && (s.thr t).status != .fused).foldl State.askYield s
  let reclaim (id : Nat) (again : Bool) : State := (s.setHrt h { s.hrt h with reclaim := .asked id again }).askYield (tidOf h 0)
  if recReclaim v.launch.image && (s.hrt h).groups == 1 && (s.hrt h).reclaim == .none then
    match c with
    | .record l => if recHelpers l.image = 0 then reclaim l.id false else yields
    | .saved _ x => if s.halfSuits x h true then reclaim x.launch true else yields
  else yields

/-- The head record of a queue as a candidate. -/
def State.headOf (s : State) (c : CtxId) (q : Fin 8) : Option Candidate :=
  ((s.launches.filter s.atHead).find? fun l => l.ctx == c && l.queue == q).map Candidate.record

/-- VICTIM_PREEMPTION (R303). -/
def execVictimPreemption (c : CtxId) (q : Fin 8) (s : State) : Outcome :=
  event s
    (match s.headOf c q with
    | none => none
    | some x => (s.nextVictim x).map fun v => s.askVictim x v)

/-- YIELD_REQUEST: the kernel of this thread is the victim of some candidate, and is asked as a whole (R303, R306, R308), for the first such candidate
in the order of their launches, records before saved harts (assumption 68). -/
def execYieldRequest (t : Tid) (s : State) : Outcome :=
  event s
    (match s.candidates.find? fun x => (s.nextVictim x).any fun v => (s.kernelThreads v.hart v.upper).contains t with
    | none => none
    | some x => (s.nextVictim x).map fun v => s.askVictim x v)

/-- The deadline of a request has come; a debugger that holds the thread holds the deadline (R309, R315). -/
def State.deadlineMet (s : State) (t : Tid) : Bool :=
  let th := s.thr t
  th.debugStop.isNone && th.ystat.getLsbD 0 && th.ydead != 0 && decide (th.ydead ≤ s.cycleOf t)

/-- A deadline that expires in supervisor mode: the pre-emption waits for the next eret to user mode, and a reclaim of lanes that was asked for is
over (R307, R309). -/
def State.deferPreempt (s : State) (t : Tid) : State := (s.setThr t { s.thr t with preemptDue := true }).endAsk t

/-- FORCED_PREEMPTION: at once in user mode; deferred to the next eret in supervisor mode (R309, R367). -/
def execForcedPreemption (t : Tid) (s : State) : Outcome :=
  let th := s.thr t
  event s
    (if th.alive && th.arch.mode == .user && (s.deadlineMet t || th.preemptDue) && !s.trapWaits t then some (s.forcedPreempt t)
    else if th.alive && th.arch.mode == .supervisor && s.deadlineMet t && !th.preemptDue then some (s.deferPreempt t)
    else none)

end Sys2Proof.Machine
end

