-- ==== Sys2Proof/Machine/Errors.lean ====
section
/-! DEFINITION. Errors and health: strip restart (spec/21_traps_restart.md R374, R375), lane rows (spec/22_errors_spares.md R386), hops and links
(R380, R381, R390), command and address parity (R384), temperatures (R391, R403), the error ring (R392, R405), and the field's measured power
(spec/24_package_links.md R401, R402). -/

namespace Sys2Proof.Machine

/-! ## Losing a field, or the package -/

/-- A thread of a field that is lost stops, its strip with it. -/
def State.loseThread (s : State) (t : Tid) : State :=
  (s.dropHeld t).setThr t { s.thr t with
    status := .off, lanes := none, heldFrom := none, closingFrom := none, ckpt := none, due := none, pending := [], history := []
    closingHistory := [], ahead := [], lost := none }

def State.loseHart (s : State) (h : HartId) : State :=
  let s := (hartThreads h).foldl State.loseThread s
  s.setHrt h { s.hrt h with transfers := [], groups := 1, reclaim := .none }

/-- The harts of the fields from Fk on stop: a fenced field's harts are not enabled (R397). -/
def State.stopHarts (s : State) (k : Nat) : State := (allHarts.filter fun h => decide (k ≤ (fieldOf h).val)).foldl State.loseHart s

/-- Fk and every field beyond it along the chain are fenced (R397). -/
def State.fenceFrom (s : State) (k : Nat) : State :=
  let s := s.stopHarts k
  { s with fields := s.fields.mapIdx fun i f => if k ≤ i then { f with fenced := true } else f }

/-- What survives when the device loses its state: permanent repairs, other agents' memory, and the model's own fields (R388, R391). -/
def State.lost (s : State) : State :=
  { State.reset with
    hardRows := s.hardRows
    mem := s.mem.filter fun p => decide (2 ^ 60 ≤ p.1)
    tags := s.tags.filter fun p => decide (2 ^ 60 ≤ p.1)
    linkOut := s.linkOut
    debugLog := s.debugLog
    schedule := s.schedule
    fresh := s.fresh
    nextLaunch := s.nextLaunch }

/-- The package stops: clocks, the Evsen link and all device state (R391). -/
def State.catastrophe (s : State) : State :=
  let s := s.lost
  { s with
    boot := { s.boot with stopped := true }
    ports := s.ports.set 18 { s.ports[18] with down := true } }

/-! ## Strip restart (R374, R375) -/

/-- A lane row that has neither failed nor retired. -/
def State.rowLeft (s : State) (h : HartId) (row : Fin 64) : Bool := !(s.hrt h).failed.contains row && !(s.hrt h).goneRows.contains row

/-- A lane row is declared failed; a neighbour stands in until it is served (R386). -/
def State.rowFails (s : State) (h : HartId) (row : Fin 64) : State :=
  (s.setHrt h { s.hrt h with failed := (s.hrt h).failed ++ [row] }).report 4 (fieldOf h) (rowLoc h row) 0 0xFFFF

def Lanes.holds (l : Lanes) (row : Fin 64) : Bool := decide (l.first ≤ (clusterOf row).val) && decide ((clusterOf row).val < l.first + l.count)

/-- A strip that a lane error can strike: a lane group with a checkpoint, running or asleep; and the error's row is one of its own. -/
def State.restartable (s : State) (t : Tid) (row : Option (Fin 64)) : Bool :=
  let th := s.thr t
  th.alive && th.ckpt.isSome &&
    match th.lanes, row with
    | none, _ => false
    | some _, none => true
    | some l, some r => l.holds r && s.rowLeft (hartOf t) r

def State.rowMayFail (s : State) (t : Tid) (row : Option (Fin 64)) : State :=
  match row with
  | some r => s.rowFails (hartOf t) r
  | none => s

/-- The strip returns to its checkpoint and runs again (R259, R374); its report names the row, or its group's first one. -/
def State.restartStrip (s : State) (t : Tid) (row : Option (Fin 64)) : State :=
  let s := (s.rowMayFail t row).rollback t true
  let th := s.thr t
  let first : Fin 64 := match th.lanes with | some l => ⟨l.first * 4 % 64, Nat.mod_lt _ (by decide)⟩ | none => 0
  (s.setThr t { th with status := .running, restarts := th.restarts + 1 }).report 13 (fieldOf (hartOf t)) (rowLoc (hartOf t) (row.getD first)) 0
    (BitVec.ofNat 16 th.ctx.val)

/-- STRIP_RESTART: the first two lane or register errors of a strip (R374, R386). -/
def execStripRestart (t : Tid) (failed : Option (Fin 64)) (s : State) : Outcome :=
  event s (if s.restartable t failed && decide ((s.thr t).restarts < 2) then some (s.restartStrip t failed) else none)

/-- The trap at the checkpoint for the third error (R375). -/
def State.thirdError (s : State) (t : Tid) (row : Option (Fin 64)) : State :=
  let kind := (s.thr t).ckpt.map Ckpt.kind
  let s := (s.rowMayFail t row).rollback t false
  let pc := (s.arch t).pc
  s.trapEntry t 0x16 0x8000_0000_0000_0001 ⟨pc, true, if kind = some .explicit then 0 else s.stripState t pc, 0, s.boundaryProgress t⟩

/-- The trap for a strip that cannot be restarted: held stores dropped, registers undefined, strip state 3 (R375). -/
def State.lostStrip (s : State) (t : Tid) : State :=
  let pc := match (s.thr t).ckpt with | some c => c.pre.pc | none => (s.arch t).pc
  let s := s.dropHeld t
  let s := s.setThr t { s.thr t with due := none }
  (s.scramble t false).trapEntry t 0x16 0x8000_0000_0000_0002 ⟨pc, true, 3, 0, noProgress⟩

/-- UNCORRECTABLE_ERROR_ASYNC (R375). -/
def execUncorrectableErrorAsync (t : Tid) (kind : AsyncError) (s : State) : Outcome :=
  event s
    (if s.trapWaits t then none
    else
      match kind with
      | .third row => if s.restartable t row && decide (2 ≤ (s.thr t).restarts) then some (s.thirdError t row) else none
      | .lost => if s.restartable t none then some (s.lostStrip t) else none)

/-- A lane or register error, as often as the strip has met one (R374, R375). -/
def State.laneError (s : State) (t : Tid) (row : Option (Fin 64)) : State :=
  if !s.restartable t row then s.rowMayFail t row
  else if (s.thr t).restarts < 2 then s.restartStrip t row
  else s.thirdError t row

/-- The third error of a strip, whose trap waits for a copy in flight: the error is met once it need not wait (R248; assumption 62). -/
def State.laneTrapWaits (s : State) (t : Tid) (row : Option (Fin 64)) : Bool :=
  s.restartable t row && decide (2 ≤ (s.thr t).restarts) && s.trapWaits t

/-! ## Lane rows (R386) -/

/-- The thread that has not stopped and holds a row. -/
def State.rowHolder (s : State) (h : HartId) (row : Fin 64) : Option Tid :=
  (hartThreads h).find? fun t => (s.thr t).status != .off && (s.thr t).lanes.any fun l => l.holds row

/-- ROW_SELF_TEST of an idle row. -/
def execRowSelfTest (h : HartId) (row : Fin 64) (pass : Bool) (s : State) : Outcome :=
  event s
    (if s.enabledHart h && (s.rowHolder h row).isNone && s.rowLeft h row then (if pass then some s else some (s.rowFails h row)) else none)

/-- An error corrected in a row's register-file slice: the sixteenth within 2^24 cycles has the row declared failed, and the strip that runs on it
restarts (R386). -/
def State.rowSlips (s : State) (h : HartId) (row : Fin 64) : State :=
  let now := (s.fld (fieldOf h)).cycle
  let recent := (s.hrt h).slips.filter fun x => decide (now.toNat - x.2.toNat < 2 ^ 24)
  if (recent.filter fun x => x.1 == row).length < 15 ∨ !s.rowLeft h row then s.setHrt h { s.hrt h with slips := recent ++ [(row, now)] }
  else
    let s := s.setHrt h { s.hrt h with slips := recent.filter fun x => x.1 != row }
    match s.rowHolder h row with
    | some t => s.laneError t (some row)
    | none => s.rowFails h row

/-! ## Hops and links -/

/-- The field beyond a stitch crossing; hops 0 to 5 are the crossings, in the chain's order, and the others lie within a field (R397, R399). -/
def beyondCrossing (hop : Nat) : Option Nat := if hop < 3 then some (hop + 1) else if hop < 6 then some (hop + 2) else none

/-- An uncorrectable error arises in the unit that holds a byte of the device's own memory (R378, R379). -/
def State.decays (s : State) (key : Nat) : State :=
  let u := unitOf key
  if isHbm key || isLocal key then
    { s with bad := if s.bad.contains u then s.bad else s.bad ++ [u], covers := s.covers.filter fun c => c.unit != u }
  else s

/-- An access's data are lost on the way: its unit is bad, and its frame is poisoned (R171, R379, R380). -/
def State.loseData (s : State) (key : Nat) : State := (s.decays key).poison key

/-- The next access of a thread that goes this way is lost (R380, R381, R407; assumption 52). -/
def State.losesNext (s : State) (t : Tid) (l : Lost) : State := if (s.thr t).alive then s.setThr t { s.thr t with lost := some l } else s

/-- FLIT_PARITY_RESEND: up to four bad copies are resent; after the fifth the hop has failed. Each resend, and the failure, has its record (R380,
R392). -/
def execFlitParityResend (hop : Nat) (badCopies : Nat) (carried : Carried) (s : State) : Outcome :=
  event s
    (if badCopies = 0 ∨ 5 < badCopies then none
    else
      let s := (List.range badCopies).foldl (fun (s : State) _ => s.report 12 (Config.portField hop) (hopLoc hop) 0 0xFFFF) s
      if badCopies < 5 then some s
      else
        let struck : Option State := match carried with
          | .result t => if s.laneTrapWaits t none then none else some (s.laneError t none)
          | .data key => some (s.loseData key)
          | .access t fetch => some (s.losesNext t ⟨.hop, fetch⟩)
        struck.map fun s =>
          match beyondCrossing hop with
          | some k => (s.fenceFrom k).putStatus
          | none => s)

/-- The die of a hart, of a home, and whether a store has to cross between the dies (R14, R218). -/
def StoreEntry.crosses (e : StoreEntry) : Bool :=
  (e.keys ++ e.frames).any fun k =>
    let die := if isHbm k then stackOf k / 8 else if isLocal k then (k - 2 ^ 40) / 2 ^ 24 / 256 else if isHost k then 0 else (hartOf e.tid).val / 256
    die != (hartOf e.tid).val / 256

/-- A port goes down, and the loads, atomics and fetches that wait on it are lost with it. A die-to-die direction takes the fields of die 1, and the stores on their way
between the dies (R381, R397). -/
def State.portFails (s : State) (p : Fin 21) (waiting : List (Tid × Bool)) : State :=
  let s := ({ s with ports := s.ports.set p.val { s.ports[p.val] with down := true } } : State).reportPort p.val 0xFFFF
  let s := waiting.foldl (fun s w => s.losesNext w.1 ⟨.port p, w.2⟩) s
  if p.val = 19 ∨ p.val = 20 then
    let gone := s.stores.filter fun e => e.released && e.crosses
    let s := gone.foldl (fun (s : State) e => s.reportPort p.val (BitVec.ofNat 16 e.ctx.val))
      { s with stores := s.stores.filter fun e => !(e.released && e.crosses) }
    (s.fenceFrom 4).putStatus
  else s

/-- The width of a port: its good lanes, rounded down to a power of two (R390). -/
def Port.width (p : Port) : Nat := if p.lanes = 0 then 0 else 2 ^ Nat.log2 p.lanes

/-- LINK_CRC_RETRY: a retry that succeeds is counted (R378, R381, R390). -/
def execLinkCrcRetry (port : Fin 21) (out : RetryOutcome) (s : State) : Outcome :=
  let p := s.ports[port.val]
  let put (s : State) (p : Port) : State := { s with ports := s.ports.set port.val p }
  event s
    (if p.down then none
    else
      match out with
      | .ok => some (put s { p with retries := p.retries + 1 })
      | .exhausted waiting =>
        if 0 < p.spares then some ((put s { p with spares := p.spares - 1, remapped := true }).reportPort port.val 0xFFFF)
        else some (s.portFails port waiting)
      | .laneLost =>
        if !p.remapped || decide (0 < p.spares) then none
        else if p.lanes ≤ 1 then some ((put s { p with lanes := 0 }).portFails port [])
        else some ((put s { p with lanes := p.lanes - 1 }).reportPort port.val 0xFFFF))

/-- A peer drops a store on its way to it: it is discarded and reported as on a port that is down (R381, R407). -/
def State.peerDropsStore (s : State) (n : Nat) : State :=
  match s.stores[n]? with
  | none => s
  | some e =>
    match e.keys ++ e.frames with
    | [] => s
    | k :: _ =>
      if e.released && e.point != .queue && (e.keys ++ e.frames).all isRemote && !s.storeBlocked n e true then
        State.reportLost { s with stores := s.stores.eraseIdx n } e.ctx k
      else s

/-- COMMAND_ADDRESS_REPLAY: a replay that succeeds, or eight failures in a row, which retire the channel; each replay has its record (R384, R392). -/
def execCommandAddressReplay (stack : Fin 16) (channel : Fin 32) (succeeded : Bool) (s : State) : Outcome :=
  let f : FieldId := ⟨stack.val / 2, by omega⟩
  event s
    (if s.retired.contains (stack, channel) then none
    else if succeeded then some (s.report 7 f (channelLoc stack.val channel.val none) 0 0xFFFF)
    else
      let loc := channelLoc stack.val channel.val none
      let s := (List.range 8).foldl (fun (s : State) _ => s.report 7 f loc 0 0xFFFF) s
      some (({ s with retired := s.retired ++ [(stack, channel)] } : State).report 8 f loc 0 0xFFFF))

/-! ## Temperature and power -/

/-- HBM_TEMPERATURE_THRESHOLD: each threshold crossed has its record (R391, R392). -/
def execHbmTemperatureThreshold (stack : Fin 16) (celsius : Byte) (s : State) : Outcome :=
  let x := s.hbm[stack.val]
  let c := celsius.toNat
  if 105 ≤ c then .next s.catastrophe
  else
    let y : Stack := ⟨celsius, decide (85 ≤ c) || (x.doubled && decide (82 < c)), decide (95 ≤ c) || (x.halved && decide (92 < c))⟩
    let s := { s with hbm := s.hbm.set stack.val y }
    let crossed (s : State) (b : Bool) : State :=
      if b then s.report 10 ⟨stack.val / 2, by omega⟩ (channelLoc stack.val 0 none) 0 0xFFFF else s
    .next (crossed (crossed s (y.doubled != x.doubled)) (y.halved != x.halved))

/-- The throttling of a field against a limit: on above it, off at 97 % of it (R402). -/
def Field.regulate (f : Field) (hot : Bool) : Field :=
  let limit := if hot then BitVec.ofNat 16 (f.islim.toNat * 3 / 4) else f.islim
  { f with
    limit := limit
    throttled := if limit.toNat < f.iscur.toNat then true else if f.iscur.toNat * 100 ≤ limit.toNat * 97 then false else f.throttled }

/-- The die of a field (R14). -/
def dieOf (f : FieldId) : Fin 2 := ⟨f.val / 4, by omega⟩

/-- DIE_TEMPERATURE_THRESHOLD: at 100 °C every field of the die is throttled as if ISLIM were 75 % of its written value (R403). -/
def execDieTemperatureThreshold (die : Fin 2) (celsius : Byte) (s : State) : Outcome :=
  let c := celsius.toNat
  let x := s.dies[die.val]
  if 115 ≤ c then .next s.catastrophe
  else
    let hot := decide (100 ≤ c) || (x.hot && decide (95 < c))
    let s := { s with dies := s.dies.set die.val ⟨celsius, hot⟩ }
    if hot = x.hot then .next s
    else
      let s := (allFields.filter fun f => dieOf f == die).foldl (fun (s : State) f => s.setFld f ((s.fld f).regulate hot)) s
      .next (s.report 10 ⟨die.val * 4 % 8, Nat.mod_lt _ (by decide)⟩ (Config.errorLoc (0x3_0000 + die.val)) 0 0xFFFF)

/-- ISCUR_UPDATE: the power measured over the last 1,024 cycles, and the limit as it is now written (R401, R402; assumption 24). -/
def execIscurUpdate (f : FieldId) (power : BitVec 16) (s : State) : Outcome :=
  event s
    (if (s.fld f).up && !(s.fld f).fenced then
      some (s.setFld f (Field.regulate { s.fld f with iscur := power } s.dies[(dieOf f).val].hot))
    else none)

/-! ## The error ring (R392, R405) -/

def ringBase (s : State) : Nat := (s.homeWord (managementBase + 0x08)).toNat
def ringSlots (s : State) : Nat := (s.homeWord (managementBase + 0x10)).toNat % 2 ^ 32
def ringTail (s : State) : Nat := (s.homeWord (managementBase + 0x14)).toNat % 2 ^ 32
def ringDropped (s : State) : Nat := (s.homeWord (managementBase + 0x18)).toNat % 2 ^ 32

/-- The 32 bytes of a record. -/
def Report.bytes (r : Report) : List Byte :=
  wordBytes64 r.cycle ++ [r.kind, BitVec.ofNat 8 r.field.val] ++ bytesOf r.loc.toNat 2 ++ bytesOf r.count.toNat 4 ++ wordBytes64 r.pa ++
    bytesOf r.ctx.toNat 2 ++ List.replicate 6 0

/-- Kinds whose events are counted by location. -/
def countedKind (k : Byte) : Bool := k == 1 || k == 2 || k == 11

/-- An event of a counted kind is seen; one in a register-file slice also counts against its row (R386, R392). -/
def State.countError (s : State) (e : CorrectedError) : State :=
  let s := s.countEvent e.kind e.field e.loc e.pa e.ctx
  match e.row with
  | some r => s.rowSlips r.1 r.2
  | none => s

/-- A dropped record's count goes to the next of its kind and place. -/
def State.keepCount (s : State) (r : Report) : State :=
  if countedKind r.kind then
    { s with errCounts := s.errCounts.map fun x => if x.isOf r.kind r.field r.loc then { x with since := x.since + r.count.toNat } else x }
  else s

/-- The oldest report goes into its slot and the tail advances, or it is dropped where the slot is still full, or cannot be read (assumption 69). -/
def State.appendRecord (s : State) (r : Report) : State :=
  let slot := ringBase s + ringTail s % ringSlots s * 32
  if s.unreadable (slot + 8) ∨ s.homeByte (slot + 8) ≠ 0 then
    (s.keepCount r).writeHome (managementBase + 0x18) (bytesOf ((ringDropped s + 1) % 2 ^ 32) 4)
  else (s.writeHome slot r.bytes).writeHome (managementBase + 0x14) (bytesOf ((ringTail s + 1) % 2 ^ 32) 4)

/-- ERROR_RING_APPEND: a counted event is seen, or the oldest report reaches the ring (R392, R405). -/
def execErrorRingAppend (seen : Option CorrectedError) (s : State) : Outcome :=
  event s
    (match seen with
    | some e =>
      let waits := match e.row with | some r => (s.rowHolder r.1 r.2).any fun t => s.laneTrapWaits t (some r.2) | none => false
      if countedKind e.kind && !waits then some (s.countError e) else none
    | none =>
      match s.reports with
      | [] => none
      | r :: rest => if s.boot.step < 8 ∨ s.unreadable managementBase ∨ ringSlots s = 0 then none else some (State.appendRecord { s with reports := rest } r))

end Sys2Proof.Machine
end

