-- ==== Sys2Proof/Machine/Boot.lean ====
section
/-! DEFINITION. Bring-up and power (spec/24_package_links.md R396 to R398, spec/18_contexts_translation.md R336, R337, spec/22_errors_spares.md
R388): every step, field and crossing is one event. -/

namespace Sys2Proof.Machine

def digestBytes (d : Digest) : List Byte := bytesOf d.toNat 64

/-- M := SHAKE256(M ‖ digest) (R337). -/
def extend (m d : Digest) : Digest := Config.shake256 (digestBytes m ++ digestBytes d)

/-- The three checks of an image (R336). -/
def imageAccepted (i : SignedImage) : Bool :=
  i.keyDigest == Config.fusedKeyDigest && decide (Config.fusedVersion.toNat ≤ i.version.toNat) && i.signed

/-- Bring-up has reached the end of step n. -/
def State.stepDone (s : State) (n : Nat) : State := ({ s with boot := { s.boot with step := n, position := 0, retries := 0 } } : State).putStatus

/-- A step has failed, and is named in the status word (R397). -/
def State.stepFailed (s : State) (n : Nat) : State := ({ s with boot := { s.boot with failed := n } } : State).putStatus

def fieldAtPos (k : Nat) : FieldId := ⟨k % 8, Nat.mod_lt _ (by decide)⟩

/-- One field of step 4 or 6: locked and its stacks trained, or powered down and fenced with every field beyond it (R396, R397). -/
def State.bringField (s : State) (n k last : Nat) (pass : Bool) : State :=
  let f := fieldAtPos k
  let s :=
    if (s.fld f).fenced then s
    else if pass then s.setFld f { s.fld f with up := true }
    else (s.fenceFrom k).stepFailed n
  if last ≤ k then s.stepDone n else { s with boot := { s.boot with position := k + 1 } }

/-- A crossing has trained. -/
def State.crosses (s : State) (k : Fin 6) : State := { s with boot := { s.boot with crossed := k :: s.boot.crossed.filter (· ≠ k) } }

/-- A crossing whose two fields have locked trains while a later field of step 4 or 6 is still coming up (R396). -/
def State.crossEarly (s : State) (k : Fin 6) (pass : Bool) : State :=
  let far := (beyondCrossing k.val).getD 7
  if pass && (s.fld (fieldAtPos far)).up && (s.fld (fieldAtPos (far - 1))).up then s.crosses k else s

/-- One crossing of step 7: retried up to 8 times, then the farther field is fenced (R397); one that has trained already needs no more. -/
def State.bringCrossing (s : State) (k : Nat) (pass : Bool) : State :=
  let far := (beyondCrossing k).getD 7
  let k' : Fin 6 := ⟨k % 6, Nat.mod_lt _ (by decide)⟩
  let next (s : State) : State :=
    if 5 ≤ k then s.stepDone 7 else { s with boot := { s.boot with position := k + 1, retries := 0 } }
  if s.boot.crossed.contains k' || (s.fld (fieldAtPos far)).fenced then next s
  else if pass then next (s.crosses k')
  else if s.boot.retries < 8 then { s with boot := { s.boot with retries := s.boot.retries + 1 } }
  else next ((s.fenceFrom far).stepFailed 7)

/-! ## Step 8 -/

/-- Regions that the liveness table marks as not live (R334). -/
def State.tableDead (s : State) : List Nat :=
  (List.range 393216).filter fun r => !(Memory.read s.mem (livenessBase + r / 8)).getLsbD (r % 8) && !alwaysLive r

/-- The words of the management block that the firmware writes (R404). -/
def managementBytes (i : BringUpInput) : List Byte :=
  wordBytes64 i.cmdRing ++ wordBytes64 i.errRing ++ bytesOf i.errSlots.toNat 4

/-- The firmware's writes: the runtime area whole, the image and whatever else it places in stack 0, every tag of this device 0, every CYCLE
together (R24, R170, R321, R396; assumption 22). -/
def State.loadRuntime (s : State) (i : BringUpInput) : State :=
  let mem := Sparse.clear 0 (managementBase + 0x1_0000) s.mem
  let mem := i.contents.foldl (fun m p => Memory.write m p.1.toNat p.2) mem
  let mem := Sparse.clear managementBase (managementBase + 0x1_0000) mem
  let mem := (storeBytes managementBase (managementBytes i)).foldl (fun m b => Memory.write m b.key b.val) mem
  let s : State := { s with
    mem := mem
    tags := s.tags.filter fun p => decide (2 ^ 60 ≤ p.1)
    bad := s.bad.filter fun u => decide (2 ^ 40 ≤ u)
    routes := []
    fields := s.fields.mapIdx fun k f => { f with cycle := BitVec.ofNat 64 (Config.cycleSkew (fieldAtPos k)).val }
    m1 := extend s.m1 i.image.digest }
  let s := { s with dead := s.tableDead }
  { s with commands := (s.homeWord (i.cmdRing.toNat - 8)).toNat }

/-! ## Step 9 (R398) -/

/-- The trap registers of a thread as the image's header gives them. -/
def State.runtimeThread (s : State) (i : BringUpInput) (t : Tid) : State :=
  s.setThr t { s.thr t with
    tvec := i.trapVector &&& vectorBits
    tscratch := i.stackTops[t.val]?.getD 0
    tcause := 0, tepc := 0, tval := 0, tstatus := 0, pgroot := 0, htbase := 0, tcbase := 0, farm := 0, ydead := 0, ystat := 0 }

/-- Thread 0 of a hart starts the runtime in supervisor mode with the whole hart's lanes. -/
def State.runtimeHart (s : State) (i : BringUpInput) (h : HartId) : State :=
  let s := (hartThreads h).foldl (fun s t => s.runtimeThread i t) s
  let t := tidOf h 0
  let sp := i.stackTops[t.val]?.getD 0
  let x0 : Vector Word 32 := Vector.replicate 32 0
  let a : Arch := { Arch.zero with
    pc := i.entry &&& vectorBits
    mode := .supervisor
    x := (x0.set 2 sp).set 10 (BitVec.ofNat 64 h.val)
    vlmax := vlmaxOf 0 (rowsIn (s.hrt h) ⟨0, 16⟩) }
  s.setThr t { s.thr t with arch := a, status := .running, lanes := some ⟨0, 16⟩, ckpt := some ⟨.implicit, a, a⟩ }

def State.startRuntime (s : State) (i : BringUpInput) : State :=
  let s := (allHarts.filter s.enabledHart).foldl (fun s h => s.runtimeHart i h) s
  { s with boot := { s.boot with started := true } }

/-! ## Events -/

/-- A package without power, or one that has stopped, begins again from reset (R388, R391). -/
def State.fromReset (s : State) : State := if s.boot.powered && !s.boot.stopped then s else s.lost

/-- The next piece of bring-up (R396); none when it is over, stopped, or waits for an image. -/
def State.bringUp (s : State) (i : BringUpInput) : Option State :=
  let b := s.boot
  if b.awaiting || b.failed == 3 || b.started then none
  else
    match i.crossing, b.step with
    | some k, 3 => some (s.crossEarly k i.pass)
    | some k, 5 => some (s.crossEarly k i.pass)
    | some _, _ => none
    | none, n =>
    match n with
    | 0 =>
      if i.pass then some ((s.setFld 0 { s.fld 0 with up := true }).stepDone 1)
      else some (State.stepFailed { s with boot := { b with awaiting := true } } 1)
    | 1 =>
      if imageAccepted i.image then some (State.stepDone { s with m0 := extend s.m0 i.image.digest } 2)
      else some (State.stepFailed { s with boot := { b with awaiting := true } } 2)
    | 2 => if i.pass then some (s.stepDone 3) else some (s.stepFailed 3)
    | 3 => some (s.bringField 4 (max 1 b.position) 3 i.pass)
    | 4 => if i.pass then some (s.stepDone 5) else some (((s.fenceFrom 4).stepFailed 5).stepDone 5)
    | 5 => some (s.bringField 6 (max 4 b.position) 7 i.pass)
    | 6 => some (s.bringCrossing b.position i.pass)
    | 7 => if imageAccepted i.image then some ((s.loadRuntime i).stepDone 8) else none
    | _ => some (s.startRuntime i)

/-- BRING_UP. -/
def execBringUp (input : BringUpInput) (s : State) : Outcome := event s (s.fromReset.bringUp input)

/-- NEW_FIRMWARE_IMAGE: the boot ROM that waits for an image verifies the new one; after a failure of step 1, bring-up begins again with it
(R336, R397). -/
def execNewFirmwareImage (image : SignedImage) (s : State) : Outcome :=
  event s
    (if !s.boot.awaiting then none
    else if s.boot.step = 0 then some (State.putStatus { s with boot := { s.boot with awaiting := false, failed := 0 } })
    else if imageAccepted image then
      some (State.stepDone { s with m0 := extend s.m0 image.digest, boot := { s.boot with awaiting := false, failed := 0 } } 2)
    else some s)

/-- POWER_OFF: all device state is lost, but for permanent repairs (R388). -/
def execPowerOff (s : State) : Outcome :=
  let s := s.lost
  .next { s with boot := { s.boot with powered := false } }

end Sys2Proof.Machine
end

