-- ==== Sys2Proof/Machine/Branch.lean ====
section
/-! DEFINITION. Branches, jumps and hardware loops (spec/13_control_flow.md R278 to R285). -/

namespace Sys2Proof.Machine

/-- A conditional branch: to pc + sext16(off16) * 4 with the exit rule of R284, or on (R278). -/
def State.branch (s : State) (taken : Bool) (off : BitVec 16) : Outcome :=
  .next (if taken then s.retireBranch (s.pc + (off.signExtend 64 <<< 2)) else s.retire)

/-- beq (R278). -/
def execBeq (a b : XReg) (off : BitVec 16) (s : State) : Outcome := s.branch (s.x a == s.x b) off

/-- bne (R278). -/
def execBne (a b : XReg) (off : BitVec 16) (s : State) : Outcome := s.branch (s.x a != s.x b) off

/-- blt (R278). -/
def execBlt (a b : XReg) (off : BitVec 16) (s : State) : Outcome := s.branch (decide ((s.x a).toInt < (s.x b).toInt)) off

/-- bge (R278). -/
def execBge (a b : XReg) (off : BitVec 16) (s : State) : Outcome := s.branch (decide ((s.x b).toInt ≤ (s.x a).toInt)) off

/-- bltu (R278). -/
def execBltu (a b : XReg) (off : BitVec 16) (s : State) : Outcome := s.branch (decide ((s.x a).toNat < (s.x b).toNat)) off

/-- bgeu (R278). -/
def execBgeu (a b : XReg) (off : BitVec 16) (s : State) : Outcome := s.branch (decide ((s.x b).toNat ≤ (s.x a).toNat)) off

/-- jal: the return address to x1, then pc + sext26(off26) * 4 (R280). -/
def execJal (off : BitVec 26) (s : State) : Outcome :=
  .next ((s.setX 1 (s.pc + 4)).retireTo (s.pc + (off.signExtend 64 <<< 2)))

/-- jalr: T := X[a] + sext16(k), read before X[d] is written; a T that is no word address traps (R280). -/
def execJalr (d a : XReg) (k : BitVec 16) (s : State) : Outcome :=
  let target := s.x a + k.signExtend 64
  if target.toNat % 4 ≠ 0 then finish s (.error (.trap 0x03 target))
  else .next ((s.setX d (s.pc + 4)).retireTo target)

/-- The word offset of a loop's last instruction from the loop, 1 to 32,767 (R282). -/
def State.loopEnd (s : State) (off : BitVec 16) : Word := s.pc + (off.zeroExtend 64 <<< 2)

/-- loop and loopi with their count (R282). `word` is the instruction word, for TVAL. -/
def State.hwLoop (s : State) (word : Word) (count : BitVec 32) (off : BitVec 16) : Outcome :=
  let a := s.arch s.cur
  let d := a.loopDepth
  if d ≠ 0 ∧ s.pc = a.lpcAt (d - 1) then finish s (.error (.trap 0x01 word))
  else if count = 0 then .next (s.retireTo (s.loopEnd off + 4))
  else if d = 4 then finish s (.error (.trap 0x13 word))
  else .next (s.setArch s.cur (a.setLoop d (s.loopEnd off &&& 0x00FF_FFFF_FFFF_FFFC) (0#16 ++ off ++ count))).retire

/-- loop: the count is X[a][31:0] (R282). -/
def execLoop (a : XReg) (off : BitVec 16) (s : State) : Outcome :=
  s.hwLoop (wordOf (.loop a off)) ((s.x a).extractLsb' 0 32) off

/-- loopi: the count is the 10-bit field (R282). -/
def execLoopi (n : BitVec 10) (off : BitVec 16) (s : State) : Outcome :=
  s.hwLoop (wordOf (.loopi n off)) (n.zeroExtend 32) off

end Sys2Proof.Machine
end

