-- ==== Sys2Proof/Machine/Trans.lean ====
section
/-! DEFINITION. Withdrawing translations: shootdown (spec/18_contexts_translation.md R333) and a descriptor that becomes resident (R323). -/

namespace Sys2Proof.Machine

/-- Drop what every hart and walker has cached of a context: leaves and pointer entries; for a context whose number is given out anew, type-case
contents too, and what a hart still holds of its data is a former context's (R323, R335). -/
def State.dropCached (s : State) (c : CtxId) (anew : Bool) : State :=
  { s with
    harts := vmap (fun h => { h with
      tlb := h.tlb.filter fun e => e.ctx != c
      tcase := if anew then h.tcase.filter fun e => e.ctx != c else h.tcase
      lastCtx := if anew ∧ h.lastCtx = .of c then .former else h.lastCtx }) s.harts
    fields := vmap (fun f => { f with ptrs := f.ptrs.filter fun e => e.ctx != c }) s.fields }

/-- Threads that have made stores for a context which are still on their way, whatever context they serve now. -/
def State.storersOf (s : State) (c : CtxId) : List Tid := ((s.stores.filter fun e => e.ctx == c).map StoreEntry.tid).dedup

/-- Every access of the context already translated finishes: open strips that hold its stores take an implicit checkpoint, and every store of its
goes to its home. -/
def State.finishStores (s : State) (c : CtxId) : State :=
  (s.storersOf c).foldl (fun (s : State) t =>
    let s := if s.stores.any fun e => e.tid == t && e.ctx == c && !e.released then (s.convoyCkpt t).release t else s
    s.drain t .sys (fun e => e.tid == t && e.ctx == c) []) s

/-- A copy in flight holds a store of the context back from its home (R248). -/
def State.finishWaits (s : State) (c : CtxId) : Bool := s.stores.any fun e => e.ctx == c && s.entryStalls e

def shootdownKey (c : CtxId) : Nat := descriptorOf c + 96

/-- SHOOTDOWN: drop, finish, which may wait for a copy in flight, and acknowledge the requested generation (R248, R333). -/
def execShootdown (c : CtxId) (s : State) : Outcome :=
  event s
    (let w := s.homeWord (shootdownKey c)
    let want := w.extractLsb' 32 32
    if s.descLost c ∨ want = w.extractLsb' 0 32 ∨ s.finishWaits c then none
    else some (((s.dropCached c false).finishStores c).writeHome (shootdownKey c) (bytesOf want.toNat 4)))

/-- DESCRIPTOR_RESIDENT: the device, once the runtime runs, takes a descriptor's state; what carries its number is dropped when a descriptor that has
been free is so no more, before it is resident (R323, R396). -/
def execDescriptorResident (c : CtxId) (s : State) : Outcome :=
  event s
    (let was := s.known[c.val]
    let now := s.descState c
    if !s.boot.started ∨ was = now then none
    else
      let s := if was = 0 then s.dropCached c true else s
      some { s with known := s.known.set c.val now })

end Sys2Proof.Machine
end

