-- ==== Sys2Proof/Machine/Debug.lean ====
section
/-! DEFINITION. The debugger's hold on a thread (spec/15_program_ragged.md R312, R315, spec/16_program_quicksort.md R316, R317,
spec/17_program_hamming.md R319), its watches and absent pages (spec/23_program_attention.md R393, R394), and the two instructions that are no legal word:
an illegal word (spec/02_instruction_words.md R56, R57) and one that cannot be fetched (spec/13_control_flow.md R279). -/

namespace Sys2Proof.Machine

/-! ## Stopping -/

/-- The members of the convoy that begins at an address: vector words that can be fetched, through which control runs on (R58, R316). -/
def State.breakMembers (s : State) (t : Tid) (a : Arch) : Nat → Word → Nat
  | 0, _ => 0
  | n + 1, pc =>
    match s.fetchAt t pc with
    | .error _ => 0
    | .ok w => if vectorWord w then (match a.goesOn (pc + 4) with | some b => s.breakMembers t b n (pc + 4) | none => 0) + 1 else 0

/-- The member of the convoy, or the instruction, about to begin at pc at which a breakpoint stands, the lowest of several (R312, R316;
assumption 51). -/
def State.breakHit (s : State) (t : Tid) : Option Nat :=
  let th := s.thr t
  (List.range (max 1 (s.breakMembers t th.arch 4 th.arch.pc))).find? fun k => s.breaks.contains (th.ctx, th.arch.pc + BitVec.ofNat 64 (4 * k))

/-- The instruction at pc is a member of a convoy that has committed groups and waits. -/
def Arch.memberBegun (a : Arch) : Bool := a.convoy.any Convoy.begun

/-- The debugger's stop is due: at an instruction that the debugger asked for, at a boundary, or before a breakpoint that the thread has newly
reached; the instruction or convoy at an address at which it was stopped runs first, but a thread that sleeps in it stops there again when another
of its launch stops (R312, R316, R317, R319). A convoy that resumes after a trap with members done is not stopped at once more (assumption 51). -/
def State.debugDue (s : State) (t : Tid) : Bool :=
  let th := s.thr t
  match th.debugAsk with
  | .instruction => th.debugPass == .no && !th.arch.memberBegun
  | .boundary => th.debugPass == .no && th.arch.atBoundary
  | .launch => th.debugPass != .fresh && th.arch.atBoundary
  | .no => th.debugPass == .no && th.arch.atBoundary && th.status == .running && th.arch.convoy.isNone && (s.breakHit t).isSome

/-- The other threads of the stopped thread's launch that run are asked to stop at their next point (R319). -/
def State.askOthers (s : State) (t : Tid) : State :=
  let id := (s.thr t).launch
  { s with
    threads := vmap (fun th =>
      if th.launch.isSome && th.launch == id && th.alive && th.debugAsk == .no then { th with debugAsk := .launch } else th) s.threads }

/-- The thread stops where it stands, with a report, and the others of its launch are asked to (R312, R316, R319). -/
def State.debugHold (s : State) (t : Tid) (report : DebugMsg) : State :=
  let s := (s.askOthers t).modThr t fun th => { th with debugStop := some (s.cycleOf t), debugAsk := .no, debugPass := .no }
  { s with debugLog := s.debugLog ++ [report] }

/-- DEBUGGER_STOP: at an instruction boundary at once, asleep or awake; inside a convoy at its end; and once the instruction has run that a thread
resumed at has still to execute (R312, R315, R317, R319). -/
def execDebuggerStop (t : Tid) (s : State) : Outcome :=
  let th := s.thr t
  event s
    (if !th.alive then none
    else if th.debugPass == .fresh then some (s.modThr t fun th => { th with debugAsk := if th.debugAsk == .instruction then .instruction else .boundary })
    else if th.arch.atBoundary || (th.debugAsk == .instruction && !th.arch.memberBegun) then
      some (s.debugHold t (.stopped t th.arch.pc ((s.breakHit t).getD 0)))
    else some (s.modThr t fun th => { th with debugAsk := .boundary }))

/-! ## Running on -/

/-- A stopped thread runs on: the counts move by the cycles of the stop, a deadline that was set during it by those since then, and what stands at its
address runs first (R315, R317, R319). -/
def Thread.resumed (th : Thread) (now : Word) (ask : DebugAsk) : Thread :=
  match th.debugStop with
  | none => { th with debugAsk := .no }
  | some from_ =>
    let d := now - from_
    { th with
      debugStop := none, debugAsk := ask, debugPass := if th.status = .running then .fresh else .asleep
      heldFrom := th.heldFrom.map (· + d), closingFrom := th.closingFrom.map (· + d)
      ydead := if th.ydead = 0 then 0 else th.ydead + if th.deadFrom - from_ ≤ d then now - th.deadFrom else d }

/-- A page that a thread of the launch has met is made present again, and the thread's eret will be reported (R394). -/
def State.makePresent (s : State) (p : AbsentPage) : State :=
  let s := s.writeHome p.home (wordBytes64 p.leaf)
  { s with absent := s.absent.filter (· ≠ p), awaitEret := p.met.toList ++ s.awaitEret.filter fun u => !p.met.toList.contains u }

/-- DEBUGGER_RESUME: `step` and `stepi` let the thread alone run on for a convoy or an instruction; `cont` makes the pages present that the launch has
met, and lets every stopped thread of it run on (R312, R317, R319, R394). -/
def execDebuggerResume (r : Resumption) (s : State) : Outcome :=
  let t := r.tid
  let th := s.thr t
  let mine (u : Tid) : Bool := u == t || (th.launch.isSome && (s.thr u).launch == th.launch)
  event s
    (if th.debugStop.isNone then none
    else
      match r.how with
      | .step => some (s.setThr t (th.resumed (s.cycleOf t) .boundary))
      | .stepi => some (s.setThr t (th.resumed (s.cycleOf t) .instruction))
      | .cont =>
        let s := (s.absent.filter fun p => p.met.any mine).foldl State.makePresent s
        some (((List.range 4096).map fun n => (⟨n % 4096, Nat.mod_lt _ (by decide)⟩ : Tid)).foldl (fun (s : State) u =>
          if mine u then s.setThr u ((s.thr u).resumed (s.cycleOf u) .no) else s) s))

/-- The instructions in which a thread sleeps without a status of its own (R319). -/
def sleepsIn : Instr → Bool
  | .fenceSv _ => true
  | .fenceVs _ => true
  | .fenceVv _ => true
  | .lfuse => true
  | _ => false

/-- The pass over the stopped address ends once the instruction has retired or gone elsewhere, a member skipped as completed aside; one in which the
thread has gone to sleep is slept in (R317, R319, R371). -/
def State.endPass (s : State) (t : Tid) (before : Thread) (sleeps : Bool) : State :=
  let th := s.thr t
  let skipped := progressAt before.arch.convoyHere.resume before.arch.convoyHere.member == 63
  if before.debugPass == .no || th.debugPass == .no then s
  else if th.instret != before.instret || (th.arch.pc != before.arch.pc && !skipped) then s.setThr t { th with debugPass := .no }
  else if sleeps || th.status != .running then s.setThr t { th with debugPass := .asleep }
  else s

/-! ## Watches and absent pages (R393, R394) -/

/-- The home of an address of a watch: in the local window of its thread, or where its context's tables lead. -/
def State.watchKey (s : State) (w : Watch) (va : Word) : Option Nat :=
  if va.extractLsb' 48 16 = 0x00FF#16 then (if (s.thr w.tid).ctx = w.ctx then s.windowKey w.tid (va.extractLsb' 0 48).toNat else none)
  else
    match s.walk (s.launchWho w.ctx false) va with
    | .leaf level e => (s.leafLoc .load va level e).toOption.map Loc.key
    | _ => none

/-- The lines that a watch covers, as they lie now. -/
def State.resolve (s : State) (w : Watch) : Watch :=
  { w with
    lines := (List.range ((w.addr.toNat % 64 + w.count + 63) / 64)).filterMap fun j =>
      let va := (w.addr &&& ~~~63#64) + BitVec.ofNat 64 (64 * j)
      (s.watchKey w va).map fun k => (va, k) }

def State.seeWatches (s : State) : State := if s.watches.isEmpty then s else { s with watches := s.watches.map s.resolve }

/-- The debugger watches bytes of a context (R393). -/
def State.addWatch (s : State) (c : CtxId) (t : Tid) (addr : Word) (count : Nat) : State := { s with watches := s.watches ++ [⟨c, t, addr, count, []⟩] }

/-- The leaf on va's path as the tables hold it: its home, its level and the entry. -/
def State.leafHome (s : State) (va : Word) : List Nat → Nat → Option (Nat × Nat × Word)
  | [], _ => none
  | level :: rest, base =>
    let home := entryHome va level base
    let e := s.homeWord home
    if s.unreadable home || !pteV e || s.pteMalformed level e then none
    else if pteL e then some (home, level, e)
    else s.leafHome va rest (pteAddr e)

/-- The debugger makes the page of a context that holds an address not present: all that its leaf maps (R394; assumption 51). -/
def State.makeAbsent (s : State) (c : CtxId) (addr : Word) : State :=
  match s.leafHome addr [4, 3, 2, 1, 0] (rootOf (s.launchWho c false).pgroot) with
  | none => s
  | some (home, level, e) =>
    let size := 2 ^ levelShift level
    let s := (s.writeHome home (wordBytes64 (e &&& ~~~1#64))).dropCached c false
    { s with absent := s.absent ++ [⟨c, BitVec.ofNat 64 (addr.toNat / size * size), size, home, e, none⟩] }

/-- The thread has just taken a trap for a page not present: it stands at its handler's first instruction, one frame further down its stack. -/
def State.atTrapEntry (s before : State) (t : Tid) : Bool :=
  let th := s.thr t
  let b := before.thr t
  (th.tcause == 0x04 || th.tcause == 0x05) && th.status == .running && th.arch.mode == .supervisor && th.arch.pc == th.tvec &&
    th.instret == b.instret && th.arch.getX 2 == before.frameTop t - 64

/-- The first fault of a launch on an absent page stops its thread at trap entry, and the others of its launch (R394). -/
def State.meetAbsent (s before : State) (t : Tid) : State :=
  if s.absent.isEmpty || !s.atTrapEntry before t then s
  else
    let th := s.thr t
    let here (p : AbsentPage) : Bool :=
      p.met.isNone && p.ctx == th.ctx && th.launch.isSome && decide (p.page.toNat ≤ th.tval.toNat) && decide (th.tval.toNat < p.page.toNat + p.size)
    if s.absent.any here then
      State.debugHold { s with absent := s.absent.map fun p => if here p then { p with met := some t } else p } t
        (.trapped t th.tcause th.tepc (th.tstatus.extractLsb' 1 2).toNat)
    else s

/-- The eret after a page has been made present is reported with the address it leads to (R394). -/
def State.noteEret (s before : State) (t : Tid) (i : Instr) : State :=
  if s.awaitEret.contains t && (match i with | .eret => true | _ => false) && (s.thr t).instret != (before.thr t).instret then
    { s with awaitEret := s.awaitEret.filter (· ≠ t), debugLog := s.debugLog ++ [.eret t (s.thr t).arch.pc] }
  else s

/-- The instruction that a thread has executed, or trapped in, was read at its home (R385, R393; assumption 34). -/
def State.noteFetch (s before : State) (t : Tid) : State :=
  if s.dead.isEmpty && s.watches.isEmpty then s
  else
    match before.translate (before.who t) .fetch false (before.arch t).pc with
    | .ok loc =>
      if (s.thr t).instret != (before.thr t).instret || (s.arch t).pc != (before.arch t).pc then s.noteRead (before.who t).maker [(none, loc.key)] else s
    | .error _ => s

/-! ## Breakpoints -/

/-- The debugger sets a breakpoint, or takes it away (R312). -/
def State.toggleBreak (s : State) (c : CtxId) (addr : Word) : State :=
  { s with breaks := if s.breaks.contains (c, addr) then s.breaks.filter (· ≠ (c, addr)) else s.breaks ++ [(c, addr)] }

/-- ILLEGAL_INSTRUCTION: trap 0x01 with the word (R56). -/
def execIllegalInstruction (w : IWord) (s : State) : Outcome := .next (s.syncTrap s.cur 0x01 (w.setWidth 64) s.pc)

/-- INSTRUCTION_FETCH_FAULT: the cause that the fetch meets, with the fetched address (R279). -/
def execInstructionFetchFault (s : State) : Outcome :=
  event s
    (match s.fetch s.cur with
    | .error (.trap c v) => some (s.syncTrap s.cur c v s.pc)
    | _ => none)

end Sys2Proof.Machine
end

