-- ==== Sys2Proof/Machine/Layer.lean ====
section
/-! DEFINITION. The layer instructions, major 0x25 (spec/19_layered_tensors.md R349 to R353, R357), and what they share with the engine
instructions: transfers and their pennant registers (spec/11_engines_barriers.md R237, R241). -/

namespace Sys2Proof.Machine

/-! ## Transfers and pennants (R237, R241, R243) -/

/-- A hart has at most 8 transfers and folds in flight (R237, R353). -/
def State.transferRoom (s : State) (h : HartId) : Bool := decide ((s.hrt h).transfers.length < 8)

/-- Bits 0 to n-1 of a register become 0 (R241). -/
def clearBits (n : Nat) (x : VWord) : VWord := BitVec.ofNat 131072 (x.toNat / 2 ^ n * 2 ^ n)

/-- Hand a transfer over: its pennant bits cleared first, a write of their register (R262). -/
def State.accept (s : State) (tr : Transfer) (bits : Nat) : State :=
  let t := tr.tid
  let a := s.arch t
  let s := s.setArch t ((a.setVreg tr.vp.toNat (clearBits bits (a.vreg tr.vp.toNat))).putProg [tr.vp.toNat] none)
  s.setHrt (hartOf t) { s.hrt (hartOf t) with transfers := (s.hrt (hartOf t)).transfers ++ [tr] }

/-! ## The checks of R357 -/

/-- Steps 1 and 2: the handle operand, and a table. -/
def State.layerHandle (s : State) (t : Tid) (x : Word) : Except Stop Nat :=
  let h := handleIndex x
  if !isHandle x || x.extractLsb' 12 51 != 0#51 then .error (handleTrap 0 h 0)
  else if (s.thr t).htbase = 0 then .error (handleTrap 1 h 0)
  else .ok h

/-- The strip closed, earlier accesses complete and earlier stores performed at their homes, with the engines' writes whose pennant bits the thread
has read (R247, R350; assumption 64). -/
def State.layerReady (s : State) (t : Tid) : State := ((s.closeStrip t).drainOwn t .sys true true).seeEngine t true

/-- A layer instruction around its action (R350): its checks; then the strip closes, and it waits where a copy in flight holds an earlier store back
(R248); then the action. `reads` are the structures that the action reads beside the record, where it traps: up to the fault. -/
def State.layerOp (s : State) (t : Tid) (checks : Except Stop Nat) (reads : Nat → State → List (Word × Nat)) (act : Nat → State → Except Stop State) :
    Outcome :=
  match checks with
  | .error e => finish s (.error e)
  | .ok h =>
    if (s.closeStrip t).drainWaits t .sys (StoreEntry.ownKind t true true) then .next (s.fenceOpen t)
    else
      match act h (s.layerReady t) with
      | .error .wait => .next (s.fenceOpen t)
      | r => finishReads s (fun s =>
          (s.noteStruct (s.who t).onRecords (handleAddr (s.thr t).htbase h) 128).noteReads (s.who t) (reads h (s.layerReady t))) r

/-- Steps 4 and 5: the record, which is read and then written as one access; its place; malformed first, then the state. -/
def State.layerRecord (s : State) (t : Tid) (h : Nat) (making : Bool) : Except Stop (Handle × List Nat) := do
  let w := (s.who t).onRecords
  let va := handleAddr (s.thr t).htbase h
  let r ← s.readHandle w (s.thr t).htbase h
  let keys ← s.locateStruct w .store va 128
  if r.malformed then .error (handleTrap 3 h 0)
  else if !making && r.state != 1 then .error (handleTrap 1 h 0)
  else return (r, keys)

/-- What the action reads once the record has passed its checks. -/
def State.afterRecord (s : State) (t : Tid) (h : Nat) (making : Bool) (f : Handle → List (Word × Nat)) : List (Word × Nat) :=
  match s.layerRecord t h making with
  | .ok r => f r.1
  | .error _ => []

/-- The record as the instruction leaves it, and retirement; the checkpoint keeps the state after it, and every later load is performed after it
(R255, R259, R350). `reads` are the structures it has read beside the record. -/
def State.layerDone (s : State) (t : Tid) (h : Nat) (reads : List (Word × Nat)) (keys : List Nat) (r : Handle) : State :=
  let s := (s.noteStruct (s.who t).onRecords (handleAddr (s.thr t).htbase h) 128).noteReads (s.who t) reads
  ((s.writeHandle t keys r).dropAhead t).retire.implicitCkpt t

/-- A shape record that a layer instruction reads in the thread's own mode (R419). -/
def State.readShape (s : State) (w : Who) (va : Word) : Except Stop Shape := (s.readStruct w va 32).map shapeOf

def Handle.free : Handle := ⟨0, 0, false, 0, 0, 0, 0, List.replicate 8 0, false⟩

/-! ## lmk, lattach, ldetach (R351, R352) -/

/-- lmk: make a handle over a base record, or free one (R351). -/
def execLmk (scope : Scope) (a b : XReg) (s : State) : Outcome :=
  let t := s.cur
  let x := s.x b
  let reads (h : Nat) (s : State) : List (Word × Nat) := s.afterRecord t h (x != 0) fun _ => if x = 0 then [] else [(x, 32)]
  s.layerOp t (do
    s.needLanes (wordOf (.lmk scope a b))
    let h ← s.layerHandle t (s.x a)
    if x.toNat % 32 ≠ 0 then .error (.trap 0x03 x) else return h) reads fun h s => do
    let r ← s.layerRecord t h (x != 0)
    if x ≠ 0 then
      let sh ← s.readShape (s.who t) x
      if !sh.amendable then .error (handleTrap 6 h 0)
      else if r.1.state = 1 then .error (handleTrap 2 h 0)
      else return s.layerDone t h (reads h s) r.2 { Handle.free with state := 1, base := x }
    else if r.1.n ≠ 0 ∨ r.1.busy then .error (handleTrap 2 h 0)
    else return s.layerDone t h [] r.2 Handle.free

/-- Descriptor at `va` as descriptor n of a handle: R345's checks, and the whole triple array of a sparse layer. -/
def State.checkLayer (s : State) (t : Tid) (base : Word) (h n : Nat) (va : Word) : Except Stop Unit := do
  let w := s.adder t
  let sh ← s.readShape (s.who t) base
  match ← s.readLayer w sh h n va with
  | .sparse k addr =>
    let _ ← s.readTriples w sh h n k addr
    return ()
  | .lowRank _ _ _ _ => return ()

/-- What it reads, up to the read that faults. -/
def State.checkReads (s : State) (t : Tid) (base : Word) (h n : Nat) (va : Word) : List (Word × Nat) :=
  (base, 32) ::
    match s.readShape (s.who t) base with
    | .error _ => []
    | .ok sh =>
      (va, 64) ::
        match s.readLayer (s.adder t) sh h n va with
        | .ok (.sparse k addr) => [(addr, 16 * k)]
        | _ => []

/-- lattach: append a layer (R352). -/
def execLattach (scope : Scope) (d a b : XReg) (s : State) : Outcome :=
  let t := s.cur
  let x := s.x b
  let handle := s.x a
  let reads (h : Nat) (s : State) : List (Word × Nat) := s.afterRecord t h false fun r => s.checkReads t r.base h r.n x
  s.layerOp t (do
    s.needLanes (wordOf (.lattach scope d a b))
    let h ← s.layerHandle t handle
    if x.toNat % 64 ≠ 0 then .error (.trap 0x03 x) else return h) reads fun h s => do
    let r ← s.layerRecord t h false
    s.checkLayer t r.1.base h r.1.n x
    if r.1.n = 8 then .error (.trap 0x0E handle)
    else
      let r' : Handle := { r.1 with layers := r.1.layers.set r.1.n x, n := r.1.n + 1, gen := r.1.gen + 1 }
      return (s.setX d r'.gen).layerDone t h (reads h s) r.2 r'

/-- ldetach: remove the layer at an index. Every load reads its record and its data in one step, so none is waited for (R352). -/
def execLdetach (scope : Scope) (d a b : XReg) (s : State) : Outcome :=
  let t := s.cur
  let m := (s.x b).toNat
  s.layerOp t (do
    s.needLanes (wordOf (.ldetach scope d a b))
    s.layerHandle t (s.x a)) (fun _ _ => []) fun h s => do
    let r ← s.layerRecord t h false
    if r.1.n ≤ m then .error (handleTrap 7 h (m % 16))
    else if r.1.busy ∧ m < r.1.k then .error (handleTrap 9 h 0)
    else
      let r' : Handle := { r.1 with layers := r.1.layers.eraseIdx m ++ [0], n := r.1.n - 1, gen := r.1.gen + 1 }
      return (s.setX d r'.gen).layerDone t h [] r.2 r'

/-! ## lfold (R353) -/

/-- Two ranges of frames overlap as virtual ranges. -/
def rangesOverlap (a alen b blen : Nat) : Bool := decide (a < b + blen) && decide (b < a + alen)

/-- The target record suits the base (R353, subcode 10). -/
def foldSuits (target base : Shape) (rows : Nat) : Bool :=
  target.count == 0 && target.rows == rows && target.cols == base.cols &&
    (target.tag == 0 || tagFormat target.tag == tagFormat base.tag) && target.base.toNat % 4096 == 0 &&
    !rangesOverlap target.base.toNat (rows * base.cols * 4096) base.base.toNat (rows * base.cols * 4096)

/-- The records that lfold reads, up to the read that faults: the target's, the base's, and a dynamic base's count. -/
def State.lfoldReads (s : State) (t : Tid) (target base : Word) : List (Word × Nat) :=
  (target, 32) ::
    match s.readShape (s.who t) target with
    | .error _ => []
    | .ok _ =>
      (base, 32) ::
        match s.readShape (s.who t) base with
        | .error _ => []
        | .ok sh => if sh.count = 0 then [] else [(sh.count, 4)]

/-- lfold: hand the list to the press (R353). -/
def execLfold (scope : Scope) (v : VReg) (a b : XReg) (s : State) : Outcome :=
  let t := s.cur
  let x := s.x b
  let handle := s.x a
  let reads (h : Nat) (s : State) : List (Word × Nat) := s.afterRecord t h false fun r =>
    if s.pennantBusy t [v.toNat] || r.busy then [] else s.lfoldReads t x r.base
  s.layerOp t (do
    s.needLanes (wordOf (.lfold scope v a b))
    let h ← s.layerHandle t handle
    if x.toNat % 32 ≠ 0 then .error (.trap 0x03 x)
    else if !s.transferRoom (hartOf t) then .error .wait
    else return h) reads fun h s => do
    let r ← s.layerRecord t h false
    if s.pennantBusy t [v.toNat] then .error (.trap 0x14 8)
    if r.1.busy then .error (handleTrap 9 h 0)
    let target ← s.readShape (s.who t) x
    let base ← s.readShape (s.who t) r.1.base
    let rows ← if base.count = 0 then pure base.rows else s.readWord (s.who t) base.count 4
    if !foldSuits target base rows then .error (handleTrap 10 h 0)
    let th := s.thr t
    let l := reads h s
    let s := s.accept
      { kind := .fold, tid := t, site := (s.arch t).site, scope := scope, vp := v, mode := th.arch.mode, pgroot := th.pgroot, htbase := th.htbase
        rcd := handle, dst := x, src := r.1.base, len := 0, counter := 0, shift := 0, op := r.1.n, fmt := 0, count := rows * base.cols, done := [] } 1
    return s.layerDone t h l r.2 { r.1 with busy := true, k := r.1.n, target := x }

end Sys2Proof.Machine
end

