-- ==== Sys2Proof/Machine/Eng.lean ====
section
/-! DEFINITION. The engine instructions, major 0x27: the checks of a transfer record and its acceptance (spec/11_engines_barriers.md R238 to
R241). -/

namespace Sys2Proof.Machine

/-- Bytes of a coll element by its format code; none for a format not listed (R238). -/
def collBytes (fmt : Nat) : Option Nat :=
  match fmt with
  | 3 => some 4
  | 4 => some 8
  | 7 => some 2
  | 8 => some 2
  | 9 => some 4
  | 10 => some 8
  | _ => none

def engineTrap (sub : Nat) : Stop := .trap 0x14 (BitVec.ofNat 64 sub)

def highBits (x : Word) : Bool := x.extractLsb' 56 8 != 0#8

/-- Chunks of a transfer (R238). -/
def chunkCount (len shift : Nat) : Nat := (len + 2 ^ shift - 1) / 2 ^ shift

/-- A transfer as its record describes it (R238). -/
def transferOf (s : State) (t : Tid) (kind : JobKind) (scope : Scope) (vp : VReg) (rcd : Word) (b : List Byte) : Transfer :=
  let th := s.thr t
  let len := fieldAt b 16 8
  let shift := fieldAt b 32 1
  { kind := kind, tid := t, site := (s.arch t).site, scope := scope, vp := vp, mode := th.arch.mode, pgroot := th.pgroot, htbase := th.htbase, rcd := rcd
    dst := word64At b 0, src := word64At b 8, len := len, counter := word64At b 24, shift := shift, op := fieldAt b 33 1, fmt := fieldAt b 34 1
    count := chunkCount len shift, done := [] }

/-- Orders 3 to 9 of R240 over the values of the record. -/
def transferChecks (tr : Transfer) (reserved rows : Nat) : Except Stop Unit :=
  let isColl := tr.kind == .coll
  let elem := (collBytes tr.fmt).getD 1
  if reserved ≠ 0 ∨ (!isColl ∧ (tr.op ≠ 0 ∨ tr.fmt ≠ 0)) ∨ (isColl ∧ (2 < tr.op ∨ (collBytes tr.fmt).isNone)) then .error (engineTrap 1)
  else if tr.len = 0 ∨ 2 ^ 40 < tr.len then .error (engineTrap 2)
  else if tr.shift < 12 ∨ 21 < tr.shift then .error (engineTrap 3)
  else if 64 * rows < tr.count then .error (engineTrap 4)
  else if highBits tr.dst || highBits tr.src || highBits tr.counter || tr.counter.toNat % 8 != 0 then .error (engineTrap 5)
  else if isColl ∧ (tr.dst.toNat % elem ≠ 0 ∨ tr.src.toNat % elem ≠ 0 ∨ tr.len % elem ≠ 0) then .error (engineTrap 6)
  else if rangesOverlap tr.dst.toNat tr.len tr.src.toNat tr.len then .error (engineTrap 7)
  else .ok ()

/-- cpy and coll (R240, R241). A ninth transfer waits once its record has passed the checks, and reads the record again at each trial (R237;
assumption 57). The thread's earlier stores enter the quad's junction with acceptance, so that the engine, which is no member of the hart's scope,
observes them (R217, R237; assumption 38). -/
def State.startTransfer (s : State) (word : Word) (kind : JobKind) (scope : Scope) (v : VReg) (a : XReg) : Outcome :=
  let t := s.cur
  let rcd := s.x a
  let checked : Except Stop Transfer := do
    s.needLanes word
    if rcd.toNat % 64 ≠ 0 then .error (.trap 0x03 rcd)
    let _ ← s.locateStruct (s.who t) .store rcd 64
    let b ← s.readStruct (s.who t) rcd 64
    let tr := transferOf s t kind scope v rcd b
    transferChecks tr (fieldAt b 35 13) (s.rows t)
    if s.pennantBusy t [v.toNat] then .error (engineTrap 8)
    if !s.transferRoom (hartOf t) then .error .wait
    return tr
  let read (s : State) : State :=
    if (s.thr t).lanes.isNone || rcd.toNat % 64 != 0 || !(s.locateStruct (s.who t) .store rcd 64).isOk then s else s.ownReads (s.who t) [(rcd, 64)]
  match checked with
  | .error e => finishReads s read (.error e)
  | .ok tr =>
    let n := (read s).closeStrip t
    if n.drainWaits t .quad (StoreEntry.ownKind t true true) then .next (s.fenceOpen t)
    else .next ((((n.drainOwn t .quad true true).accept tr tr.count).retire).implicitCkpt t)

/-- cpy (R241). -/
def execCpy (scope : Scope) (v : VReg) (a : XReg) (s : State) : Outcome := s.startTransfer (wordOf (.cpy scope v a)) .cpy scope v a
/-- coll (R241). -/
def execColl (scope : Scope) (v : VReg) (a : XReg) (s : State) : Outcome := s.startTransfer (wordOf (.coll scope v a)) .coll scope v a

end Sys2Proof.Machine
end

