-- ==== Sys2Proof/Machine/Engine.lean ====
section
/-! DEFINITION. What the copy and collective engines do with a transfer (spec/11_engines_barriers.md R237, R240 to R245, spec/08_tiles_and_dispatch.md
R171). -/

namespace Sys2Proof.Machine

/-- On whose behalf an engine accesses memory: the issuing thread as it was when the transfer issued, with the tables as they stand (R244,
R419). -/
def Transfer.who (tr : Transfer) (s : State) : Who := ⟨tr.tid, (s.thr tr.tid).ctx, tr.pgroot, tr.mode, true, true, some (tr.site, 0)⟩

/-- A store that the engine makes for the transfer. -/
def Transfer.origin (tr : Transfer) : Origin := ⟨some (tr.site, 0), none⟩

def Transfer.chunkStart (tr : Transfer) (k : Nat) : Nat := k * 2 ^ tr.shift
def Transfer.chunkLen (tr : Transfer) (k : Nat) : Nat := min ((k + 1) * 2 ^ tr.shift) tr.len - k * 2 ^ tr.shift

/-- The stores on their way that the engine of thread t's quad observes: those visible at the quad's scope or a wider one that contains it, for it
is no member of a hart's scope (R217, R237; assumption 38). -/
def engineSees (t : Tid) (e : StoreEntry) : Bool := e.visibleTo t && decide (3 ≤ e.point.rank)

/-- A byte, and a frame's tag, as the engine of thread t's quad reads it. -/
def State.engineByte (s : State) (t : Tid) (k : Nat) : Byte := s.byteSeen (engineSees t) k
def State.engineTag (s : State) (t : Tid) (frame : Nat) : BitVec 16 := if isTagged frame then s.tagSeen (engineSees t) frame else 0

/-- A cause and the address it is found at. -/
abbrev AccessFault := BitVec 8 × Word

def faultOf (e : Stop) : AccessFault := match e with | .trap c v => (c, v) | .wait => (0x16, 0)

/-- The homes of a range of an engine's, or its fault. -/
def State.engineRange (s : State) (w : Who) (a : Access) (va : Word) (len : Nat) : Except AccessFault (List Nat) :=
  match s.locateStruct w a va len with
  | .error e => .error (faultOf e)
  | .ok keys => .ok keys

/-- An uncorrectable error in data that an engine reads (R379). -/
def State.engineClean (s : State) (va : Word) (keys : List Nat) : Except AccessFault Unit :=
  match (keys.zipIdx).find? fun p => s.isBad p.1 with
  | some p => .error (0x16, va + BitVec.ofNat 64 p.2)
  | none => .ok ()

/-- Whole frames that a chunk copies with their tags: where both ranges are frame-aligned (R171; assumption 57). -/
def Transfer.wholeFrames (tr : Transfer) (k : Nat) : Nat :=
  if tr.kind == .cpy && decide (tr.src.toNat % 4096 = 0) && decide (tr.dst.toNat % 4096 = 0) then tr.chunkLen k / 4096 else 0

/-- The homes of a chunk's source and destination, or the fault that the chunk meets (R242, R245). Of several the source's comes before the
destination's, the lowest address first, data before tags; and what translation finds at a destination, a device-class page too, before a
destination outside HBM (assumption 57). -/
def State.chunkPlaces (s : State) (tr : Transfer) (k : Nat) : Except AccessFault (List Nat × List Nat) := do
  let w := tr.who s
  let off := BitVec.ofNat 64 (tr.chunkStart k)
  let len := tr.chunkLen k
  let src ← s.engineRange w .load (tr.src + off) len
  s.engineClean (tr.src + off) src
  match (List.range (tr.wholeFrames k)).find? fun i => s.tagLost (engineSees tr.tid) (src[i * 4096]?.getD 0) with
  | some i => .error (0x16, tr.src + off + BitVec.ofNat 64 (i * 4096))
  | none => pure ()
  let dst ← s.engineRange w .store (tr.dst + off) len
  if tr.kind == .coll then
    match (dst.zipIdx).find? fun p => !isTagged p.1 with
    | some p => .error (0x06, tr.dst + off + BitVec.ofNat 64 p.2)
    | none => do
      match (dst.zipIdx).find? fun p => s.keyDown p.1 with
      | some p => .error (0x16, tr.dst + off + BitVec.ofNat 64 p.2)
      | none => pure ()
      s.engineClean (tr.dst + off) dst
      return (src, dst)
  else return (src, dst)

/-- A byte of the destination shares physical memory with the source (R240). -/
def State.sharesSource (s : State) (tr : Transfer) (key : Nat) : Bool :=
  let w := tr.who s
  (List.range ((tr.src.toNat % 65536 + tr.len + 65535) / 65536)).any fun i =>
    let a := if i = 0 then tr.src.toNat else (tr.src.toNat / 65536 + i) * 65536
    let n := min (tr.src.toNat + tr.len - a) (65536 - a % 65536)
    match s.translate w .load false (BitVec.ofNat 64 a) with
    | .ok loc => decide (loc.key ≤ key) && decide (key < loc.key + n)
    | .error _ => false

/-- The tags that a chunk of a copy writes: the source frame's for whole, aligned frames, raw for the others, the partial frame at the end of a
frame-aligned copy among them (R171; assumption 57). -/
def State.copyTags (s : State) (tr : Transfer) (k : Nat) (src dst : List Nat) : List (Nat × TagWrite) :=
  let whole := tr.wholeFrames k
  let full := (List.range whole).filterMap fun i =>
    let d := dst[i * 4096]?.getD 0
    if isTagged d then some (d, TagWrite.set (s.engineTag tr.tid (frameOf (src[i * 4096]?.getD 0)))) else none
  full ++ (((dst.drop (whole * 4096)).filter isTagged).map frameOf).dedup.map fun f => (f, .raw)

/-- A copied chunk enters the quad's junction after every earlier store of the hart to its bytes, byte by byte; for R379 it is one access (R219, R237,
R241, R379). Other stores to a scratchpad that it writes wait until the copy retires (R248). Bytes for a port that is down are discarded (R381). -/
def State.copyChunk (s : State) (tr : Transfer) (k : Nat) (src dst : List Nat) : State :=
  let bytes := (src.zip dst).zipIdx.map fun p =>
    let v := s.engineByte tr.tid p.1.1
    let kept := s.sharesSource tr p.1.2 && Config.overlapKeeps (s.fresh + p.2)
    (⟨p.1.2, if kept then s.engineByte tr.tid p.1.2 else v, 0xFF⟩ : SByte)
  let tags := s.copyTags tr k src dst
  let s := (s.noteRead (tr.who s).maker (src.map fun k => (none, k))).drain tr.tid .quad (fun _ => false) (dst.filter fun k => !isLocal k)
  let ctx := (s.thr tr.tid).ctx
  let e : StoreEntry := ⟨tr.tid, ctx, .quad, true, true, bytes.filter fun b => !s.keyDown b.key, tags, 0, s.fresh + 1, tr.origin⟩
  let s := { s with stores := s.stores ++ e.bytewise, fresh := s.fresh + bytes.length + 1 }
  match dst.find? s.keyDown with
  | some d => s.reportLost ctx d
  | none => s

/-- op(dst, src) of a coll element of w bits, and its flags (R242). -/
def collOp (op fmt w x y : Nat) : Nat × BitVec 5 :=
  match tileFmt fmt with
  | some f => if op = 0 then fadd f (unpack f x) (unpack f y) else fminmax f (op == 2) x y
  | none =>
    if op = 0 then ((x + y) % 2 ^ w, 0)
    else if op = 1 then (if sext w y < sext w x then y else x, 0)
    else (if sext w x < sext w y then y else x, 0)

/-- Element i of a chunk combined at its home as one indivisible access (R232, R242). A byte that shares memory with the source, of those listed,
may keep what it holds (R240). -/
def State.collElement (s : State) (tr : Transfer) (n : Nat) (src dst shared : List Nat) (i : Nat) : State :=
  let from_ := (src.drop (i * n)).take n
  let at_ := (dst.drop (i * n)).take n
  let num (f : Nat → Byte) (l : List Nat) : Nat := l.foldr (fun k acc => acc * 256 + (f k).toNat) 0
  let y := num (s.engineByte tr.tid) from_
  let s := s.drainAhead tr.tid at_
  let r := collOp tr.op tr.fmt (8 * n) (num s.homeByte at_) y
  let bs := (at_.zip (bytesOf r.1 n)).zipIdx.filterMap fun p =>
    if shared.contains p.1.1 && Config.overlapKeeps (s.fresh + p.2) then none else some (⟨p.1.1, p.1.2, 0xFF⟩ : SByte)
  let s := ((s.noteLines at_).perform bs (rawTags bs)).reportHits true (tr.who s).maker (at_.map fun k => (none, k))
  ({ s with fresh := s.fresh + n }).raise tr.tid r.2

def State.collChunk (s : State) (tr : Transfer) (src dst : List Nat) : State :=
  let n := (collBytes tr.fmt).getD 1
  let shared := dst.filter (s.sharesSource tr)
  (List.range (src.length / n)).foldl (fun s i => s.collElement tr n src dst shared i)
    (s.noteRead (tr.who s).maker (src.map fun k => (none, k)))

/-! ## Pennant bits (R243, R256) -/

def Arch.raisePennant (a : Arch) (v bit : Nat) : Arch := a.setVreg v (a.vreg v ||| BitVec.ofNat 131072 (2 ^ bit))
def Ckpt.raisePennant (c : Ckpt) (v bit : Nat) : Ckpt := { c with pre := c.pre.raisePennant v bit, post := c.post.raisePennant v bit }

/-- Bit k of the pennant register := 1, in the register and in every checkpoint copy: a restart keeps it (R243). Where it is v0, an access through
v0 that comes to see the bit takes nothing that was read before it was set (R247). -/
def State.raisePennant (s : State) (tr : Transfer) (bit : Nat) : State :=
  let th := s.thr tr.tid
  let v := tr.vp.toNat
  s.setThr tr.tid { th with
    arch := th.arch.raisePennant v bit
    ckpt := th.ckpt.map fun c => c.raisePennant v bit
    due := th.due.map fun c => c.raisePennant v bit
    ahead := if v = 0 then th.ahead.map fun x => { x with passed := true } else th.ahead }

/-! ## Events -/

def State.transferAt (s : State) (h : HartId) (slot : Nat) : Option Transfer := (s.hrt h).transfers[slot]?
def State.putTransfer (s : State) (h : HartId) (slot : Nat) (tr : Transfer) : State :=
  s.setHrt h { s.hrt h with transfers := (s.hrt h).transfers.set slot tr }
def State.dropTransfer (s : State) (h : HartId) (slot : Nat) : State :=
  s.setHrt h { s.hrt h with transfers := (s.hrt h).transfers.eraseIdx slot }

/-- ENGINE_CHUNK_DONE: a chunk is written, then its pennant bit set (R241, R242). -/
def execEngineChunkDone (h : HartId) (slot chunk : Nat) (s : State) : Outcome :=
  event s
    (match s.transferAt h slot with
    | none => none
    | some tr =>
      if tr.kind == .fold || decide (tr.count ≤ chunk) || tr.done.contains chunk then none
      else
        match s.chunkPlaces tr chunk with
        | .error _ => none
        | .ok p =>
          let s := if tr.kind == .coll then s.collChunk tr p.1 p.2 else s.copyChunk tr chunk p.1 p.2
          some ((s.raisePennant tr chunk).putTransfer h slot { tr with done := chunk :: tr.done }))

/-- An engine's own write of 8 bytes of the record, into the junction; none when it fails (R171, R244). -/
def State.engineWrite (s : State) (tr : Transfer) (va v : Word) : Option State :=
  match s.locateStruct (tr.who s) .store va 8 with
  | .error _ => none
  | .ok keys =>
    let bs := keys.zipWith (fun k b => (⟨k, b, 0xFF⟩ : SByte)) (wordBytes64 v)
    let s := s.drain tr.tid .quad (fun _ => false) keys
    some { s with stores := s.stores ++ [⟨tr.tid, (s.thr tr.tid).ctx, .quad, true, true, bs, rawTags bs, 0, 0, tr.origin⟩] }

/-- The status and the fault address, 0 for none (R238). -/
def State.engineRecord (s : State) (tr : Transfer) (status addr : Word) : Option State :=
  (s.engineWrite tr (tr.rcd + 56) addr).bind fun s => s.engineWrite tr (tr.rcd + 48) status

/-- Trap 0x15 waits for the issuing thread's next boundary, with the record's address (R245). -/
def State.pendFault (s : State) (t : Tid) (val : Word) : State :=
  s.setThr t { s.thr t with pending := (s.thr t).pending ++ [(0x15, val)] }

/-- An engine fault: status 2 with the cause, and the address; the transfer retires (R244, R245). -/
def State.engineFail (s : State) (h : HartId) (slot : Nat) (tr : Transfer) (f : AccessFault) : State :=
  let s := if f.1 = 0x16 then s.noteFound (tr.who s) f.2 else s
  let s' := (s.engineRecord tr (2 ||| (f.1.setWidth 64 <<< 8)) f.2).getD s
  (s'.dropTransfer h slot).pendFault tr.tid tr.rcd

/-- ENGINE_FAULT: a chunk not yet done meets a fault (R245). Nothing of a chunk that is abandoned has been written (assumption 57). -/
def execEngineFault (h : HartId) (slot chunk : Nat) (s : State) : Outcome :=
  event s
    (match s.transferAt h slot with
    | none => none
    | some tr =>
      if tr.kind == .fold || decide (tr.count ≤ chunk) || tr.done.contains chunk then none
      else
        match s.chunkPlaces tr chunk with
        | .error f => some (s.engineFail h slot tr f)
        | .ok _ => none)

/-- The place of the completion counter, or the fault of the add (R244). -/
def State.counterPlace (s : State) (tr : Transfer) : Except AccessFault Loc :=
  match s.translate (tr.who s) .atomic false tr.counter with
  | .error c => .error (c, tr.counter)
  | .ok loc => if loc.lost || s.hasBad tr.tid loc.key 8 then .error (0x16, tr.counter) else .ok loc

/-- The completion add: a release at the transfer's scope over its writes (R244). -/
def State.completeAdd (s : State) (tr : Transfer) (loc : Loc) : State :=
  let s := (s.drain tr.tid tr.scope (fun e => e.tid == tr.tid && e.engine) []).noteLines [loc.key]
  let keys := (List.range 8).map (loc.key + ·)
  s.performFor tr.tid tr.origin keys (bytesOf ((s.drainAhead tr.tid keys).homeNum loc.key 8 + 1) 8)

/-- TRANSFER_COMPLETE: status 1, the completion add, retirement (R244). -/
def execTransferComplete (h : HartId) (slot : Nat) (s : State) : Outcome :=
  event s
    (match s.transferAt h slot with
    | none => none
    | some tr =>
      if tr.kind == .fold || decide (tr.done.length < tr.count) then none
      else
        match s.engineRecord tr 1 0 with
        | none => some ((s.dropTransfer h slot).pendFault tr.tid tr.rcd)
        | some s1 =>
          if tr.counter = 0 then some (s1.dropTransfer h slot)
          else
            match s1.counterPlace tr with
            | .error f => some (s1.engineFail h slot tr f)
            | .ok loc => some ((s1.completeAdd tr loc).dropTransfer h slot))

end Sys2Proof.Machine
end

