-- ==== Sys2Proof/Machine/Imm.lean ====
section
/-! DEFINITION. Immediate and shift-immediate instructions (spec/04_scalar_arithmetic.md R98, R99). -/

namespace Sys2Proof.Machine

/-- addi (R98). -/
def execAddi (d a : XReg) (k : BitVec 16) (s : State) : Outcome := s.completeX d (s.x a + k.signExtend 64)

/-- andi (R98). -/
def execAndi (d a : XReg) (k : BitVec 16) (s : State) : Outcome := s.completeX d (s.x a &&& k.zeroExtend 64)

/-- ori (R98). -/
def execOri (d a : XReg) (k : BitVec 16) (s : State) : Outcome := s.completeX d (s.x a ||| k.zeroExtend 64)

/-- xori (R98). -/
def execXori (d a : XReg) (k : BitVec 16) (s : State) : Outcome := s.completeX d (s.x a ^^^ k.zeroExtend 64)

/-- slli (R99). -/
def execSlli (d a : XReg) (n : BitVec 6) (s : State) : Outcome := s.completeX d (s.x a <<< n.toNat)

/-- srli (R99). -/
def execSrli (d a : XReg) (n : BitVec 6) (s : State) : Outcome := s.completeX d (s.x a >>> n.toNat)

/-- srai (R99). -/
def execSrai (d a : XReg) (n : BitVec 6) (s : State) : Outcome := s.completeX d ((s.x a).sshiftRight n.toNat)

/-- lui: sext16(k) times 2^16 (R98). -/
def execLui (d : XReg) (k : BitVec 16) (s : State) : Outcome := s.completeX d (k.signExtend 64 <<< 16)

/-- adr: the address of the adr word plus sext16(k) times 4 (R98). -/
def execAdr (d : XReg) (k : BitVec 16) (s : State) : Outcome := s.completeX d (s.pc + (k.signExtend 64 <<< 2))

end Sys2Proof.Machine
end

