-- ==== Sys2Proof/Machine/Mgmt.lean ====
section
/-! DEFINITION. Management commands (spec/24_package_links.md R404, spec/22_errors_spares.md R388), attestation (spec/18_contexts_translation.md
R338), and accesses from the Evsen and Sahair links (R406, R407). -/

namespace Sys2Proof.Machine

/-! ## The command ring -/

/-- A command slot: its key, its code, whether bytes +1 to +7 are zero, and its five argument words. -/
structure Command where
  slot  : Nat
  code  : Nat
  clean : Bool
  args  : Vector Word 5
deriving DecidableEq, Repr

def commandBase (s : State) : Nat := (s.homeWord managementBase).toNat

/-- The next command whose doorbell has been rung; none while the ring's address, its doorbell or the slot cannot be read (R379, R384;
assumption 69). -/
def State.nextCommand (s : State) : Option Command :=
  if s.boot.step < 8 ∨ s.unreadable managementBase ∨ s.unreadable (commandBase s - 8) ∨ s.unreadable (commandBase s + s.commands % 64 * 64) then none
  else if (s.homeWord (commandBase s - 8)).toNat = s.commands % 2 ^ 64 then none
  else
    let slot := commandBase s + s.commands % 64 * 64
    let w := s.homeWord slot
    some ⟨slot, (w.extractLsb' 0 8).toNat, w.extractLsb' 8 56 == 0#56, ⟨⟨(List.range 5).map fun k => s.homeWord (slot + 8 + 8 * k)⟩, by simp⟩⟩

/-- The slot's status word: 1 done, or 2 refused with a code. -/
def State.answer (s : State) (c : Command) (status code : Nat) : State :=
  ({ s with commands := s.commands + 1 } : State).writeHome (c.slot + 48) (wordBytes64 (BitVec.ofNat 64 (status + code * 256)))

/-- Serve the next command as `code`: a refusal code and nothing else changed, or what the command does. An unknown code is refused (R404). -/
def State.serve (s : State) (code : Nat) (f : Command → Except Nat State) : Option State :=
  match s.nextCommand with
  | none => none
  | some c =>
    if c.code = 0 ∨ 6 < c.code then some (s.answer c 2 1)
    else if c.code ≠ code then none
    else if !c.clean then some (s.answer c 2 1)
    else
      match f c with
      | .error k => some (s.answer c 2 k)
      | .ok s' => some (s'.answer c 1 0)

/-- What the part answers, as a refusal code. -/
def outcomeCode : RepairOutcome → Option Nat
  | .done => none
  | .busy => some 2
  | .noSpare => some 3
  | .failed => some 4

def refuseIf (b : Bool) (code : Nat) : Except Nat Unit := if b then .error code else .ok ()
def checkOutcome (o : RepairOutcome) : Except Nat Unit := match outcomeCode o with | some k => .error k | none => .ok ()

def Command.arg (c : Command) (k : Nat) : Word := (c.args.toArray.toList)[k]?.getD 0
/-- Every argument from k on is 0. -/
def Command.zeroFrom (c : Command) (k : Nat) : Bool := (c.args.toArray.toList.drop k).all fun w => w == 0

/-! ## Spares -/

def quadHarts (f : FieldId) (site : Nat) : List HartId := (List.range 4).map fun p => ⟨(f.val * 64 + site * 4 + p) % 512, Nat.mod_lt _ (by decide)⟩

/-- A context holds a hart or accumulator rows of the quad. -/
def State.quadHeld (s : State) (f : FieldId) (site : Nat) : Bool :=
  (quadHarts f site).any fun h =>
    !(s.hrt h).transfers.isEmpty || (hartThreads h).any fun t => (s.thr t).status != .off || !(s.arch t).acc.isEmpty

/-- Sites of a field that are neither enabled nor replaced. -/
def Field.spareSites (x : Field) : List Nat := (List.range 16).filter fun q => !x.sites.getLsbD q && !x.broken.getLsbD q

/-- SPARE_QUAD_SITE: command 1. -/
def execSpareQuadSite (outcome : RepairOutcome) (s : State) : Outcome :=
  event s <| s.serve 1 fun c => do
    let f : FieldId := fieldAtPos (c.arg 0).toNat
    let site := (c.arg 1).toNat
    refuseIf (decide (8 ≤ (c.arg 0).toNat) || decide (16 ≤ site) || !c.zeroFrom 2 || !(s.fld f).sites.getLsbD site) 1
    refuseIf (s.quadHeld f site) 2
    let spares := (s.fld f).spareSites
    refuseIf spares.isEmpty 3
    checkOutcome outcome
    let q := if Config.secondSpare s.fresh then (spares.getLast?).getD 0 else (spares.head?).getD 0
    let x := s.fld f
    let bit (n : Nat) : BitVec 16 := BitVec.ofNat 16 (2 ^ n)
    let s := { s.setFld f { x with sites := (x.sites &&& ~~~(bit site)) ||| bit q, broken := x.broken ||| bit site } with fresh := s.fresh + 1 }
    return s.report 14 f (Config.errorLoc (0x4_0000 + f.val * 16 + q)) 0 0xFFFF

def stackField (stack : Nat) : FieldId := fieldAtPos (stack / 2)

/-- POST_PACKAGE_REPAIR: command 2; the row's contents are kept. -/
def execPostPackageRepair (outcome : RepairOutcome) (s : State) : Outcome :=
  event s <| s.serve 2 fun c => do
    let st := (c.arg 0).toNat
    let ch := (c.arg 1).toNat
    refuseIf (decide (16 ≤ st) || decide (32 ≤ ch) || decide (1 < (c.arg 4).toNat)) 1
    checkOutcome outcome
    let row := (st, ch, (c.arg 2).toNat, (c.arg 3).toNat)
    let s : State := if c.arg 4 = 0 then { s with softRows := s.softRows ++ [row] } else { s with hardRows := s.hardRows ++ [row] }
    return s.report 14 (stackField st) (channelLoc st ch (some (c.arg 2).toNat)) 0 0xFFFF

/-- SPARE_VIA: command 3. -/
def execSpareVia (outcome : RepairOutcome) (s : State) : Outcome :=
  event s <| s.serve 3 fun c => do
    let st := (c.arg 0).toNat
    let ch := (c.arg 1).toNat
    refuseIf (decide (16 ≤ st) || decide (32 ≤ ch) || !c.zeroFrom 2) 1
    refuseIf (decide (5 ≤ (s.vias.filter (· == (st, ch))).length)) 3
    checkOutcome outcome
    let s : State := { s with vias := s.vias ++ [(st, ch)] }
    return s.report 14 (stackField st) (channelLoc st ch none) 0 0xFFFF

/-- SPARE_LINK_LANE: command 4. -/
def execSpareLinkLane (outcome : RepairOutcome) (s : State) : Outcome :=
  event s <| s.serve 4 fun c => do
    let n := (c.arg 0).toNat
    refuseIf (!c.zeroFrom 1) 1
    if h : n < 21 then
      let p := s.ports[n]
      refuseIf (p.spares == 0) 3
      checkOutcome outcome
      let s : State := { s with ports := s.ports.set n { p with spares := p.spares - 1, remapped := true } }
      return s.reportPort n 0xFFFF
    else .error 1

/-! ## Attestation (R338) -/

/-- A byte that leaves the device: an uncorrectable error is answered with a free value (assumption 7). -/
def State.answerByte (s : State) (pa j : Nat) : Byte :=
  let k := pa + j
  if s.unreadable k then Config.badByte (s.fresh + j) else s.homeByte k

/-- Bytes 0 to 247 of a report. -/
def State.attested (s : State) (nonce : List Byte) (c : CtxId) : List Byte :=
  let st := s.descState c
  let measure := if st = 0 then List.replicate 64 0 else (List.range 64).map fun j => s.homeByte (descriptorOf c + 104 + j)
  bytesOf 1 4 ++ bytesOf s.devid.toNat 4 ++ bytesOf (c.val + st.toNat * 256) 4 ++ bytesOf 0 4 ++ nonce ++ digestBytes s.m0 ++ digestBytes s.m1 ++
    measure ++ bytesOf Config.fusedVersion.toNat 8

/-- A report with its signature. -/
def State.attestation (s : State) (nonce : List Byte) (c : CtxId) : List Byte :=
  let body := s.attested nonce c
  body ++ bytesOf (Config.falconSign (Config.shake256 body)).toNat 1280

/-- Traffic from the links and the management controller, which lie in F0, reaches a field that is up and not fenced, once every crossing between
it and F0 has trained, and for die 1 the die-to-die interface (R396, R397). -/
def State.reaches (s : State) (f : FieldId) : Bool :=
  !(s.fld f).fenced && (f.val == 0 ||
    ((s.fld f).up && (f.val < 4 || 5 ≤ s.boot.step) &&
      (List.range 6).all fun k =>
        decide (f.val < (beyondCrossing k).getD 7) || s.boot.crossed.contains ⟨k % 6, Nat.mod_lt _ (by decide)⟩))

/-- The whole range lies in HBM that is present and can be reached. -/
def State.hbmRange (s : State) (pa len : Nat) : Bool :=
  namesHbm pa && namesHbm (pa + len - 1) && s.reaches (stackField (stackOf pa)) && s.reaches (stackField (stackOf (pa + len - 1)))

/-- ATTESTATION_REPORT_COMMAND: command 5. -/
def execAttestationReportCommand (s : State) : Outcome :=
  event s <| s.serve 5 fun c => do
    let n := (c.arg 0).toNat
    let k := (c.arg 1).toNat
    let dst := (c.arg 2).toNat
    refuseIf (!c.zeroFrom 3 || dst % 8 != 0 || !s.hbmRange n 32 || !s.hbmRange dst 1528) 1
    if h : k < 64 then 
      let s' := s.writeHome dst (s.attestation ((List.range 32).map (s.answerByte n)) ⟨k, h⟩)
      return { s' with fresh := s'.fresh + 32 }
    else .error 1

/-- ATTESTATION_REQUEST over the Evsen link. -/
def execAttestationRequest (nonce : BitVec 256) (c : CtxId) (s : State) : Outcome :=
  event s
    (if s.boot.step = 0 ∨ s.ports[18].down then none
    else some { s with linkOut := s.linkOut ++ [.attestation (s.attestation (bytesOf nonce.toNat 32) c)] })

/-! ## Status (R404) -/

def State.sensorSummary (s : State) : List Byte :=
  wordBytes64 (s.controllerStatus true) ++ (s.fields.toArray.toList.flatMap fun f => bytesOf f.iscur.toNat 2) ++
    (s.hbm.toArray.toList.map Stack.celsius) ++ (s.dies.toArray.toList.map Die.celsius) ++ List.replicate 22 0

/-- STATUS_READ: command 6. -/
def execStatusRead (s : State) : Outcome :=
  event s <| s.serve 6 fun c => do
    let dst := (c.arg 0).toNat
    refuseIf (!c.zeroFrom 1 || dst % 64 != 0 || !s.hbmRange dst 64) 1
    return s.writeHome dst s.sensorSummary

/-! ## Accesses from outside (R406, R407) -/

/-- The host or a peer writes at the home: plain bytes, which make their frames raw (assumption 56). Those for a retired channel are discarded and
reported (R384). -/
def State.writeOutside (s : State) (pa : Nat) (bytes : List Byte) : State :=
  let bs := storeBytes pa bytes
  let kept := bs.filter fun b => !s.isRetired b.key
  let s := match bs.find? fun b => s.isRetired b.key with
    | some b => s.report 8 (fieldOfKey b.key) (channelLoc (stackOf b.key) (channelOf (frameOf b.key)).val none) (BitVec.ofNat 64 b.key) 0xFFFF
    | none => s
  (s.perform kept (rawTags kept)).reportHits true none (kept.map fun b => (none, b.key))

def OutsideOp.place : OutsideOp → Nat × Nat
  | .read pa len => (pa.toNat, len)
  | .write pa bytes => (pa.toNat, bytes.length)
  | .atomic _ w pa _ _ => (pa.toNat, amoBytes w)

/-- The bytes that an access from outside reads: errors that it finds poison their frames, each line of a region that is not live is counted, and a
read that writes nothing is reported as one (R171, R378, R385, R393; assumptions 7, 15, 34). -/
def State.noteAnswer (s : State) (pa len : Nat) (writes : Bool) : State :=
  let keys := (List.range len).map (pa + ·)
  ((if writes then s.noteLines keys else s.noteRead none (keys.map fun k => (none, k)))).findErrors keys

/-- One access of the host or of a peer, performed at its home. -/
def State.outsideAccess (s : State) (op : OutsideOp) : State :=
  match op with
  | .read pa len =>
    let s' := s.noteAnswer pa.toNat len false
    { s' with linkOut := s'.linkOut ++ [.answer ((List.range len).map fun j => s.answerByte pa.toNat j)], fresh := s'.fresh + len }
  | .write pa bytes => s.writeOutside pa.toNat bytes
  | .atomic o w pa b e =>
    let len := amoBytes w
    let old := (List.range len).foldr (fun j acc => acc * 256 + (s.answerByte pa.toNat j).toNat) 0
    let new := (atomicNew o w old (b.toNat % 2 ^ (8 * len)) (e.toNat % 2 ^ (8 * len))).1
    let s := s.noteAnswer pa.toNat len new.isSome
    let s := { s with linkOut := s.linkOut ++ [LinkMsg.answer (bytesOf old len)], fresh := s.fresh + len }
    match new with
    | some v => s.writeOutside pa.toNat (bytesOf v len)
    | none => s

/-- The access names memory that is there. -/
def State.outsideOk (s : State) (op : OutsideOp) : Bool :=
  let p := OutsideOp.place op
  decide (0 < p.2) && s.hbmRange p.1 p.2

/-- HOST_ACCESS (R406). -/
def execHostAccess (op : OutsideOp) (s : State) : Outcome :=
  event s (if 3 ≤ s.boot.step ∧ !s.ports[18].down ∧ s.outsideOk op then some (s.outsideAccess op) else none)

/-- REMOTE_REQUEST: performed, or dropped and reported at its port when it names another device (R392, R407). -/
def execRemoteRequest (dev : Addressee) (op : OutsideOp) (s : State) : Outcome :=
  event s
    (if s.ports[dev.port.val].down then none
    else if dev.dev ≠ s.devid then some (State.reportPort { s with linkOut := s.linkOut ++ [.dropped dev.dev] } dev.port.val 0xFFFF)
    else if 3 ≤ s.boot.step ∧ s.outsideOk op then some (s.outsideAccess op)
    else none)

end Sys2Proof.Machine
end

