-- ==== Sys2Proof/Machine/Press.lean ====
section
/-! DEFINITION. The press: a fold in flight (spec/19_layered_tensors.md R353 to R355). The hold of the handle, the swap and the release are one
step, so no access to the record falls between them (R354). -/

namespace Sys2Proof.Machine

/-- The press acts for the thread that issued lfold, and never reaches the local window (R331, R419). -/
def Transfer.press (tr : Transfer) (s : State) : Who := { tr.who s with window := false }

/-- The record of a fold: its fault, or subcode 3 (R355). -/
def State.foldRecord (s : State) (tr : Transfer) : Except Stop Handle := do
  let r ← s.readHandle (tr.press s) tr.htbase (handleIndex tr.rcd)
  if r.malformed then .error (handleTrap 3 (handleIndex tr.rcd) 0) else return r

/-- What the press writes for one frame: the place of T's frame, its bytes, its tag and the flags; or the fault that abandons the fold. -/
def State.foldFrame (s : State) (tr : Transfer) (frame : Nat) : Except Stop (List Nat × List Byte × BitVec 16 × BitVec 5) := do
  let w := tr.press s
  let h := handleIndex tr.rcd
  let r ← s.foldRecord tr
  let base := shapeOf (← s.readHome w r.base 32)
  let target := shapeOf (← s.readHome w tr.dst 32)
  let i := frame / base.cols
  let j := frame % base.cols
  let fa := base.frame i j
  match s.placed w .load false fa with
  | .error c => .error (.trap c fa)
  | .ok loc =>
    let tag ← s.readTag w true loc fa
    tagChecks base.tag tag fa
    let f ← amendableFrame base loc.key h
    let p ← s.amendedTile w base h (r.layers.take tr.op) f tag fa i j false
    let keys ← s.locateStruct w .store (target.frame i j) 4096
    return (keys, p.1, (tag &&& 0x00E0) ||| (base.tag &&& 0xF800) ||| (tag &&& 0x000F), p.2)

/-- What the press reads for one frame, up to the read that faults. -/
def State.foldReads (s : State) (tr : Transfer) (frame : Nat) : List (Word × Nat) :=
  let w := tr.press s
  match s.foldRecord tr with
  | .error _ => []
  | .ok r =>
    match s.readHome w r.base 32 with
    | .error _ => [(r.base, 32)]
    | .ok b =>
      let base := shapeOf b
      let fa := base.frame (frame / base.cols) (frame % base.cols)
      let target := if (s.readHome w tr.dst 32).isOk then
          match s.placed w .load false fa with
          | .ok loc =>
            match s.readTag w true loc fa with
            | .ok tag => if (tagChecks base.tag tag fa).isOk then s.amendedReads w base (handleIndex tr.rcd) (r.layers.take tr.op) tag fa
                (frame / base.cols) (frame % base.cols) else []
            | .error _ => []
          | .error _ => []
        else []
      (r.base, 32) :: (tr.dst, 32) :: target

/-- The press has read its record and the structures named (R385). -/
def State.notePress (s : State) (tr : Transfer) (l : List (Word × Nat)) : State :=
  (s.noteStruct (tr.press s).onRecords (handleAddr tr.htbase (handleIndex tr.rcd)) 128).noteReads (tr.press s) l

/-- PRESS_FRAME_WRITE: one amended frame of the prefix written to T with its tag, at its home (R353). -/
def execPressFrameWrite (h : HartId) (slot frame : Nat) (s : State) : Outcome :=
  event s
    (match s.transferAt h slot with
    | none => none
    | some tr =>
      if tr.kind != .fold || decide (tr.count ≤ frame) || tr.done.contains frame then none
      else
        match s.foldFrame tr frame with
        | .error _ => none
        | .ok p =>
          let bs := p.1.zipWith (fun k b => (⟨k, b, 0xFF⟩ : SByte)) p.2.1
          let tags := ((p.1.filter isTagged).map frameOf).dedup.map fun f => (f, TagWrite.set p.2.2.1)
          let s := (((s.notePress tr (s.foldReads tr frame)).drainAhead tr.tid p.1).perform bs tags).reportHits true (tr.press s).maker
            (p.1.map fun k => (none, k))
          let s := s.raise tr.tid p.2.2.2
          some (s.putTransfer h slot { tr with done := frame :: tr.done }))

/-- The record and its place at the swap (R353). -/
def State.foldPlace (s : State) (tr : Transfer) : Except Stop (Handle × List Nat) := do
  let r ← s.foldRecord tr
  let keys ← s.locateStruct (tr.press s).onRecords .store (handleAddr tr.htbase (handleIndex tr.rcd)) 128
  return (r, keys)

/-- The record after the swap: the target as base, the folded prefix gone (R353). -/
def Handle.swapped (r : Handle) : Handle :=
  { r with
    base := r.target, layers := r.layers.drop r.k ++ List.replicate (min r.k 8) 0, n := r.n - r.k, k := 0, target := 0, busy := false
    gen := r.gen + 1 }

/-- PRESS_SWAP: the pennant, then the new base and the shortened list (R353). -/
def execPressSwap (h : HartId) (slot : Nat) (s : State) : Outcome :=
  event s
    (match s.transferAt h slot with
    | none => none
    | some tr =>
      if tr.kind != .fold || decide (tr.done.length < tr.count) then none
      else
        match s.foldPlace tr with
        | .error _ => none
        | .ok p => some ((((s.notePress tr []).raisePennant tr 0).performFor tr.tid tr.origin p.2 p.1.swapped.bytes).dropTransfer h slot))

/-- TVAL of an abandoned fold: handle, cause, subcode and layer (R355). -/
def foldVal (h : Nat) (cause : BitVec 8) (val : Word) : Word :=
  let sub := if cause = 0x0F then val &&& 0xFF else 0
  let layer := if sub = 4 ∨ sub = 5 then (val.extractLsb' 20 4).setWidth 64 else 0
  BitVec.ofNat 64 h ||| (cause.setWidth 64 <<< 12) ||| (sub <<< 20) ||| (layer <<< 28) ||| 0x8000_0000_0000_0000

/-- The record returns to fold busy 0, k 0 and target 0, every other bit as it stands (R355). -/
def State.unfold (s : State) (tr : Transfer) : State :=
  match s.locateStruct (tr.press s).onRecords .store (handleAddr tr.htbase (handleIndex tr.rcd)) 128 with
  | .error _ => s
  | .ok keys =>
    let old := keys.map s.homeByte
    let new := bytesOf (word64At old 0 &&& ~~~0xF1_0000#64).toNat 8 ++ (old.drop 8).take 16 ++ List.replicate 8 0 ++ old.drop 32
    s.performFor tr.tid tr.origin keys new

/-- What the press finds that abandons the fold: a fault of a frame still to be written, or of the record at the swap (R355). -/
def State.foldFault (s : State) (tr : Transfer) (frame : Nat) : Option (BitVec 8 × Word) :=
  if decide (frame < tr.count) && !tr.done.contains frame then
    match s.foldFrame tr frame with
    | .error (.trap c v) => some (c, v)
    | _ => none
  else if decide (tr.count ≤ tr.done.length) then
    match s.foldPlace tr with
    | .error (.trap c v) => some (c, v)
    | _ => none
  else none

/-- FOLD_ABANDON (R355). -/
def execFoldAbandon (h : HartId) (slot frame : Nat) (s : State) : Outcome :=
  event s
    (match s.transferAt h slot with
    | none => none
    | some tr =>
      if tr.kind != .fold then none
      else
        match s.foldFault tr frame with
        | none => none
        | some f =>
          let s := s.notePress tr (if decide (frame < tr.count) && !tr.done.contains frame then s.foldReads tr frame else [])
          let s := if f.1 = 0x16 then s.noteFound (tr.press s) f.2 else s
          some (((s.unfold tr).dropTransfer h slot).pendFault tr.tid (foldVal (handleIndex tr.rcd) f.1 f.2)))

end Sys2Proof.Machine
end

