-- ==== Sys2Proof/Machine/Salu.lean ====
section
/-! DEFINITION. Register-register integer instructions (spec/04_scalar_arithmetic.md R97, spec/03_number_formats.md R61, R62). -/

namespace Sys2Proof.Machine

/-- The shift amount: bits [5:0] of xb (R97). -/
def shiftAmount (b : Word) : Nat := (b.extractLsb' 0 6).toNat

/-- Number of leading zero bits (R97). -/
def leadingZeros (a : Word) : Nat := if a = 0 then 64 else 63 - Nat.log2 a.toNat
/-- Number of trailing zero bits (R97). -/
def trailingZeros (a : Word) : Nat := ((List.range 64).find? fun i => a.getLsbD i).getD 64
/-- Number of one bits (R97). -/
def onesCount (a : Word) : Nat := (List.range 64).foldl (fun n i => if a.getLsbD i then n + 1 else n) 0

/-- Signed quotient toward zero; -1 for a zero divisor, and -2^63 for -2^63 divided by -1 (R62). -/
def quotS (a b : Word) : Word := if b = 0 then BitVec.allOnes 64 else BitVec.ofInt 64 (Int.tdiv a.toInt b.toInt)
/-- Unsigned quotient; all ones for a zero divisor (R62). -/
def quotU (a b : Word) : Word := if b = 0 then BitVec.allOnes 64 else BitVec.ofNat 64 (a.toNat / b.toNat)

/-- add: the sum (R97). -/
def execAdd (d a b : XReg) (s : State) : Outcome := s.completeX d (s.x a + s.x b)

/-- sub: the difference (R97). -/
def execSub (d a b : XReg) (s : State) : Outcome := s.completeX d (s.x a - s.x b)

/-- and: the bitwise and (R97). -/
def execAnd (d a b : XReg) (s : State) : Outcome := s.completeX d (s.x a &&& s.x b)

/-- or: the bitwise or (R97). -/
def execOr (d a b : XReg) (s : State) : Outcome := s.completeX d (s.x a ||| s.x b)

/-- xor: the exclusive or (R97). -/
def execXor (d a b : XReg) (s : State) : Outcome := s.completeX d (s.x a ^^^ s.x b)

/-- sll: the left shift (R97). -/
def execSll (d a b : XReg) (s : State) : Outcome := s.completeX d (s.x a <<< shiftAmount (s.x b))

/-- srl: the logical right shift (R97). -/
def execSrl (d a b : XReg) (s : State) : Outcome := s.completeX d (s.x a >>> shiftAmount (s.x b))

/-- sra: the arithmetic right shift (R97). -/
def execSra (d a b : XReg) (s : State) : Outcome := s.completeX d ((s.x a).sshiftRight (shiftAmount (s.x b)))

/-- slt: the signed comparison (R97). -/
def execSlt (d a b : XReg) (s : State) : Outcome := s.completeX d (if (s.x a).toInt < (s.x b).toInt then 1 else 0)

/-- sltu: the unsigned comparison (R97). -/
def execSltu (d a b : XReg) (s : State) : Outcome := s.completeX d (if (s.x a).toNat < (s.x b).toNat then 1 else 0)

/-- mul: the low half of the product (R97). -/
def execMul (d a b : XReg) (s : State) : Outcome := s.completeX d (s.x a * s.x b)

/-- mulh: the high half of the signed product (R97). -/
def execMulh (d a b : XReg) (s : State) : Outcome := s.completeX d (BitVec.ofInt 64 ((s.x a).toInt * (s.x b).toInt / 2 ^ 64))

/-- mulhu: the high half of the unsigned product (R97). -/
def execMulhu (d a b : XReg) (s : State) : Outcome := s.completeX d (BitVec.ofNat 64 ((s.x a).toNat * (s.x b).toNat / 2 ^ 64))

/-- div: the signed quotient (R97). -/
def execDiv (d a b : XReg) (s : State) : Outcome := s.completeX d (quotS (s.x a) (s.x b))

/-- divu: the unsigned quotient (R97). -/
def execDivu (d a b : XReg) (s : State) : Outcome := s.completeX d (quotU (s.x a) (s.x b))

/-- clz (R97). -/
def execClz (d a : XReg) (s : State) : Outcome := s.completeX d (BitVec.ofNat 64 (leadingZeros (s.x a)))

/-- ctz (R97). -/
def execCtz (d a : XReg) (s : State) : Outcome := s.completeX d (BitVec.ofNat 64 (trailingZeros (s.x a)))

/-- popc (R97). -/
def execPopc (d a : XReg) (s : State) : Outcome := s.completeX d (BitVec.ofNat 64 (onesCount (s.x a)))

end Sys2Proof.Machine
end

