-- ==== Sys2Proof/Machine/Sfpu.lean ====
section
/-! DEFINITION. Scalar floating-point instructions (spec/04_scalar_arithmetic.md R100, R101, R104; spec/03_number_formats.md R66 to R81). -/

namespace Sys2Proof.Machine

/-- wrF: an FP32 result goes to bits [31:0] and clears bits [63:32]; an FP64 result fills the register (R17). The flags are raised whatever the
destination (R101). -/
def State.completeF (s : State) (d : XReg) (r : Nat × BitVec 5) : Outcome :=
  .next ((s.setX d (BitVec.ofNat 64 r.1)).raiseOwn r.2).retire

/-- The value of a source register in the instruction's format (R96). -/
def State.f (s : State) (p : Prec) (r : XReg) : FVal := fpOperand p (s.x r)

/-- fadd: the sum (R100). -/
def execFadd (p : Prec) (d a b : XReg) (s : State) : Outcome :=
  s.completeF d (fadd (precFmt p) (s.f p a) (s.f p b))

/-- fsub: the difference (R100). -/
def execFsub (p : Prec) (d a b : XReg) (s : State) : Outcome :=
  s.completeF d (fsub (precFmt p) (s.f p a) (s.f p b))

/-- fmul: the product (R100). -/
def execFmul (p : Prec) (d a b : XReg) (s : State) : Outcome :=
  s.completeF d (fmul (precFmt p) (s.f p a) (s.f p b))

/-- fdiv: the quotient (R100). -/
def execFdiv (p : Prec) (d a b : XReg) (s : State) : Outcome :=
  s.completeF d (fdiv (precFmt p) (s.f p a) (s.f p b))

/-- fsqrt: the square root (R100). -/
def execFsqrt (p : Prec) (d a : XReg) (s : State) : Outcome :=
  s.completeF d (fsqrt (precFmt p) (s.f p a))

/-- fmin: the minimum under R72 (R100). -/
def execFmin (p : Prec) (d a b : XReg) (s : State) : Outcome :=
  s.completeF d (fminmax (precFmt p) false (fpBits p (s.x a)) (fpBits p (s.x b)))

/-- fmax: the maximum under R72 (R100). -/
def execFmax (p : Prec) (d a b : XReg) (s : State) : Outcome :=
  s.completeF d (fminmax (precFmt p) true (fpBits p (s.x a)) (fpBits p (s.x b)))

/-- fma: xa times xb plus xd, one rounding; xd is read before it is written (R101) (R100). -/
def execFma (p : Prec) (d a b : XReg) (s : State) : Outcome :=
  s.completeF d (ffma (precFmt p) (s.f p a) (s.f p b) (s.f p d))

/-- A comparison's result as a register value with its flags (R73). -/
def fcmpBit (r : Rel) (a b : FVal) : Nat × BitVec 5 := (if (fcmp r a b).1 then 1 else 0, (fcmp r a b).2)

/-- fcmplt: 1 if the relation holds, else 0 (R100). -/
def execFcmplt (p : Prec) (d a b : XReg) (s : State) : Outcome :=
  s.completeF d (fcmpBit .lt (s.f p a) (s.f p b))

/-- fcmple: 1 if the relation holds, else 0 (R100). -/
def execFcmple (p : Prec) (d a b : XReg) (s : State) : Outcome :=
  s.completeF d (fcmpBit .le (s.f p a) (s.f p b))

/-- fcmpeq: 1 if the relation holds, else 0 (R100). -/
def execFcmpeq (p : Prec) (d a b : XReg) (s : State) : Outcome :=
  s.completeF d (fcmpBit .eq (s.f p a) (s.f p b))

/-- fcvtfi: signed INT64 to float (R100). -/
def execFcvtfi (p : Prec) (d a : XReg) (s : State) : Outcome :=
  s.completeF d (ofInt (precFmt p) (s.x a).toInt)

/-- fcvtif: float to signed INT64 in the mode r (R100). -/
def execFcvtif (p : Prec) (r : RMode) (d a : XReg) (s : State) : Outcome :=
  s.completeF d (toInt r 64 (s.f p a))

end Sys2Proof.Machine
end

