-- ==== Sys2Proof/Machine/VecExec.lean ====
section
/-! DEFINITION. The vector instructions of majors 0x1A to 0x23, each executed as a member of its convoy (spec/02_instruction_words.md R53, R58). -/

namespace Sys2Proof.Machine

/-- VADD (R118). -/
def execVadd (m : Bool) (d a : VReg) (b : VSrc) (s : State) : Outcome := s.runVector (.vadd m d a b) (memberVadd m d a b)
/-- VSUB (R118). -/
def execVsub (m : Bool) (d a : VReg) (b : VSrc) (s : State) : Outcome := s.runVector (.vsub m d a b) (memberVsub m d a b)
/-- VMUL (R118). -/
def execVmul (m : Bool) (d a : VReg) (b : VSrc) (s : State) : Outcome := s.runVector (.vmul m d a b) (memberVmul m d a b)
/-- VAND (R118). -/
def execVand (m : Bool) (d a : VReg) (b : VSrc) (s : State) : Outcome := s.runVector (.vand m d a b) (memberVand m d a b)
/-- VOR (R118). -/
def execVor (m : Bool) (d a : VReg) (b : VSrc) (s : State) : Outcome := s.runVector (.vor m d a b) (memberVor m d a b)
/-- VXOR (R118). -/
def execVxor (m : Bool) (d a : VReg) (b : VSrc) (s : State) : Outcome := s.runVector (.vxor m d a b) (memberVxor m d a b)
/-- VSLL (R118). -/
def execVsll (m : Bool) (d a : VReg) (b : VSrc) (s : State) : Outcome := s.runVector (.vsll m d a b) (memberVsll m d a b)
/-- VSRL (R118). -/
def execVsrl (m : Bool) (d a : VReg) (b : VSrc) (s : State) : Outcome := s.runVector (.vsrl m d a b) (memberVsrl m d a b)
/-- VSRA (R118). -/
def execVsra (m : Bool) (d a : VReg) (b : VSrc) (s : State) : Outcome := s.runVector (.vsra m d a b) (memberVsra m d a b)
/-- VMIN (R118). -/
def execVmin (m : Bool) (d a : VReg) (b : VSrc) (s : State) : Outcome := s.runVector (.vmin m d a b) (memberVmin m d a b)
/-- VMAX (R118). -/
def execVmax (m : Bool) (d a : VReg) (b : VSrc) (s : State) : Outcome := s.runVector (.vmax m d a b) (memberVmax m d a b)
/-- VSADD (R118). -/
def execVsadd (m : Bool) (d a : VReg) (b : VSrc) (s : State) : Outcome := s.runVector (.vsadd m d a b) (memberVsadd m d a b)
/-- VSSUB (R118). -/
def execVssub (m : Bool) (d a : VReg) (b : VSrc) (s : State) : Outcome := s.runVector (.vssub m d a b) (memberVssub m d a b)
/-- VPOPC (R118). -/
def execVpopc (m : Bool) (d a : VReg) (s : State) : Outcome := s.runVector (.vpopc m d a) (memberVpopc m d a)
/-- VMERGE (R118). -/
def execVmerge (d a : VReg) (b : VSrc) (s : State) : Outcome := s.runVector (.vmerge d a b) (memberVmerge d a b)
/-- VMV (R118). -/
def execVmv (m : Bool) (d a : VReg) (s : State) : Outcome := s.runVector (.vmv m d a) (memberVmv m d a)
/-- VMV_SCALAR (R118). -/
def execVmvScalar (m : Bool) (d : VReg) (b : XReg) (s : State) : Outcome := s.runVector (.vmvScalar m d b) (memberVmvScalar m d b)
/-- VID (R118). -/
def execVid (m : Bool) (d : VReg) (s : State) : Outcome := s.runVector (.vid m d) (memberVid m d)
/-- VWIDEN (R119). -/
def execVwiden (m sgn : Bool) (d a : VReg) (b : VSrc) (s : State) : Outcome := s.runVector (.vwiden m sgn d a b) (memberVwiden m sgn d a b)
/-- VNARROW (R119). -/
def execVnarrow (m sgn : Bool) (d a : VReg) (b : VSrc) (s : State) : Outcome := s.runVector (.vnarrow m sgn d a b) (memberVnarrow m sgn d a b)
/-- VCMPEQ (R120). -/
def execVcmpeq (m : Bool) (d a : VReg) (b : VSrc) (s : State) : Outcome := s.runVector (.vcmpeq m d a b) (memberVcmpeq m d a b)
/-- VCMPNE (R120). -/
def execVcmpne (m : Bool) (d a : VReg) (b : VSrc) (s : State) : Outcome := s.runVector (.vcmpne m d a b) (memberVcmpne m d a b)
/-- VCMPLT (R120). -/
def execVcmplt (m : Bool) (d a : VReg) (b : VSrc) (s : State) : Outcome := s.runVector (.vcmplt m d a b) (memberVcmplt m d a b)
/-- VCMPLTU (R120). -/
def execVcmpltu (m : Bool) (d a : VReg) (b : VSrc) (s : State) : Outcome := s.runVector (.vcmpltu m d a b) (memberVcmpltu m d a b)
/-- VCMPLE (R120). -/
def execVcmple (m : Bool) (d a : VReg) (b : VSrc) (s : State) : Outcome := s.runVector (.vcmple m d a b) (memberVcmple m d a b)
/-- VCMPLEU (R120). -/
def execVcmpleu (m : Bool) (d a : VReg) (b : VSrc) (s : State) : Outcome := s.runVector (.vcmpleu m d a b) (memberVcmpleu m d a b)
/-- VFCMPEQ (R120). -/
def execVfcmpeq (m : Bool) (d a : VReg) (b : VSrc) (s : State) : Outcome := s.runVector (.vfcmpeq m d a b) (memberVfcmpeq m d a b)
/-- VFCMPLT (R120). -/
def execVfcmplt (m : Bool) (d a : VReg) (b : VSrc) (s : State) : Outcome := s.runVector (.vfcmplt m d a b) (memberVfcmplt m d a b)
/-- VFCMPLE (R120). -/
def execVfcmple (m : Bool) (d a : VReg) (b : VSrc) (s : State) : Outcome := s.runVector (.vfcmple m d a b) (memberVfcmple m d a b)
/-- VFADD (R121). -/
def execVfadd (m : Bool) (d a b : VReg) (s : State) : Outcome := s.runVector (.vfadd m d a b) (memberVfadd m d a b)
/-- VFSUB (R121). -/
def execVfsub (m : Bool) (d a b : VReg) (s : State) : Outcome := s.runVector (.vfsub m d a b) (memberVfsub m d a b)
/-- VFMUL (R121). -/
def execVfmul (m : Bool) (d a b : VReg) (s : State) : Outcome := s.runVector (.vfmul m d a b) (memberVfmul m d a b)
/-- VFMA (R121). -/
def execVfma (m : Bool) (d a b : VReg) (s : State) : Outcome := s.runVector (.vfma m d a b) (memberVfma m d a b)
/-- VFDIV (R121). -/
def execVfdiv (m : Bool) (d a b : VReg) (s : State) : Outcome := s.runVector (.vfdiv m d a b) (memberVfdiv m d a b)
/-- VFMIN (R121). -/
def execVfmin (m : Bool) (d a b : VReg) (s : State) : Outcome := s.runVector (.vfmin m d a b) (memberVfmin m d a b)
/-- VFMAX (R121). -/
def execVfmax (m : Bool) (d a b : VReg) (s : State) : Outcome := s.runVector (.vfmax m d a b) (memberVfmax m d a b)
/-- VFSCALE (R121). -/
def execVfscale (m : Bool) (d a b : VReg) (s : State) : Outcome := s.runVector (.vfscale m d a b) (memberVfscale m d a b)
/-- VFCVTFI (R121). -/
def execVfcvtfi (m : Bool) (d a : VReg) (s : State) : Outcome := s.runVector (.vfcvtfi m d a) (memberVfcvtfi m d a)
/-- VFCVTIF (R121). -/
def execVfcvtif (m : Bool) (r : RMode) (d a : VReg) (s : State) : Outcome := s.runVector (.vfcvtif m r d a) (memberVfcvtif m r d a)
/-- VFWIDEN (R122). -/
def execVfwiden (m : Bool) (n : Narrow) (d a : VReg) (s : State) : Outcome := s.runVector (.vfwiden m n d a) (memberVfwiden m n d a)
/-- VFNARROW (R122). -/
def execVfnarrow (m : Bool) (n : Narrow) (d a : VReg) (s : State) : Outcome := s.runVector (.vfnarrow m n d a) (memberVfnarrow m n d a)
/-- VFLOGT (R123). -/
def execVflogt (m : Bool) (d a b : VReg) (s : State) : Outcome := s.runVector (.vflogt m d a b) (memberVflogt m d a b)
/-- VMAND (R124). -/
def execVmand (m : Bool) (d a b : VReg) (s : State) : Outcome := s.runVector (.vmand m d a b) (memberVmand m d a b)
/-- VMOR (R124). -/
def execVmor (m : Bool) (d a b : VReg) (s : State) : Outcome := s.runVector (.vmor m d a b) (memberVmor m d a b)
/-- VMXOR (R124). -/
def execVmxor (m : Bool) (d a b : VReg) (s : State) : Outcome := s.runVector (.vmxor m d a b) (memberVmxor m d a b)
/-- VMPOPC (R124). -/
def execVmpopc (m : Bool) (d : XReg) (a : VReg) (s : State) : Outcome := s.runVector (.vmpopc m d a) (memberVmpopc m d a)
/-- VMFIRST (R124). -/
def execVmfirst (m : Bool) (d : XReg) (a : VReg) (s : State) : Outcome := s.runVector (.vmfirst m d a) (memberVmfirst m d a)
/-- VREDSUM (R136). -/
def execVredsum (m : Bool) (p : Depth) (d a : VReg) (n : NReg) (s : State) : Outcome := s.runVector (.vredsum m p d a n) (memberVredsum m p d a n)
/-- VREDMIN (R136). -/
def execVredmin (m : Bool) (p : Depth) (d a : VReg) (n : NReg) (s : State) : Outcome := s.runVector (.vredmin m p d a n) (memberVredmin m p d a n)
/-- VREDMAX (R136). -/
def execVredmax (m : Bool) (p : Depth) (d a : VReg) (n : NReg) (s : State) : Outcome := s.runVector (.vredmax m p d a n) (memberVredmax m p d a n)
/-- VREDAND (R136). -/
def execVredand (m : Bool) (p : Depth) (d a : VReg) (n : NReg) (s : State) : Outcome := s.runVector (.vredand m p d a n) (memberVredand m p d a n)
/-- VREDOR (R136). -/
def execVredor (m : Bool) (p : Depth) (d a : VReg) (n : NReg) (s : State) : Outcome := s.runVector (.vredor m p d a n) (memberVredor m p d a n)
/-- VREDXOR (R136). -/
def execVredxor (m : Bool) (p : Depth) (d a : VReg) (n : NReg) (s : State) : Outcome := s.runVector (.vredxor m p d a n) (memberVredxor m p d a n)
/-- VFREDSUM (R136). -/
def execVfredsum (m : Bool) (p : Depth) (d a : VReg) (n : NReg) (s : State) : Outcome := s.runVector (.vfredsum m p d a n) (memberVfredsum m p d a n)
/-- VFREDMIN (R136). -/
def execVfredmin (m : Bool) (p : Depth) (d a : VReg) (n : NReg) (s : State) : Outcome := s.runVector (.vfredmin m p d a n) (memberVfredmin m p d a n)
/-- VFREDMAX (R136). -/
def execVfredmax (m : Bool) (p : Depth) (d a : VReg) (n : NReg) (s : State) : Outcome := s.runVector (.vfredmax m p d a n) (memberVfredmax m p d a n)
/-- VREDMINX (R137). -/
def execVredminx (m : Bool) (p : Depth) (h : BitVec 4) (a : VReg) (n : NReg) (s : State) : Outcome := s.runVector (.vredminx m p h a n) (memberVredminx m p h a n)
/-- VFREDMAXX (R137). -/
def execVfredmaxx (m : Bool) (p : Depth) (h : BitVec 4) (a : VReg) (n : NReg) (s : State) : Outcome := s.runVector (.vfredmaxx m p h a n) (memberVfredmaxx m p h a n)
/-- VSCANSUM (R138). -/
def execVscansum (m ex : Bool) (p : Depth) (d a : VReg) (n : NReg) (s : State) : Outcome := s.runVector (.vscansum m ex p d a n) (memberVscansum m ex p d a n)
/-- VSCANMAX (R138). -/
def execVscanmax (m ex : Bool) (p : Depth) (d a : VReg) (n : NReg) (s : State) : Outcome := s.runVector (.vscanmax m ex p d a n) (memberVscanmax m ex p d a n)
/-- VFSCANSUM (R138). -/
def execVfscansum (m ex : Bool) (p : Depth) (d a : VReg) (n : NReg) (s : State) : Outcome := s.runVector (.vfscansum m ex p d a n) (memberVfscansum m ex p d a n)
/-- VFSCANMAX (R138). -/
def execVfscanmax (m ex : Bool) (p : Depth) (d a : VReg) (n : NReg) (s : State) : Outcome := s.runVector (.vfscanmax m ex p d a n) (memberVfscanmax m ex p d a n)
/-- VDIST (R139). -/
def execVdist (m : Bool) (p : Depth) (d a : VReg) (n : NReg) (s : State) : Outcome := s.runVector (.vdist m p d a n) (memberVdist m p d a n)
/-- VPACK (R145). -/
def execVpack (d a : VReg) (n : NReg) (s : State) : Outcome := s.runVector (.vpack d a n) (memberVpack d a n)
/-- VCOMPRESS (R146). -/
def execVcompress (d a : VReg) (n : NReg) (s : State) : Outcome := s.runVector (.vcompress d a n) (memberVcompress d a n)
/-- VSEGID (R139). -/
def execVsegid (m : Bool) (p : Depth) (d : VReg) (n : NReg) (s : State) : Outcome := s.runVector (.vsegid m p d n) (memberVsegid m p d n)
/-- VSEGLEN (R139). -/
def execVseglen (p : Depth) (d : VReg) (n : NReg) (s : State) : Outcome := s.runVector (.vseglen p d n) (memberVseglen p d n)
/-- VTREE (R147). -/
def execVtree (d a : VReg) (s : State) : Outcome := s.runVector (.vtree d a) (memberVtree d a)
/-- NSET (R143). -/
def execNset (n : NReg) (a : VReg) (b : XReg) (s : State) : Outcome := s.runVector (.nset n a b) (memberNset n a b)
/-- NPUSH (R143). -/
def execNpush (n : NReg) (b : XReg) (s : State) : Outcome := s.runVector (.npush n b) (memberNpush n b)
/-- NPOP (R144). -/
def execNpop (flat : Bool) (n : NReg) (s : State) : Outcome := s.runVector (.npop flat n) (memberNpop flat n)
/-- VSLIDEUP (R140). -/
def execVslideup (m : Bool) (p : Depth) (d a : VReg) (b : XReg) (s : State) : Outcome := s.runVector (.vslideup m p d a b) (memberVslideup m p d a b)
/-- VSLIDEDN (R140). -/
def execVslidedn (m : Bool) (p : Depth) (d a : VReg) (b : XReg) (s : State) : Outcome := s.runVector (.vslidedn m p d a b) (memberVslidedn m p d a b)
/-- VRGATHER (R141). -/
def execVrgather (m : Bool) (p : Depth) (d a b : VReg) (s : State) : Outcome := s.runVector (.vrgather m p d a b) (memberVrgather m p d a b)
/-- VMVXS (R142). -/
def execVmvxs (d : XReg) (a : VReg) (b : XReg) (s : State) : Outcome := s.runVector (.vmvxs d a b) (memberVmvxs d a b)
/-- VDEC4 (R152). -/
def execVdec4 (m : Bool) (d a : VReg) (s : State) : Outcome := s.runVector (.vdec4 m d a) (memberVdec4 m d a)
/-- VENC4 (R153). -/
def execVenc4 (t : CodeType) (d a : VReg) (s : State) : Outcome := s.runVector (.venc4 t d a) (memberVenc4 t d a)
/-- VBSUM (R154). -/
def execVbsum (m : Bool) (p : Depth) (d a b : VReg) (s : State) : Outcome := s.runVector (.vbsum m p d a b) (memberVbsum m p d a b)
/-- VLD (R206). -/
def execVld (m : Bool) (c : Cache) (d : VReg) (a : XReg) (s : State) : Outcome := s.runVector (.vld m c d a) (memberVld m c d a)
/-- VLDS (R206). -/
def execVlds (m : Bool) (c : Cache) (d : VReg) (a b : XReg) (s : State) : Outcome := s.runVector (.vlds m c d a b) (memberVlds m c d a b)
/-- VLDX (R206). -/
def execVldx (m : Bool) (c : Cache) (d : VReg) (a : XReg) (b : VReg) (s : State) : Outcome := s.runVector (.vldx m c d a b) (memberVldx m c d a b)
/-- VLDXO (R207). -/
def execVldxo (m : Bool) (c : Cache) (d : VReg) (a : XReg) (b : VReg) (s : State) : Outcome := s.runVector (.vldxo m c d a b) (memberVldxo m c d a b)
/-- VLDFF (R208). -/
def execVldff (c : Cache) (d : VReg) (a : XReg) (s : State) : Outcome := s.runVector (.vldff c d a) (memberVldff c d a)
/-- VFILL (R210). -/
def execVfill (c : Cache) (d : VReg) (a : XReg) (s : State) : Outcome := s.runVector (.vfill c d a) (memberVfill c d a)
/-- VST (R206). -/
def execVst (m : Bool) (c : Cache) (d : VReg) (a : XReg) (s : State) : Outcome := s.runVector (.vst m c d a) (memberVst m c d a)
/-- VSTS (R206). -/
def execVsts (m : Bool) (c : Cache) (d : VReg) (a b : XReg) (s : State) : Outcome := s.runVector (.vsts m c d a b) (memberVsts m c d a b)
/-- VSTX (R206). -/
def execVstx (m : Bool) (c : Cache) (d : VReg) (a : XReg) (b : VReg) (s : State) : Outcome := s.runVector (.vstx m c d a b) (memberVstx m c d a b)
/-- VSTXO (R207). -/
def execVstxo (m : Bool) (c : Cache) (d : VReg) (a : XReg) (b : VReg) (s : State) : Outcome := s.runVector (.vstxo m c d a b) (memberVstxo m c d a b)
/-- VSPILL (R210). -/
def execVspill (c : Cache) (d : VReg) (a : XReg) (s : State) : Outcome := s.runVector (.vspill c d a) (memberVspill c d a)
end Sys2Proof.Machine
end

