-- ==== Sys2Proof/Machine/Dispatch.lean ====
section
/-! DEFINITION. One arm per instruction and event: its meaning. -/

namespace Sys2Proof.Machine

def exec (i : Instr) (s : State) : Host.Outcome State Fault Refusal :=
  match i with
  | .add d a b => Sys2Proof.Machine.execAdd d a b s
  | .sub d a b => Sys2Proof.Machine.execSub d a b s
  | .and d a b => Sys2Proof.Machine.execAnd d a b s
  | .or d a b => Sys2Proof.Machine.execOr d a b s
  | .xor d a b => Sys2Proof.Machine.execXor d a b s
  | .sll d a b => Sys2Proof.Machine.execSll d a b s
  | .srl d a b => Sys2Proof.Machine.execSrl d a b s
  | .sra d a b => Sys2Proof.Machine.execSra d a b s
  | .slt d a b => Sys2Proof.Machine.execSlt d a b s
  | .sltu d a b => Sys2Proof.Machine.execSltu d a b s
  | .mul d a b => Sys2Proof.Machine.execMul d a b s
  | .mulh d a b => Sys2Proof.Machine.execMulh d a b s
  | .mulhu d a b => Sys2Proof.Machine.execMulhu d a b s
  | .div d a b => Sys2Proof.Machine.execDiv d a b s
  | .divu d a b => Sys2Proof.Machine.execDivu d a b s
  | .clz d a => Sys2Proof.Machine.execClz d a s
  | .ctz d a => Sys2Proof.Machine.execCtz d a s
  | .popc d a => Sys2Proof.Machine.execPopc d a s
  | .addi d a k => Sys2Proof.Machine.execAddi d a k s
  | .andi d a k => Sys2Proof.Machine.execAndi d a k s
  | .ori d a k => Sys2Proof.Machine.execOri d a k s
  | .xori d a k => Sys2Proof.Machine.execXori d a k s
  | .slli d a n => Sys2Proof.Machine.execSlli d a n s
  | .srli d a n => Sys2Proof.Machine.execSrli d a n s
  | .srai d a n => Sys2Proof.Machine.execSrai d a n s
  | .lui d k => Sys2Proof.Machine.execLui d k s
  | .adr d k => Sys2Proof.Machine.execAdr d k s
  | .fadd p d a b => Sys2Proof.Machine.execFadd p d a b s
  | .fsub p d a b => Sys2Proof.Machine.execFsub p d a b s
  | .fmul p d a b => Sys2Proof.Machine.execFmul p d a b s
  | .fdiv p d a b => Sys2Proof.Machine.execFdiv p d a b s
  | .fsqrt p d a => Sys2Proof.Machine.execFsqrt p d a s
  | .fmin p d a b => Sys2Proof.Machine.execFmin p d a b s
  | .fmax p d a b => Sys2Proof.Machine.execFmax p d a b s
  | .fma p d a b => Sys2Proof.Machine.execFma p d a b s
  | .fcmplt p d a b => Sys2Proof.Machine.execFcmplt p d a b s
  | .fcmple p d a b => Sys2Proof.Machine.execFcmple p d a b s
  | .fcmpeq p d a b => Sys2Proof.Machine.execFcmpeq p d a b s
  | .fcvtfi p d a => Sys2Proof.Machine.execFcvtfi p d a s
  | .fcvtif p r d a => Sys2Proof.Machine.execFcvtif p r d a s
  | .ldb d a off => Sys2Proof.Machine.execLdb d a off s
  | .ldbu d a off => Sys2Proof.Machine.execLdbu d a off s
  | .ldw d a off => Sys2Proof.Machine.execLdw d a off s
  | .ldwu d a off => Sys2Proof.Machine.execLdwu d a off s
  | .ldd d a off => Sys2Proof.Machine.execLdd d a off s
  | .stb d a off => Sys2Proof.Machine.execStb d a off s
  | .stw d a off => Sys2Proof.Machine.execStw d a off s
  | .std d a off => Sys2Proof.Machine.execStd d a off s
  | .amoadd w scope ar d a b => Sys2Proof.Machine.execAmoadd w scope ar d a b s
  | .amoand w scope ar d a b => Sys2Proof.Machine.execAmoand w scope ar d a b s
  | .amoor w scope ar d a b => Sys2Proof.Machine.execAmoor w scope ar d a b s
  | .amoxor w scope ar d a b => Sys2Proof.Machine.execAmoxor w scope ar d a b s
  | .amomin w scope ar d a b => Sys2Proof.Machine.execAmomin w scope ar d a b s
  | .amomax w scope ar d a b => Sys2Proof.Machine.execAmomax w scope ar d a b s
  | .amoswap w scope ar d a b => Sys2Proof.Machine.execAmoswap w scope ar d a b s
  | .amocas w scope ar d a b => Sys2Proof.Machine.execAmocas w scope ar d a b s
  | .famoadd w scope ar d a b => Sys2Proof.Machine.execFamoadd w scope ar d a b s
  | .beq a b off => Sys2Proof.Machine.execBeq a b off s
  | .bne a b off => Sys2Proof.Machine.execBne a b off s
  | .blt a b off => Sys2Proof.Machine.execBlt a b off s
  | .bge a b off => Sys2Proof.Machine.execBge a b off s
  | .bltu a b off => Sys2Proof.Machine.execBltu a b off s
  | .bgeu a b off => Sys2Proof.Machine.execBgeu a b off s
  | .jal off => Sys2Proof.Machine.execJal off s
  | .jalr d a k => Sys2Proof.Machine.execJalr d a k s
  | .loop a off => Sys2Proof.Machine.execLoop a off s
  | .loopi n off => Sys2Proof.Machine.execLoopi n off s
  | .svc n => Sys2Proof.Machine.execSvc n s
  | .wfe a => Sys2Proof.Machine.execWfe a s
  | .rsys d num => Sys2Proof.Machine.execRsys d num s
  | .wsys a num => Sys2Proof.Machine.execWsys a num s
  | .fenceSv scope => Sys2Proof.Machine.execFenceSv scope s
  | .fenceVs scope => Sys2Proof.Machine.execFenceVs scope s
  | .fenceVv scope => Sys2Proof.Machine.execFenceVv scope s
  | .brk n => Sys2Proof.Machine.execBrk n s
  | .setvl d a img => Sys2Proof.Machine.execSetvl d a img s
  | .setvlr d a b => Sys2Proof.Machine.execSetvlr d a b s
  | .setvlm d a => Sys2Proof.Machine.execSetvlm d a s
  | .vlq d b => Sys2Proof.Machine.execVlq d b s
  | .vadd m d a b => Sys2Proof.Machine.execVadd m d a b s
  | .vsub m d a b => Sys2Proof.Machine.execVsub m d a b s
  | .vmul m d a b => Sys2Proof.Machine.execVmul m d a b s
  | .vand m d a b => Sys2Proof.Machine.execVand m d a b s
  | .vor m d a b => Sys2Proof.Machine.execVor m d a b s
  | .vxor m d a b => Sys2Proof.Machine.execVxor m d a b s
  | .vsll m d a b => Sys2Proof.Machine.execVsll m d a b s
  | .vsrl m d a b => Sys2Proof.Machine.execVsrl m d a b s
  | .vsra m d a b => Sys2Proof.Machine.execVsra m d a b s
  | .vmin m d a b => Sys2Proof.Machine.execVmin m d a b s
  | .vmax m d a b => Sys2Proof.Machine.execVmax m d a b s
  | .vsadd m d a b => Sys2Proof.Machine.execVsadd m d a b s
  | .vssub m d a b => Sys2Proof.Machine.execVssub m d a b s
  | .vpopc m d a => Sys2Proof.Machine.execVpopc m d a s
  | .vmerge d a b => Sys2Proof.Machine.execVmerge d a b s
  | .vmv m d a => Sys2Proof.Machine.execVmv m d a s
  | .vmvScalar m d b => Sys2Proof.Machine.execVmvScalar m d b s
  | .vid m d => Sys2Proof.Machine.execVid m d s
  | .vwiden m sgn d a b => Sys2Proof.Machine.execVwiden m sgn d a b s
  | .vnarrow m sgn d a b => Sys2Proof.Machine.execVnarrow m sgn d a b s
  | .vcmpeq m d a b => Sys2Proof.Machine.execVcmpeq m d a b s
  | .vcmpne m d a b => Sys2Proof.Machine.execVcmpne m d a b s
  | .vcmplt m d a b => Sys2Proof.Machine.execVcmplt m d a b s
  | .vcmpltu m d a b => Sys2Proof.Machine.execVcmpltu m d a b s
  | .vcmple m d a b => Sys2Proof.Machine.execVcmple m d a b s
  | .vcmpleu m d a b => Sys2Proof.Machine.execVcmpleu m d a b s
  | .vfcmpeq m d a b => Sys2Proof.Machine.execVfcmpeq m d a b s
  | .vfcmplt m d a b => Sys2Proof.Machine.execVfcmplt m d a b s
  | .vfcmple m d a b => Sys2Proof.Machine.execVfcmple m d a b s
  | .vfadd m d a b => Sys2Proof.Machine.execVfadd m d a b s
  | .vfsub m d a b => Sys2Proof.Machine.execVfsub m d a b s
  | .vfmul m d a b => Sys2Proof.Machine.execVfmul m d a b s
  | .vfma m d a b => Sys2Proof.Machine.execVfma m d a b s
  | .vfdiv m d a b => Sys2Proof.Machine.execVfdiv m d a b s
  | .vfmin m d a b => Sys2Proof.Machine.execVfmin m d a b s
  | .vfmax m d a b => Sys2Proof.Machine.execVfmax m d a b s
  | .vfscale m d a b => Sys2Proof.Machine.execVfscale m d a b s
  | .vfcvtfi m d a => Sys2Proof.Machine.execVfcvtfi m d a s
  | .vfcvtif m r d a => Sys2Proof.Machine.execVfcvtif m r d a s
  | .vfwiden m n d a => Sys2Proof.Machine.execVfwiden m n d a s
  | .vfnarrow m n d a => Sys2Proof.Machine.execVfnarrow m n d a s
  | .vflogt m d a b => Sys2Proof.Machine.execVflogt m d a b s
  | .vmand m d a b => Sys2Proof.Machine.execVmand m d a b s
  | .vmor m d a b => Sys2Proof.Machine.execVmor m d a b s
  | .vmxor m d a b => Sys2Proof.Machine.execVmxor m d a b s
  | .vmpopc m d a => Sys2Proof.Machine.execVmpopc m d a s
  | .vmfirst m d a => Sys2Proof.Machine.execVmfirst m d a s
  | .vredsum m p d a n => Sys2Proof.Machine.execVredsum m p d a n s
  | .vredmin m p d a n => Sys2Proof.Machine.execVredmin m p d a n s
  | .vredmax m p d a n => Sys2Proof.Machine.execVredmax m p d a n s
  | .vredand m p d a n => Sys2Proof.Machine.execVredand m p d a n s
  | .vredor m p d a n => Sys2Proof.Machine.execVredor m p d a n s
  | .vredxor m p d a n => Sys2Proof.Machine.execVredxor m p d a n s
  | .vfredsum m p d a n => Sys2Proof.Machine.execVfredsum m p d a n s
  | .vfredmin m p d a n => Sys2Proof.Machine.execVfredmin m p d a n s
  | .vfredmax m p d a n => Sys2Proof.Machine.execVfredmax m p d a n s
  | .vredminx m p h a n => Sys2Proof.Machine.execVredminx m p h a n s
  | .vfredmaxx m p h a n => Sys2Proof.Machine.execVfredmaxx m p h a n s
  | .vscansum m ex p d a n => Sys2Proof.Machine.execVscansum m ex p d a n s
  | .vscanmax m ex p d a n => Sys2Proof.Machine.execVscanmax m ex p d a n s
  | .vfscansum m ex p d a n => Sys2Proof.Machine.execVfscansum m ex p d a n s
  | .vfscanmax m ex p d a n => Sys2Proof.Machine.execVfscanmax m ex p d a n s
  | .vdist m p d a n => Sys2Proof.Machine.execVdist m p d a n s
  | .vpack d a n => Sys2Proof.Machine.execVpack d a n s
  | .vcompress d a n => Sys2Proof.Machine.execVcompress d a n s
  | .vsegid m p d n => Sys2Proof.Machine.execVsegid m p d n s
  | .vseglen p d n => Sys2Proof.Machine.execVseglen p d n s
  | .vtree d a => Sys2Proof.Machine.execVtree d a s
  | .nset n a b => Sys2Proof.Machine.execNset n a b s
  | .npush n b => Sys2Proof.Machine.execNpush n b s
  | .npop flat n => Sys2Proof.Machine.execNpop flat n s
  | .vslideup m p d a b => Sys2Proof.Machine.execVslideup m p d a b s
  | .vslidedn m p d a b => Sys2Proof.Machine.execVslidedn m p d a b s
  | .vrgather m p d a b => Sys2Proof.Machine.execVrgather m p d a b s
  | .vmvxs d a b => Sys2Proof.Machine.execVmvxs d a b s
  | .vdec4 m d a => Sys2Proof.Machine.execVdec4 m d a s
  | .venc4 t d a => Sys2Proof.Machine.execVenc4 t d a s
  | .vbsum m p d a b => Sys2Proof.Machine.execVbsum m p d a b s
  | .vld m c d a => Sys2Proof.Machine.execVld m c d a s
  | .vlds m c d a b => Sys2Proof.Machine.execVlds m c d a b s
  | .vldx m c d a b => Sys2Proof.Machine.execVldx m c d a b s
  | .vldxo m c d a b => Sys2Proof.Machine.execVldxo m c d a b s
  | .vldff c d a => Sys2Proof.Machine.execVldff c d a s
  | .vfill c d a => Sys2Proof.Machine.execVfill c d a s
  | .vst m c d a => Sys2Proof.Machine.execVst m c d a s
  | .vsts m c d a b => Sys2Proof.Machine.execVsts m c d a b s
  | .vstx m c d a b => Sys2Proof.Machine.execVstx m c d a b s
  | .vstxo m c d a b => Sys2Proof.Machine.execVstxo m c d a b s
  | .vspill c d a => Sys2Proof.Machine.execVspill c d a s
  | .tld sc wide d a b => Sys2Proof.Machine.execTld sc wide d a b s
  | .tst sc d a b => Sys2Proof.Machine.execTst sc d a b s
  | .ttag d a b => Sys2Proof.Machine.execTtag d a b s
  | .tset d a b => Sys2Proof.Machine.execTset d a b s
  | .tcall a n => Sys2Proof.Machine.execTcall a n s
  | .lmk scope a b => Sys2Proof.Machine.execLmk scope a b s
  | .lattach scope d a b => Sys2Proof.Machine.execLattach scope d a b s
  | .ldetach scope d a b => Sys2Proof.Machine.execLdetach scope d a b s
  | .lfold scope v a b => Sys2Proof.Machine.execLfold scope v a b s
  | .mattach d a => Sys2Proof.Machine.execMattach d a s
  | .mmode a => Sys2Proof.Machine.execMmode a s
  | .mopa a b => Sys2Proof.Machine.execMopa a b s
  | .mopab a b => Sys2Proof.Machine.execMopab a b s
  | .mrd d a => Sys2Proof.Machine.execMrd d a s
  | .mwr a b => Sys2Proof.Machine.execMwr a b s
  | .cpy scope v a => Sys2Proof.Machine.execCpy scope v a s
  | .coll scope v a => Sys2Proof.Machine.execColl scope v a s
  | .fclaim d => Sys2Proof.Machine.execFclaim d s
  | .vfbar scope d a => Sys2Proof.Machine.execVfbar scope d a s
  | .bwait scope d a b => Sys2Proof.Machine.execBwait scope d a b s
  | .lsplit a b n => Sys2Proof.Machine.execLsplit a b n s
  | .fflagsWrite a => Sys2Proof.Machine.execFflagsWrite a s
  | .tcbaseWrite a => Sys2Proof.Machine.execTcbaseWrite a s
  | .progWrite k a => Sys2Proof.Machine.execProgWrite k a s
  | .loopStackWrite k a => Sys2Proof.Machine.execLoopStackWrite k a s
  | .pgrootWrite a => Sys2Proof.Machine.execPgrootWrite a s
  | .islimWrite a => Sys2Proof.Machine.execIslimWrite a s
  | .routingTableAddressWrite v => Sys2Proof.Machine.execRoutingTableAddressWrite v s
  | .livenessTableWrite idx v => Sys2Proof.Machine.execLivenessTableWrite idx v s
  | .checkpointTakesEffect t => Sys2Proof.Machine.execCheckpointTakesEffect t s
  | .heldStoreCheckpoint t => Sys2Proof.Machine.execHeldStoreCheckpoint t s
  | .storePerformed n => Sys2Proof.Machine.execStorePerformed n s
  | .wfeWake t => Sys2Proof.Machine.execWfeWake t s
  | .bwaitWake t => Sys2Proof.Machine.execBwaitWake t s
  | .engineChunkDone h slot chunk => Sys2Proof.Machine.execEngineChunkDone h slot chunk s
  | .transferComplete h slot => Sys2Proof.Machine.execTransferComplete h slot s
  | .engineFault h slot chunk => Sys2Proof.Machine.execEngineFault h slot chunk s
  | .pressFrameWrite h slot frame => Sys2Proof.Machine.execPressFrameWrite h slot frame s
  | .pressSwap h slot => Sys2Proof.Machine.execPressSwap h slot s
  | .foldAbandon h slot frame => Sys2Proof.Machine.execFoldAbandon h slot frame s
  | .trapEntry t => Sys2Proof.Machine.execTrapEntry t s
  | .stripRestart t failed => Sys2Proof.Machine.execStripRestart t failed s
  | .uncorrectableErrorAsync t kind => Sys2Proof.Machine.execUncorrectableErrorAsync t kind s
  | .rowSelfTest h row pass => Sys2Proof.Machine.execRowSelfTest h row pass s
  | .yieldRequest t => Sys2Proof.Machine.execYieldRequest t s
  | .forcedPreemption t => Sys2Proof.Machine.execForcedPreemption t s
  | .victimPreemption c q => Sys2Proof.Machine.execVictimPreemption c q s
  | .queueHeaderRead c q => Sys2Proof.Machine.execQueueHeaderRead c q s
  | .launchRecordTake c q => Sys2Proof.Machine.execLaunchRecordTake c q s
  | .dependenceMet c q => Sys2Proof.Machine.execDependenceMet c q s
  | .hartPlacement c q => Sys2Proof.Machine.execHartPlacement c q s
  | .hartFreed h => Sys2Proof.Machine.execHartFreed h s
  | .priorityAging c q => Sys2Proof.Machine.execPriorityAging c q s
  | .launchDone n => Sys2Proof.Machine.execLaunchDone n s
  | .shootdown c => Sys2Proof.Machine.execShootdown c s
  | .descriptorResident c => Sys2Proof.Machine.execDescriptorResident c s
  | .iscurUpdate f power => Sys2Proof.Machine.execIscurUpdate f power s
  | .flitParityResend hop badCopies carried => Sys2Proof.Machine.execFlitParityResend hop badCopies carried s
  | .linkCrcRetry port out => Sys2Proof.Machine.execLinkCrcRetry port out s
  | .commandAddressReplay stack channel succeeded => Sys2Proof.Machine.execCommandAddressReplay stack channel succeeded s
  | .hbmTemperatureThreshold stack celsius => Sys2Proof.Machine.execHbmTemperatureThreshold stack celsius s
  | .dieTemperatureThreshold die celsius => Sys2Proof.Machine.execDieTemperatureThreshold die celsius s
  | .errorRingAppend seen => Sys2Proof.Machine.execErrorRingAppend seen s
  | .bringUp input => Sys2Proof.Machine.execBringUp input s
  | .spareQuadSite outcome => Sys2Proof.Machine.execSpareQuadSite outcome s
  | .postPackageRepair outcome => Sys2Proof.Machine.execPostPackageRepair outcome s
  | .spareVia outcome => Sys2Proof.Machine.execSpareVia outcome s
  | .spareLinkLane outcome => Sys2Proof.Machine.execSpareLinkLane outcome s
  | .attestationRequest nonce c => Sys2Proof.Machine.execAttestationRequest nonce c s
  | .hostAccess op => Sys2Proof.Machine.execHostAccess op s
  | .remoteRequest dev op => Sys2Proof.Machine.execRemoteRequest dev op s
  | .illegalInstruction w => Sys2Proof.Machine.execIllegalInstruction w s
  | .storePassesVisibilityPoint n => Sys2Proof.Machine.execStorePassesVisibilityPoint n s
  | .remoteWriteReport dev line => Sys2Proof.Machine.execRemoteWriteReport dev line s
  | .newFirmwareImage image => Sys2Proof.Machine.execNewFirmwareImage image s
  | .debuggerStop t => Sys2Proof.Machine.execDebuggerStop t s
  | .debuggerResume t => Sys2Proof.Machine.execDebuggerResume t s
  | .mzero => Sys2Proof.Machine.execMzero s
  | .eret => Sys2Proof.Machine.execEret s
  | .yield => Sys2Proof.Machine.execYield s
  | .lfuse => Sys2Proof.Machine.execLfuse s
  | .attestationReportCommand => Sys2Proof.Machine.execAttestationReportCommand s
  | .statusRead => Sys2Proof.Machine.execStatusRead s
  | .instructionFetchFault => Sys2Proof.Machine.execInstructionFetchFault s
  | .powerOff => Sys2Proof.Machine.execPowerOff s

end Sys2Proof.Machine
end

