-- ==== Sys2Proof/Machine/Turns.lean ====
section
/-! DEFINITION. A turn: what one step of the package consists of (assumption 5). The schedule names whose turn it is, or which event comes;
what a thread does in its turn follows spec/21_traps_restart.md R367. -/

namespace Sys2Proof.Machine

/-- What can still happen to a package without power, or one that has stopped. -/
def revives : Instr → Bool
  | .bringUp _ => true
  | .powerOff => true
  | _ => false

/-- Every CYCLE counts the cycles that pass (R24). -/
def State.tick (s : State) (n : Nat) : State :=
  { s with fields := vmap (fun f => { f with cycle := f.cycle + BitVec.ofNat 64 n }) s.fields }

/-- The instruction at pc, as the thread meets it: one that cannot be fetched, or is no legal word, traps (R56, R279). -/
def State.nextInstr (s : State) (t : Tid) : Instr :=
  match s.fetch t with
  | .error _ => .instructionFetchFault
  | .ok w =>
    match decode w with
    | .ok i => i
    | .error _ => .illegalInstruction w

/-- A yield about to retire in the very cycle in which the deadline expires wins (R309). -/
def State.yieldWins (s : State) (t : Tid) : Bool :=
  let th := s.thr t
  !th.preemptDue && th.status == .running && th.ydead == s.cycleOf t && s.nextInstr t == .yield && !(s.inFlight t || s.trapWaits t)

/-- What comes before the instruction at pc (R220, R309, R312, R367). -/
def State.dueFirst (s : State) (t : Tid) : Option Instr :=
  let th := s.thr t
  if th.arch.mode = .user ∧ (th.preemptDue || s.deadlineMet t) ∧ !s.yieldWins t then some (.forcedPreemption t)
  else if !th.pending.isEmpty && th.arch.atBoundary then some (.trapEntry t)
  else if s.heldTooLong t && th.arch.atBoundary then some (.heldStoreCheckpoint t)
  else if s.debugDue t then some (.debuggerStop t)
  else none

/-- A deadline that passes in supervisor mode stays pending (R309). -/
def State.noteDeadline (s : State) (t : Tid) : State :=
  if (s.arch t).mode = .supervisor ∧ s.deadlineMet t ∧ !(s.thr t).preemptDue then s.deferPreempt t else s

/-- What a thread does in its turn; none when it cannot do anything. -/
def State.threadTurn (s : State) (t : Tid) : Option Instr :=
  let th := s.thr t
  if th.debugStop.isSome then none
  else
    match th.status with
    | .running => some ((s.dueFirst t).getD (s.nextInstr t))
    | .wfe => some ((s.dueFirst t).getD (.wfeWake t))
    | .bwait => some ((s.dueFirst t).getD (.bwaitWake t))
    | _ => none

/-- A read is performed ahead of the load that will take its value, if the thread comes to execute one (R206, R221; assumption 49): memory that an
idempotent load could read now. -/
def State.readAhead (s : State) (t : Tid) (vec : Bool) (i : Nat) (va : Word) (len : Nat) : State :=
  let th := s.thr t
  if th.alive && th.status == .running && (!vec || th.lanes.isSome) && (len == 1 || len == 2 || len == 4 || len == 8) && va.toNat % len == 0 then
    match s.translate (s.who t) .load false va with
    | .error _ => s
    | .ok loc =>
      let keys := (List.range len).map (loc.key + ·)
      if s.hasBad t loc.key len || s.copyStalls t keys false noneAcquired then s
      else
        let n := s.noteRead (s.who t).maker [(if vec then some i else none, loc.key)]
        State.modThr { n with fresh := n.fresh + 1 } t fun th => { th with
          ahead := th.ahead ++ [⟨vec, if vec then i else 0, va, loc.key, len, s.numAt t loc.key len, s.fresh, false⟩] }
  else s

/-- What follows an instruction that thread t has executed in its turn, `fetched` where it was read at pc: the debugger's part, and the read itself. -/
def State.endTurn (s before : State) (t : Tid) (i : Instr) (fetched : Bool) : State :=
  ((((if fetched then s.noteFetch before t else s).endPass t (before.thr t) (sleepsIn i)).meetAbsent before t).noteEret before t i)

/-- A thread's turn. -/
def State.turnOf (s : State) (t : Tid) : Outcome :=
  match s.threadTurn t with
  | none => .next s
  | some i =>
    match exec i s with
    | .next s' => .next (s'.endTurn s t i ((s.thr t).status == .running && (s.dueFirst t).isNone))
    | r => r

/-- The thread whose instruction, or trap, an event is. -/
def eventThread : Instr → Option Tid
  | .wfeWake t => some t
  | .bwaitWake t => some t
  | .trapEntry t => some t
  | .forcedPreemption t => some t
  | .stripRestart t _ => some t
  | .uncorrectableErrorAsync t _ => some t
  | .flitParityResend _ _ (.result t) => some t
  | _ => none

/-- An event's turn. -/
def State.eventTurn (s : State) (i : Instr) : Outcome :=
  match exec i s, eventThread i with
  | .next s', some t => .next (s'.endPass t (s.thr t) false)
  | r, _ => r

/-- One turn, before which the debugger's watches find their lines. -/
def State.takeTurn (s : State) (turn : Turn) : Outcome :=
  let s := s.seeWatches
  match turn with
  | .thread t => (State.noteDeadline { s with cur := t } t).turnOf t
  | .event i => if i.isEvent then s.eventTurn i else .next s
  | .fillTlb t va => .next (s.fillTlb t va)
  | .fillPtr t va level => .next (s.fillPtr t va level)
  | .fillCase t addr => .next (s.fillCase t addr)
  | .fillRoute dev => .next (s.fillRoute dev)
  | .dropCase h => .next (s.dropCase h)
  | .readAhead t vec i va len => .next (s.readAhead t vec i va len)
  | .decay key => .next (s.decays key)
  | .peerDrops t fetch => .next (s.losesNext t ⟨.peer, fetch⟩)
  | .peerDropsStore n => .next (s.peerDropsStore n)
  | .breakpoint c addr => .next (s.toggleBreak c addr)
  | .watch c t addr count => .next (s.addWatch c t addr count)
  | .watchAbsent c addr => .next (s.makeAbsent c addr)
  | .outside key b => .next (s.outsideWrite key b)

/-- The next turn, the time that passes with it, and the state that is left: the schedule's first slot, or the current thread where it is
empty. -/
def State.nextSlot (s : State) : Slot × State :=
  match s.schedule with
  | slot :: rest => (slot, { s with schedule := rest })
  | [] => (⟨.thread s.cur, Config.stepCycles s.fresh⟩, { s with fresh := s.fresh + 1 })

/-- A package without power, or one that has stopped, does nothing until it is brought up again (R388, R391; assumption 27). -/
def State.offTurn (s : State) (turn : Turn) : Outcome :=
  match turn with
  | .event i => if revives i then exec i s else .fault .packageOff
  | _ => .fault .packageOff

/-- One step of the package. -/
def State.stepOnce (s : State) : Outcome :=
  let p := s.nextSlot
  if s.boot.powered && !s.boot.stopped then (p.2.tick p.1.cycles).takeTurn p.1.turn else p.2.offTurn p.1.turn

/-! ## Placing an instruction for the next step (assumption 6) -/

/-- Where a placed instruction stands: an address of stack 0 above the runtime area. -/
def placeAt : Nat := 0x100_0000

/-- Memory with a little-endian number at a key. -/
def putNum (m : Memory) (k v : Nat) : Nat → Memory
  | 0 => m
  | n + 1 => Memory.write (putNum m (k + 1) (v / 256) n) k (BitVec.ofNat 8 v)

/-- A thread that runs the device runtime untranslated with the whole hart (R325, R398), at an address. -/
def placedThread (th : Thread) (pc : Word) : Thread :=
  let a : Arch := { th.arch with mode := .supervisor, pc := pc, convoy := none, vlmax := vlmaxOf th.arch.vtype 64 }
  { th with
    arch := a, status := .running, pgroot := 0, lanes := some ⟨0, 16⟩, debugStop := none, debugAsk := .no, debugPass := .no
    pending := [], heldFrom := none, closingFrom := none, preemptDue := false, lost := none, ahead := [], ydead := 0, due := none
    ckpt := some ⟨.implicit, a, a⟩ }

/-- The current thread stands before the instruction, in supervisor mode and untranslated, and has the next turn. -/
def State.placeWord (s : State) (w len : Nat) : State :=
  { s with
    threads := s.threads.set s.cur.val (placedThread s.threads[s.cur.val] (BitVec.ofNat 64 placeAt))
    mem := putNum s.mem placeAt w len
    stores := []
    bad := [], covers := [], dead := [], retired := []
    boot := { s.boot with powered := true, stopped := false }
    fields := vmap (fun f => { f with fenced := false }) s.fields
    schedule := [⟨.thread s.cur, 1⟩] }

end Sys2Proof.Machine
end

