-- ==== Sys2Proof/Machine/Step.lean ====
section
/-! DEFINITION. One step of the package. -/

namespace Sys2Proof.Machine

/-- One turn of one thread, or one event. -/
def step (s : State) : Host.Outcome State Fault Refusal := s.stepOnce

/-- An instruction word of 32 bits stored where the next step fetches; a table row of fewer bits has zeros above (assumption 6). -/
def State.withFetchWord (s : State) (nbits w : Nat) : State := s.placeWord (w % 2 ^ nbits) 4

end Sys2Proof.Machine
end

