-- ==== Sys2Proof/Safety.lean ====
section
/-! DEFINITION. What the statements about the machine are made of: the canonical forms, and what it means that an instruction retires, writes a
register, waits or traps (spec/01_machine.md R16, R24; spec/13_control_flow.md R283; spec/21_traps_restart.md R365, R370). -/

namespace Sys2Proof.Machine

/-! ## Canonical data -/

/-- The memory and the tags of a state are in their canonical form. -/
def State.Canonical (s : State) : Prop := Memory.wf s.mem = true ∧ Sparse.wf (0 : BitVec 16) s.tags = true

/-! ## Retiring -/

/-- The current thread's instruction has retired with `next` as its next pc and these flags raised, and nothing else has changed but what
`registers` leaves open: the x registers. The end of a pass may move the pc on (R283). -/
structure Retires (s t : State) (next : Word) (fl : BitVec 5) : Prop where
  package   : t = { s with threads := t.threads }
  others    : ∀ u, u ≠ s.cur → t.thr u = s.thr u
  thread    : t.thr s.cur = { s.thr s.cur with
                arch := t.arch s.cur, fflags := (s.thr s.cur).fflags ||| fl, instret := (s.thr s.cur).instret + 1 }
  registers : t.arch s.cur = { (s.arch s.cur).advance next with x := (t.arch s.cur).x }

/-- It writes `v` to xd and no other x register; x0 stays zero (R16). -/
def WritesX (s t : State) (d : XReg) (v : Word) : Prop :=
  ∀ r : XReg, (t.arch s.cur).getX r = if r = 0 then 0 else if r = d then v else s.x r

/-- An instruction that completes, writes `v` to xd, raises `fl` and passes to the next word. -/
def Writes (s : State) (i : Instr) (d : XReg) (v : Word) (fl : BitVec 5 := 0) : Prop :=
  ∃ t, exec i s = .next t ∧ Retires s t (s.pc + 4) fl ∧ WritesX s t d v

/-- The instruction raises this synchronous trap at its own address (R365, R370). -/
def Traps (s : State) (i : Instr) (cause : BitVec 8) (val : Word) : Prop := exec i s = .next (s.syncTrap s.cur cause val s.pc)

/-- u is s after reads of structures: what the slices count and the watches report of them, and the reads ahead that they overtake (R219, R385,
R393). -/
def Noted (s u : State) : Prop := u = { s.keepNotes u with threads := u.threads } ∧ ∀ v, u.thr v = { s.thr v with ahead := (u.thr v).ahead }

/-- The same trap, with what the instruction has read on its way noted. -/
def TrapsRead (s : State) (i : Instr) (cause : BitVec 8) (val : Word) : Prop :=
  ∃ u, Noted s u ∧ exec i s = .next (u.syncTrap s.cur cause val s.pc)

/-! ## What bytes hold -/

/-- Bytes `j < len` of a register value are these. -/
def BytesAre (v : Word) (len : Nat) (b : Nat → Byte) : Prop := ∀ j, j < len → v.extractLsb' (8 * j) 8 = b j

/-- The bits of a register value above `len` bytes are the extension of a load: its top bit if signed, else 0 (R202). -/
def ExtendedFrom (v : Word) (len : Nat) (signed : Bool) : Prop :=
  ∀ i, 8 * len ≤ i → i < 64 → v.getLsbD i = (signed && v.getLsbD (8 * len - 1))

/-- Home keys `key` to `key + len - 1`. -/
def keysFrom (key len : Nat) : List Nat := (List.range len).map (key + ·)

/-- Every thread reads every byte outside [key, key + len) as before. -/
def ReadsOutside (s t : State) (key len : Nat) : Prop := ∀ u k, k < key ∨ key + len ≤ k → t.byteFor u k = s.byteFor u k

/-- The memory path of no thread, and no home, has changed. -/
def SameMemory (s t : State) : Prop :=
  t.mem = s.mem ∧ t.tags = s.tags ∧ t.stores = s.stores ∧ t.dead = s.dead ∧ t.bad = s.bad ∧ t.retired = s.retired

/-- Memory is in its canonical form, which every step keeps, and these home keys lie in live regions outside the liveness table, the routing word
and the reserved bytes beside it, and behind no port that is down, so that a write there is a write and nothing else (R334, R381, R385, R404,
R407). -/
def State.Plain (s : State) (keys : List Nat) : Prop :=
  s.Canonical ∧ ∀ k ∈ keys, (isHbm k = true → s.dead.contains (regionOf k) = false) ∧ (k < livenessBase ∨ routingWord + 8 ≤ k) ∧
    reservedByte k = false ∧ s.keyDown k = false

/-- A thread that stands at a checkpoint made at its present registers, where it has a lane group (R255, R257). -/
def Thread.opened (th : Thread) : Thread :=
  if th.lanes.isSome then { th with
    ckpt := some ⟨.implicit, th.arch, th.arch⟩, due := none, history := [], closingHistory := [], heldFrom := none, closingFrom := none
    restarts := 0 }
  else th

/-- A thread that has accessed these bytes: none of its later loads returns what an earlier read ahead found of them (R219, R222). -/
def Thread.accessed (th : Thread) (keys : List Nat) : Thread := { th with ahead := th.ahead.filter fun x => !x.overlaps keys }

/-! ## Address translation (R324 to R328) -/

/-- The index of an address in its table of a level (R326). -/
def walkIndex (va : Word) : Nat → Nat
  | 4 => (va.extractLsb' 48 8).toNat
  | 3 => (va.extractLsb' 39 9).toNat
  | 2 => (va.extractLsb' 30 9).toNat
  | 1 => (va.extractLsb' 21 9).toNat
  | _ => (va.extractLsb' 16 5).toNat

/-- Offset bits below the leaf of a level (R326). -/
def pageBits : Nat → Nat
  | 2 => 30
  | 1 => 21
  | _ => 16

/-- The address that an entry holds in its bits [39:8] (R327). -/
def entryAddr (e : Word) : Nat := (e.extractLsb' 8 32).toNat * 256

/-- The entry names this device's HBM: target 0, or target 2 with this device's identifier (R327). -/
def IsOwn (s : State) (e : Word) : Prop := e.extractLsb' 40 2 = 0#2 ∨ e.extractLsb' 40 2 = 2#2 ∧ e.extractLsb' 42 18 = s.devid

/-- A pointer entry of a level: V alone of bits [7:0], this device's HBM, and the next table aligned (R326, R327). -/
def IsPointer (s : State) (level : Nat) (e : Word) : Prop :=
  e.extractLsb' 0 8 = 1#8 ∧ e.extractLsb' 60 4 = 0#4 ∧ IsOwn s e ∧ (e.extractLsb' 40 2 = 0#2 → e.extractLsb' 42 18 = 0#18) ∧
    entryAddr e % (if level = 1 then 256 else 4096) = 0

/-- A page of this device's HBM: in one stack, below its tag region (R320). -/
def InHbm (pa len : Nat) : Prop := pa % 0xC_0000_0000 + len ≤ 0xB_FE80_0000 ∧ pa < 0xC0_0000_0000

/-- A leaf entry of level 0, 1 or 2 (R327). -/
def IsLeaf (s : State) (level : Nat) (e : Word) : Prop :=
  level ≤ 2 ∧ e.extractLsb' 0 2 = 3#2 ∧ e.getLsbD 7 = false ∧ e.extractLsb' 60 4 = 0#4 ∧ (e.getLsbD 3 = true → e.getLsbD 2 = true) ∧
    entryAddr e % 2 ^ pageBits level = 0 ∧
    e.extractLsb' 40 2 ≠ 3#2 ∧ (e.extractLsb' 40 2 = 0#2 → e.extractLsb' 42 18 = 0#18) ∧
    (IsOwn s e → e.getLsbD 6 = false ∧ InHbm (entryAddr e) (2 ^ pageBits level))

/-- A present entry that R327 calls malformed. -/
def IsMalformed (s : State) (level : Nat) (e : Word) : Prop :=
  e.getLsbD 0 = true ∧
    (e.getLsbD 7 = true ∨ e.extractLsb' 60 4 ≠ 0#4 ∨ e.extractLsb' 40 2 = 3#2 ∨ (e.extractLsb' 40 2 = 0#2 ∧ e.extractLsb' 42 18 ≠ 0#18) ∨
      (e.getLsbD 1 = true ∧ (3 ≤ level ∨ (e.getLsbD 3 = true ∧ e.getLsbD 2 = false) ∨ entryAddr e % 2 ^ pageBits level ≠ 0 ∨
        (IsOwn s e ∧ (e.getLsbD 6 = true ∨ ¬ InHbm (entryAddr e) (2 ^ pageBits level))))) ∨
      (e.getLsbD 1 = false ∧ (level = 0 ∨ e.extractLsb' 2 5 ≠ 0#5 ∨ ¬ IsOwn s e ∨ entryAddr e % (if level = 1 then 256 else 4096) ≠ 0)))

/-- The walk of va reads `e l` at each level l from 4 down to k: nothing of it is cached, the level-4 table lies where PGROOT says, each other table
where the entry above says, and the entries above k are pointers. No hop has lost an access of the thread (R325 to R330). -/
structure WalksTo (s : State) (w : Who) (va : Word) (k : Nat) (e : Nat → Word) : Prop where
  level    : k ≤ 4
  canon    : va.extractLsb' 56 8 = 0#8 ∧ va.extractLsb' 48 8 ≠ 0xFF#8
  root     : w.pgroot.extractLsb' 11 29 ≠ 0#29
  uncached : (s.hrt (hartOf w.tid)).tlb = [] ∧ (s.fld (fieldOf (hartOf w.tid))).ptrs = [] ∧ (s.thr w.tid).lost = none
  reads    : ∀ l, k ≤ l → l ≤ 4 →
    let home := (if l = 4 then (w.pgroot.extractLsb' 11 29).toNat * 2048 else entryAddr (e (l + 1))) + walkIndex va l * 8
    s.homeWord home = e l ∧ s.isBad home = false ∧ s.isRetired home = false
  above    : ∀ l, k < l → l ≤ 4 → IsPointer s l (e l)

/-- The page admits the access under the mode (R324). -/
def Admits (w : Who) (a : Access) (e : Word) : Prop :=
  match a with
  | .load => e.getLsbD 2 = true ∧ (w.checkU = true → w.mode = .user → e.getLsbD 5 = true)
  | .store => e.getLsbD 3 = true ∧ (w.checkU = true → w.mode = .user → e.getLsbD 5 = true)
  | .atomic => e.getLsbD 3 = true ∧ (w.checkU = true → w.mode = .user → e.getLsbD 5 = true)
  | .fetch => e.getLsbD 4 = true ∧ (w.mode = .user ↔ e.getLsbD 5 = true)

/-! ## Taking an exception (R364, R365) -/

/-- The thread at its precise point: its strip closed. -/
def State.closed (s : State) (t : Tid) : State := (s.settle t).release t

/-- Thread t can enter a trap: TVEC is not 0, the frame's bytes lie at these homes, different from one another, and no copy in flight holds their
store back (R248, R365). -/
def State.CanEnter (s : State) (t : Tid) (keys : List Nat) : Prop :=
  (s.thr t).tvec ≠ 0 ∧ keys.Nodup ∧ s.trapWaits t = false ∧ (s.closed t).framePlace t = .ok keys

/-- The state from which a trap is entered: a synchronous one has found what its access met in memory (R171, R378, R385). -/
def State.trapStart (s : State) (t : Tid) (c : BitVec 8) (v : Word) (async : Bool) : State := if async then s else s.noteTrap t c v

/-- TSTATUS at a trap outside a convoy: the progress is that of a convoy that would resume at the pc (R364). -/
structure StatusIs (ts : Word) (a : Arch) (st : Nat) (as : Bool) (prog : Vector (BitVec 6) 4) : Prop where
  pm     : ts.toNat % 2 = if a.mode = .supervisor then 1 else 0
  member : ts.toNat / 2 % 4 = 0
  strip  : ts.toNat / 8 % 4 = st
  depth  : ts.toNat / 32 % 8 = a.loopDepth
  async  : ts.toNat / 256 % 2 = if as then 1 else 0
  cf     : ts.toNat / 512 % 2 = if a.cf then 1 else 0
  fields : ∀ k : Fin 4, ts.toNat / 2 ^ (16 + 6 * k.val) % 64 = (prog[k.val]).toNat
  rest   : ts &&& 0xFFFF_FF00_0000_FC00 = 0

/-- Thread t has taken a trap of state s (R365): t's trap registers, status and pc, its nests in the frame, and nothing else. -/
structure Entered (s s' : State) (t : Tid) (keys : List Nat) (c : BitVec 8) (v e : Word) (strip : Nat) (async : Bool) : Prop where
  tcause : (s'.thr t).tcause = c
  tval   : (s'.thr t).tval = v
  tepc   : (s'.thr t).tepc = e &&& ~~~3#64
  status : StatusIs (s'.thr t).tstatus (s.arch t) strip async (s.boundaryProgress t)
  arch   : s'.arch t = { (s.arch t).setX 2 (s.frameTop t - 64) with mode := .supervisor, pc := (s.thr t).tvec, convoy := none }
  rest   : s'.thr t = { s.thr t with
             arch := s'.arch t, status := .running, tcause := c, tval := v, tepc := e &&& ~~~3#64, tstatus := (s'.thr t).tstatus
             tscratch := if (s.arch t).mode = .user then (s.arch t).getX 2 else (s.thr t).tscratch
             ckpt := if (s.thr t).lanes.isSome then some ⟨.implicit, s'.arch t, s'.arch t⟩ else none
             due := none, history := [], closingHistory := [], heldFrom := none, closingFrom := none, restarts := 0, ahead := [], lost := none
             change := (s'.thr t).change }
  others : ∀ u, u ≠ t → s'.thr u = { s.thr u with change := (s'.thr u).change }
  frame  : (((s.trapStart t c v async).closed t).drainAhead t keys).Plain keys →
             (∀ j k : Nat, keys[j]? = some k → s'.homeByte k = (nestFrame (s.arch t))[j]?.getD 0) ∧
             (∀ k, k ∉ keys → s'.homeByte k = (((s.trapStart t c v async).closed t).drainAhead t keys).homeByte k) ∧
             s'.stores = (((s.trapStart t c v async).closed t).drainAhead t keys).stores

/-! ## Vector instructions (R58, R107, R113, R261, R262) -/

/-- The current thread holds lanes and an open strip on its present rows (R107). -/
structure VectorReady (s : State) : Prop where
  lanes : (s.thr s.cur).lanes.isSome = true
  width : ewOf (s.arch s.cur).vtype ≤ 4
  vlmax : (s.arch s.cur).vlmax = vlmaxOf (s.arch s.cur).vtype (s.rows s.cur)
  vl    : (s.arch s.cur).vl ≤ (s.arch s.cur).vlmax
  /-- the instruction at pc is not resumed part-way after a trap, nor skipped (R371) -/
  fresh : progressAt (s.arch s.cur).convoyHere.resume (s.arch s.cur).convoyHere.member = 0

/-- No transfer in flight of the thread raises its pennants in these registers, so that they can be written (R243). -/
def State.Writable (s : State) (regs : List Nat) : Prop := s.pennantBusy s.cur regs = false

/-- The state after the room that a convoy, and then a member, needs has been reserved (R200, R260). -/
def State.reserved (s : State) (i : Instr) (m : Member) : State :=
  let c := (s.arch s.cur).convoyHere
  (if c.member = 0 then s.reserveConvoy s.cur c ((i, m) :: s.membersAfter s.cur (s.arch s.cur) 3 c.addr) else s).reserveMember s.cur m

/-- A vector instruction of the current thread has completed as a member of its convoy. Its destination registers `regs` have idle progress,
flags `fl` are raised, and what it wrote to x, vector and nest registers is left to the statement. No byte of memory changes; the stores on their
way are those that the reservations leave, which release the held ones where they make a checkpoint. -/
structure VectorRetires (s t : State) (i : Instr) (regs : List Nat) (fl : BitVec 5) : Prop where
  package : t = { s with threads := t.threads, stores := t.stores, fresh := t.fresh }
  stores  : ∀ m, memberOf i s = some m → t.stores = (s.reserved i m).stores
  others  : ∀ u, u ≠ s.cur → t.thr u = s.thr u
  thread  : t.thr s.cur = { s.thr s.cur with
              arch := t.arch s.cur, fflags := (s.thr s.cur).fflags ||| fl, instret := (s.thr s.cur).instret + 1
              rfloss := (t.thr s.cur).rfloss, ckpt := (t.thr s.cur).ckpt, due := (t.thr s.cur).due, history := (t.thr s.cur).history
              closingHistory := (t.thr s.cur).closingHistory, heldFrom := (t.thr s.cur).heldFrom, closingFrom := (t.thr s.cur).closingFrom
              restarts := (t.thr s.cur).restarts, ahead := (t.thr s.cur).ahead }
  arch    : t.arch s.cur = { (s.arch s.cur).advance (s.pc + 4) with
              x := (t.arch s.cur).x, v := (t.arch s.cur).v, nests := (t.arch s.cur).nests, prog := (t.arch s.cur).prog
              convoy := (t.arch s.cur).convoy }
  prog    : ∀ r : Fin 32, (t.arch s.cur).prog[r.val] = if r.val ∈ regs then 4 else (s.arch s.cur).prog[r.val]

/-- The registers of the group at a field (R111). -/
def groupRegs (s : State) (v : VReg) : List Nat := regsFrom v.toNat (multOf (s.arch s.cur).vtype)

/-- Element i of the group at v, at width w. -/
def State.el (s : State) (v w i : Nat) : Nat := (s.arch s.cur).elem (s.rows s.cur) v w i

/-- The third operand of an integer instruction: element i of a group, or the low bits of a scalar for every i (R106). -/
def State.src (s : State) (b : VSrc) (w i : Nat) : Nat :=
  match b with
  | .vec v => s.el v.toNat w i
  | .scal x => (s.x x).toNat % 2 ^ w

/-- Element i is not masked off (R8, R112). -/
def State.on (s : State) (m : Bool) (i : Nat) : Bool := (s.arch s.cur).active (s.rows s.cur) m i

/-- Every vector register outside these is as it was. -/
def SameVregs (s t : State) (regs : List Nat) : Prop := ∀ r, r < 32 → r ∉ regs → (t.arch s.cur).vreg r = (s.arch s.cur).vreg r

/-- The positions of a group below `c` hold the values given, an absent value keeping the old one; the others follow the tail policy (R113). -/
def GroupHolds (s t : State) (v w c : Nat) (f : Nat → Option Nat) : Prop :=
  ∀ i, i < (s.arch s.cur).positions w →
    (t.arch s.cur).elem (s.rows s.cur) v w i =
      if i < c then (match f i with | some x => x % 2 ^ w | none => s.el v w i)
      else if (s.arch s.cur).vtype.getLsbD 5 then 0 else s.el v w i

/-- An element-wise instruction completes: each active element below VL gets `f`, the others and the tail follow R113, and the flags of the
active elements are raised (R79, R117). -/
def Elementwise (s : State) (i : Instr) (m : Bool) (d : VReg) (w : Nat) (f : Nat → Nat × BitVec 5) : Prop :=
  ∃ t, exec i s = .next t ∧
    VectorRetires s t i (groupRegs s d) (orFlags (((List.range (s.arch s.cur).vl).filter (s.on m)).map fun k => (f k).2)) ∧
    (t.arch s.cur).x = (s.arch s.cur).x ∧ (t.arch s.cur).nests = (s.arch s.cur).nests ∧ SameVregs s t (groupRegs s d) ∧
    GroupHolds s t d.toNat w (s.arch s.cur).vl fun k => if s.on m k then some (f k).1 else none

/-- An instruction that writes a mask completes: each active bit below VL gets `f`, every other bit of the destination stays (R113). -/
def MaskWritten (s : State) (i : Instr) (m : Bool) (d : VReg) (f : Nat → Bool × BitVec 5) : Prop :=
  ∃ t, exec i s = .next t ∧
    VectorRetires s t i (regsFrom d.toNat (maskRegs (s.arch s.cur).vtype))
      (orFlags (((List.range (s.arch s.cur).vl).filter (s.on m)).map fun k => (f k).2)) ∧
    (t.arch s.cur).x = (s.arch s.cur).x ∧ (t.arch s.cur).nests = (s.arch s.cur).nests ∧
    SameVregs s t (regsFrom d.toNat (maskRegs (s.arch s.cur).vtype)) ∧
    ∀ k, k < s.rows s.cur * 2048 * maskRegs (s.arch s.cur).vtype →
      (t.arch s.cur).maskBit (s.rows s.cur) d.toNat k =
        if k < (s.arch s.cur).vl ∧ s.on m k = true then (f k).1 else (s.arch s.cur).maskBit (s.rows s.cur) d.toNat k

/-- An instruction that writes one value for each segment completes: position k of the group gets value k, the rest follow the tail policy from
the number of segments on (R135, R136). -/
def PerSegment (s : State) (i : Instr) (d : VReg) (w : Nat) (vals : List (Nat × BitVec 5)) : Prop :=
  ∃ t, exec i s = .next t ∧ VectorRetires s t i (groupRegs s d) (orFlags (vals.map Prod.snd)) ∧
    (t.arch s.cur).x = (s.arch s.cur).x ∧ (t.arch s.cur).nests = (s.arch s.cur).nests ∧ SameVregs s t (groupRegs s d) ∧
    GroupHolds s t d.toNat w vals.length fun k => (vals[k]?).map Prod.fst

/-- The segments of a depth of a nest, as pairs of first element and end, where the checks of R129 pass (R128). -/
def Segments (s : State) (n : Nest) (p : Depth) (l : List (Nat × Nat)) : Prop :=
  (s.arch s.cur).checkDepth (s.rows s.cur) n p.val = .ok () ∧ l = segPairs ((s.arch s.cur).segs (s.rows s.cur) n p.val)

/-- The segment that holds element i, among those of a depth (R128). -/
def segmentOf (l : List (Nat × Nat)) (i : Nat) : Nat := l.findIdx fun q => decide (q.1 ≤ i) && decide (i < q.2)

/-- The active elements of a segment, lowest first. -/
def State.actives (s : State) (m : Bool) (lo hi : Nat) : List Nat := (rangeList lo hi).filter (s.on m)

/-- An instruction that writes one scalar register from vector state completes (R124, R142). -/
def ScalarFromVector (s : State) (i : Instr) (d : XReg) (v : Word) : Prop :=
  ∃ t, exec i s = .next t ∧ VectorRetires s t i [] 0 ∧ WritesX s t d v ∧ (t.arch s.cur).v = (s.arch s.cur).v ∧
    (t.arch s.cur).nests = (s.arch s.cur).nests

/-- The nest named, in the current thread. -/
def State.nest (s : State) (n : NReg) : Nest := (s.arch s.cur).nests[n.toNat]'(n.isLt)

/-- The instruction changes no nest but n, which becomes q. -/
def NestIs (s t : State) (n : NReg) (q : Nest) : Prop :=
  ∀ k : NReg, t.nest k = if k = n then q else s.nest k

/-- The 32-bit entries of register r: those listed become the values given, and the others stay. -/
def EntriesAre (s t : State) (r : Nat) (l : List Nat) : Prop :=
  ∀ k, k < 64 * s.rows s.cur → t.el r 32 k = (l[k]?).getD (s.el r 32 k)

/-- A vector instruction has trapped, with this cause and value: TEPC is its convoy, TSTATUS its place there, and no register but x2, the progress
indices and the trap registers has changed (R364, R368). Its stores are those of the closed strip, where those of an earlier strip stand before those
of a later one (R257). -/
structure ConvoyTraps (s t : State) (cause : BitVec 8) (val : Word) : Prop where
  tcause : (t.thr s.cur).tcause = cause
  tval   : (t.thr s.cur).tval = val
  tepc   : (t.thr s.cur).tepc = (s.arch s.cur).convoyHere.addr &&& ~~~3#64
  member : (t.thr s.cur).tstatus.toNat / 2 % 4 = (s.arch s.cur).convoyHere.member % 4
  arch   : t.arch s.cur = { s.arch s.cur with
             x := (t.arch s.cur).x, prog := (t.arch s.cur).prog, mode := .supervisor, pc := (s.thr s.cur).tvec, convoy := none }
  x      : ∀ r : XReg, r ≠ 2 → (t.arch s.cur).getX r = s.x r
  flags  : (t.thr s.cur).fflags = (s.thr s.cur).fflags
  others : ∀ u, u ≠ s.cur → t.thr u = { s.thr u with change := (t.thr u).change }
  stores : (s.stores.Pairwise fun e f => e.tid = s.cur → f.tid = s.cur → e.point = .held → f.point ≠ .closing) →
    ∀ keys, (s.closed s.cur).framePlace s.cur = .ok keys →
    t.stores = (((s.trapStart s.cur cause val false).closed s.cur).drainAhead s.cur keys).stores

/-! ## What an event leaves -/

/-- No field of any thread has changed but change bits (R288). -/
def OnlyChangeBits (s u : State) : Prop := ∀ v, u.thr v = { s.thr v with change := (u.thr v).change }

/-- These bytes have been performed at these homes, where the homes are plain and different from one another; every other byte is as it was. -/
def HomeIs (s u : State) (keys : List Nat) (bytes : List Byte) : Prop :=
  keys.Nodup → s.Plain keys →
    (∀ (j k : Nat) (b : Byte), keys[j]? = some k → bytes[j]? = some b → u.homeByte k = b) ∧ ∀ k, k ∉ keys → u.homeByte k = s.homeByte k

/-- Two stores of which neither must stay behind the other: they share no byte, change no tag in different ways, and belong to no one ordered
instruction (R172, R219, R223). -/
def Apart (e f : StoreEntry) : Prop :=
  (∀ k ∈ e.keys, k ∉ f.keys) ∧ (∀ p ∈ e.tags, ∀ q ∈ f.tags, p.1 = q.1 → p.2 = q.2) ∧ (e.chain = 0 ∨ e.chain ≠ f.chain)

/-- The stores l have entered the release queue behind `before`: an element of a vstxo whose elements before it are still on their way, or a store
behind one that it must not pass, waits there; the others stand at the hart's point (R219, R223, R257). -/
def Queues (before l : List StoreEntry) : Prop :=
  ∀ (j : Nat) (e : StoreEntry), l[j]? = some e → (e.point = .queue ∨ e.point = .hart) ∧
    (e.point = .queue ↔ ∃ x ∈ before ++ l.take j,
      (e.chain ≠ 0 ∧ x.chain = e.chain ∧ 2 ≤ x.point.rank) ∨ (x.tid = e.tid ∧ x.point = .queue ∧ ¬ Apart x e))

/-- The thread's stores at these points have entered the release queue in their order, and every other store is as it was: none is lost. -/
def Releases (s u : State) (t : Tid) (sel : Point → Bool) : Prop :=
  let mine := fun e : StoreEntry => e.tid == t && sel e.point
  ∃ l, u.stores = s.stores.filter (fun e => !mine e) ++ l ∧
    (l.map fun e => { e with point := .held }) = ((s.stores.filter mine).map fun e => { e with point := .held }) ∧
    Queues (s.stores.filter fun e => !mine e) l

/-- A thread has been asked to yield (R308). -/
def AskedToYield (s u : State) (t : Tid) : Prop :=
  u.thr t = { s.thr t with ystat := (s.thr t).ystat ||| 1, ydead := s.cycleOf t + 100000, deadFrom := s.cycleOf t }

/-- A thread returns to a checkpoint's registers, its strip's stores and history dropped; its flags and its retired count stay (R256, R259). -/
structure ReturnsTo (s u : State) (t : Tid) (a : Arch) : Prop where
  arch    : u.arch t = a
  flags   : (u.thr t).fflags = (s.thr t).fflags
  instret : (u.thr t).instret = (s.thr t).instret
  stores  : u.stores = s.stores.filter fun e => !(e.tid == t && (e.point == .held || e.point == .closing))
  strip   : (u.thr t).heldFrom = none ∧ (u.thr t).closingFrom = none ∧ (u.thr t).history = [] ∧ (u.thr t).closingHistory = [] ∧
              (u.thr t).due = none

/-- The kinds of the records that an event has added to those waiting for the error ring (R392). -/
def Reported (s u : State) (kinds : List Nat) : Prop :=
  (u.reports.take s.reports.length) = s.reports ∧ (u.reports.drop s.reports.length).map (fun r => r.kind.toNat) = kinds

/-! ## Exact values of numbers -/

/-- The rational value of a finite number. -/
def FVal.rat : FVal → Rat
  | .fin neg m e => (if neg then -1 else 1) * (m : Rat) * (2 : Rat) ^ e
  | _ => 0

def FVal.isFin : FVal → Bool
  | .fin .. => true
  | _ => false

/-- A magnitude that overflows: rounded with an unbounded exponent, it exceeds the largest finite value (R68). -/
def Overflows (f : Fmt) (x : ℝ) : Prop :=
  match f with
  | .fp64 => 2 ^ 1024 - 2 ^ 970 ≤ |x|
  | .fp32 => 2 ^ 128 - 2 ^ 103 ≤ |x|
  | .fp16 => 65520 ≤ |x|
  | .bf16 => 2 ^ 128 - 2 ^ 119 ≤ |x|
  | .e4m3 => 464 < |x|
  | .e5m2 => 61440 ≤ |x|

/-- A magnitude that is tiny: rounded with an unbounded exponent, it lies below the smallest normal value (R69). -/
def IsTiny (f : Fmt) (x : ℝ) : Prop := |x| < 2 ^ (1 - (f.bias : Int)) * (1 - 2 ^ (-(f.frac : Int) - 2))

/-- r is the pattern and the flags of the nonzero exact result x, rounded once to nearest with ties to even (R67 to R70). -/
structure RoundsTo (f : Fmt) (x : ℝ) (r : Nat × BitVec 5) : Prop where
  width    : r.1 < 2 ^ f.width
  sign     : (unpack f r.1).isNeg = true ↔ x < 0
  overflow : Overflows f x →
    r.2 = flOF ||| flNX ∧ r.1 % f.signBit = if f = .e4m3 ∨ f = .e5m2 then f.maxFinite else f.infBits
  finite   : ¬ Overflows f x → (unpack f r.1).isFin = true
  nearest  : ¬ Overflows f x → ∀ y, y < 2 ^ f.width → (unpack f y).isFin = true →
    |((unpack f r.1).rat : ℝ) - x| ≤ |((unpack f y).rat : ℝ) - x| ∧
    (|((unpack f r.1).rat : ℝ) - x| = |((unpack f y).rat : ℝ) - x| → (unpack f y).rat ≠ (unpack f r.1).rat → r.1 % 2 = 0)
  exact    : ¬ Overflows f x → ((unpack f r.1).rat : ℝ) = x → r.2 = 0
  inexact  : ¬ Overflows f x → ((unpack f r.1).rat : ℝ) ≠ x →
    (IsTiny f x → r.2 = flUF ||| flNX) ∧ (¬ IsTiny f x → r.2 = flNX)

/-- The order of numbers, infinities at its ends; no order holds for a NaN (R73). -/
def FVal.lt : FVal → FVal → Prop
  | .inf n, .inf n' => n = true ∧ n' = false
  | .inf n, .fin .. => n = true
  | .fin .., .inf n => n = false
  | .fin n m e, .fin n' m' e' => (FVal.fin n m e).rat < (FVal.fin n' m' e').rat
  | _, _ => False

/-- A number rounded to an integer in a mode (R74). -/
def intOf (m : RMode) (x : Rat) : Int :=
  match m with
  | .rdn => x.floor
  | .rup => x.ceil
  | .rz => if x < 0 then x.ceil else x.floor
  | .rne => if x - x.floor < 1 / 2 then x.floor else if 1 / 2 < x - x.floor then x.floor + 1 else if x.floor % 2 = 0 then x.floor else x.floor + 1

/-- The pairing of R92 over positions s to s + 2^k - 1: the value, none for EMPTY, and the flags of its roundings. -/
def pairingAt (t : List (Option Nat)) : Nat → Nat → Option Nat × BitVec 5
  | 0, s => (t[s]?.join, 0)
  | k + 1, s =>
    let lo := pairingAt t k s
    let hi := pairingAt t k (s + 2 ^ k)
    match lo.1, hi.1 with
    | none, h => (h, lo.2 ||| hi.2)
    | l, none => (l, lo.2 ||| hi.2)
    | some a, some b =>
      let r := rne .fp64 (addX (unpack .fp64 a) (unpack .fp64 b))
      (some r.1, lo.2 ||| hi.2 ||| r.2)

/-- The sum of R92 before its last step: aligned blocks of 256 positions, left to right. -/
def fp64SumOf (t : List (Option Nat)) : Option Nat × BitVec 5 :=
  (List.range ((t.length + 255) / 256)).foldl (fun acc k =>
    let b := pairingAt t 8 (256 * k)
    match b.1, acc.1 with
    | none, a => (a, acc.2 ||| b.2)
    | some x, none => (some x, acc.2 ||| b.2)
    | some x, some a =>
      let r := rne .fp64 (addX (unpack .fp64 a) (unpack .fp64 x))
      (some r.1, acc.2 ||| b.2 ||| r.2)) (none, 0)

/-- The values of the sixteen codes of a type, before the scale (R84); the two zeros of the sign-magnitude types are one number. -/
def codeTable : CodeType → List Rat
  | .int => [0, 1, 2, 3, 4, 5, 6, 7, -8, -7, -6, -5, -4, -3, -2, -1]
  | .e2m1 => [0, 1 / 2, 1, 3 / 2, 2, 3, 4, 6, 0, -1 / 2, -1, -3 / 2, -2, -3, -4, -6]
  | .pow => [0, 1 / 8, 1 / 4, 1 / 2, 1, 2, 4, 8, 0, -1 / 8, -1 / 4, -1 / 2, -1, -2, -4, -8]
  | .hyb => [0, 1, 2, 3, 4, 6, 8, 12, 0, -1, -2, -3, -4, -6, -8, -12]

/-- The largest magnitude that venc4 encodes in a type (R87). -/
def codeLimit : CodeType → Rat
  | .int => 7
  | .e2m1 => 6
  | .pow => 8
  | .hyb => 12

/-! ## Conditions tested in order -/

/-- The condition holds, or its trap. -/
def need (p : Prop) [Decidable p] (c : BitVec 8) (v : Word) : Except Stop Unit := if p then .ok () else .error (.trap c v)

/-- A read as a condition: it fails as the read does. -/
def passing {α : Type} (e : Except Stop α) : Except Stop Unit := e.map fun _ => ()

/-- A place as a condition: its fault carries the address. -/
def placing (e : Except (BitVec 8) Loc) (va : Word) : Except Stop Unit := match e with | .error c => .error (.trap c va) | .ok _ => .ok ()

/-- Of conditions tested in this order the first that fails decides the trap. -/
def FirstTrap (s : State) (i : Instr) (l : List (Except Stop Unit)) : Prop :=
  ∀ (k : Nat) (c : BitVec 8) (v : Word), l[k]? = some (.error (.trap c v)) → (∀ j, j < k → l[j]? = some (.ok ())) → TrapsRead s i c v

/-- All the conditions hold. -/
def AllPass (l : List (Except Stop Unit)) : Prop := ∀ o ∈ l, o = .ok ()

/-- TVAL of a handle fault, and of a shape fault (R180, R357). -/
def faultWord (sub h layer : Nat) : Word := BitVec.ofNat 64 (sub + h * 256 + layer * 2 ^ 20)
def shapeWord (sub n : Nat) : Word := BitVec.ofNat 64 (sub + n * 2 ^ 16)

/-- A tile operand as R176, R180 and R341 read it, a failed read taken as no bytes: the conditions of R180's orders 2 to 8 up to the frame, what the
operand names, and the frame's stored tag. -/
structure TileView where
  orders : List (Except Stop Unit)
  named  : Bool
  handle : Handle
  shape  : Shape
  i      : Nat
  j      : Nat
  frame  : Word
  key    : Nat
  /-- the reading of the stored tag -/
  tagged : Except Stop Unit
  stored : BitVec 16

/-- The operand at x with tile (i, j) in y; `writes` gives the value whose low half becomes the tag, from the expected one. -/
def State.tileView (s : State) (x y : Word) (acc : Access) (writes : Option (BitVec 16 → Word)) : TileView :=
  let h := x.toNat % 4096
  let table := (s.thr s.cur).htbase
  let named := decide (2 ^ 63 ≤ x.toNat)
  let w := if named then { s.who s.cur with window := false } else s.who s.cur
  let record := s.readHome { s.who s.cur with window := false, checkU := false } (table + BitVec.ofNat 64 (h * 128)) 128
  let r := handleOf (record.toOption.getD [])
  let at_ := if named then r.base else x
  let b := s.readStruct w at_ 32
  let sh := shapeOf (b.toOption.getD [])
  let count := if sh.count = 0 then .ok sh.rows else s.readWord w sh.count 4
  let rows := count.toOption.getD 0
  let n := y.toNat % 2 ^ 32
  let i := y.toNat / 2 ^ 16 % 2 ^ 16
  let j := y.toNat % 2 ^ 16
  let fa := sh.base + BitVec.ofNat 64 ((i * sh.cols + j) * 4096)
  let place := s.placed w acc false fa
  let key := match place with | .ok l => l.key | .error _ => 0
  let tag := match place with | .ok l => s.readTag w named l fa | .error _ => .ok 0
  { orders :=
      (if !named then []
        else if writes.isSome then [.error (.trap 0x0F (faultWord 8 h 0))]
        else [need (x.toNat / 4096 = 2 ^ 51) 0x0F (faultWord 0 h 0), need (table ≠ 0) 0x0F (faultWord 1 h 0), passing record,
          need (r.state = 1) 0x0F (faultWord 1 h 0)]) ++
      [need (at_.toNat % 32 = 0) 0x03 at_, passing b, need (sh.count.toNat % 4 = 0) 0x03 sh.count] ++
      (match writes with
        | none => []
        | some f =>
          let v := (f sh.tag).toNat
          let tag := BitVec.ofNat 16 v
          [need (v < 2 ^ 16 ∧ tagMalformed tag = false ∧ tagSparsity tag ≠ 3) 0x0B (shapeWord 3 n)]) ++
      [passing count, need (sh.count = 0 ∨ rows ≤ sh.bound) 0x0B (shapeWord 0 n),
        need (y.toNat < 2 ^ 32 ∧ i < rows ∧ j < sh.cols) 0x0B (shapeWord 2 n), need (sh.base.toNat % 4096 = 0) 0x03 sh.base, placing place fa]
    named := named, handle := r, shape := sh, i := i, j := j, frame := fa, key := key
    tagged := passing tag, stored := tag.toOption.getD 0 }

/-! ## Layers (R344 to R347) -/

/-- The triples of a sparse layer's bytes: row, column, value. -/
def triplesOf (t : Nat) (b : List Byte) : List (Nat × Nat × Nat) :=
  (List.range t).map fun k => (fieldAt b (16 * k) 4, fieldAt b (16 * k + 4) 4, fieldAt b (16 * k + 8) 4)

/-- Strictly ascending, and inside the tensor. -/
def triplesOk (sh : Shape) (l : List (Nat × Nat × Nat)) : Bool :=
  (l.zip l.tail).all (fun p => decide (p.1.1 < p.2.1) || (p.1.1 == p.2.1 && decide (p.1.2.1 < p.2.2.1))) &&
    l.all fun p => decide (p.1 < sh.elemRows) && decide (p.2.1 < sh.elemCols)

/-- The bytes at which an agent reads a layer's descriptor, and the layer they describe (R344). -/
def State.layerAt (s : State) (w : Who) (va : Word) : Option Layer := layerOf ((s.readHome w va 64).toOption.getD [])

/-- Every byte of a layer's data lies in this device's HBM (R345). -/
def State.layerInside (s : State) (w : Who) (sh : Shape) (l : Layer) : Bool :=
  match l with
  | .sparse t a => !s.offHbm w a (16 * t)
  | .lowRank q _ u v => !s.offHbm w u (sh.elemRows * q * 4) && !s.offHbm w v (sh.elemCols * q * 4)

/-- Orders 3 and 4 of R347, descriptor by descriptor. -/
def State.descriptorOrders (s : State) (w : Who) (sh : Shape) (h : Nat) (ls : List (Word × Nat)) : List (Except Stop Unit) :=
  ls.flatMap fun p => [passing (s.readHome w p.1 64),
    need (((s.layerAt w p.1).map (s.layerInside w sh)).getD false = true) 0x0F (faultWord 4 h p.2)]

/-- Where a load of the tile at row y, column z reads a low-rank layer's rows. -/
def rankPlace (base : Word) (row q : Nat) : Word := base + BitVec.ofNat 64 (row * q * 4)

/-- Orders 5 and 6 of R347, layer by layer, for the tile of tr rows and tc columns at (y, z). -/
def State.layerDataOrders (s : State) (w : Who) (sh : Shape) (h tr tc y z : Nat) (ls : List (Word × Nat)) : List (Except Stop Unit) :=
  ls.flatMap fun p =>
    match s.layerAt w p.1 with
    | none => []
    | some (.sparse t a) => [passing (s.readHome w a (16 * t)),
        need (triplesOk sh (triplesOf t ((s.readHome w a (16 * t)).toOption.getD [])) = true) 0x0F (faultWord 5 h p.2)]
    | some (.lowRank q _ u v) => [passing (s.readHome w (rankPlace u y q) (tr * q * 4)), passing (s.readHome w (rankPlace v z q) (tc * q * 4))]

/-- One element of a tile through its layers in list order, each addition rounded once (R346): the accumulator and its flags so far, the element's
row and column in the tensor, and its row and column in the tile at (y, z). -/
def State.amended (s : State) (w : Who) (tr tc y z r c : Nat) (ls : List Word) (acc : Nat × BitVec 5) : Nat × BitVec 5 :=
  ls.foldl (fun acc va =>
    let add := fun (v : Nat × BitVec 5) =>
      let x := rne .fp32 (addX (unpack .fp32 acc.1) (unpack .fp32 v.1))
      (x.1, acc.2 ||| v.2 ||| x.2)
    match s.layerAt w va with
    | none => acc
    | some (.sparse t a) =>
      match (triplesOf t ((s.readHome w a (16 * t)).toOption.getD [])).find? fun p => p.1 == y + r && p.2.1 == z + c with
      | some p => add (p.2.2, 0)
      | none => acc
    | some (.lowRank q alpha u v) =>
      let ub := (s.readHome w (rankPlace u y q) (tr * q * 4)).toOption.getD []
      let vb := (s.readHome w (rankPlace v z q) (tc * q * 4)).toOption.getD []
      let sum := exactSum .fp32 ((List.range q).map fun p =>
        mulX (unpack .fp32 (fieldAt ub (4 * (r * q + p)) 4)) (unpack .fp32 (fieldAt vb (4 * (c * q + p)) 4)))
      let prod := rne .fp32 (mulX (unpack .fp32 alpha) (unpack .fp32 sum.1))
      add (prod.1, sum.2 ||| prod.2)) acc

/-- x is delivered in the format of the base: rounded once, and a finite overflow saturates (R346). -/
structure Delivers (f : Fmt) (x : FVal) (r : Nat × BitVec 5) : Prop where
  nan      : ∀ q, x = .nan q → r = (f.canonNaN, if q then flNV else 0)
  inf      : ∀ n, x = .inf n → r = (withSign f n f.infBits, if f = .e4m3 then flOF ||| flNX else 0)
  zero     : x.isFin = true → x.rat = 0 → r = (withSign f x.isNeg 0, 0)
  overflow : x.isFin = true → Overflows f (x.rat : ℝ) → r = (withSign f x.isNeg f.maxFinite, flOF ||| flNX)
  rounds   : x.isFin = true → x.rat ≠ 0 → ¬ Overflows f (x.rat : ℝ) → RoundsTo f (x.rat : ℝ) r

end Sys2Proof.Machine
end

