-- ==== Sys2Proof/Certificates/Slice0/Obligations.lean ====
section
/-! DEFINITION. The statements about the Baldex C768 that the provers settle. A statement about a free value holds for every value of it. -/

open Sys2Proof Sys2Proof.Machine

/-- R97, R61, R62: each SALU instruction completes with its result and changes nothing but xd, the pc (with the end of a pass) and INSTRET. -/
def Obligations.IntegerInstructionsComplete : Prop :=
  ∀ (s : State) (d a b : XReg),
    Writes s (.add d a b) d (BitVec.ofNat 64 ((s.x a).toNat + (s.x b).toNat)) ∧
    Writes s (.sub d a b) d (BitVec.ofInt 64 ((s.x a).toNat - (s.x b).toNat)) ∧
    Writes s (.and d a b) d (s.x a &&& s.x b) ∧
    Writes s (.or d a b) d (s.x a ||| s.x b) ∧
    Writes s (.xor d a b) d (s.x a ^^^ s.x b) ∧
    Writes s (.sll d a b) d (BitVec.ofNat 64 ((s.x a).toNat * 2 ^ ((s.x b).toNat % 64))) ∧
    Writes s (.srl d a b) d (BitVec.ofNat 64 ((s.x a).toNat / 2 ^ ((s.x b).toNat % 64))) ∧
    Writes s (.sra d a b) d (BitVec.ofInt 64 ((s.x a).toInt / 2 ^ ((s.x b).toNat % 64))) ∧
    Writes s (.slt d a b) d (if (s.x a).toInt < (s.x b).toInt then 1 else 0) ∧
    Writes s (.sltu d a b) d (if (s.x a).toNat < (s.x b).toNat then 1 else 0) ∧
    Writes s (.mul d a b) d (BitVec.ofNat 64 ((s.x a).toNat * (s.x b).toNat)) ∧
    Writes s (.mulh d a b) d (((s.x a).signExtend 128 * (s.x b).signExtend 128).extractLsb' 64 64) ∧
    Writes s (.mulhu d a b) d (((s.x a).zeroExtend 128 * (s.x b).zeroExtend 128).extractLsb' 64 64) ∧
    Writes s (.div d a b) d
      (if s.x b = 0 then BitVec.allOnes 64
       else if s.x a = BitVec.intMin 64 ∧ s.x b = BitVec.allOnes 64 then BitVec.intMin 64
       else BitVec.ofInt 64 (Int.tdiv (s.x a).toInt (s.x b).toInt)) ∧
    Writes s (.divu d a b) d (if s.x b = 0 then BitVec.allOnes 64 else BitVec.ofNat 64 ((s.x a).toNat / (s.x b).toNat)) ∧
    Writes s (.clz d a) d (BitVec.ofNat 64 ((List.range 64).takeWhile fun i => !(s.x a).getMsbD i).length) ∧
    Writes s (.ctz d a) d (BitVec.ofNat 64 ((List.range 64).takeWhile fun i => !(s.x a).getLsbD i).length) ∧
    Writes s (.popc d a) d (BitVec.ofNat 64 ((List.range 64).filter (s.x a).getLsbD).length)

/-- R98, R99: the immediate and shift-immediate instructions. -/
def Obligations.ImmediateInstructionsComplete : Prop :=
  ∀ (s : State) (d a : XReg) (k : BitVec 16) (n : BitVec 6),
    Writes s (.addi d a k) d (BitVec.ofInt 64 ((s.x a).toNat + k.toInt)) ∧
    Writes s (.andi d a k) d (s.x a &&& BitVec.ofNat 64 k.toNat) ∧
    Writes s (.ori d a k) d (s.x a ||| BitVec.ofNat 64 k.toNat) ∧
    Writes s (.xori d a k) d (s.x a ^^^ BitVec.ofNat 64 k.toNat) ∧
    Writes s (.lui d k) d (BitVec.ofInt 64 (k.toInt * 2 ^ 16)) ∧
    Writes s (.adr d k) d (BitVec.ofInt 64 (s.pc.toNat + k.toInt * 4)) ∧
    Writes s (.slli d a n) d (BitVec.ofNat 64 ((s.x a).toNat * 2 ^ n.toNat)) ∧
    Writes s (.srli d a n) d (BitVec.ofNat 64 ((s.x a).toNat / 2 ^ n.toNat)) ∧
    Writes s (.srai d a n) d (BitVec.ofInt 64 ((s.x a).toInt / 2 ^ n.toNat))

/-- R100, R101: the SFPU instructions; `rne` is the one rounding of R67 to R70. -/
def Obligations.FloatInstructionsComplete : Prop :=
  ∀ (s : State) (p : Prec) (m : RMode) (d a b : XReg),
    let f := precFmt p
    let v := fun r : XReg => unpack f (match p with | .s => ((s.x r).extractLsb' 0 32).toNat | .d => (s.x r).toNat)
    let bits := fun r : XReg => match p with | .s => ((s.x r).extractLsb' 0 32).toNat | .d => (s.x r).toNat
    let wrF := fun r : Nat × BitVec 5 => match p with | .s => (BitVec.ofNat 32 r.1).setWidth 64 | .d => BitVec.ofNat 64 r.1
    let bit := fun r : Bool × BitVec 5 => (if r.1 then 1 else 0 : Word)
    Writes s (.fadd p d a b) d (wrF (rne f (addX (v a) (v b)))) (rne f (addX (v a) (v b))).2 ∧
    Writes s (.fsub p d a b) d (wrF (rne f (addX (v a) (v b).neg))) (rne f (addX (v a) (v b).neg)).2 ∧
    Writes s (.fmul p d a b) d (wrF (rne f (mulX (v a) (v b)))) (rne f (mulX (v a) (v b))).2 ∧
    Writes s (.fma p d a b) d (wrF (rne f (addX (mulX (v a) (v b)) (v d)))) (rne f (addX (mulX (v a) (v b)) (v d))).2 ∧
    Writes s (.fdiv p d a b) d (wrF (fdiv f (v a) (v b))) (fdiv f (v a) (v b)).2 ∧
    Writes s (.fsqrt p d a) d (wrF (fsqrt f (v a))) (fsqrt f (v a)).2 ∧
    Writes s (.fmin p d a b) d (wrF (fminmax f false (bits a) (bits b))) (fminmax f false (bits a) (bits b)).2 ∧
    Writes s (.fmax p d a b) d (wrF (fminmax f true (bits a) (bits b))) (fminmax f true (bits a) (bits b)).2 ∧
    Writes s (.fcmplt p d a b) d (bit (fcmp .lt (v a) (v b))) (fcmp .lt (v a) (v b)).2 ∧
    Writes s (.fcmple p d a b) d (bit (fcmp .le (v a) (v b))) (fcmp .le (v a) (v b)).2 ∧
    Writes s (.fcmpeq p d a b) d (bit (fcmp .eq (v a) (v b))) (fcmp .eq (v a) (v b)).2 ∧
    Writes s (.fcvtfi p d a) d (wrF (ofInt f (s.x a).toInt)) (ofInt f (s.x a).toInt).2 ∧
    Writes s (.fcvtif p m d a) d (BitVec.ofNat 64 (toInt m 64 (v a)).1) (toInt m 64 (v a)).2 ∧
    (∀ (g : Fmt) (x y : FVal), x.isFin = true → y.isFin = true →
      (x.rat ≠ 0 → y.rat ≠ 0 → RoundsTo g ((x.rat / y.rat : ℚ) : ℝ) (fdiv g x y)) ∧
      (x.rat ≠ 0 → y.rat = 0 → fdiv g x y = (withSign g (x.isNeg != y.isNeg) g.infBits, flDZ)) ∧
      (x.rat = 0 → fdiv g x y = if y.rat = 0 then (g.canonNaN, flNV) else (withSign g (x.isNeg != y.isNeg) 0, 0)) ∧
      (∀ n, fdiv g x (.inf n) = (withSign g (x.isNeg != n) 0, 0) ∧ fdiv g (.inf n) x = rne g (.inf (n != x.isNeg))) ∧
      (0 < x.rat → RoundsTo g (Real.sqrt ((x.rat : ℚ) : ℝ)) (fsqrt g x)) ∧ (x.rat < 0 → fsqrt g x = (g.canonNaN, flNV)) ∧
      (x.rat = 0 → fsqrt g x = (withSign g x.isNeg 0, 0))) ∧
    (∀ (g : Fmt) (n n' : Bool), fdiv g (.inf n) (.inf n') = (g.canonNaN, flNV) ∧
      fsqrt g (.inf n) = if n then (g.canonNaN, flNV) else rne g (.inf false)) ∧
    (∀ (g : Fmt) (x y : FVal), x.isNaN = true ∨ y.isNaN = true →
      let fl := fun q : Bool => if q then flNV else 0
      fdiv g x y = (g.canonNaN, fl (x.signals || y.signals)) ∧ (x.isNaN = true → fsqrt g x = (g.canonNaN, fl x.signals)) ∧
      fcmp .eq x y = (false, fl (x.signals || y.signals)) ∧ fcmp .lt x y = (false, flNV) ∧ fcmp .le x y = (false, flNV)) ∧
    (∀ (g : Fmt) (isMax : Bool) (x y : Nat),
      let r := fminmax g isMax x y
      let ux := unpack g x
      let uy := unpack g y
      (ux.isNaN = true ∨ uy.isNaN = true → r = (g.canonNaN, if ux.signals || uy.signals then flNV else 0)) ∧
      (ux.isNaN = false → uy.isNaN = false →
        r.2 = 0 ∧ (r.1 = x ∨ r.1 = y) ∧
        (isMax = false → ¬ ux.lt (unpack g r.1) ∧ ¬ uy.lt (unpack g r.1)) ∧ (isMax = true → ¬ (unpack g r.1).lt ux ∧ ¬ (unpack g r.1).lt uy) ∧
        (¬ ux.lt uy → ¬ uy.lt ux → (unpack g r.1).isNeg = if isMax then ux.isNeg && uy.isNeg else ux.isNeg || uy.isNeg))) ∧
    (∀ (x y : FVal), x.isNaN = false → y.isNaN = false →
      ((fcmp .lt x y).1 = true ↔ x.lt y) ∧ ((fcmp .le x y).1 = true ↔ ¬ y.lt x) ∧ ((fcmp .eq x y).1 = true ↔ ¬ x.lt y ∧ ¬ y.lt x) ∧
      ∀ r, (fcmp r x y).2 = 0) ∧
    (∀ (q : RMode) (w : Nat) (x : FVal), 0 < w →
      let enc := fun n : Int => (n % 2 ^ w).toNat
      let n := intOf q x.rat
      (x.isNaN = true → toInt q w x = (0, flNV)) ∧
      (∀ neg, toInt q w (.inf neg) = (enc (if neg then -(2 ^ (w - 1)) else 2 ^ (w - 1) - 1), flNV)) ∧
      (x.isFin = true →
        toInt q w x =
          if n < -(2 ^ (w - 1)) then (enc (-(2 ^ (w - 1))), flNV)
          else if 2 ^ (w - 1) - 1 < n then (enc (2 ^ (w - 1) - 1), flNV)
          else (enc n, if (n : Rat) = x.rat then 0 else flNX))) ∧
    ∀ (g : Fmt) (n : Int), ofInt g 0 = (0, 0) ∧ (n ≠ 0 → RoundsTo g (n : ℝ) (ofInt g n))

/-- R8, R66 to R71: exact results, and the one rounding of every operation. -/
def Obligations.ExactResultsRoundOnceToNearestEven : Prop :=
  (∀ (f : Fmt) (neg : Bool) (m : Nat) (e : Int), m ≠ 0 → RoundsTo f ((FVal.fin neg m e).rat : ℝ) (rne f (.fin neg m e))) ∧
  (∀ (a b : FVal), a.isFin = true → b.isFin = true →
    (addX a b).isFin = true ∧ (addX a b).rat = a.rat + b.rat ∧
    (mulX a b).isFin = true ∧ (mulX a b).rat = a.rat * b.rat ∧
    ((addX a b).rat = 0 → ((addX a b).isNeg = true ↔ a.isNeg = true ∧ b.isNeg = true ∧ a.rat = 0 ∧ b.rat = 0)) ∧
    ((mulX a b).isNeg = (a.isNeg != b.isNeg))) ∧
  (∀ (a b : FVal), a.isNaN = true ∨ b.isNaN = true →
    addX a b = .nan (a.signals || b.signals) ∧ mulX a b = .nan (a.signals || b.signals)) ∧
  (∀ (a : FVal) (n n' : Bool), a.isFin = true →
    addX (.inf n) (.inf n') = (if n = n' then .inf n else .nan true) ∧ mulX (.inf n) (.inf n') = .inf (n != n') ∧
    addX (.inf n) a = .inf n ∧ addX a (.inf n) = .inf n ∧
    mulX (.inf n) a = (if a.rat = 0 then .nan true else .inf (n != a.isNeg)) ∧
    mulX a (.inf n) = (if a.rat = 0 then .nan true else .inf (a.isNeg != n))) ∧
  (∀ (f : Fmt) (q n : Bool) (e : Int),
    rne f (.nan q) = (f.canonNaN, if q then flNV else 0) ∧ rne f (.fin n 0 e) = (if n then f.signBit else 0, 0) ∧
    rne f (.inf n) = (withSign f n f.infBits, if f = .e4m3 then flOF ||| flNX else 0)) ∧
  [Fmt.fp64, .fp32, .fp16, .bf16, .e4m3, .e5m2].map Fmt.canonNaN = [0x7FF8_0000_0000_0000, 0x7FC0_0000, 0x7E00, 0x7FC0, 0x7F, 0x7E] ∧
  [Fmt.fp64, .fp32, .fp16, .bf16, .e4m3, .e5m2].map Fmt.infBits = [0x7FF0_0000_0000_0000, 0x7F80_0000, 0x7C00, 0x7F80, 0x7E, 0x7C]

/-- R202: scalar loads, by their width in bytes and whether they sign-extend. Elided reads are counted (R385). A read performed ahead stands for a
load as log entry 49 says. -/
def Obligations.LoadsComplete : Prop :=
  ∀ (s : State) (d a : XReg) (off : BitVec 13) (i : Instr) (len : Nat) (signed : Bool) (loc : Loc),
    (i, len, signed) ∈ [(Instr.ldb d a off, 1, true), (.ldbu d a off, 1, false), (.ldw d a off, 4, true), (.ldwu d a off, 4, false),
      (.ldd d a off, 8, false)] →
    (s.x a + off.signExtend 64).toNat % len = 0 →
    s.translate (s.who s.cur) .load true (s.x a + off.signExtend 64) = .ok loc → loc.device = false →
    let ahead := s.aheadFor s.cur false 0 (s.x a + off.signExtend 64) loc.key len
    (ahead = none → s.hasBad s.cur loc.key len = false ∧ s.copyStalls s.cur (keysFrom loc.key len) false noneAcquired = false) →
    ∃ t v, exec i s = .next t ∧
      t = { (if ahead.isSome then s else s.noteRead (s.who s.cur).maker [(none, loc.key)]) with threads := t.threads } ∧
      (∀ u, u ≠ s.cur → t.thr u = s.thr u) ∧
      t.thr s.cur = { s.thr s.cur with
        arch := t.arch s.cur, instret := (s.thr s.cur).instret + 1, watchLine := loc.key / 64 * 64, change := false
        ahead := match ahead with
          | none => ((s.thr s.cur).accessed (keysFrom loc.key len)).ahead
          | some x => (s.thr s.cur).ahead.filter fun y => !(decide (y.stamp ≤ x.stamp) && y.overlaps (keysFrom x.key x.len)) } ∧
      t.arch s.cur = { (s.arch s.cur).advance (s.pc + 4) with x := (t.arch s.cur).x } ∧ WritesX s t d v ∧ ExtendedFrom v len signed ∧
      BytesAre v len fun j => match ahead with | none => s.byteFor s.cur (loc.key + j) | some x => BitVec.ofNat 8 (x.val / 256 ^ j)

/-- R197, R198, R206: device-class accesses, scalar ones and vld and vst at widths of whole bytes (assumption 7). -/
def Obligations.DeviceAccessesComplete : Prop :=
  (∀ (s : State) (d a : XReg) (off : BitVec 13) (i : Instr) (len : Nat) (signed : Bool) (loc : Loc),
    (i, len, signed) ∈ [(Instr.ldb d a off, 1, true), (.ldbu d a off, 1, false), (.ldw d a off, 4, true), (.ldwu d a off, 4, false),
      (.ldd d a off, 8, false)] →
    (s.x a + off.signExtend 64).toNat % len = 0 →
    s.translate (s.who s.cur) .load true (s.x a + off.signExtend 64) = .ok loc → loc.device = true →
    let u := (s.closed s.cur).drainAhead s.cur (keysFrom loc.key len)
    ∃ t v, exec i s = .next t ∧
      t = { u.noteRead (s.who s.cur).maker [(none, loc.key)] with
        threads := t.threads, linkOut := u.linkOut ++ [.deviceRead s.cur loc.key len] } ∧
      WritesX s t d v ∧ BytesAre v len (fun j => u.homeByte (loc.key + j)) ∧ ExtendedFrom v len signed ∧
      t.arch s.cur = { (s.arch s.cur).advance (s.pc + 4) with x := (t.arch s.cur).x } ∧
      t.thr s.cur = Thread.opened { ((s.closed s.cur).thr s.cur).accessed (keysFrom loc.key len) with
        arch := t.arch s.cur, instret := (s.thr s.cur).instret + 1, watchLine := loc.key / 64 * 64, change := false } ∧
      ∀ v, v ≠ s.cur → t.thr v = { s.thr v with change := (t.thr v).change }) ∧
  (∀ (s : State) (d a : XReg) (off : BitVec 13) (i : Instr) (len : Nat) (loc : Loc),
    (i, len) ∈ [(Instr.stb d a off, 1), (.stw d a off, 4), (.std d a off, 8)] →
    (s.x a + off.signExtend 64).toNat % len = 0 →
    s.translate (s.who s.cur) .store true (s.x a + off.signExtend 64) = .ok loc → loc.device = true → loc.lost = false →
    s.losesTo s.cur false loc.key = false →
    let u := (s.closed s.cur).drainAhead s.cur (keysFrom loc.key len)
    u.Plain (keysFrom loc.key len) →
    ∃ t, exec i s = .next t ∧
      (∀ j, j < len → t.homeByte (loc.key + j) = (s.x d).extractLsb' (8 * j) 8) ∧
      (∀ k, k < loc.key ∨ loc.key + len ≤ k → t.homeByte k = u.homeByte k) ∧ t.stores = u.stores ∧
      t.linkOut = u.linkOut ++ [.deviceWrite s.cur loc.key ((List.range len).map fun j => (s.x d).extractLsb' (8 * j) 8)] ∧
      (∀ v, v ≠ s.cur → t.thr v = { s.thr v with change := (t.thr v).change }) ∧
      t.arch s.cur = (s.arch s.cur).advance (s.pc + 4) ∧
      t.thr s.cur = Thread.opened { ((s.closed s.cur).thr s.cur).accessed (keysFrom loc.key len) with
        arch := t.arch s.cur, instret := (s.thr s.cur).instret + 1, change := (t.thr s.cur).change }) ∧
  (∀ (s : State) (c : Cache) (m : Bool) (d : VReg) (a : XReg) (locs : Nat → Loc),
    let r := s.arch s.cur
    let w := widthOf r.vtype
    let len := w / 8
    let idx := (List.range r.vl).filter (s.on m)
    let opened := fun t : State =>
      let here := (t.arch s.cur).atConvoy
      t.thr s.cur = { s.thr s.cur with
        arch := t.arch s.cur, instret := (s.thr s.cur).instret + 1, ckpt := some ⟨.implicit, here, here⟩, due := none, history := []
        closingHistory := [], heldFrom := none, closingFrom := none, restarts := 0, rfloss := (t.thr s.cur).rfloss, ahead := (t.thr s.cur).ahead
        change := (t.thr s.cur).change } ∧
      ∀ v, v ≠ s.cur → t.thr v = { s.thr v with change := (t.thr v).change }
    VectorReady s → 1 ≤ ewOf r.vtype → groupOk d.toNat (multOf r.vtype) = true → idx ≠ [] →
    (∀ k ∈ idx, (s.x a + BitVec.ofNat 64 (k * len)).toNat % len = 0 ∧ (locs k).device = true) →
    ((∀ k ∈ idx, s.translate (s.who s.cur) .load true (s.x a + BitVec.ofNat 64 (k * len)) = .ok (locs k)) → s.Writable (groupRegs s d) →
      (∀ e ∈ s.stores, e.visibleTo s.cur = false) →
      ∃ t, exec (.vld m c d a) s = .next t ∧
        t = { s with
          threads := t.threads, linkOut := s.linkOut ++ idx.map (fun k => .deviceRead s.cur (locs k).key len), fresh := t.fresh
          elided := t.elided, errCounts := t.errCounts, reports := t.reports, debugLog := t.debugLog } ∧
        opened t ∧ (t.thr s.cur).change = (s.thr s.cur).change ∧
        t.arch s.cur = { r.advance (s.pc + 4) with
          v := (t.arch s.cur).v, prog := (t.arch s.cur).prog, convoy := (t.arch s.cur).convoy } ∧
        (∀ k : Fin 32, (t.arch s.cur).prog[k.val] = if k.val ∈ groupRegs s d then 4 else r.prog[k.val]) ∧ SameVregs s t (groupRegs s d) ∧
        (GroupHolds s t d.toNat w r.vl fun k => if s.on m k then
          some ((List.range len).foldr (fun j n => n * 256 + (s.homeByte ((locs k).key + j)).toNat) 0) else none) ∧
        ∀ v, v ≠ s.cur → t.thr v = s.thr v) ∧
    ((∀ k ∈ idx, s.translate (s.who s.cur) .store true (s.x a + BitVec.ofNat 64 (k * len)) = .ok (locs k) ∧ (locs k).lost = false ∧
        s.losesTo s.cur false (locs k).key = false) →
      (∀ e ∈ s.stores, e.visibleTo s.cur = false) → s.Plain (idx.flatMap fun k => keysFrom (locs k).key len) →
      (∀ j ∈ idx, ∀ k ∈ idx, j < k → (locs j).key + len ≤ (locs k).key ∨ (locs k).key + len ≤ (locs j).key) →
      ∃ t, exec (.vst m c d a) s = .next t ∧ t.stores = s.stores ∧
        t.linkOut = s.linkOut ++ idx.map (fun k => .deviceWrite s.cur (locs k).key
          ((List.range len).map fun j => BitVec.ofNat 8 (s.el d.toNat w k / 256 ^ j))) ∧
        (∀ k ∈ idx, ∀ j, j < len → t.homeByte ((locs k).key + j) = BitVec.ofNat 8 (s.el d.toNat w k / 256 ^ j)) ∧
        (∀ k, (∀ j ∈ idx, k < (locs j).key ∨ (locs j).key + len ≤ k) → t.homeByte k = s.homeByte k) ∧
        opened t ∧ t.arch s.cur = { r.advance (s.pc + 4) with convoy := (t.arch s.cur).convoy }))

/-- R198 to R202: scalar stores, by their width in bytes. -/
def Obligations.StoresComplete : Prop :=
  ∀ (s u : State) (d a : XReg) (off : BitVec 13) (i : Instr) (len : Nat) (loc : Loc),
    (i, len) ∈ [(Instr.stb d a off, 1), (.stw d a off, 4), (.std d a off, 8)] →
    (s.x a + off.signExtend 64).toNat % len = 0 →
    s.translate (s.who s.cur) .store true (s.x a + off.signExtend 64) = .ok loc →
    loc.device = false → loc.lost = false → s.copyStalls s.cur (keysFrom loc.key len) true noneAcquired = false →
    (if (s.thr s.cur).lanes.isNone || s.storeFits s.cur (keysFrom loc.key len) then u = s
     else u = s.implicitCkpt s.cur ∧ u.storeFits s.cur (keysFrom loc.key len) = true) →
    ∃ t, exec i s = .next t ∧
      ((s.thr s.cur).lanes.isSome = true ∨ s.holdsStore s.cur = false →
        ∀ j, j < len → t.byteFor s.cur (loc.key + j) =
          if reservedByte (loc.key + j) then u.byteFor s.cur (loc.key + j) else (s.x d).extractLsb' (8 * j) 8) ∧
      ReadsOutside u t loc.key len ∧
      ((s.thr s.cur).lanes.isSome = true → ∀ v k, v ≠ s.cur → t.byteFor v k = u.byteFor v k) ∧
      t.mem = s.mem ∧ t.tags = s.tags ∧
      (∀ v, v ≠ s.cur → t.thr v = s.thr v) ∧
      t.arch s.cur = (s.arch s.cur).advance (s.pc + 4) ∧
      t.thr s.cur = { (u.thr s.cur).accessed (keysFrom loc.key len) with
        arch := t.arch s.cur, instret := (s.thr s.cur).instret + 1, heldFrom := (t.thr s.cur).heldFrom }

/-- R201, R202, R235: when a scalar access traps; R324 to R328, R332: how every address is translated. -/
def Obligations.ScalarAccessesTrapAsListed : Prop :=
  ∀ (s : State) (d a b : XReg) (off : BitVec 13) (w : AWidth) (sc : Scope) (ar : Bool),
    (∀ i len, (i, len) ∈ [(Instr.ldb d a off, 1), (.ldbu d a off, 1), (.ldw d a off, 4), (.ldwu d a off, 4), (.ldd d a off, 8)] →
      ((s.x a + off.signExtend 64).toNat % len ≠ 0 → Traps s i 0x03 (s.x a + off.signExtend 64)) ∧
      ((s.x a + off.signExtend 64).toNat % len = 0 →
        (∀ c, s.translate (s.who s.cur) .load true (s.x a + off.signExtend 64) = .error c → Traps s i c (s.x a + off.signExtend 64)) ∧
        ∀ loc, s.translate (s.who s.cur) .load true (s.x a + off.signExtend 64) = .ok loc → loc.device = false →
          s.aheadFor s.cur false 0 (s.x a + off.signExtend 64) loc.key len = none →
          s.copyStalls s.cur (keysFrom loc.key len) false noneAcquired = false → s.hasBad s.cur loc.key len = true →
          Traps s i 0x16 (s.x a + off.signExtend 64))) ∧
    (∀ i len, (i, len) ∈ [(Instr.stb d a off, 1), (.stw d a off, 4), (.std d a off, 8)] →
      ((s.x a + off.signExtend 64).toNat % len ≠ 0 → Traps s i 0x03 (s.x a + off.signExtend 64)) ∧
      ((s.x a + off.signExtend 64).toNat % len = 0 →
        ∀ c, s.translate (s.who s.cur) .store true (s.x a + off.signExtend 64) = .error c → Traps s i c (s.x a + off.signExtend 64))) ∧
    (∀ i ∈ [Instr.amoadd w sc ar d a b, .amoand w sc ar d a b, .amoor w sc ar d a b, .amoxor w sc ar d a b, .amomin w sc ar d a b,
        .amomax w sc ar d a b, .amoswap w sc ar d a b, .amocas w sc ar d a b, .famoadd w sc ar d a b],
      ((s.x a).toNat % (if w = .w32 then 4 else 8) ≠ 0 → Traps s i 0x03 (s.x a)) ∧
      ((s.x a).toNat % (if w = .w32 then 4 else 8) = 0 →
        (∀ c, s.translate (s.who s.cur) .atomic true (s.x a) = .error c → Traps s i c (s.x a)) ∧
        ∀ loc, s.translate (s.who s.cur) .atomic true (s.x a) = .ok loc → loc.device = false →
          s.hasBad s.cur loc.key (if w = .w32 then 4 else 8) = true → Traps s i 0x16 (s.x a))) ∧
    (∀ (q : Who) (acc : Access) (dev : Bool) (va : Word),
      let t := s.translate q acc dev va
      let absent : BitVec 8 := if acc = .store ∨ acc = .atomic then 0x05 else 0x04
      let Hbm := fun pa : Nat => (s.thr q.tid).lost = none →
        ((s.fld (fieldOfKey pa)).fenced = true → t = .error absent) ∧
        ((s.fld (fieldOfKey pa)).fenced = false → t = if s.isRetired pa then .error 0x16 else .ok ⟨pa, false, false⟩)
      (va.extractLsb' 56 8 ≠ 0#8 → t = .error 0x06) ∧
      (va.extractLsb' 56 8 = 0#8 → va.extractLsb' 48 8 ≠ 0xFF#8 → q.pgroot.extractLsb' 11 29 = 0#29 →
        (q.mode = .user → t = .error absent) ∧
        (q.mode = .supervisor → (2 ^ 40 ≤ va.toNat → t = .error absent) ∧ (0xC0_0000_0000 ≤ va.toNat → va.toNat < 2 ^ 40 → t = .error 0x06) ∧
          (va.toNat < 0xC0_0000_0000 → Hbm va.toNat))) ∧
      ∀ k e, WalksTo s q va k e →
        ((e k).getLsbD 0 = false → t = .error absent) ∧
        (IsMalformed s k (e k) → t = .error 0x06) ∧
        (IsLeaf s k (e k) →
          let pa := entryAddr (e k) + va.toNat % 2 ^ pageBits k
          let ext := ((e k).extractLsb' 42 18).toNat
          let device := (e k).getLsbD 6
          (IsOwn s (e k) → (s.fld (fieldOfKey pa)).fenced = true → t = .error absent) ∧
          (¬ (IsOwn s (e k) ∧ (s.fld (fieldOfKey pa)).fenced = true) → ¬ Admits q acc (e k) → t = .error 0x06) ∧
          (Admits q acc (e k) → device = true → dev = false → t = .error 0x07) ∧
          (Admits q acc (e k) → (device = true → dev = true) →
            (IsOwn s (e k) → Hbm pa) ∧
            ((e k).extractLsb' 40 2 = 1#2 → s.ports[18].down = false → t = .ok ⟨2 ^ 60 + (ext * 2 ^ 40 + pa), device, false⟩) ∧
            ((e k).extractLsb' 40 2 = 2#2 → ¬ IsOwn s (e k) → (s.routeBad ext).isSome = true → t = .error 0x16) ∧
            ((e k).extractLsb' 40 2 = 2#2 → ¬ IsOwn s (e k) → s.routeBad ext = none → (s.portOf ext = none → t = .error 0x06) ∧
              ∀ p, s.portOf ext = some p → s.ports[p.val].down = false → t = .ok ⟨2 ^ 61 + ext * 2 ^ 40 + pa, device, false⟩))))

/-- R229 to R235: the atomics. -/
def Obligations.AtomicsComplete : Prop :=
  ∀ (s : State) (w : AWidth) (sc : Scope) (ar : Bool) (d a b : XReg) (loc : Loc),
    let len := if w = .w32 then 4 else 8
    let u := (if ar then (s.closed s.cur).drainOwn s.cur sc true true else s.closed s.cur).drainAhead s.cur (keysFrom loc.key len)
    let old := (List.range len).foldr (fun j n => n * 256 + (u.homeByte (loc.key + j)).toNat) 0
    let x := (s.x b).toNat % 2 ^ (8 * len)
    let f := if w = .w32 then Fmt.fp32 else .fp64
    let sum := rne f (addX (unpack f old) (unpack f x))
    (s.x a).toNat % len = 0 → s.translate (s.who s.cur) .atomic true (s.x a) = .ok loc → loc.device = false →
    s.hasBad s.cur loc.key len = false → s.copyStalls s.cur (keysFrom loc.key len) true noneAcquired = false → u.Plain (keysFrom loc.key len) →
    (ar = true → (s.closed s.cur).drainWaits s.cur sc (StoreEntry.ownKind s.cur true true) = false) →
    ∀ i new fl, (i, new, fl) ∈ [
        (Instr.amoadd w sc ar d a b, some ((old + x) % 2 ^ (8 * len)), (0 : BitVec 5)),
        (.amoand w sc ar d a b, some (old &&& x), 0), (.amoor w sc ar d a b, some (old ||| x), 0), (.amoxor w sc ar d a b, some (old ^^^ x), 0),
        (.amomin w sc ar d a b, some (if sext (8 * len) x < sext (8 * len) old then x else old), 0),
        (.amomax w sc ar d a b, some (if sext (8 * len) old < sext (8 * len) x then x else old), 0),
        (.amoswap w sc ar d a b, some x, 0),
        (.amocas w sc ar d a b, if old = (s.x d).toNat % 2 ^ (8 * len) then some x else none, 0),
        (.famoadd w sc ar d a b, some sum.1, sum.2)] →
      ∃ t, exec i s = .next t ∧
        WritesX s t d (if w = .w32 ∧ i ≠ .famoadd w sc ar d a b then (BitVec.ofNat 32 old).signExtend 64 else BitVec.ofNat 64 old) ∧
        (∀ n, new = some n → ∀ j, j < len → t.homeByte (loc.key + j) = BitVec.ofNat 8 (n / 256 ^ j)) ∧
        (new = none → ∀ k, t.homeByte k = u.homeByte k) ∧
        (∀ k, k < loc.key ∨ loc.key + len ≤ k → t.homeByte k = u.homeByte k) ∧ t.stores = u.stores ∧
        (∀ v, v ≠ s.cur → t.thr v = { s.thr v with change := (t.thr v).change }) ∧
        t.arch s.cur = { (s.arch s.cur).advance (s.pc + 4) with x := (t.arch s.cur).x } ∧
        (t.thr s.cur).fflags = (s.thr s.cur).fflags ||| fl ∧ (t.thr s.cur).instret = (s.thr s.cur).instret + 1 ∧
        (t.thr s.cur).watchLine = loc.key / 64 * 64 ∧ (t.thr s.cur).change = false ∧
        ((s.thr s.cur).lanes.isSome = true → (t.thr s.cur).ckpt = some ⟨.implicit, t.arch s.cur, t.arch s.cur⟩)

/-- R224 to R227: the three fences; the drain is `drainOwn` (assumption 8). -/
def Obligations.FencesComplete : Prop :=
  ∀ (s : State) (sc : Scope) (i : Instr) (scalar vector : Bool),
    (i, scalar, vector) ∈ [(Instr.fenceSv sc, true, false), (.fenceVs sc, true, true), (.fenceVv sc, false, true)] →
    ((s.thr s.cur).lanes.isSome = true ∨ s.holdsStore s.cur = false) →
    (s.closed s.cur).drainWaits s.cur sc (StoreEntry.ownKind s.cur scalar vector) = false →
    let u := (s.closed s.cur).drainOwn s.cur sc scalar vector
    ∃ t, exec i s = .next t ∧ t = { u with threads := t.threads } ∧
      (∀ e ∈ t.stores, e.tid = s.cur → e.engine = false → (e.vector = true ∧ vector = true ∨ e.vector = false ∧ scalar = true) →
        scopeRank sc ≤ e.point.rank) ∧
      (∀ v, v ≠ s.cur → t.thr v = { s.thr v with change := (t.thr v).change }) ∧
      t.arch s.cur = (s.arch s.cur).advance (s.pc + 4) ∧ (t.thr s.cur).instret = (s.thr s.cur).instret + 1 ∧
      t.thr s.cur = { Thread.opened ((s.closed s.cur).thr s.cur) with
        arch := t.arch s.cur, instret := (s.thr s.cur).instret + 1, change := (t.thr s.cur).change
        ahead := (s.thr s.cur).ahead.filter fun x => vector && (if scalar then x.vec else !x.vec) }

/-- R278: the relation of each branch; `Arch.exitLoops` is the exit rule, which another statement describes. -/
def Obligations.BranchesComplete : Prop :=
  ∀ (s : State) (a b : XReg) (off : BitVec 16) (i : Instr) (taken : Prop),
    (i = .beq a b off ∧ (taken ↔ s.x a = s.x b) ∨ i = .bne a b off ∧ (taken ↔ s.x a ≠ s.x b) ∨
      i = .blt a b off ∧ (taken ↔ (s.x a).toInt < (s.x b).toInt) ∨ i = .bge a b off ∧ (taken ↔ (s.x b).toInt ≤ (s.x a).toInt) ∨
      i = .bltu a b off ∧ (taken ↔ (s.x a).toNat < (s.x b).toNat) ∨ i = .bgeu a b off ∧ (taken ↔ (s.x b).toNat ≤ (s.x a).toNat)) →
    ∃ t, exec i s = .next t ∧ t = { s with threads := t.threads } ∧ (∀ u, u ≠ s.cur → t.thr u = s.thr u) ∧
      t.thr s.cur = { s.thr s.cur with arch := t.arch s.cur, instret := (s.thr s.cur).instret + 1 } ∧
      (taken → t.arch s.cur = { Arch.exitLoops 4 (s.arch s.cur) s.pc (BitVec.ofInt 64 (s.pc.toNat + off.toInt * 4)) with
        pc := BitVec.ofInt 64 (s.pc.toNat + off.toInt * 4), convoy := none }) ∧
      (¬ taken → t.arch s.cur = (s.arch s.cur).advance (s.pc + 4))

/-- R284: the exit rule; a body runs from E - 4 (L - 1) to E. -/
def Obligations.TakenBranchLeavesLoopsItJumpsOutOf : Prop :=
  ∀ (a : Arch) (b target : Word),
    let leaves := fun k => (a.loopStart k ≤ b ∧ b ≤ a.lpcAt k) ∧ (target < a.loopStart k ∨ a.lpcAt k < target)
    let a' := Arch.exitLoops 4 a b target
    a'.loopDepth ≤ a.loopDepth ∧
    (∀ k, k < a'.loopDepth → a'.lpcAt k = a.lpcAt k ∧ a'.lcntAt k = a.lcntAt k) ∧
    (∀ k, a'.loopDepth ≤ k → k < a.loopDepth → leaves k ∧ a'.lpcAt k = 0 ∧ a'.lcntAt k = 0) ∧
    (∀ k, a.loopDepth ≤ k → a'.lpcAt k = a.lpcAt k ∧ a'.lcntAt k = a.lcntAt k) ∧
    (a'.loopDepth ≠ 0 → ¬ leaves (a'.loopDepth - 1)) ∧
    a' = { a with lpc := a'.lpc, lcnt := a'.lcnt }

/-- R283: `Arch.advance` is how every other instruction retires. -/
def Obligations.EndOfPassRepeatsOrPops : Prop :=
  ∀ (a : Arch) (next : Word),
    (a.loopDepth = 0 ∨ next ≠ a.lpcAt (a.loopDepth - 1) + 4 → a.advance next = { a with pc := next, convoy := none }) ∧
    (∀ k, a.loopDepth = k + 1 → next = a.lpcAt k + 4 →
      (1 < (a.lcntAt k).toNat % 2 ^ 32 →
        a.advance next = { a.setLoop k (a.lpcAt k) (a.lcntAt k - 1) with
          pc := a.lpcAt k - 4 * (BitVec.ofNat 64 ((a.lcntAt k).toNat / 2 ^ 32 % 2 ^ 16) - 1), convoy := none }) ∧
      ((a.lcntAt k).toNat % 2 ^ 32 ≤ 1 → a.advance next = (a.setLoop k 0 0).advance next))

/-- R280: jal and jalr. -/
def Obligations.JumpsComplete : Prop :=
  ∀ (s : State) (d a : XReg) (k : BitVec 16) (off : BitVec 26),
    (∃ t, exec (.jal off) s = .next t ∧ Retires s t (BitVec.ofInt 64 (s.pc.toNat + off.toInt * 4)) 0 ∧ WritesX s t 1 (s.pc + 4)) ∧
    (((s.x a).toNat + k.toInt) % 4 = 0 →
      ∃ t, exec (.jalr d a k) s = .next t ∧ Retires s t (BitVec.ofInt 64 ((s.x a).toNat + k.toInt)) 0 ∧ WritesX s t d (s.pc + 4)) ∧
    (((s.x a).toNat + k.toInt) % 4 ≠ 0 → Traps s (.jalr d a k) 0x03 (BitVec.ofInt 64 ((s.x a).toNat + k.toInt))) ∧
    decode (0x13#6 ++ off) = .ok (.jal off) ∧ decode (0x14#6 ++ d ++ a ++ k) = .ok (.jalr d a k)

/-- R282: loop and loopi. -/
def Obligations.LoopsComplete : Prop :=
  (∀ (a b : BitVec 5) (n : BitVec 10) (off : BitVec 16),
    (0 < off.toInt → decode (0x15#6 ++ a ++ 0#5 ++ off) = .ok (.loop a off) ∧ decode (0x16#6 ++ n ++ off) = .ok (.loopi n off)) ∧
    (b ≠ 0 ∨ off.toInt ≤ 0 → (decode (0x15#6 ++ a ++ b ++ off)).isOk = false) ∧
    (off.toInt ≤ 0 → (decode (0x16#6 ++ n ++ off)).isOk = false)) ∧
  ∀ (s : State) (a : XReg) (n : BitVec 10) (off : BitVec 16) (i : Instr) (c : Nat), 0 < off.toInt →
    (i = .loop a off ∧ c = (s.x a).toNat % 2 ^ 32 ∨ i = .loopi n off ∧ c = n.toNat) →
    let r := s.arch s.cur
    let e := s.pc + 4 * BitVec.ofNat 64 off.toNat
    (r.loopDepth ≠ 0 ∧ s.pc = r.lpcAt (r.loopDepth - 1) → Traps s i 0x01 (wordOf i)) ∧
    (¬ (r.loopDepth ≠ 0 ∧ s.pc = r.lpcAt (r.loopDepth - 1)) →
      (c = 0 → ∃ t, exec i s = .next t ∧ Retires s t (e + 4) 0 ∧ (t.arch s.cur).x = r.x) ∧
      (c ≠ 0 → r.loopDepth = 4 → Traps s i 0x13 (wordOf i)) ∧
      (c ≠ 0 → r.loopDepth ≠ 4 →
        ∃ t, exec i s = .next t ∧ t = { s with threads := t.threads } ∧ (∀ u, u ≠ s.cur → t.thr u = s.thr u) ∧
          t.thr s.cur = { s.thr s.cur with arch := t.arch s.cur, instret := (s.thr s.cur).instret + 1 } ∧
          t.arch s.cur = (r.setLoop r.loopDepth (e &&& 0x00FF_FFFF_FFFF_FFFC) (BitVec.ofNat 64 (off.toNat * 2 ^ 32 + c))).advance (s.pc + 4)))

/-- R365: trap entry, for a fault of an instruction outside a convoy; the strip state is that of R364 for TEPC (log entry 46). -/
def Obligations.TrapEntrySavesAndVectors : Prop :=
  ∀ (s : State) (t : Tid) (c : BitVec 8) (v e : Word) (keys : List Nat), s.CanEnter t keys →
    Entered s (s.syncTrap t c v e) t keys c v e (s.stripState t e) false

/-- R365: the double fault. -/
def Obligations.TrapWithoutVectorIsDoubleFault : Prop :=
  ∀ (s : State) (t : Tid) (c : BitVec 8) (v e : Word),
    s.trapWaits t = false → ((s.thr t).tvec = 0 ∨ ∃ f, (s.closed t).framePlace t = .error f) →
    let u := s.syncTrap t c v e
    u.thr t = { (s.closed t).thr t with
      status := .doubleFault, tcause := c, tval := v, tepc := e &&& ~~~3#64, tstatus := (u.thr t).tstatus
      change := (u.thr t).change, ahead := (u.thr t).ahead } ∧
    StatusIs (u.thr t).tstatus (s.arch t) (s.stripState t e) false (s.boundaryProgress t) ∧ u.arch t = s.arch t ∧
    u.doubleFaults = s.doubleFaults ++ [(s.thr t).ctx] ∧ ∀ w, w ≠ t → u.thr w = { s.thr w with change := (u.thr w).change }

/-- R56, R279, R286, R373: the calls whose effect is a trap, and what a thread meets in place of an instruction. -/
def Obligations.CallsBreakpointsAndBadWordsEnterTheSupervisor : Prop :=
  (∀ (s : State) (n : BitVec 10) (keys : List Nat), s.CanEnter s.cur keys →
    (n ≠ 0 → ∃ t, exec (.svc n) s = .next t ∧
      Entered s t s.cur keys 0x11 (BitVec.ofNat 64 n.toNat) (s.pc + 4) (s.stripState s.cur (s.pc + 4)) false) ∧
    ∃ t, exec (.brk n) s = .next t ∧ Entered s t s.cur keys 0x12 (BitVec.ofNat 64 n.toNat) s.pc (s.stripState s.cur s.pc) false) ∧
  (∀ (s : State) (keys : List Nat) (w : IWord), s.CanEnter s.cur keys →
    (∀ c v, s.fetch s.cur = .error (.trap c v) →
      v = s.pc ∧ ∃ t, exec .instructionFetchFault s = .next t ∧ Entered s t s.cur keys c s.pc s.pc (s.stripState s.cur s.pc) false) ∧
    ∃ t, exec (.illegalInstruction w) s = .next t ∧
      Entered s t s.cur keys 0x01 (BitVec.ofNat 64 w.toNat) s.pc (s.stripState s.cur s.pc) false)

/-- R371: eret; strip state 3 leaves the registers undefined and is not described here. -/
def Obligations.EretRestoresOrTraps : Prop :=
  (∀ (s : State) (frame : List Byte) (nests : List Nest),
    let th := s.thr s.cur
    let ts := th.tstatus
    let user := ts.toNat % 2 = 0
    let w := (s.noteStruct (s.who s.cur) (th.arch.getX 2) 64).closed s.cur
    th.arch.mode = .supervisor → s.readStruct (s.who s.cur) (th.arch.getX 2) 64 = .ok frame → frame.length = 64 →
    (∀ k, k < 8 → ∃ n, nests[k]? = some n ∧ n.image = BitVec.ofNat 64 (fieldAt frame (8 * k) 8)) → nests.length = 8 →
    ts &&& 0xFFFF_FF00_0000_FC00 = 0 → ts.toNat / 8 % 4 ≠ 3 →
    (∀ k : Fin 4, let p := ts.toNat / 2 ^ (16 + 6 * k.val) % 64; p ≤ 32 ∨ p = 63) →
    ∃ t a prog, exec .eret s = .next t ∧ t = { w with threads := t.threads } ∧ (∀ v, v ≠ s.cur → t.thr v = s.thr v) ∧
      (∀ k : Fin 4, (prog[k.val] : BitVec 6).toNat = ts.toNat / 2 ^ (16 + 6 * k.val) % 64) ∧
      a = { (th.arch.advance th.tepc) with
        x := a.x, nests := a.nests, mode := if user then .user else .supervisor, cf := decide (ts.toNat / 512 % 2 = 1) } ∧
      a.nests.toList = nests ∧
      (∀ r : XReg, a.getX r = if r = 2 then (if user then th.tscratch else th.arch.getX 2 + 64) else th.arch.getX r) ∧
      (let v := w.setThr s.cur { w.thr s.cur with
         arch := a, tscratch := if user then th.arch.getX 2 + 64 else th.tscratch, wakeOnce := true, instret := th.instret + 1, ahead := [] }
       let p := v.cleanProgress s.cur a.pc prog
       let v' := v.setArch s.cur { a with convoy := some ⟨a.pc, 0, p, false⟩ }
       (p = noProgress → t.arch s.cur = a) ∧
       (p ≠ noProgress → t.arch s.cur = { a with convoy := some ⟨a.pc, 0, p, false⟩, prog := (t.arch s.cur).prog } ∧
         ∀ (k j : Nat) (i : Instr) (m : Member) (r : Fin 32), (v'.membersFrom s.cur a.pc)[k]? = some (i, m) → progressAt p k ≠ 63 →
           m.writes[j]? = some r.val → (∀ j', m.writes[j']? = some r.val → j' = j) →
           (∀ k' i' m', (v'.membersFrom s.cur a.pc)[k']? = some (i', m') → r.val ∈ m'.writes → k' = k) →
           (t.arch s.cur).prog[r.val] = 8 ||| BitVec.ofNat 4 (min 4 ((progressAt p k).toNat - 4 * j))) ∧
       t.thr s.cur = if th.lanes.isSome then
           { Thread.opened { v.thr s.cur with arch := t.arch s.cur } with
             ckpt := some ⟨if ts.toNat / 8 % 4 = 0 then .explicit else .implicit, t.arch s.cur, t.arch s.cur⟩ }
         else { v.thr s.cur with arch := t.arch s.cur })) ∧
  (∀ (s : State),
    ((s.arch s.cur).mode = .user → Traps s .eret 0x02 0x5C00_0020) ∧
    (∀ frame, (s.arch s.cur).mode = .supervisor → s.readStruct (s.who s.cur) ((s.arch s.cur).getX 2) 64 = .ok frame →
      ((∃ k, k < 8 ∧ (2 ^ 58 ≤ fieldAt frame (8 * k) 8 % 2 ^ 64 ∨ 4 < fieldAt frame (8 * k) 8 % 8)) ∨
        (s.thr s.cur).tstatus &&& 0xFFFF_FF00_0000_FC00 ≠ 0 ∨
        ∃ k : Fin 4, let p := (s.thr s.cur).tstatus.toNat / 2 ^ (16 + 6 * k.val) % 64; 33 ≤ p ∧ p ≤ 62) →
      exec .eret s = .next ((s.noteStruct (s.who s.cur) ((s.arch s.cur).getX 2) 64).syncTrap s.cur 0x01 0x5C00_0020 s.pc)))

/-- R21 to R24, R290: the value of each register; a thread without a lane group reads thread 0's copy of a hart's registers (log entry 29). -/
def Obligations.SystemReadsComplete : Prop :=
  ∀ (s : State) (d : XReg) (num : BitVec 10) (v : Word),
    let th := s.thr s.cur
    let own := s.thr (if th.lanes.isSome then s.cur else tidOf (hartOf s.cur) 0)
    let f := s.fields[s.cur.val / 512]'(by omega)
    (th.arch.mode = .supervisor ∨ num ∉ [0x050#10, 0x051#10, 0x060#10, 0x061#10, 0x062#10, 0x063#10, 0x064#10, 0x065#10, 0x080#10]) →
    ((num, v) ∈ [(0x000#10, BitVec.ofNat 64 own.arch.vl), (0x001#10, own.arch.vtype.setWidth 64), (0x002#10, BitVec.ofNat 64 own.arch.vlmax),
        (0x003#10, own.arch.ml), (0x004#10, BitVec.ofNat 64 own.arch.acc.length), (0x005#10, th.fflags.setWidth 64), (0x006#10, own.arch.ffst),
        (0x030#10, BitVec.ofNat 64 (s.cur.val / 8)), (0x031#10, BitVec.ofNat 64 (s.cur.val / 32)), (0x032#10, BitVec.ofNat 64 (s.cur.val / 512)),
        (0x033#10, s.devid.setWidth 64), (0x034#10, BitVec.ofNat 64 th.ctx.val), (0x035#10, BitVec.ofNat 64 (s.cur.val % 8)),
        (0x040#10, f.cycle), (0x041#10, th.instret), (0x050#10, th.tcbase), (0x051#10, th.htbase), (0x052#10, th.farm),
        (0x060#10, th.tcause.setWidth 64), (0x061#10, th.tepc), (0x062#10, th.tval), (0x063#10, th.tstatus), (0x064#10, th.tvec),
        (0x065#10, th.tscratch), (0x070#10, th.ydead), (0x071#10, th.ystat.setWidth 64), (0x080#10, th.pgroot),
        (0x090#10, f.islim.setWidth 64), (0x091#10, f.iscur.setWidth 64)] ∨
      (∃ k : Fin 32, num = BitVec.ofNat 10 (0x010 + k.val) ∧ v = (own.arch.prog[k.val]).setWidth 64) ∨
      (∃ k : Fin 16, num = BitVec.ofNat 10 (0x0B0 + k.val) ∧ v = (own.rfloss[k.val]).setWidth 64) ∨
      (∃ k : Fin 4, num = BitVec.ofNat 10 (0x0A0 + k.val) ∧ v = th.arch.lpc[k.val]) ∨
      ∃ k : Fin 4, num = BitVec.ofNat 10 (0x0A4 + k.val) ∧ v = th.arch.lcnt[k.val]) →
    let w := if num ∈ [0x005#10, 0x041#10] then s.settle s.cur else s
    ∃ t, exec (.rsys d num) s = .next t ∧ Retires w t (s.pc + 4) 0 ∧ WritesX w t d v

/-- R22, R290, R292: wsys, by the bits each register keeps. -/
def Obligations.SystemWritesChangeOneRegister : Prop :=
  ∀ (s : State) (a : XReg) (num : BitVec 10) (bits : Word) (i : Instr),
    ((num, bits) ∈ [(0x003#10, 0xF_FFFF_FFFF#64), (0x005#10, 0x1F#64), (0x006#10, 0xFF_FFFF_FFFF#64), (0x033#10, 0x3_FFFF#64),
        (0x050#10, BitVec.allOnes 64), (0x051#10, 0x00FF_FFFF_FFFF_F000#64), (0x052#10, BitVec.allOnes 64), (0x060#10, 0xFF#64),
        (0x061#10, 0xFFFF_FFFF_FFFF_FFFC#64), (0x062#10, BitVec.allOnes 64), (0x063#10, 0xFF_FFFF_03FF#64), (0x064#10, 0x00FF_FFFF_FFFF_FFFC#64),
        (0x065#10, BitVec.allOnes 64), (0x070#10, BitVec.allOnes 64), (0x071#10, 0xF#64), (0x080#10, 0xFF_FFFF_F800#64)] ∨
      (∃ k : Fin 32, num = BitVec.ofNat 10 (0x010 + k.val) ∧ bits = 0xF) ∨ (∃ k : Fin 16, num = BitVec.ofNat 10 (0x0B0 + k.val) ∧ bits = 0xFFFF_FFFF) ∨
      (∃ k : Fin 4, num = BitVec.ofNat 10 (0x0A0 + k.val) ∧ bits = 0x00FF_FFFF_FFFF_FFFC) ∨
      (∃ k : Fin 4, num = BitVec.ofNat 10 (0x0A4 + k.val) ∧ bits = 0xFFFF_FFFF_FFFF) ∨ num = 0x090#10 ∧ bits = 0xFFFF) →
    ((s.arch s.cur).mode = .supervisor ∨ num ∈ [0x003#10, 0x005#10, 0x006#10]) →
    (i = .wsys a num ∨ i = .fflagsWrite a ∧ num = 0x005#10 ∨ i = .tcbaseWrite a ∧ num = 0x050#10 ∨
      (∃ k : VReg, i = .progWrite k a ∧ num = BitVec.ofNat 10 (0x010 + k.toNat)) ∨
      (∃ k : BitVec 3, i = .loopStackWrite k a ∧ num = BitVec.ofNat 10 (0x0A0 + k.toNat)) ∨
      i = .pgrootWrite a ∧ num = 0x080#10 ∨ i = .islimWrite a ∧ num = 0x090#10) →
    ((0x010#10 ≤ num ∧ num < 0x030#10) → (s.arch (if (s.thr s.cur).lanes.isSome then s.cur else tidOf (hartOf s.cur) 0)).atBoundary = true) →
    let w := s.settle s.cur
    ∃ u : State, exec i s = .next u.retire ∧
      u.readSys num.toNat = (if num = 0x090#10 ∧ 0x0B40 < (s.x a).toNat % 2 ^ 16 then 0x0B40 else s.x a &&& bits) ∧
      (∀ n, n ≠ num.toNat → u.readSys n = s.readSys n) ∧ (∀ r, u.x r = s.x r) ∧ u.pc = s.pc ∧
      (u.arch s.cur).cf = (if num = 0x050#10 then false else (s.arch s.cur).cf) ∧
      (∀ v, v ≠ s.cur → v ≠ tidOf (hartOf s.cur) 0 → u.thr v = s.thr v) ∧
      u = { w with threads := u.threads, harts := u.harts, fields := u.fields, devid := u.devid }

/-- R22: the checks and their order; R265: the wait of a wsys of PROGn, for a helper by thread 0's boundary (log entry 29); R80, R257, R267, R292:
earlier checkpoints take effect first. -/
def Obligations.SystemAccessChecksInOrder : Prop :=
  ∀ (s : State) (x : XReg) (num : BitVec 10),
    let n := num.toNat
    let user := (s.arch s.cur).mode = .user
    let listed := n ≤ 6 ∨ (0x10 ≤ n ∧ n ≤ 0x35) ∨ n ∈ [0x40, 0x41, 0x50, 0x51, 0x52] ∨ (0x60 ≤ n ∧ n ≤ 0x65) ∨ n ∈ [0x70, 0x71, 0x80, 0x90, 0x91] ∨
      (0xA0 ≤ n ∧ n ≤ 0xA7) ∨ (0xB0 ≤ n ∧ n ≤ 0xBF)
    let sup := n ∈ [0x50, 0x51, 0x80] ∨ (0x60 ≤ n ∧ n ≤ 0x65)
    let readOnly := n ∈ [0, 1, 2, 4, 0x30, 0x31, 0x32, 0x34, 0x35, 0x40, 0x41, 0x91]
    (¬ listed → Traps s (.rsys x num) 0x01 (wordOf (.rsys x num)) ∧ Traps s (.wsys x num) 0x01 (wordOf (.wsys x num))) ∧
    (listed → user → sup → Traps s (.rsys x num) 0x02 (wordOf (.rsys x num))) ∧
    (listed → user → n ∉ [3, 5, 6] → Traps s (.wsys x num) 0x02 (wordOf (.wsys x num))) ∧
    (listed → ¬ user → readOnly → Traps s (.wsys x num) 0x01 (wordOf (.wsys x num))) ∧
    (listed → ¬ (user ∧ sup) →
      let w := if n = 5 ∨ n = 0x41 then s.settle s.cur else s
      ∃ t, exec (.rsys x num) s = .next t ∧ Retires w t (s.pc + 4) 0 ∧ WritesX w t x (s.readSys n)) ∧
    (listed → ¬ readOnly → (user → n ∈ [3, 5, 6]) →
      let ready := (s.arch (if (s.thr s.cur).lanes.isSome then s.cur else tidOf (hartOf s.cur) 0)).atBoundary = true
      (n < 0x10 ∨ 0x30 ≤ n ∨ ready → exec (.wsys x num) s = .next ((s.settle s.cur).writeSys n (s.x x)).retire) ∧
      (0x10 ≤ n → n < 0x30 → ¬ ready → exec (.wsys x num) s = .next s))

/-- R287, R308: yield. -/
def Obligations.YieldCompletes : Prop :=
  ∀ (s : State),
    let th := s.thr s.cur
    (th.ystat.getLsbD 0 = false →
      ∃ t, exec .yield s = .next t ∧ t = { s.closed s.cur with threads := t.threads } ∧ t.holdsStore s.cur = false ∧
        t.arch s.cur = th.arch.advance (s.pc + 4) ∧
        t.thr s.cur = Thread.opened { (s.closed s.cur).thr s.cur with arch := t.arch s.cur, instret := th.instret + 1 } ∧
        ∀ v, v ≠ s.cur → t.thr v = s.thr v) ∧
    (th.ystat.getLsbD 0 = true → (s.hrt (hartOf s.cur)).transfers.any (fun x => x.tid == s.cur) = true →
      exec .yield s = .next ((s.settle s.cur).implicitCkpt s.cur)) ∧
    (∀ keys,
      let s' := (s.endAsk s.cur).setThr s.cur { th with
        arch := { th.arch with pc := s.pc + 4, convoy := none }, instret := th.instret + 1, ystat := (th.ystat &&& 8) ||| 2, ydead := 0
        preemptDue := false }
      th.ystat.getLsbD 0 = true → (s.hrt (hartOf s.cur)).transfers.all (fun x => x.tid != s.cur) = true → s.trapWaits s.cur = false →
      s'.CanEnter s.cur keys →
      (∀ g again, th.lanes.isSome = true → (s.hrt (hartOf s.cur)).reclaim = .asked g again → (s'.hrt (hartOf s.cur)).reclaim = .none) ∧
      ∃ t, exec .yield s = .next t ∧ Entered s' t s.cur keys 0x17 1 (s.pc + 4) (s'.stripState s.cur (s.pc + 4)) true)

/-- R289: wfe. -/
def Obligations.WfeSleepsUnlessWoken : Prop :=
  ∀ (s : State) (a : XReg),
    ((s.x a).toNat % 8 ≠ 0 → Traps s (.wfe a) 0x03 (s.x a)) ∧
    ((s.x a).toNat % 8 = 0 →
      (∀ c, s.translate (s.who s.cur) .load false (s.x a) = .error c → Traps s (.wfe a) c (s.x a)) ∧
      ∀ loc, s.translate (s.who s.cur) .load false (s.x a) = .ok loc →
        let th := s.thr s.cur
        let line := loc.key / 64 * 64
        let woken := th.wakeOnce = true ∨ (th.watchLine = line ∧ th.change = true) ∨ th.ystat.getLsbD 0 = true
        let w := s.settle s.cur
        let w := if w.holdsStore s.cur then w.implicitCkpt s.cur else w
        ∃ t, exec (.wfe a) s = .next t ∧ (∀ v, v ≠ s.cur → t.thr v = s.thr v) ∧ t = { w with threads := t.threads } ∧
          t.thr s.cur = { w.thr s.cur with
            arch := t.arch s.cur, instret := (t.thr s.cur).instret, status := (t.thr s.cur).status, wakeOnce := false
            watchLine := (t.thr s.cur).watchLine, change := (t.thr s.cur).change } ∧
          (woken → t.arch s.cur = th.arch.advance (s.pc + 4) ∧ (t.thr s.cur).instret = th.instret + 1) ∧
          (th.wakeOnce = true → (t.thr s.cur).watchLine = th.watchLine ∧ (t.thr s.cur).change = th.change) ∧
          (th.wakeOnce = false → (t.thr s.cur).watchLine = line ∧ (t.thr s.cur).change = false) ∧
          (¬ woken → t.arch s.cur = th.arch ∧ (t.thr s.cur).instret = th.instret ∧ (t.thr s.cur).status = .wfe))

/-- R251, R252, R304. -/
def Obligations.SharedWordsComplete : Prop :=
  ∀ (s : State) (sc : Scope) (d a b : XReg) (loc : Loc),
    let c := s.closed s.cur
    let ok := fun (va : Word) (acc : Access) (devOk : Bool) (u : State) =>
      va.toNat % 8 = 0 ∧ s.translate (s.who s.cur) acc devOk va = .ok loc ∧ loc.device = false ∧
      s.hasBad s.cur loc.key 8 = false ∧ s.copyStalls s.cur (keysFrom loc.key 8) (decide (acc = .atomic)) noneAcquired = false ∧ u.Plain (keysFrom loc.key 8)
    let seen := ((s.thr s.cur).accessed (keysFrom loc.key 8)).ahead
    let opened := fun (t : State) (ahead : List Ahead) => t.thr s.cur = Thread.opened { c.thr s.cur with
      arch := t.arch s.cur, instret := (t.thr s.cur).instret, status := (t.thr s.cur).status, change := (t.thr s.cur).change, ahead := ahead }
    let done := fun (u t : State) (v : Word) (new : Option Word) (ahead : List Ahead) =>
      WritesX s t d v ∧ t.stores = u.stores ∧ opened t ahead ∧ t.arch s.cur = { (s.arch s.cur).advance (s.pc + 4) with x := (t.arch s.cur).x } ∧
      (t.thr s.cur).instret = (s.thr s.cur).instret + 1 ∧ (∀ n, new = some n → t.homeWord loc.key = n) ∧
      (∀ k, k < loc.key ∨ loc.key + 8 ≤ k ∨ new = none → t.homeByte k = u.homeByte k) ∧
      (∀ v, v ≠ s.cur → t.thr v = { s.thr v with change := (t.thr v).change })
    ((s.thr s.cur).farm = 0 → ∃ t, exec (.fclaim d) s = .next t ∧ WritesX s t d (BitVec.allOnes 64) ∧
      t = { c with threads := t.threads } ∧ (∀ v, v ≠ s.cur → t.thr v = s.thr v) ∧ opened t (s.thr s.cur).ahead ∧
      t.arch s.cur = { (s.arch s.cur).advance (s.pc + 4) with x := (t.arch s.cur).x } ∧ (t.thr s.cur).instret = (s.thr s.cur).instret + 1) ∧
    (let u := c.drainAhead s.cur (keysFrom loc.key 8)
     let w := u.homeWord loc.key
     (s.thr s.cur).farm ≠ 0 → ok (s.thr s.cur).farm .atomic true u →
      ∃ t, exec (.fclaim d) s = .next t ∧
        (if w.toNat / 2 ^ 32 < w.toNat % 2 ^ 32 then done u t (BitVec.ofNat 64 (w.toNat / 2 ^ 32)) (some (w + 0x1_0000_0000)) seen
         else done u t (BitVec.allOnes 64) none seen)) ∧
    (let u := (c.drainOwn s.cur sc true true).drainAhead s.cur (keysFrom loc.key 8)
     let w := u.homeWord loc.key
     c.drainWaits s.cur sc (StoreEntry.ownKind s.cur true true) = false → ok (s.x a) .atomic false u →
      ∃ t, exec (.vfbar sc d a) s = .next t ∧
        (if w.toNat / 2 ^ 32 % 2 ^ 16 ≤ w.toNat % 2 ^ 32 + 1 then
          done u t (BitVec.ofNat 64 (w.toNat / 2 ^ 48 + 2 ^ 16))
            (some (BitVec.ofNat 64 ((w.toNat / 2 ^ 48 + 1) % 2 ^ 16 * 2 ^ 48 + w.toNat / 2 ^ 32 % 2 ^ 16 * 2 ^ 32))) seen
         else done u t (BitVec.ofNat 64 (w.toNat / 2 ^ 48)) (some (w + 1)) seen)) ∧
    (let u := c.drainAhead s.cur (keysFrom loc.key 8)
     let w := u.homeWord loc.key
     ok (s.x a) .load false u →
      (w.toNat / 2 ^ 48 ≠ (s.x b).toNat % 2 ^ 16 → ∃ t, exec (.bwait sc d a b) s = .next t ∧ done u t w none []) ∧
      (w.toNat / 2 ^ 48 = (s.x b).toNat % 2 ^ 16 → ∃ t, exec (.bwait sc d a b) s = .next t ∧ (t.thr s.cur).status = .bwait ∧
        t.arch s.cur = s.arch s.cur ∧ (t.thr s.cur).instret = (s.thr s.cur).instret ∧ opened t seen ∧ t.stores = u.stores ∧
        t.mem = u.mem ∧ t.tags = u.tags ∧ ∀ v, v ≠ s.cur → t.thr v = { s.thr v with change := (t.thr v).change }))
/-- R31, R277, R286: svc 0; the hart's lanes are those of no reclaim. -/
def Obligations.KernelAndHelperThreadsEnd : Prop :=
  ∀ (s : State),
    let h := hartOf s.cur
    let th := s.thr s.cur
    let c := s.closed s.cur
    let Closed := fun t : State => t.holdsStore s.cur = false ∧ t.stores = c.stores ∧ t.mem = s.mem ∧ t.tags = s.tags ∧ t.bad = s.bad ∧
      (t.thr s.cur).instret = th.instret + 1 ∧ ∀ v, v ≠ s.cur → t.thr v = s.thr v
    (th.lanes = none → (s.hrt h).transfers = [] → ∃ t, exec (.svc 0) s = .next t ∧ (t.thr s.cur).status = .off ∧ Closed t) ∧
    (th.lanes.isSome = true → (s.hrt h).groups ≠ 1 → threadOf s.cur ≠ 0 → (s.hrt h).reclaim = .none → (s.hrt h).transfers = [] →
      ∃ t, exec (.svc 0) s = .next t ∧ (t.thr s.cur).status = .fused ∧ (t.arch s.cur).acc = [] ∧ Closed t) ∧
    (th.lanes.isSome = true → (s.hrt h).groups = 1 → s.helpersRun s.cur = true →
      exec (.svc 0) s = .next ((s.settle s.cur).implicitCkpt s.cur)) ∧
    (th.lanes.isSome = true → (s.hrt h).groups = 1 → (s.hrt h).transfers = [] → s.helpersRun s.cur = false → (s.hrt h).reclaim = .none →
      (s.hartWaits h fun e => e.ctx == th.ctx) = false →
      ∀ (l : Option Launch), s.launchOf th.launch = l → ∀ counter, counter = (match l with | some l => recCounter l.image | none => 0) →
      let D := (hartThreads h).foldl (fun (s : State) u => s.drainHome u (fun e => e.tid == u && e.ctx == th.ctx) []) c
      (counter ≠ 0 → ∃ loc, s.atomicLoc s.cur counter 8 = .ok loc ∧ loc.device = false ∧
        (D.drainAhead s.cur (keysFrom loc.key 8)).Plain (keysFrom loc.key 8)) →
      ∃ t, exec (.svc 0) s = .next t ∧ (t.thr s.cur).status = .off ∧ (t.thr s.cur).lanes = none ∧ (t.arch s.cur).acc = [] ∧
        (t.thr s.cur).launch = none ∧ (t.thr s.cur).instret = th.instret + 1 ∧
        (∀ e ∈ t.stores, hartOf e.tid = h → e.ctx = th.ctx → e.tid ≠ s.cur ∧ e.point.rank < 2) ∧
        t.launches = (if l.isSome then s.launches.map fun l => if some l.id = th.launch then { l with counted := l.counted + 1 } else l
          else s.launches) ∧
        (counter = 0 → t.mem = D.mem ∧ t.tags = D.tags ∧ t.stores = D.stores) ∧
        (∀ loc, counter ≠ 0 → s.atomicLoc s.cur counter 8 = .ok loc →
          let E := D.drainAhead s.cur (keysFrom loc.key 8)
          t.homeWord loc.key = E.homeWord loc.key + 1 ∧ t.stores = E.stores ∧
            ∀ k, k < loc.key ∨ loc.key + 8 ≤ k → t.homeByte k = E.homeByte k) ∧
        ∀ v, v ≠ s.cur → t.thr v = { s.thr v with change := (t.thr v).change })

/-- R274, R275: lsplit; the rows of a cluster are 256 bytes of each register. -/
def Obligations.SplitMakesLaneGroups : Prop :=
  ∀ (s : State) (a b : XReg) (c : SplitCount) (n : Nat), (c, n) ∈ [(SplitCount.two, 2), (.four, 4), (.eight, 8)] →
    let h := hartOf s.cur
    let th := s.thr s.cur
    let whole := th.lanes = some ⟨0, 16⟩ ∧ (s.hrt h).groups = 1
    let rows := fun (lo hi : Nat) => (((s.hrt h).rows.toList.drop lo).take (hi - lo)).foldl (fun n r => n + r.val) 0
    let small := match s.launchOf th.launch with | some l => recReclaim l.image | none => false
    (th.lanes.isSome = true → ¬ whole → Traps s (.lsplit a b c) 0x01 (wordOf (.lsplit a b c))) ∧
    (whole → s.helperRuns h n = true → Traps s (.lsplit a b c) 0x01 (wordOf (.lsplit a b c))) ∧
    (whole → s.helperRuns h n = false → (s.x a).toNat % 4 ≠ 0 → Traps s (.lsplit a b c) 0x03 (s.x a)) ∧
    (whole → s.helperRuns h n = false → (s.x a).toNat % 4 = 0 → (s.hrt h).transfers = [] → threadOf s.cur = 0 →
      ∃ t, exec (.lsplit a b c) s = .next t ∧ (t.hrt h).groups = n ∧ t.stores = (s.closed s.cur).stores ∧ t.mem = s.mem ∧ t.tags = s.tags ∧
        (∀ g, 1 ≤ g → g < n → ∀ u, u.val = s.cur.val + g →
          let x := t.thr u
          x.status = .running ∧ x.lanes = some ⟨g * (16 / n), 16 / n⟩ ∧ x.arch.pc = s.x a ∧ x.arch.mode = .user ∧ x.ctx = th.ctx ∧
          (∀ r : XReg, x.arch.getX r = if r = 2 then localWindow + (if small then 0x8000 else 0x1_0000) -
              BitVec.ofNat 64 (g * (if small then 0x1000 else 0x2000)) else if r = 10 then BitVec.ofNat 64 g else if r = 11 then s.x b else 0) ∧
          x.arch.loopDepth = 0 ∧ x.fflags = 0 ∧ x.arch.ffst = 0 ∧ x.arch.cf = false ∧ x.arch.vl = 0 ∧ x.arch.acc = [] ∧ x.arch.ml = 0 ∧
          x.rfloss = Vector.replicate 16 0 ∧ x.arch.vtype = th.arch.vtype ∧
          x.arch.vlmax = vlmaxOf th.arch.vtype (rows (g * (16 / n)) ((g + 1) * (16 / n))) ∧
          x.arch.nests = Vector.replicate 8 Nest.zero ∧ x.arch.prog = Vector.replicate 32 4 ∧
          x.farm = th.farm ∧ x.pgroot = th.pgroot ∧ x.htbase = th.htbase ∧ x.tcbase = th.tcbase ∧
          x.tvec = (s.thr u).tvec ∧ x.tscratch = (s.thr u).tscratch ∧
          ∀ i : Fin 32, (x.arch.v[i.val]).toNat =
            (th.arch.v[i.val]).toNat / 2 ^ (2048 * rows 0 (g * (16 / n))) % 2 ^ (2048 * rows (g * (16 / n)) ((g + 1) * (16 / n))) % 2 ^ 131072) ∧
        (t.thr s.cur).lanes = some ⟨0, 16 / n⟩ ∧ (t.arch s.cur).vl = 0 ∧ (∀ r, (t.arch s.cur).getX r = s.x r) ∧
        (t.arch s.cur).pc = (th.arch.advance (s.pc + 4)).pc ∧ (t.arch s.cur).acc = th.arch.acc ∧ (t.arch s.cur).ml = th.arch.ml ∧
        (t.thr s.cur).rfloss = th.rfloss ∧ (t.arch s.cur).vlmax = vlmaxOf th.arch.vtype (rows 0 (16 / n)) ∧
        (t.thr s.cur).instret = th.instret + 1)

/-- R276: lfuse. -/
def Obligations.FuseRejoinsLaneGroups : Prop :=
  ∀ (s : State),
    let h := hartOf s.cur
    let th := s.thr s.cur
    let n := (s.hrt h).groups
    let rows := fun (lo hi : Nat) => (((s.hrt h).rows.toList.drop lo).take (hi - lo)).foldl (fun n r => n + r.val) 0
    let group := fun g : Nat => s.thr (State.groupThread s.cur g)
    let Closed := fun t : State => t.holdsStore s.cur = false ∧ t.stores = (s.closed s.cur).stores ∧ t.mem = s.mem ∧ t.tags = s.tags ∧ t.bad = s.bad
    th.lanes.isSome = true → (s.hrt h).transfers = [] → (s.hrt h).failed = [] →
    (n ≠ 1 → threadOf s.cur ≠ 0 → ∃ t, exec .lfuse s = .next t ∧ (t.thr s.cur).status = .fused ∧ (t.arch s.cur).acc = [] ∧
      Closed t ∧ (t.thr s.cur).instret = th.instret + 1 ∧ ∀ v, v ≠ s.cur → t.thr v = s.thr v) ∧
    (n = 1 → ∃ t, exec .lfuse s = .next t ∧ (t.arch s.cur).vl = 0 ∧ (t.arch s.cur).vtype = th.arch.vtype ∧
      (∀ r, (t.arch s.cur).getX r = s.x r) ∧ (t.arch s.cur).pc = (th.arch.advance (s.pc + 4)).pc ∧
      (t.arch s.cur).nests = th.arch.nests ∧ (t.arch s.cur).acc = th.arch.acc ∧ (t.thr s.cur).instret = th.instret + 1 ∧
      Closed t ∧ ∀ v, v ≠ s.cur → t.thr v = s.thr v) ∧
    (n ≠ 1 → threadOf s.cur = 0 → s.allFused s.cur = false → ∃ t, exec .lfuse s = .next t ∧ t.arch s.cur = th.arch ∧ Closed t ∧
      t.thr s.cur = Thread.opened ((s.closed s.cur).thr s.cur) ∧ ∀ v, v ≠ s.cur → t.thr v = s.thr v) ∧
    (n ∈ [2, 4, 8] → threadOf s.cur = 0 → s.allFused s.cur = true → ∃ t, exec .lfuse s = .next t ∧ (t.hrt h).groups = 1 ∧
      (t.thr s.cur).lanes = some ⟨0, 16⟩ ∧ (t.arch s.cur).vl = 0 ∧ (t.arch s.cur).vtype = th.arch.vtype ∧
      (t.arch s.cur).vlmax = vlmaxOf th.arch.vtype (rows 0 16) ∧
      (t.arch s.cur).nests = Vector.replicate 8 Nest.zero ∧ (t.arch s.cur).prog = Vector.replicate 32 4 ∧
      (t.thr s.cur).fflags = (List.range n).foldl (fun f g => f ||| (group g).fflags) 0 ∧
      (∀ k : Fin 16, (t.thr s.cur).rfloss[k.val] = ((List.range n).map fun g => (group g).rfloss[k.val]).sum) ∧
      (∀ (i : Fin 32) (g b : Nat), g < n → b < 2048 * rows (g * (16 / n)) ((g + 1) * (16 / n)) →
        2048 * rows 0 (g * (16 / n)) + b < 131072 →
        ((t.arch s.cur).v[i.val]).getLsbD (2048 * rows 0 (g * (16 / n)) + b) = ((group g).arch.v[i.val]).getLsbD b) ∧
      (∀ g, 1 ≤ g → g < n → (t.thr (State.groupThread s.cur g)).status = .off ∧ (t.thr (State.groupThread s.cur g)).lanes = none) ∧
      Closed t ∧ (∀ r, (t.arch s.cur).getX r = s.x r) ∧ (t.arch s.cur).acc = th.arch.acc ∧ (t.thr s.cur).instret = th.instret + 1)

/-- R51, R52, R107 to R109. -/
def Obligations.StripOpenersSetTheVectorLength : Prop :=
  ∀ (s : State) (d a b : XReg) (img : BitVec 16),
    let bad := fun v : Nat => 4 < v % 8 ∨ (v / 64 % 2 = 1 ∧ v % 8 ≠ 2) ∨ 128 ≤ v
    let most := fun v : Nat => 2 ^ (v / 8 % 4) * s.rows s.cur * 2048 / (4 * 2 ^ (v % 8))
    let r := s.arch s.cur
    ((s.thr s.cur).lanes = none →
      Traps s (.setvlr d a b) 0x01 (wordOf (.setvlr d a b)) ∧ Traps s (.setvlm d a) 0x01 (wordOf (.setvlm d a)) ∧
      Traps s (.vlq d b) 0x01 (wordOf (.vlq d b)) ∧ Traps s (.setvl d a img) 0x01 (wordOf (.setvl d a img))) ∧
    (bad img.toNat → Traps s (.setvl d a img) 0x01 (wordOf (.setvl d a img))) ∧
    (bad (s.x b).toNat → (s.thr s.cur).lanes.isSome = true →
      Traps s (.setvlr d a b) 0x01 (wordOf (.setvlr d a b)) ∧ Traps s (.vlq d b) 0x01 (wordOf (.vlq d b))) ∧
    ((s.thr s.cur).lanes.isSome = true → ¬ bad (s.x b).toNat → Writes s (.vlq d b) d (BitVec.ofNat 64 (most (s.x b).toNat))) ∧
    ((s.thr s.cur).lanes.isSome = true → (s.hrt (hartOf s.cur)).failed = [] → (s.hrt (hartOf s.cur)).reclaim = .none →
      ∀ i image, (i = .setvl d a img ∧ image = img ∨ i = .setvlr d a b ∧ image.toNat = (s.x b).toNat ∨ i = .setvlm d a ∧ image = r.vtype) →
        (i ≠ .setvlm d a → ¬ bad image.toNat) →
        let vl := min (s.x a).toNat (most image.toNat)
        ∃ t, exec i s = .next t ∧
          t.arch s.cur = { r.advance (s.pc + 4) with vtype := image, vlmax := most image.toNat, vl := vl, x := (t.arch s.cur).x } ∧
          (∀ k : XReg, (t.arch s.cur).getX k = if k = 0 then 0 else if k = a ∧ i = .setvlm d a then BitVec.ofNat 64 ((s.x a).toNat - vl)
            else if k = d then BitVec.ofNat 64 vl else s.x k) ∧
          (t.thr s.cur).due = some ⟨.explicit, r, t.arch s.cur⟩ ∧ (t.thr s.cur).history = [] ∧ (t.thr s.cur).heldFrom = none ∧
          (t.thr s.cur).closingHistory = ((s.settle s.cur).thr s.cur).history ∧
          (t.thr s.cur).closingFrom = ((s.settle s.cur).thr s.cur).heldFrom ∧
          t.stores = (s.settle s.cur).stores.map (fun e => if e.tid = s.cur ∧ e.point = .held then { e with point := .closing } else e) ∧
          (t.thr s.cur).instret = (s.thr s.cur).instret + 1 ∧ (t.thr s.cur).fflags = (s.thr s.cur).fflags ∧
          t.mem = s.mem ∧ t.tags = s.tags ∧ t.hrt (hartOf s.cur) = s.hrt (hartOf s.cur) ∧ ∀ u, u ≠ s.cur → t.thr u = s.thr u)

/-- R117 to R119. -/
def Obligations.VectorIntegerInstructionsComplete : Prop :=
  ∀ (s : State) (m : Bool) (d a : VReg) (b : VSrc) (x : XReg),
    let img := (s.arch s.cur).vtype
    let w := widthOf img
    let ew := ewOf img
    let A := fun k => s.el a.toNat w k
    let B := fun k => s.src b w k
    let sh := fun k => B k % w
    let Does := fun (i : Instr) (f : Nat → Nat) => Elementwise s i m d w fun k => (f k, 0)
    VectorReady s → groupOk d.toNat (multOf img) = true → s.Writable (groupRegs s d) →
    (1 ≤ ew → Does (.vid m d) fun k => k) ∧ Does (.vmvScalar m d x) (fun _ => (s.x x).toNat) ∧
    (groupOk a.toNat (multOf img) = true →
      Does (.vmv m d a) A ∧ (1 ≤ ew → Does (.vpopc m d a) fun k => ((List.range w).filter (A k).testBit).length)) ∧
    (groupOk a.toNat (multOf img) = true → srcGroupOk b (multOf img) = true →
      Does (.vand m d a b) (fun k => A k &&& B k) ∧ Does (.vor m d a b) (fun k => A k ||| B k) ∧
      Does (.vxor m d a b) (fun k => A k ^^^ B k) ∧
      Elementwise s (.vmerge d a b) false d w (fun k => (if (s.arch s.cur).maskBit (s.rows s.cur) 0 k then B k else A k, 0)) ∧
      (1 ≤ ew →
        Does (.vadd m d a b) (fun k => A k + B k) ∧ Does (.vsub m d a b) (fun k => wrap w ((A k : Int) - B k)) ∧
        Does (.vmul m d a b) (fun k => A k * B k) ∧ Does (.vsll m d a b) (fun k => A k * 2 ^ sh k) ∧
        Does (.vsrl m d a b) (fun k => A k / 2 ^ sh k) ∧ Does (.vsra m d a b) (fun k => wrap w (sext w (A k) / 2 ^ sh k)) ∧
        Does (.vmin m d a b) (fun k => wrap w (min (sext w (A k)) (sext w (B k)))) ∧
        Does (.vmax m d a b) (fun k => wrap w (max (sext w (A k)) (sext w (B k)))) ∧
        Does (.vsadd m d a b) (fun k => wrap w (max (-2 ^ (w - 1)) (min (2 ^ (w - 1) - 1) (sext w (A k) + sext w (B k))))) ∧
        Does (.vssub m d a b) (fun k => wrap w (max (-2 ^ (w - 1)) (min (2 ^ (w - 1) - 1) (sext w (A k) - sext w (B k)))))) ∧
      (2 ≤ ew →
        let h := w / 2
        Does (.vwiden m false d a b) (fun k => s.el a.toNat h k * 2 ^ sh k) ∧
        Does (.vwiden m true d a b) (fun k => wrap w (sext h (s.el a.toNat h k) * 2 ^ sh k)) ∧
        Elementwise s (.vnarrow m false d a b) m d h (fun k => (min (2 ^ h - 1) (A k / 2 ^ sh k), 0)) ∧
        Elementwise s (.vnarrow m true d a b) m d h
          (fun k => (wrap h (max (-2 ^ (h - 1)) (min (2 ^ (h - 1) - 1) (sext w (A k) / 2 ^ sh k))), 0))))

/-- R120, R124. -/
def Obligations.VectorComparisonsAndMaskOperationsComplete : Prop :=
  ∀ (s : State) (m : Bool) (d a c : VReg) (b : VSrc),
    let img := (s.arch s.cur).vtype
    let w := widthOf img
    let A := fun k => s.el a.toNat w k
    let B := fun k => s.src b w k
    let bit := fun (v : VReg) k => (s.arch s.cur).maskBit (s.rows s.cur) v.toNat k
    let Does := fun (i : Instr) (f : Nat → Bool) => MaskWritten s i m d fun k => (f k, 0)
    VectorReady s → maskOk img d.toNat = true → s.Writable (regsFrom d.toNat (maskRegs img)) →
    (groupOk a.toNat (multOf img) = true → srcGroupOk b (multOf img) = true → 1 ≤ ewOf img →
      Does (.vcmpeq m d a b) (fun k => A k = B k) ∧ Does (.vcmpne m d a b) (fun k => A k ≠ B k) ∧
      Does (.vcmplt m d a b) (fun k => sext w (A k) < sext w (B k)) ∧ Does (.vcmpltu m d a b) (fun k => A k < B k) ∧
      Does (.vcmple m d a b) (fun k => sext w (A k) ≤ sext w (B k)) ∧ Does (.vcmpleu m d a b) (fun k => A k ≤ B k) ∧
      (2 ≤ ewOf img →
        let u := unpack (fmtOf img)
        MaskWritten s (.vfcmpeq m d a b) m d (fun k => fcmp .eq (u (A k)) (u (B k))) ∧
        MaskWritten s (.vfcmplt m d a b) m d (fun k => fcmp .lt (u (A k)) (u (B k))) ∧
        MaskWritten s (.vfcmple m d a b) m d (fun k => fcmp .le (u (A k)) (u (B k))))) ∧
    (maskOk img a.toNat = true → maskOk img c.toNat = true →
      Does (.vmand m d a c) (fun k => bit a k && bit c k) ∧ Does (.vmor m d a c) (fun k => bit a k || bit c k) ∧
      Does (.vmxor m d a c) (fun k => bit a k != bit c k))

/-- R121 to R123; sums, products, quotients, comparisons and conversions have their values in the two statements on scalar floating point. -/
def Obligations.VectorFloatInstructionsComplete : Prop :=
  ∀ (s : State) (m : Bool) (r : RMode) (n : Narrow) (d a b : VReg) (nf : Fmt),
    let img := (s.arch s.cur).vtype
    let w := widthOf img
    let f := fmtOf img
    let A := fun k => unpack f (s.el a.toNat w k)
    let B := fun k => unpack f (s.el b.toNat w k)
    let D := fun k => unpack f (s.el d.toNat w k)
    VectorReady s → groupOk d.toNat (multOf img) = true → groupOk a.toNat (multOf img) = true → s.Writable (groupRegs s d) →
    (2 ≤ ewOf img →
      Elementwise s (.vfcvtfi m d a) m d w (fun k => ofInt f (sext w (s.el a.toNat w k))) ∧
      Elementwise s (.vfcvtif m r d a) m d w (fun k => toInt r w (A k))) ∧
    (2 ≤ ewOf img → groupOk b.toNat (multOf img) = true →
      Elementwise s (.vfadd m d a b) m d w (fun k => rne f (addX (A k) (B k))) ∧
      Elementwise s (.vfsub m d a b) m d w (fun k => rne f (addX (A k) (B k).neg)) ∧
      Elementwise s (.vfmul m d a b) m d w (fun k => rne f (mulX (A k) (B k))) ∧
      Elementwise s (.vfma m d a b) m d w (fun k => rne f (addX (mulX (A k) (B k)) (D k))) ∧
      Elementwise s (.vfdiv m d a b) m d w (fun k => fdiv f (A k) (B k)) ∧
      Elementwise s (.vfmin m d a b) m d w (fun k => fminmax f false (s.el a.toNat w k) (s.el b.toNat w k)) ∧
      Elementwise s (.vfmax m d a b) m d w (fun k => fminmax f true (s.el a.toNat w k) (s.el b.toNat w k)) ∧
      Elementwise s (.vfscale m d a b) m d w (fun k => fscale f (A k) (sext w (s.el b.toNat w k))) ∧
      Elementwise s (.vflogt m d a b) m d w (fun k => flogt f (A k) (B k) (D k))) ∧
    (ewOf img = 3 ∧ (n, nf) ∈ [(Narrow.e4m3, Fmt.e4m3), (.e5m2, .e5m2), (.bf16, .bf16), (.f16, .fp16)] ∨ ewOf img = 4 ∧ n = .e4m3 ∧ nf = .fp32 →
      Elementwise s (.vfwiden m n d a) m d w (fun k => rne f (unpack nf (s.el a.toNat nf.width k))) ∧
      Elementwise s (.vfnarrow m n d a) m d nf.width (fun k => rne nf (A k))) ∧
    (∀ (g : Fmt) (v : FVal) (p : Int),
      (v.isFin = true → v.rat ≠ 0 → RoundsTo g ((v.rat * (2 : Rat) ^ p : ℚ) : ℝ) (fscale g v p)) ∧
      (v.isFin = true → v.rat = 0 → fscale g v p = (withSign g v.isNeg 0, 0)) ∧ (v.isFin = false → fscale g v p = rne g v)) ∧
    ∀ (g : Fmt) (x y q : FVal),
      let none_ := x.isNaN = false ∧ y.isNaN = false ∧ q.isNaN = false
      let little := q.isFin = true ∧ |q.rat| < (2 : Rat) ^ (1 - (g.bias : Int))
      (¬ none_ → flogt g x y q = (g.canonNaN, if x.signals || y.signals || q.signals then flNV else 0)) ∧
      (none_ → little → ¬ x.lt y → ¬ y.lt x → flogt g x y q = (0, 0)) ∧
      (none_ → little → x.lt y ∨ y.lt x → flogt g x y q = (withSign g true g.infBits, 0)) ∧
      (none_ → ¬ little → q.isNeg = true → flogt g x y q = (g.canonNaN, flNV)) ∧ (none_ → q = .inf false → flogt g x y q = (0, 0)) ∧
      (none_ → q.isFin = true → ¬ little → q.isNeg = false →
        (x.isFin = true → y.isFin = true → x.rat ≠ y.rat → RoundsTo g (((x.rat - y.rat) / q.rat : ℚ) : ℝ) (flogt g x y q)) ∧
        (x.isFin = true → y.isFin = true → x.rat = y.rat →
          flogt g x y q = (withSign g (x.rat == 0 && x.isNeg && !y.isNeg) 0, 0)) ∧
        (∀ n, y = .inf n → x ≠ .inf n → flogt g x y q = rne g (.inf !n)) ∧ (∀ n, x = .inf n → y ≠ .inf n → flogt g x y q = rne g (.inf n)) ∧
        ∀ n, x = .inf n → y = .inf n → flogt g x y q = (g.canonNaN, flNV))

/-- R124, R142. -/
def Obligations.ScalarResultsOfVectorsComplete : Prop :=
  ∀ (s : State) (m : Bool) (d b : XReg) (a : VReg),
    let img := (s.arch s.cur).vtype
    let w := widthOf img
    let ones := (List.range (s.arch s.cur).vl).filter fun k => s.on m k && (s.arch s.cur).maskBit (s.rows s.cur) a.toNat k
    VectorReady s →
    (maskOk img a.toNat = true →
      ScalarFromVector s (.vmpopc m d a) d (BitVec.ofNat 64 ones.length) ∧
      (ones = [] → ScalarFromVector s (.vmfirst m d a) d (BitVec.allOnes 64)) ∧
      (∀ k, k ∈ ones → (∀ j ∈ ones, k ≤ j) → ScalarFromVector s (.vmfirst m d a) d (BitVec.ofNat 64 k))) ∧
    (groupOk a.toNat (multOf img) = true →
      ScalarFromVector s (.vmvxs d a b) d
        (if (s.x b).toNat < (s.arch s.cur).positions w then BitVec.ofInt 64 (sext w (s.el a.toNat w (s.x b).toNat)) else 0))

/-- R136, R154: the reductions with one result a segment. -/
def Obligations.ReductionsComplete : Prop :=
  ∀ (s : State) (m : Bool) (p : Depth) (d a b : VReg) (n : NReg) (l : List (Nat × Nat)),
    let img := (s.arch s.cur).vtype
    let w := widthOf img
    let f := fmtOf img
    let els := fun q : Nat × Nat => (s.actives m q.1 q.2).map fun k => s.el a.toNat w k
    let Red := fun (i : Instr) (g : Nat × Nat → Nat × BitVec 5) => PerSegment s i d w (l.map g)
    let low := -((2 : Int) ^ (w - 1))
    VectorReady s → groupOk d.toNat (multOf img) = true → groupOk a.toNat (multOf img) = true → s.Writable (groupRegs s d) →
    (Segments s (s.nest n) p l → l.length ≤ (s.arch s.cur).positions w →
      (1 ≤ ewOf img →
        Red (.vredsum m p d a n) (fun q => ((els q).sum, 0)) ∧
        Red (.vredmin m p d a n) (fun q => (wrap w (((els q).map (sext w)).foldl min (-low - 1)), 0)) ∧
        Red (.vredmax m p d a n) (fun q => (wrap w (((els q).map (sext w)).foldl max low), 0)) ∧
        Red (.vredand m p d a n) (fun q => ((els q).foldl (· &&& ·) (2 ^ w - 1), 0)) ∧
        Red (.vredor m p d a n) (fun q => ((els q).foldl (· ||| ·) 0, 0)) ∧
        Red (.vredxor m p d a n) (fun q => ((els q).foldl (· ^^^ ·) 0, 0))) ∧
      (2 ≤ ewOf img →
        Red (.vfredsum m p d a n) (fun q =>
          if f = .fp64 then fp64Sum ((rangeList q.1 q.2).map fun k => if s.on m k then some (s.el a.toNat w k) else none)
          else exactSum f ((els q).map (unpack f))) ∧
        Red (.vfredmin m p d a n) (fun q =>
          (els q).foldl (fun r x => ((fminmax f false r.1 x).1, r.2 ||| (fminmax f false r.1 x).2)) (f.infBits, 0)) ∧
        Red (.vfredmax m p d a n) (fun q =>
          (els q).foldl (fun r x => ((fminmax f true r.1 x).1, r.2 ||| (fminmax f true r.1 x).2)) (f.signBit + f.infBits, 0)))) ∧
    (Segments s (s.nest 0) p l → l.length ≤ (s.arch s.cur).positions 32 → ewOf img = 3 →
      d.toNat + multOf img ≤ 31 → a.toNat + multOf img ≤ 31 → (b ≠ 0 → groupOk b.toNat (multOf img) = true ∧ b.toNat + multOf img ≤ 31) →
      PerSegment s (.vbsum m p d a b) d 32 (l.map fun q =>
        exactSum .fp32 ((s.actives m q.1 q.2).map fun k =>
          let v := codeValue (s.el a.toNat 4 k) (s.el 31 8 (k / 32))
          if b = 0 ∨ s.el 31 8 (k / 32) % 64 = 32 then v else mulX v (unpack .fp32 (s.el b.toNat 32 k))))) ∧
    (∀ (g : Fmt) (ts : List FVal),
      let some_ := fun p : FVal → Prop => ∃ v ∈ ts, p v
      (some_ (·.isNaN = true) → exactSum g ts = (g.canonNaN, if ts.any FVal.signals then flNV else 0)) ∧
      (¬ some_ (·.isNaN = true) →
        (some_ (· = .inf true) → some_ (· = .inf false) → exactSum g ts = (g.canonNaN, flNV)) ∧
        (∀ n, some_ (· = .inf n) → ¬ some_ (· = .inf !n) → exactSum g ts = rne g (.inf n)) ∧
        (¬ some_ (·.isFin = false) →
          ((ts.map FVal.rat).sum ≠ 0 → RoundsTo g (((ts.map FVal.rat).sum : ℚ) : ℝ) (exactSum g ts)) ∧
          ((ts.map FVal.rat).sum = 0 →
            exactSum g ts = (withSign g (decide (ts ≠ []) && ts.all fun v => v.rat == 0 && v.isNeg) 0, 0))))) ∧
    ∀ t : List (Option Nat), fp64Sum t =
      match fp64SumOf t with
      | (none, fl) => (0, fl)
      | (some v, fl) =>
        if (unpack .fp64 v).isNaN then (Fmt.fp64.canonNaN, fl ||| if (unpack .fp64 v).signals then flNV else 0) else (v, fl)

/-- R95, R137. -/
def Obligations.IndexedReductionsComplete : Prop :=
  ∀ (s : State) (m : Bool) (p : Depth) (h : BitVec 4) (a : VReg) (n : NReg) (l : List (Nat × Nat)),
    let img := (s.arch s.cur).vtype
    let w := widthOf img
    let f := fmtOf img
    let d := 2 * h.toNat
    let A := fun k => s.el a.toNat w k
    let acts := fun q : Nat × Nat => s.actives m q.1 q.2
    let Common := fun (i : Instr) (fl : BitVec 5) (ident : Nat) (good : State → Nat × Nat → Nat → Nat → Prop) =>
      ∃ t, exec i s = .next t ∧ VectorRetires s t i [d, d + 1] fl ∧ (t.arch s.cur).x = (s.arch s.cur).x ∧
        (t.arch s.cur).nests = (s.arch s.cur).nests ∧ SameVregs s t [d, d + 1] ∧
        (∀ k q, l[k]? = some q →
          (acts q = [] → t.el d w k = ident ∧ t.el (d + 1) 32 k = 0xFFFF_FFFF) ∧
          (acts q ≠ [] → q.1 + t.el (d + 1) 32 k ∈ acts q ∧ good t q (t.el d w k) (q.1 + t.el (d + 1) 32 k))) ∧
        (∀ k, l.length ≤ k → k < (s.arch s.cur).positions w → t.el d w k = if img.getLsbD 5 then 0 else s.el d w k) ∧
        (∀ k, l.length ≤ k → k < (s.arch s.cur).positions 32 → t.el (d + 1) 32 k = if img.getLsbD 5 then 0 else s.el (d + 1) 32 k)
    let nan := fun k => (unpack f (A k)).isNaN = true
    VectorReady s → multOf img = 1 → Segments s (s.nest n) p l → l.length ≤ (s.arch s.cur).positions w → s.Writable [d, d + 1] →
    (1 ≤ ewOf img → Common (.vredminx m p h a n) 0 (2 ^ (w - 1) - 1) fun _ q v k =>
      v = A k ∧ ∀ j ∈ acts q, sext w v ≤ sext w (A j) ∧ (j < k → sext w v < sext w (A j))) ∧
    (2 ≤ ewOf img → Common (.vfredmaxx m p h a n) (if ∃ q ∈ l, ∃ j ∈ acts q, (unpack f (A j)).signals = true then flNV else 0)
      (f.signBit + f.infBits) fun _ q v k =>
        ((∀ j ∈ acts q, ¬ nan j) → v = A k ∧ ∀ j ∈ acts q, ltMin (unpack f v) (unpack f (A j)) = false ∧
          (j < k → ltMin (unpack f (A j)) (unpack f v) = true)) ∧
        ((∃ j ∈ acts q, nan j) → v = f.canonNaN ∧ nan k ∧ ∀ j ∈ acts q, j < k → ¬ nan j))

/-- R138 to R141. -/
def Obligations.ScansAndShapesComplete : Prop :=
  ∀ (s : State) (m ex : Bool) (p : Depth) (d a b : VReg) (x : XReg) (n : NReg) (l : List (Nat × Nat)),
    let img := (s.arch s.cur).vtype
    let w := widthOf img
    let f := fmtOf img
    let A := fun k => s.el a.toNat w k
    let seg := fun k => (l[segmentOf l k]?).getD (0, 0)
    let els := fun k => (s.actives m (seg k).1 (if ex then k else k + 1)).map A
    let Does := fun (i : Instr) (g : Nat → Nat × BitVec 5) => Elementwise s i m d w g
    VectorReady s → groupOk d.toNat (multOf img) = true → s.Writable (groupRegs s d) →
    (Segments s (s.nest n) p l →
      (3 ≤ ewOf img →
        Does (.vsegid m p d n) (fun k => (segmentOf l k, 0)) ∧
        (l.length ≤ (s.arch s.cur).positions w → PerSegment s (.vseglen p d n) d w (l.map fun q => (q.2 - q.1, 0)))) ∧
      (groupOk a.toNat (multOf img) = true →
        Does (.vdist m p d a n) (fun k => (if segmentOf l k < (s.arch s.cur).positions w then A (segmentOf l k) else 0, 0)) ∧
        (1 ≤ ewOf img →
          Does (.vscansum m ex p d a n) (fun k => ((els k).sum, 0)) ∧
          Does (.vscanmax m ex p d a n) (fun k => (wrap w (((els k).map (sext w)).foldl max (-((2 : Int) ^ (w - 1)))), 0))) ∧
        (2 ≤ ewOf img →
          Does (.vfscansum m ex p d a n) (fun k =>
            if f = .fp64 then fp64Sum ((rangeList (seg k).1 (if ex then k else k + 1)).map fun j => if s.on m j then some (A j) else none)
            else exactSum f ((els k).map (unpack f))) ∧
          Does (.vfscanmax m ex p d a n) (fun k =>
            (els k).foldl (fun r y => ((fminmax f true r.1 y).1, r.2 ||| (fminmax f true r.1 y).2)) (f.signBit + f.infBits, 0))))) ∧
    (Segments s (s.nest 0) p l → groupOk a.toNat (multOf img) = true →
      Does (.vslideup m p d a x) (fun k => (if (seg k).1 + (s.x x).toNat ≤ k then A (k - (s.x x).toNat) else 0, 0)) ∧
      Does (.vslidedn m p d a x) (fun k => (if k + (s.x x).toNat < (seg k).2 then A (k + (s.x x).toNat) else 0, 0)) ∧
      (groupOk b.toNat (multOf img) = true →
        Does (.vrgather m p d a b) (fun k =>
          (if (seg k).1 + s.el b.toNat w k < (seg k).2 then A ((seg k).1 + s.el b.toNat w k) else 0, 0))))

/-- R143, R144. -/
def Obligations.NestInstructionsComplete : Prop :=
  ∀ (s : State) (n : NReg) (a : VReg) (b : XReg) (flat : Bool),
    let q := s.nest n
    let D := q.d.val
    let v := s.x b
    let off := fun l k => s.el (q.base.toNat + l - 1) 32 k
    let cnt := fun l => q.count l
    let entries := fun l (f : Nat → Nat) => (List.range (cnt l + 1)).map f
    let Done := fun (i : Instr) (regs : List Nat) (q' : Nest) (more : State → Prop) =>
      ∃ t, exec i s = .next t ∧ VectorRetires s t i regs 0 ∧ (t.arch s.cur).x = (s.arch s.cur).x ∧ NestIs s t n q' ∧ SameVregs s t regs ∧ more t
    VectorReady s →
    (v.toNat < 2 ^ 34 → v.toNat % 2 ^ 32 + 1 ≤ 64 * s.rows s.cur →
      Done (.nset n a b) [] ⟨1, a, #v[BitVec.ofNat 12 v.toNat, 0, 0, 0], v.getLsbD 32, v.getLsbD 33⟩ fun _ => True) ∧
    (v.toNat < 2 ^ 32 → v.toNat + 1 ≤ 64 * s.rows s.cur → q.base.toNat + D ≤ 31 → ∀ h : D < 4,
      Done (.npush n b) [] { q with d := ⟨D + 1, by omega⟩, c := q.c.set D (BitVec.ofNat 12 v.toNat) h } fun _ => True) ∧
    (D = 1 → Done (.npop flat n) [] { q with d := 0, c := q.c.set 0 0 } fun _ => True) ∧
    (∀ h : 2 ≤ D, (s.arch s.cur).checkLevels (s.rows s.cur) q (D - 1) none = .ok () → s.Writable [q.base.toNat + D - 2] →
      Done (.npop false n) [q.base.toNat + D - 2] { q with d := ⟨D - 1, by omega⟩, c := q.c.set (D - 1) 0 (by omega) } fun t =>
        EntriesAre s t (q.base.toNat + D - 2) (entries (D - 1) fun k => off D (off (D - 1) k))) ∧
    (D = 2 → (s.arch s.cur).checkLevels (s.rows s.cur) q 1 none = .ok () → s.Writable [q.base.toNat] →
      Done (.npop true n) [q.base.toNat] { q with d := 1, c := #v[q.c[1], 0, q.c[2], q.c[3]] } fun t =>
        EntriesAre s t q.base.toNat (entries 2 fun k => off 2 k)) ∧
    (∀ h : 3 ≤ D, (s.arch s.cur).checkLevels (s.rows s.cur) q (D - 2) none = .ok () →
      s.Writable [q.base.toNat + D - 2, q.base.toNat + D - 3] →
      Done (.npop true n) [q.base.toNat + D - 2, q.base.toNat + D - 3]
        { q with d := ⟨D - 1, by omega⟩, c := (q.c.set (D - 2) (q.c[D - 1]'(by omega)) (by omega)).set (D - 1) 0 (by omega) } fun t =>
        EntriesAre s t (q.base.toNat + D - 3) (entries (D - 2) fun k => off (D - 1) (off (D - 2) k)) ∧
        EntriesAre s t (q.base.toNat + D - 2) (entries D fun k => off D k))

/-- R145 to R147. -/
def Obligations.PackCompressAndTreeComplete : Prop :=
  ∀ (s : State) (d a : VReg) (n : NReg),
    let r := s.arch s.cur
    let img := r.vtype
    let w := widthOf img
    let q := s.nest n
    let D := q.d.val
    let A := fun k => s.el a.toNat w k
    let bit := fun k => r.maskBit (s.rows s.cur) 0 k
    let grp := groupRegs s d
    let outer := q.base.toNat + D - 1
    let kept := (List.range r.vl).filter bit
    VectorReady s → groupOk d.toNat (multOf img) = true → groupOk a.toNat (multOf img) = true → s.Writable grp →
    (∀ (l : List (Nat × Nat)) (hD : D < 4), l = segPairs (r.segs (s.rows s.cur) q D) →
      r.checkLevels (s.rows s.cur) q (max 1 D) (some (D + 1, 2 * l.length)) = .ok () →
      (q.base.toNat + D ∉ grp ∧ (D ≠ 0 → outer ∉ grp)) →
      let parts := l.map fun p => (rangeList p.1 p.2, p.1)
      let order := parts.flatMap fun p => p.1.filter bit ++ p.1.filter fun k => !bit k
      let regs := grp ++ (if D = 0 then [q.base.toNat] else [q.base.toNat + D, outer])
      s.Writable regs →
      ∃ t, exec (.vpack d a n) s = .next t ∧ VectorRetires s t (.vpack d a n) regs 0 ∧ (t.arch s.cur).x = r.x ∧
        NestIs s t n { q with d := ⟨D + 1, by omega⟩, c := q.c.set D (BitVec.ofNat 12 (2 * l.length)) hD } ∧
        SameVregs s t regs ∧ GroupHolds s t d.toNat w r.vl (fun k => (order[k]?).map A) ∧
        EntriesAre s t (q.base.toNat + D) ((parts.flatMap fun p => [p.2, p.2 + (p.1.filter bit).length]) ++ [r.vl]) ∧
        (D ≠ 0 → EntriesAre s t outer ((List.range (l.length + 1)).map fun k => 2 * k))) ∧
    ((D ≠ 0 → r.checkLevels (s.rows s.cur) q D none = .ok () ∧ outer ∉ grp) →
      let regs := grp ++ (if D = 0 then [] else [outer])
      s.Writable regs →
      ∃ t, exec (.vcompress d a n) s = .next t ∧ VectorRetires s t (.vcompress d a n) regs 0 ∧ (t.arch s.cur).x = r.x ∧
        (t.arch s.cur).nests = r.nests ∧ SameVregs s t regs ∧ GroupHolds s t d.toNat w kept.length (fun k => (kept[k]?).map A) ∧
        (D ≠ 0 → EntriesAre s t outer ((List.range (q.count D + 1)).map fun k =>
          (kept.filter fun j => decide (j < s.el outer 32 k)).length))) ∧
    (ewOf img = 3 → (∀ k, k < r.vl → -1 ≤ sext 32 (A k) ∧ sext 32 (A k) < k) →
      ∀ dep : Nat → Nat, (∀ k, k < r.vl → dep k = if sext 32 (A k) = -1 then 0 else dep (sext 32 (A k)).toNat + 1) →
      Elementwise s (.vtree d a) false d 32 fun k => (dep k, 0))

/-- R149 to R153, with the values of R84, R85, R87 and R88. -/
def Obligations.CodeInstructionsComplete : Prop :=
  ∀ (s : State) (m : Bool) (ct : CodeType) (d a : VReg),
    let r := s.arch s.cur
    let img := r.vtype
    let w := widthOf img
    let f := fmtOf img
    let block := fun b => encodeBlock ct ((rangeList (32 * b) (min (32 * b + 32) r.vl)).map fun k => unpack f (s.el a.toNat w k))
    let blocks := (r.vl + 31) / 32
    VectorReady s → groupOk d.toNat (multOf img) = true → groupOk a.toNat (multOf img) = true → d.toNat + multOf img ≤ 31 →
    a.toNat + multOf img ≤ 31 →
    (ewOf img = 2 ∧ img.getLsbD 6 = true ∨ 3 ≤ ewOf img → s.Writable (groupRegs s d) →
      Elementwise s (.vdec4 m d a) m d w fun k => ((rne f (codeValue (s.el a.toNat 4 k) (s.el 31 8 (k / 32)))).1, 0)) ∧
    (2 ≤ ewOf img → s.Writable (groupRegs s d ++ [31]) →
      ∃ t, exec (.venc4 ct d a) s = .next t ∧
        VectorRetires s t (.venc4 ct d a) (groupRegs s d ++ [31]) (orFlags ((List.range blocks).map fun b => (block b).2.2)) ∧
        (t.arch s.cur).x = r.x ∧ (t.arch s.cur).nests = r.nests ∧ SameVregs s t (groupRegs s d ++ [31]) ∧
        GroupHolds s t d.toNat 4 r.vl (fun k => ((block (k / 32)).2.1)[k % 32]?) ∧
        ∀ b, b < 256 * s.rows s.cur → t.el 31 8 b = if b < blocks then (block b).1 else s.el 31 8 b) ∧
    (∀ (code scale : Nat), code < 16 → scale < 256 → [CodeType.int, .e2m1, .pow, .hyb][scale / 64]? = some ct →
      (scale % 64 = 32 → codeValue code scale = .nan false) ∧
      (scale % 64 ≠ 32 → (codeValue code scale).isFin = true ∧ ((codeValue code scale).isNeg = true ↔ 8 ≤ code) ∧
        (codeValue code scale).rat = ((codeTable ct)[code]?).getD 0 * (2 : Rat) ^ sext 6 (scale % 64))) ∧
    ∀ vals : List FVal,
      let r := encodeBlock ct vals
      let kind := match ct with | .int => 0 | .e2m1 => 64 | .pow => 128 | .hyb => 192
      ((∃ v ∈ vals, v.isFin = false) → r = (kind + 32, vals.map fun _ => 0, flNV)) ∧
      ((∀ v ∈ vals, v.isFin = true ∧ v.rat = 0) → r = (kind, vals.map fun _ => 0, 0)) ∧
      ((∀ v ∈ vals, v.isFin = true) → (∃ v ∈ vals, v.rat ≠ 0) → ∃ e : Int, -31 ≤ e ∧ e ≤ 31 ∧
        let top := fun j : Int => codeLimit ct * (2 : Rat) ^ j
        let at_ := fun c : Nat => ((codeTable ct)[c]?).getD 0 * (2 : Rat) ^ e
        r.1 = kind + (e % 64).toNat ∧ (e = 31 ∨ ∀ v ∈ vals, |v.rat| ≤ top e) ∧ (∀ j, -31 ≤ j → j < e → ∃ v ∈ vals, top j < |v.rat|) ∧
        r.2.1.length = vals.length ∧
        (∀ (k : Nat) (v : FVal) (c : Nat), vals[k]? = some v → r.2.1[k]? = some c → c < 16 ∧ c ≠ 8 ∧ (v.rat = 0 → c = 0) ∧
          (top e < |v.rat| → at_ c = if v.rat < 0 then -top e else top e) ∧
          (|v.rat| ≤ top e → ∀ j, j < 16 → j ≠ 8 →
            |at_ c - v.rat| ≤ |at_ j - v.rat| ∧ (|at_ c - v.rat| = |at_ j - v.rat| → at_ j ≠ at_ c → c % 2 = 0))) ∧
        r.2.2 = (if ∃ v ∈ vals, top e < |v.rat| then flOF else 0) |||
          (if (vals.zip r.2.1).any fun p => at_ p.2 != p.1.rat then flNX else 0))

/-- R19, R116, R129, R134, R143, R147: traps of a vector instruction before it writes. -/
def Obligations.VectorFaultsTrapBeforeAnythingIsWritten : Prop :=
  ∀ (s : State) (m ex : Bool) (p : Depth) (d a b : VReg) (c : VSrc) (n : NReg) (x : XReg) (keys : List Nat),
    let img := (s.arch s.cur).vtype
    let cs := match c with | .vec v => [v] | .scal _ => []
    let Stops := fun (i : Instr) (cause : BitVec 8) (v : Word) => ∃ t, exec i s = .next t ∧ ConvoyTraps s t cause v
    s.CanEnter s.cur keys → progressAt (s.arch s.cur).convoyHere.resume (s.arch s.cur).convoyHere.member = 0 →
    (∀ i, (memberOf i s).isSome = true → (s.thr s.cur).lanes = none → Stops i 0x01 (wordOf i)) ∧
    ((s.thr s.cur).lanes.isSome = true →
      (∀ i lo fields, (i, lo, fields) ∈ [(Instr.vadd m d a c, 1, [d, a] ++ cs), (.vsub m d a c, 1, [d, a] ++ cs), (.vmul m d a c, 1, [d, a] ++ cs),
          (.vand m d a c, 0, [d, a] ++ cs), (.vor m d a c, 0, [d, a] ++ cs), (.vxor m d a c, 0, [d, a] ++ cs), (.vsll m d a c, 1, [d, a] ++ cs),
          (.vsrl m d a c, 1, [d, a] ++ cs), (.vsra m d a c, 1, [d, a] ++ cs), (.vmin m d a c, 1, [d, a] ++ cs), (.vmax m d a c, 1, [d, a] ++ cs),
          (.vsadd m d a c, 1, [d, a] ++ cs), (.vssub m d a c, 1, [d, a] ++ cs), (.vpopc m d a, 1, [d, a]), (.vmerge d a c, 0, [d, a] ++ cs),
          (.vmv m d a, 0, [d, a]), (.vmvScalar m d x, 0, [d]), (.vid m d, 1, [d]), (.vwiden m ex d a c, 2, [d, a] ++ cs),
          (.vnarrow m ex d a c, 2, [d, a] ++ cs), (.vcmpeq m d a c, 1, a :: cs), (.vcmpne m d a c, 1, a :: cs), (.vcmplt m d a c, 1, a :: cs),
          (.vcmpltu m d a c, 1, a :: cs), (.vcmple m d a c, 1, a :: cs), (.vcmpleu m d a c, 1, a :: cs), (.vfcmpeq m d a c, 2, a :: cs),
          (.vfcmplt m d a c, 2, a :: cs), (.vfcmple m d a c, 2, a :: cs), (.vfadd m d a b, 2, [d, a, b]), (.vfsub m d a b, 2, [d, a, b]),
          (.vfmul m d a b, 2, [d, a, b]), (.vfma m d a b, 2, [d, a, b]), (.vfdiv m d a b, 2, [d, a, b]), (.vfmin m d a b, 2, [d, a, b]),
          (.vfmax m d a b, 2, [d, a, b]), (.vfscale m d a b, 2, [d, a, b]), (.vflogt m d a b, 2, [d, a, b]),
          (.vredsum m p d a n, 1, [d, a]), (.vredmin m p d a n, 1, [d, a]), (.vredmax m p d a n, 1, [d, a]), (.vredand m p d a n, 1, [d, a]),
          (.vredor m p d a n, 1, [d, a]), (.vredxor m p d a n, 1, [d, a]), (.vfredsum m p d a n, 2, [d, a]), (.vfredmin m p d a n, 2, [d, a]),
          (.vfredmax m p d a n, 2, [d, a]), (.vscansum m ex p d a n, 1, [d, a]), (.vscanmax m ex p d a n, 1, [d, a]),
          (.vfscansum m ex p d a n, 2, [d, a]), (.vfscanmax m ex p d a n, 2, [d, a]), (.vdist m p d a n, 0, [d, a]), (.vsegid m p d n, 3, [d]),
          (.vseglen p d n, 3, [d]), (.vslideup m p d a x, 0, [d, a]), (.vslidedn m p d a x, 0, [d, a]), (.vrgather m p d a b, 0, [d, a, b])] →
        (ewOf img < lo ∨ ∃ v ∈ fields, v.toNat % multOf img ≠ 0) → Stops i 0x01 (wordOf i)) ∧
      (∀ i lo (k : NReg), (i, lo, k) ∈ [(Instr.vredsum m p d a n, 1, n), (.vredmin m p d a n, 1, n), (.vredmax m p d a n, 1, n),
          (.vredand m p d a n, 1, n), (.vredor m p d a n, 1, n), (.vredxor m p d a n, 1, n), (.vfredsum m p d a n, 2, n), (.vfredmin m p d a n, 2, n),
          (.vfredmax m p d a n, 2, n), (.vscansum m ex p d a n, 1, n), (.vscanmax m ex p d a n, 1, n), (.vfscansum m ex p d a n, 2, n),
          (.vfscanmax m ex p d a n, 2, n), (.vdist m p d a n, 0, n), (.vsegid m p d n, 3, n), (.vseglen p d n, 3, n),
          (.vslideup m p d a x, 0, 0), (.vslidedn m p d a x, 0, 0)] →
        lo ≤ ewOf img → ewOf img ≤ 4 → groupOk d.toNat (multOf img) = true → groupOk a.toNat (multOf img) = true → s.Writable (groupRegs s d) →
        ((s.nest k).d < p → Stops i 0x08 (BitVec.ofNat 64 (p.val * 2 ^ 32 + 0xFFFF_FFFF))) ∧
        ∀ cause v, (s.arch s.cur).checkDepth (s.rows s.cur) (s.nest k) p.val = .error (.trap cause v) → Stops i cause v) ∧
      ((s.nest n).d = 4 → (s.x x).toNat < 2 ^ 32 → Stops (.npush n x) 0x09 0) ∧
      (∀ k : Nat, ewOf img = 3 → groupOk d.toNat (multOf img) = true → groupOk a.toNat (multOf img) = true → s.Writable (groupRegs s d) →
        k < (s.arch s.cur).vl → (sext 32 (s.el a.toNat 32 k) < -1 ∨ (k : Int) ≤ sext 32 (s.el a.toNat 32 k)) →
        (∀ j : Nat, j < k → -1 ≤ sext 32 (s.el a.toNat 32 j) ∧ sext 32 (s.el a.toNat 32 j) < j) → Stops (.vtree d a) 0x0A (BitVec.ofNat 64 k)))

/-- R206 to R210: the six loads of idempotent memory; that an element may be read early, and what is read then, is log entry 49. -/
def Obligations.VectorLoadsComplete : Prop :=
  ∀ (s : State) (c : Cache) (i : Instr) (m : Bool) (d : VReg) (a : XReg) (form : VForm) (locs : Nat → Loc) (mb : Member),
    let r := s.arch s.cur
    let rows := s.rows s.cur
    let w := widthOf r.vtype
    let len := max 1 (w / 8)
    let whole := i = .vfill c d a
    let count := if i = .vfill c d a then (r.vl + rows * 512 / w - 1) / (rows * 512 / w) * (rows * 512 / w) else r.vl
    let adr := fun k => r.elemAddr rows form a k
    let ordered := ∃ v, i = .vldxo m c d a v
    let found := fun k => (s.aheadFor s.cur true k (adr k) (locs k).key len).filter fun x => !(m && x.passed)
    (i = .vld m c d a ∧ form = .unit ∨ (∃ b, i = .vlds m c d a b ∧ form = .strided b) ∨ (∃ v, i = .vldx m c d a v ∧ form = .indexed v) ∨
      (∃ v, i = .vldxo m c d a v ∧ form = .indexed v) ∨ i = .vldff c d a ∧ form = .unit ∧ m = false ∨ whole ∧ form = .unit ∧ m = false) →
    VectorReady s → groupOk d.toNat (multOf r.vtype) = true → (form ≠ .unit → 1 ≤ ewOf r.vtype) →
    (∀ v, form = .indexed v → let span := multOf r.vtype * max 1 (32 / w); v.toNat % span = 0 ∧ v.toNat + span ≤ 32) →
    (whole → (s.x a).toNat % 64 = 0 ∧ 0 < rows) → s.Writable (groupRegs s d) → memberOf i s = some mb →
    (∀ k, k < count → s.on m k = true →
      (adr k).toNat % len = 0 ∧ s.translate (s.who s.cur) .load false (adr k) = .ok (locs k) ∧
      (i = .vld m c d a → s.translate (s.who s.cur) .load true (adr k) = .ok (locs k)) ∧ (locs k).device = false ∧
      (found k = none ∨ ordered → (s.reserved i mb).hasBad s.cur (locs k).key len = false ∧
        (s.reserved i mb).copyStalls s.cur (keysFrom (locs k).key len) false noneAcquired = false)) →
    let byte := fun key => ((s.reserved i mb).byteFor s.cur key).toNat
    let now := fun k => if w = 4 then byte (locs k).key / 16 ^ (k % 2) % 16
      else (List.range len).foldr (fun j n => n * 256 + byte ((locs k).key + j)) 0
    let Got := fun (k v : Nat) =>
      match found k with
      | none => v = now k
      | some x => v = (if w = 4 then x.val / 16 ^ (k % 2) % 16 else x.val % 2 ^ w) ∨ ordered ∧ v = now k
    ∃ t, exec i s = .next t ∧
      VectorRetires s { t.setArch s.cur { t.arch s.cur with ffst := r.ffst } with
        elided := s.elided, errCounts := s.errCounts, reports := s.reports, debugLog := s.debugLog } i (groupRegs s d) 0 ∧
      (∀ y ∈ (t.thr s.cur).ahead, y ∈ (s.thr s.cur).ahead ∧
        (¬ ordered → ∀ k, k < count → s.on m k = true → found k = none → y.overlaps (keysFrom (locs k).key len) = false)) ∧
      (t.arch s.cur).ffst = (if i = .vldff c d a then BitVec.ofNat 64 r.vl else r.ffst) ∧
      ((∀ k, k < count → s.on m k = true → s.isDead (locs k).key = false) →
        t.elided = s.elided ∧ t.errCounts = s.errCounts ∧ t.reports = s.reports) ∧ (s.watches = [] → t.debugLog = s.debugLog) ∧
      (t.arch s.cur).x = r.x ∧ (t.arch s.cur).nests = r.nests ∧ SameVregs s t (groupRegs s d) ∧
      (¬ whole → ∀ k, k < r.positions w →
        if k < r.vl then (if s.on m k then Got k (t.el d.toNat w k) else t.el d.toNat w k = s.el d.toNat w k)
        else t.el d.toNat w k = if r.vtype.getLsbD 5 then 0 else s.el d.toNat w k) ∧
      (whole → ∀ k, k < (if r.vl = 0 then r.positions w else r.vl) →
        if k < r.vl then Got k (t.el d.toNat w k) else t.el d.toNat w k = s.el d.toNat w k)

/-- R206, R207, R210: the five stores of idempotent memory; which of two elements at one address stays is free (log entry 19). -/
def Obligations.VectorStoresComplete : Prop :=
  ∀ (s : State) (c : Cache) (i : Instr) (m : Bool) (d : VReg) (a : XReg) (form : VForm) (locs : Nat → Loc) (mb : Member),
    let r := s.arch s.cur
    let rows := s.rows s.cur
    let w := widthOf r.vtype
    let len := max 1 (w / 8)
    let whole := i = .vspill c d a
    let count := if i = .vspill c d a then (r.vl + rows * 512 / w - 1) / (rows * 512 / w) * (rows * 512 / w) else r.vl
    let adr := fun k => r.elemAddr rows form a k
    let idx := (List.range count).filter (s.on m)
    (i = .vst m c d a ∧ form = .unit ∨ (∃ b, i = .vsts m c d a b ∧ form = .strided b) ∨ (∃ v, i = .vstx m c d a v ∧ form = .indexed v) ∨
      (∃ v, i = .vstxo m c d a v ∧ form = .indexed v) ∨ whole ∧ form = .unit ∧ m = false) →
    VectorReady s → groupOk d.toNat (multOf r.vtype) = true → (form ≠ .unit → 1 ≤ ewOf r.vtype) →
    (∀ v, form = .indexed v → let span := multOf r.vtype * max 1 (32 / w); v.toNat % span = 0 ∧ v.toNat + span ≤ 32) →
    (whole → (s.x a).toNat % 64 = 0 ∧ 0 < rows) → memberOf i s = some mb →
    let u := s.reserved i mb
    (∀ k ∈ idx,
      (adr k).toNat % len = 0 ∧ s.translate (s.who s.cur) .store false (adr k) = .ok (locs k) ∧
      (i = .vst m c d a → s.translate (s.who s.cur) .store true (adr k) = .ok (locs k)) ∧ (locs k).device = false ∧ (locs k).lost = false ∧
      u.copyStalls s.cur (keysFrom (locs k).key len) true noneAcquired = false) →
    (∀ j ∈ idx, ∀ k ∈ idx, j < k → (locs j).key + len ≤ (locs k).key ∨ (locs k).key + len ≤ (locs j).key ∨
      w = 4 ∧ (locs j).key = (locs k).key ∧ j % 2 ≠ k % 2) →
    u.storeFits s.cur (idx.flatMap fun k => keysFrom (locs k).key len) = true →
    ∃ t, exec i s = .next t ∧
      VectorRetires s { t.setArch s.cur { t.arch s.cur with runs := r.runs } with stores := u.stores } i [] 0 ∧
      (t.thr s.cur).heldFrom = (if idx = [] then (u.thr s.cur).heldFrom else ((u.thr s.cur).heldFrom).or (some (s.cycleOf s.cur))) ∧
      (t.thr s.cur).ahead = ((s.thr s.cur).accessed (idx.flatMap fun k => keysFrom (locs k).key len)).ahead ∧
      (t.arch s.cur).runs = r.runs.filter (fun x => x.id != u.fresh + 1) ∧
      (∀ e, e ∈ u.stores → e ∈ t.stores) ∧ (∀ e, e ∈ t.stores → e ∉ u.stores → e.tid = s.cur ∧ e.point = .held ∧ e.whole = u.fresh + 1) ∧
      (t.arch s.cur).x = r.x ∧ (t.arch s.cur).v = r.v ∧ (t.arch s.cur).nests = r.nests ∧ t.mem = s.mem ∧ t.tags = s.tags ∧
      (∀ k ∈ idx, ∀ j, j < len → w ≠ 4 → reservedByte ((locs k).key + j) = false →
        t.byteFor s.cur ((locs k).key + j) = BitVec.ofNat 8 (s.el d.toNat w k / 256 ^ j)) ∧
      (∀ k ∈ idx, w = 4 → reservedByte (locs k).key = false → (t.byteFor s.cur (locs k).key).toNat / 16 ^ (k % 2) % 16 = s.el d.toNat 4 k) ∧
      (∀ v k, (v ≠ s.cur ∨ reservedByte k = true ∨ ∀ j ∈ idx, k < (locs j).key ∨ (locs j).key + len ≤ k) → t.byteFor v k = u.byteFor v k)

/-- R181 and R346: tld. Marked as the model's: log entries 37, 63 and 64. -/
def Obligations.TileLoadsComplete : Prop :=
  ∀ (s : State) (sc wide : Bool) (d : VReg) (a b : XReg) (p : TileAt) (bytes scales : List Byte) (fl : BitVec 5),
    let rows := s.rows s.cur
    let u := s.seeEngine s.cur (decide (2 ^ 63 ≤ (s.x a).toNat))
    let v := u.tileView (s.x a) (s.x b) .load none
    let tag := v.stored
    let form := tagFormat tag
    let shape := tileShape form
    let scaled := sc = true ∧ form = 11
    let scaleAt := v.shape.scale + BitVec.ofNat 64 ((v.i * v.shape.cols + v.j) * 256)
    let n := (s.x b).toNat % 2 ^ 32
    let spanOf := fun size : Nat => (size + rows * 256 - 1) / (rows * 256)
    let spanOk := fun size : Nat => need (d.toNat + spanOf size ≤ if sc then 31 else 32) 0x01 (wordOf (.tld sc wide d a b))
    let size := if wide then 4096 * 32 / shape.2.2 else 4096
    let regs := regsFrom d.toNat (spanOf size) ++ (if scaled then [31] else [])
    let adder := { u.who s.cur with window := false }
    let h := (s.x a).toNat % 4096
    let ls := (v.handle.layers.take v.handle.n).zipIdx
    let y := v.i * shape.1
    let z := v.j * shape.2.1
    let baseFmt := (tileFmt (tagFormat v.shape.tag)).getD .fp32
    let frameBytes : Except Stop (List Byte) := if tagSparsity tag = 2 then .ok []
      else if v.named then u.readHome adder v.frame 4096 else u.readStruct (u.who s.cur) v.frame 4096
    let image := if tagSparsity tag = 2 then List.replicate 4096 0
      else if tagSparsity tag = 1 then expandFrame shape.2.2 (frameBytes.toOption.getD []) else frameBytes.toOption.getD []
    let scaleBytes := u.readStruct (u.who s.cur) scaleAt 256
    let orders := [spanOk 4096] ++ v.orders ++ [v.tagged] ++ (if scaled then [passing (u.mapStruct (u.who s.cur) .load scaleAt 256)] else []) ++
      [need (v.shape.tag = 0 ∨ v.shape.tag.toNat / 32 = tag.toNat / 32) 0x0C (BitVec.ofNat 64 (tag.toNat + v.shape.tag.toNat * 2 ^ 16)),
        need (tagPoison tag = false) 0x16 v.frame, need (wide = true → 5 ≤ form ∧ form ≤ 8) 0x0B (shapeWord 4 n), spanOk size] ++
      (if v.named then [need (v.handle.malformed = false) 0x0F (faultWord 3 h 0),
        need (isHbm v.key = true ∧ v.shape.amendable = true) 0x0F (faultWord 6 h 0)] ++
        u.descriptorOrders adder v.shape h ls ++ u.layerDataOrders adder v.shape h shape.1 shape.2.1 y z ls else []) ++
      [passing frameBytes] ++ (if scaled then [passing scaleBytes] else [])
    let vals := elemsOf baseFmt.width image
    let widened := fun f : Fmt => (elemsOf f.width image).map fun q => (rne .fp32 (unpack f q)).1
    let acc := fun k : Nat =>
      let rc := elementAt (tagLayout tag) shape.1 shape.2.1 k
      let base := vals[k]?.getD 0
      u.amended adder shape.1 shape.2.1 y z rc.1 rc.2 (ls.map Prod.fst)
        (if baseFmt = .fp32 then base else (rne .fp32 (unpack baseFmt base)).1, 0)
    let touched := touchedGroups rows d.toNat 8 size (spanOf size) (tailZero (s.arch s.cur).vtype) ++
      if scaled then touchedGroups rows 31 8 256 1 false else []
    let w := (((u.noteTile s.cur (s.x a) p).ownReads p.who (u.payloadReads s.cur p tag (s.x a))).ownReads (u.who s.cur)
      [(scaleAt, if scaled then 256 else 0)]).reserve s.cur touched
    (s.thr s.cur).lanes.isSome = true → 0 < rows →
    FirstTrap s (.tld sc wide d a b) orders ∧
    (AllPass orders → (scaled → scaleBytes = .ok scales) → u.pennantBusy s.cur regs = false →
      u.tileAt s.cur (s.x a) (s.x b) none = .ok p →
      (v.named = false → fl = 0 ∧ bytes = (match wide, tileFmt form with
        | true, some f => (widened f).flatMap fun q => bytesOf q 4
        | _, _ => image)) →
      (v.named = true → bytes.length = size ∧ ∃ out : Nat → Nat × BitVec 5,
        (∀ k, k < vals.length → if wide then out k = acc k else
          ∃ r, Delivers baseFmt (unpack .fp32 (acc k).1) r ∧ out k = (r.1, (acc k).2 ||| r.2)) ∧
        bytes = ((List.range vals.length).flatMap fun k => bytesOf (out k).1 (if wide then 4 else baseFmt.width / 8)) ∧
        fl = orFlags ((List.range vals.length).map fun k => (out k).2)) →
      ∃ t, exec (.tld sc wide d a b) s = .next t ∧
        Retires w (t.setArch s.cur { t.arch s.cur with v := (s.arch s.cur).v, prog := (s.arch s.cur).prog }) (s.pc + 4) fl ∧
        (∀ q : Fin 32, (t.arch s.cur).prog[q.val] = if q.val ∈ regs then 4 else (s.arch s.cur).prog[q.val]) ∧
        (t.arch s.cur).x = (s.arch s.cur).x ∧ SameVregs s t regs ∧
        (∀ j, j < spanOf size * (rows * 256) → t.el d.toNat 8 j =
          match bytes[j]? with | some q => q.toNat | none => if tailZero (s.arch s.cur).vtype then 0 else s.el d.toNat 8 j) ∧
        (scaled → ∀ j, j < rows * 256 → t.el 31 8 j = match scales[j]? with | some q => q.toNat | none => s.el 31 8 j)) ∧
    (AllPass v.orders → ∃ q, u.tileAt s.cur (s.x a) (s.x b) none = .ok q ∧ q.shape = v.shape ∧ q.i = v.i ∧ q.j = v.j ∧ q.addr = v.frame ∧
      q.loc.key = v.key ∧ q.handle = if v.named then some v.handle else none)

/-- R182, R183: tst, tset and ttag. What `After` says holds for a tst of these bytes, or a tset, which has none. A tst's frame and tag are one store, its scale bytes stores of their own (log entry 65). -/
def Obligations.TileStoresAndTagsComplete : Prop :=
  ∀ (s w : State) (sc : Bool) (d : VReg) (x a b : XReg) (p : TileAt),
    let rows := s.rows s.cur
    let span := (4096 + rows * 256 - 1) / (rows * 256)
    let n := s.noteTile s.cur (s.x a) p
    let Room := fun keys : List Nat => if n.storeFits s.cur keys then w = n else w = n.implicitCkpt s.cur ∧ w.storeFits s.cur keys = true
    let After := fun (i : Instr) (keys : List Nat) (t : State) => exec i s = .next t ∧
    t = { w with threads := t.threads, stores := t.stores, fresh := t.fresh } ∧
      (∃ l, t.stores = w.stores ++ l ∧ ∀ e ∈ l, e.tid = s.cur ∧ e.point = .held) ∧
      t.thr s.cur = { w.thr s.cur with
        arch := (s.arch s.cur).advance (s.pc + 4), instret := (s.thr s.cur).instret + 1
        rfloss := (t.thr s.cur).rfloss, ahead := ((w.thr s.cur).accessed keys).ahead
        heldFrom := ((w.thr s.cur).heldFrom).or (some (s.cycleOf s.cur)) } ∧
      ∀ q, q ≠ s.cur → t.thr q = s.thr q ∧ (∀ k, t.byteFor q k = w.byteFor q k) ∧ ∀ k, t.tagFor q k = w.tagFor q k
    (s.thr s.cur).lanes.isSome = true → 0 < rows →
    (∀ (data : List Byte) (scaleKeys : List Nat),
      let v := s.tileView (s.x a) (s.x b) .store (some fun tag => tag.setWidth 64)
      let tag := v.shape.tag
      let dense := (List.range 4096).map fun j => BitVec.ofNat 8 (s.el d.toNat 8 j)
      let scaled := sc = true ∧ tagFormat tag = 11
      let scaleAt := v.shape.scale + BitVec.ofNat 64 ((v.i * v.shape.cols + v.j) * 256)
      let places := if scaled then s.mapStruct (s.who s.cur) .store scaleAt 256 else .ok []
      let packed : Except Nat (List Byte) := if tagSparsity tag = 1 then compactFrame (tagFormat tag) (tileShape (tagFormat tag)).2.2 dense else .ok dense
      let keys := (if tagSparsity tag = 2 then [] else keysFrom v.key 4096) ++ scaleKeys
      let orders := [need (d.toNat + span ≤ if sc then 31 else 32) 0x01 (wordOf (.tst sc d a b))] ++ v.orders ++
        [passing places, (match packed with | .error g => .error (.trap 0x0B (shapeWord 1 g)) | .ok _ => .ok ()),
          need (s.isRetired v.key = false) 0x16 v.frame, passing (s.retiredAt (places.toOption.getD []) scaleAt)]
      FirstTrap s (.tst sc d a b) orders ∧
      (AllPass orders → places = .ok scaleKeys → packed = .ok data →
        s.tileAt s.cur (s.x a) (s.x b) (some fun r => r.tag.setWidth 64) = .ok p → p.loc.lost = false →
        (∀ k ∈ scaleKeys, s.keyDown k = false) → keys.Nodup → s.copyStalls s.cur keys true noneAcquired = false → Room keys →
        ∃ t, After (.tst sc d a b) keys t ∧
          (tagSparsity tag ≠ 2 → ∀ j q, data[j]? = some q → reservedByte (v.key + j) = false → t.byteFor s.cur (v.key + j) = q) ∧
          (∀ (j k : Nat), scaleKeys[j]? = some k → reservedByte k = false → t.byteFor s.cur k = BitVec.ofNat 8 (s.el 31 8 j)) ∧
          (∀ k, k ∉ keys ∨ reservedByte k = true → t.byteFor s.cur k = w.byteFor s.cur k) ∧
          ((∀ k ∈ scaleKeys, frameOf k ≠ frameOf v.key) → isTagged v.key = true → t.tagFor s.cur v.key = tag) ∧
          ∀ k, frameOf k ≠ frameOf v.key → (∀ q ∈ scaleKeys, frameOf q ≠ frameOf k) → t.tagFor s.cur k = w.tagFor s.cur k)) ∧
    (let v := s.tileView (s.x a) (s.x b) .store (some fun _ => s.x x)
     let orders := v.orders ++ [need (s.isRetired v.key = false) 0x16 v.frame]
     FirstTrap s (.tset x a b) orders ∧
     (AllPass orders → s.tileAt s.cur (s.x a) (s.x b) (some fun _ => s.x x) = .ok p → p.loc.lost = false →
      s.copyStalls s.cur (keysFrom v.key 4096) true noneAcquired = false → w = n →
      ∃ t, After (.tset x a b) [] t ∧ (t.thr s.cur).rfloss = (s.thr s.cur).rfloss ∧ (∀ k, t.byteFor s.cur k = s.byteFor s.cur k) ∧
        (isTagged v.key = true → t.tagFor s.cur v.key = (s.x x).extractLsb' 0 16) ∧
        ∀ k, frameOf k ≠ frameOf v.key → t.tagFor s.cur k = s.tagFor s.cur k)) ∧
    (let u := s.seeEngine s.cur (decide (2 ^ 63 ≤ (s.x a).toNat))
     let v := u.tileView (s.x a) (s.x b) .load none
     let orders := v.orders ++ [need (v.named = true → v.handle.malformed = false) 0x0F (faultWord 3 ((s.x a).toNat % 4096) 0), v.tagged]
     FirstTrap s (.ttag x a b) orders ∧
     (AllPass orders → u.tileAt s.cur (s.x a) (s.x b) none = .ok p →
      ∃ t, exec (.ttag x a b) s = .next t ∧ Retires (u.noteTile s.cur (s.x a) p) t (s.pc + 4) 0 ∧
        WritesX s t x ((if v.named then (v.stored &&& 0xF8EF) ||| 0x0300 else v.stored).setWidth 64)))

/-- R185, R186: tcall. What the engines wrote for the thread is performed before a handle is read (log entry 64). -/
def Obligations.DispatchSelectsAMethodOrOneConversion : Prop :=
  ∀ (s : State) (a : XReg) (n : TileCount) (tags : List (BitVec 16)) (k : Nat), (n, k) ∈ [(TileCount.one, 1), (.two, 2), (.three, 3)] →
    let r := s.arch s.cur
    let op := (s.x a).extractLsb' 0 16
    let tc := (s.thr s.cur).tcbase
    let key := BitVec.ofNat 64 ((op :: tags).foldr (fun t acc => acc * 65536 + t.toNat) 0)
    let frame := localWindow + (if (s.thr s.cur).ystat.toNat / 8 % 2 = 1 then 0x1F_0000 else 0x2F_0000) +
      BitVec.ofNat 64 ((2 * (s.cur.val % 8) + (if r.cf then 1 else 0)) * 0x1000)
    let operands := [s.x 10, s.x 11, s.x 12].take k
    let u := s.seeEngine s.cur (operands.any fun x => decide (2 ^ 63 ≤ x.toNat))
    let w := u.noteCall s.cur op operands
    let Best := fun x : Except Stop (Option Selection) =>
      ∀ (h0 h1 : List Byte) (ms cs : List CaseRow),
        let hd := h0 ++ h1
        let Rows := fun (base : Word) (len : Nat) (l : List CaseRow) => l.length = len ∧
          ∀ (j : Nat) (e : CaseRow), l[j]? = some e → ∃ by_, u.readCase (u.who s.cur) (base + BitVec.ofNat 64 (16 * j)) = .ok by_ ∧
            e = caseRow (base + BitVec.ofNat 64 (16 * j)) by_
        let First := fun (l : List (BitVec 16)) (m : CaseRow) => ∃ j : Nat, ms[j]? = some m ∧ m.methodMatches op l = true ∧
          ∀ (i : Nat) (q : CaseRow), i < j → ms[i]? = some q → q.methodMatches op l = false
        let Cand := fun (i j : Nat) (c m : CaseRow) => ∃ tag, tags[i]? = some tag ∧ cs[j]? = some c ∧ c.convMatches tag = true ∧
          First (tags.set i c.f1) m
        let cost := fun e : CaseRow => e.head.toNat / 2 ^ 58
        u.readCase (u.who s.cur) tc = .ok h0 → u.readCase (u.who s.cur) (tc + 16) = .ok h1 →
        Rows (word64At hd 0) (fieldAt hd 8 4) ms → Rows (word64At hd 16) (fieldAt hd 12 4) cs →
        (∀ m, First tags m → x = .ok (some ⟨m, none⟩)) ∧
        ((∀ m, ¬ First tags m) → (∀ i j c m, ¬ Cand i j c m) → x = .ok none) ∧
        ((∀ m, ¬ First tags m) → (∃ i j c m, Cand i j c m) → ∃ i j c m, Cand i j c m ∧ x = .ok (some ⟨m, some (i, c)⟩) ∧
          ∀ i' j' c' m', Cand i' j' c' m' → cost c + cost m < cost c' + cost m' ∨ (cost c + cost m = cost c' + cost m' ∧
            (i < i' ∨ (i = i' ∧ (c.f1 < c'.f1 ∨ (c.f1 = c'.f1 ∧ j ≤ j'))))))
    (s.thr s.cur).lanes.isSome = true →
    (∀ c v, u.operandTags (u.who s.cur) (s.thr s.cur).htbase false operands = .error (.trap c v) → TrapsRead s (.tcall a n) c v) ∧
    (u.operandTags (u.who s.cur) (s.thr s.cur).htbase false operands = .ok tags →
      let found := u.selectCase (u.who s.cur) tc op tags false
      Best found ∧
      (tc = 0 ∨ found = .ok none → TrapsRead s (.tcall a n) 0x0D key) ∧
      (∀ m, tc ≠ 0 → found = .ok (some ⟨m, none⟩) →
        m.methodMatches op tags = true ∧
        ∃ t, exec (.tcall a n) s = .next t ∧ Retires w t m.routine 0 ∧
          ∀ q : XReg, (t.arch s.cur).getX q = if q = 13 then m.addr else if q = 1 then s.pc + 4 else s.x q) ∧
      (∀ m i c, tc ≠ 0 → found = .ok (some ⟨m, some (i, c)⟩) →
        (∃ tag, tags[i]? = some tag ∧ c.convMatches tag = true ∧ m.methodMatches op (tags.set i c.f1) = true) ∧
        ∃ t, exec (.tcall a n) s = .next t ∧ Retires w (t.setArch s.cur { t.arch s.cur with cf := r.cf }) c.routine 0 ∧
          (t.arch s.cur).cf = !r.cf ∧
          ∀ q : XReg, (t.arch s.cur).getX q = if q = 13 then m.addr else if q = 1 then s.pc + 4 else if q = 14 then frame
            else if q = 15 then m.routine else if q = 16 then BitVec.ofNat 64 i else s.x q))

/-- R350 to R353 and R357: the four layer instructions. Marked as the model's: ldetach's layer number, of 4 bits of TVAL, and which agent reads the
descriptors, the triples and the records at their homes are log entry 37 (DEDUCED); what the engines wrote for the thread is performed first by log
entry 64. -/
def Obligations.LayerInstructionsRewriteTheHandleRecord : Prop :=
  ∀ (s : State) (sc : Scope) (v : VReg) (d a b : XReg) (keys : List Nat),
    let th := s.thr s.cur
    let x := s.x b
    let h := (s.x a).toNat % 4096
    let place := th.htbase + BitVec.ofNat 64 (h * 128)
    let first := fun align : Nat => [need ((s.x a).toNat / 4096 = 2 ^ 51) 0x0F (faultWord 0 h 0), need (th.htbase ≠ 0) 0x0F (faultWord 1 h 0),
      need (x.toNat % align = 0) 0x03 x]
    th.lanes.isSome = true →
    FirstTrap s (.lmk sc a b) (first 32) ∧ FirstTrap s (.lattach sc d a b) (first 64) ∧ FirstTrap s (.ldetach sc d a b) (first 1) ∧
    FirstTrap s (.lfold sc v a b) (first 32) ∧
    let blocked := (s.closed s.cur).drainWaits s.cur .sys (StoreEntry.ownKind s.cur true true)
    let room := (s.hrt (hartOf s.cur)).transfers.length < 8
    let waits : Outcome := .next (s.fenceOpen s.cur)
    (blocked = true →
      (AllPass (first 32) → exec (.lmk sc a b) s = waits ∧ (room → exec (.lfold sc v a b) s = waits)) ∧
      (AllPass (first 64) → exec (.lattach sc d a b) s = waits) ∧ (AllPass (first 1) → exec (.ldetach sc d a b) s = waits)) ∧
    (¬ room → AllPass (first 32) → exec (.lfold sc v a b) s = .next s) ∧
    (blocked = false →
      let u := s.layerReady s.cur
      let me := u.who s.cur
      let adder := { me with window := false }
      let own := { me with window := false, checkU := false }
      let record := u.readHome own place 128
      let r := handleOf (record.toOption.getD [])
      let recorded := fun (making : Bool) => [passing record, passing (u.locateStruct own .store place 128),
        need (r.malformed = false) 0x0F (faultWord 3 h 0)] ++ if making then [] else [need (r.state = 1) 0x0F (faultWord 1 h 0)]
      let shape := fun at_ : Word => shapeOf ((u.readStruct me at_ 32).toOption.getD [])
      let made := first 32 ++ recorded true ++ [passing (u.readStruct me x 32), need ((shape x).amendable = true) 0x0F (faultWord 6 h 0),
        need (r.state ≠ 1) 0x0F (faultWord 2 h 0)]
      let freed := first 32 ++ recorded false ++ [need (r.n = 0 ∧ r.busy = false) 0x0F (faultWord 2 h 0)]
      let data := match u.layerAt adder x with | some (.sparse t p) => [(p, 16 * t)] | _ => []
      let attached := first 64 ++ recorded false ++ [passing (u.readStruct me r.base 32)] ++
        u.descriptorOrders adder (shape r.base) h [(x, r.n)] ++
        (data.flatMap fun p => [passing (u.readHome adder p.1 p.2),
          need (triplesOk (shape r.base) (triplesOf (p.2 / 16) ((u.readHome adder p.1 p.2).toOption.getD [])) = true) 0x0F
            (faultWord 5 h r.n)]) ++ [need (r.n ≠ 8) 0x0E (s.x a)]
      let detached := first 1 ++ recorded false ++ [need (x.toNat < r.n) 0x0F (faultWord 7 h (x.toNat % 16)),
        need (r.busy = false ∨ r.k ≤ x.toNat) 0x0F (faultWord 9 h 0)]
      let base := shape r.base
      let count := if base.count = 0 then .ok base.rows else u.readWord me base.count 4
      let rows := count.toOption.getD 0
      let size := rows * base.cols * 4096
      let target := shape x
      let folded := first 32 ++ recorded false ++ [need (s.pennantBusy s.cur [v.toNat] = false) 0x14 8,
        need (r.busy = false) 0x0F (faultWord 9 h 0), passing (u.readStruct me x 32), passing (u.readStruct me r.base 32), passing count,
        need (target.count = 0 ∧ target.rows = rows ∧ target.cols = base.cols ∧
          (target.tag = 0 ∨ tagFormat target.tag = tagFormat base.tag) ∧ target.base.toNat % 4096 = 0 ∧
          (base.base.toNat + size ≤ target.base.toNat ∨ target.base.toNat + size ≤ base.base.toNat ∨ size = 0)) 0x0F (faultWord 10 h 0)]
      let Becomes := fun (i : Instr) (reads : List (Word × Nat)) (r' : Handle) (more : State → Prop) =>
        let w := ((u.noteStruct own place 128).noteReads me reads).drainAhead s.cur keys
        u.locateStruct own .store place 128 = .ok keys → keys.Nodup → w.Plain keys →
        ∃ t, exec i s = .next t ∧ handleOf (keys.map t.homeByte) = r' ∧ (∀ k, k ∉ keys → t.homeByte k = w.homeByte k) ∧
          (∀ k ∈ keys, isTagged k = true → t.tagAt (frameOf k) = w.tagAt (frameOf k) &&& 0x001F) ∧
          (∀ k, (∀ q ∈ keys, frameOf q ≠ frameOf k) → t.tagAt k = w.tagAt k) ∧ t.stores = w.stores ∧ t.elided = w.elided ∧
          t.arch s.cur = { th.arch.advance (s.pc + 4) with x := (t.arch s.cur).x, v := (t.arch s.cur).v, prog := (t.arch s.cur).prog } ∧
          t.thr s.cur = Thread.opened { u.thr s.cur with
            arch := t.arch s.cur, instret := th.instret + 1, change := (t.thr s.cur).change, ahead := [] } ∧
          (∀ q, q ≠ s.cur → t.thr q = { s.thr q with change := (t.thr q).change }) ∧ more t
      let Plain := fun t : State => (t.arch s.cur).x = th.arch.x ∧ (t.arch s.cur).v = th.arch.v ∧ (t.arch s.cur).prog = th.arch.prog ∧
      t.harts = u.harts
      let Sets := fun (g : Word) (t : State) => (∀ q : XReg, (t.arch s.cur).getX q = if q = 0 then 0 else if q = d then g else s.x q) ∧
        (t.arch s.cur).v = th.arch.v ∧ (t.arch s.cur).prog = th.arch.prog ∧ t.harts = u.harts
      (x ≠ 0 → FirstTrap s (.lmk sc a b) made ∧
        (AllPass made → Becomes (.lmk sc a b) [(x, 32)] ⟨1, 0, false, 0, x, 0, 0, List.replicate 8 0, false⟩ Plain)) ∧
      (x = 0 → FirstTrap s (.lmk sc a b) freed ∧
        (AllPass freed → Becomes (.lmk sc a b) [] ⟨0, 0, false, 0, 0, 0, 0, List.replicate 8 0, false⟩ Plain)) ∧
      FirstTrap s (.lattach sc d a b) attached ∧
      (AllPass attached → Becomes (.lattach sc d a b) ((r.base, 32) :: (x, 64) :: data)
        { r with layers := r.layers.set r.n x, n := r.n + 1, gen := r.gen + 1 } (Sets (r.gen + 1))) ∧
      FirstTrap s (.ldetach sc d a b) detached ∧
      (AllPass detached → Becomes (.ldetach sc d a b) []
        { r with layers := r.layers.eraseIdx x.toNat ++ [0], n := r.n - 1, gen := r.gen + 1 } (Sets (r.gen + 1))) ∧
      (room → FirstTrap s (.lfold sc v a b) folded ∧
        (AllPass folded → Becomes (.lfold sc v a b) ((x, 32) :: (r.base, 32) :: if base.count = 0 then [] else [(base.count, 4)])
          { r with busy := true, k := r.n, target := x } fun t =>
            (t.arch s.cur).x = th.arch.x ∧ SameVregs s t [v.toNat] ∧
            (t.arch s.cur).vreg v.toNat = BitVec.ofNat 131072 (((s.arch s.cur).vreg v.toNat).toNat / 2 * 2) ∧
            (∀ q : Fin 32, (t.arch s.cur).prog[q.val] = if q.val = v.toNat then 4 else th.arch.prog[q.val]) ∧
            (∀ q, q ≠ hartOf s.cur → t.hrt q = u.hrt q) ∧
            ∃ tr, t.hrt (hartOf s.cur) = { u.hrt (hartOf s.cur) with transfers := (s.hrt (hartOf s.cur)).transfers ++ [tr] } ∧
              tr = { kind := .fold, tid := s.cur, site := th.arch.site, scope := sc, vp := v, mode := th.arch.mode, pgroot := th.pgroot, htbase := th.htbase
                     rcd := s.x a, dst := x, src := r.base, len := 0, counter := 0, shift := 0, op := r.n, fmt := 0
                     count := rows * base.cols, done := [] })))

/-- R157 to R163: the matrix unit. The operands accepted are log entry 33, mrd beyond its group is log entry 54. -/
def Obligations.MatrixInstructionsComplete : Prop :=
  ∀ (s : State) (d a : XReg) (v b : VReg),
    let r := s.arch s.cur
    let mg := r.acc.length
    let mr := r.ml.toNat % 2 ^ 16
    let mc := r.ml.toNat / 2 ^ 16 % 2 ^ 16
    let mf := r.ml.toNat / 2 ^ 32 % 16
    let cell := fun (q : Arch) (i j : Nat) => ((q.acc[i]?).getD 0).toNat / 2 ^ (32 * j) % 2 ^ 32
    let Cells := fun (c : State) (i : Instr) (rowOf : Nat → Bool) (fl : BitVec 5) (f : Nat → Nat → Nat) =>
      let w := c.reserve s.cur (((List.range mr).filter rowOf).map fun i => (32, i))
      ∃ t, exec i s = .next t ∧ Retires w (t.setArch s.cur { t.arch s.cur with acc := r.acc }) (s.pc + 4) fl ∧
        (t.arch s.cur).x = r.x ∧ (t.arch s.cur).acc.length = mg ∧
        ∀ i j, i < mg → j < 256 → cell (t.arch s.cur) i j = if rowOf i ∧ i < mr ∧ j < mc then f i j else cell r i j
    let ok := 1 ≤ mr ∧ mr ≤ mg ∧ 1 ≤ mc ∧ mc ≤ 256
    let term := fun (fmt : Fmt) (x : VReg) (j : Nat) => unpack fmt (s.el x.toNat fmt.width j)
    let code := fun (x : VReg) (base j : Nat) => codeValue (s.el x.toNat 4 j) (s.el 31 8 (base + j / 32))
    let opa := fun (k : Nat) (left right : Nat → FVal) (i j : Nat) =>
      exactSum .fp32 (unpack .fp32 (cell r i j) :: (List.range k).map fun e => mulX (left (i * k + e)) (right (j * k + e)))
    let flags := fun (g : Nat → Nat → Nat × BitVec 5) => orFlags ((List.range mr).flatMap fun i => (List.range mc).map fun j => (g i j).2)
    let free := 256 - (((List.range 32).filter fun k => s.cur.val / 32 * 32 + k ≠ s.cur.val).map fun k =>
      ((s.threads.toList[s.cur.val / 32 * 32 + k]?).elim 0 fun th => th.arch.acc.length)).sum
    let g := min (min (((s.x a).toNat + 15) / 16 * 16) 256) free
    let Bad := fun (i : Instr) (n : Nat) => Traps s i 0x10 (BitVec.ofNat 64 n)
    let m := (s.x a).toNat
    let fits := 1 ≤ m % 2 ^ 16 ∧ m % 2 ^ 16 ≤ mg ∧ 1 ≤ m / 2 ^ 16 % 2 ^ 16 ∧ m / 2 ^ 16 % 2 ^ 16 ≤ 256
    (s.thr s.cur).lanes.isSome = true →
    (∃ t, exec (.mattach d a) s = .next t ∧ t = { s.closed s.cur with threads := t.threads } ∧ (t.arch s.cur).acc = List.replicate g 0 ∧
    (t.arch s.cur).ml.toNat % 2 ^ 32 = (if g = 0 then 0 else
        g + 256 * 2 ^ 16) ∧ (t.arch s.cur).ml.toNat / 2 ^ 32 = r.ml.toNat / 2 ^ 32 ∧
      (∀ q : XReg, (t.arch s.cur).getX q = if q = 0 then 0 else if q = d then BitVec.ofNat 64 g else s.x q) ∧
      t.arch s.cur = { r.advance (s.pc + 4) with x := (t.arch s.cur).x, acc := (t.arch s.cur).acc, ml := (t.arch s.cur).ml } ∧
      t.thr s.cur = Thread.opened { (s.closed s.cur).thr s.cur with arch := t.arch s.cur, instret := (s.thr s.cur).instret + 1 } ∧
      ∀ q, q ≠ s.cur → t.thr q = s.thr q) ∧
    ((mg = 0 → Bad (.mmode a) 0) ∧ (mg ≠ 0 → 2 ^ 36 ≤ m → Bad (.mmode a) 4) ∧ (mg ≠ 0 → m < 2 ^ 36 → 5 < m / 2 ^ 32 → Bad (.mmode a) 2) ∧
      (mg ≠ 0 → m < 2 ^ 36 → m / 2 ^ 32 ≤ 5 →
        (¬ fits → Bad (.mmode a) 1) ∧
        (fits → ∃ t, exec (.mmode a) s = .next t ∧ Retires s (t.setArch s.cur { t.arch s.cur with ml := r.ml }) (s.pc + 4) 0 ∧
          (t.arch s.cur).x = r.x ∧ (t.arch s.cur).ml = s.x a))) ∧
    (mg = 0 → Bad .mzero 0 ∧ (v ≠ 31 → b ≠ 31 → Bad (.mopa v b) 0 ∧ Bad (.mopab v b) 0 ∧ Bad (.mwr a b) 0)) ∧
    (mg ≠ 0 → mf = 5 → v ≠ 31 → b ≠ 31 → Bad (.mopa v b) 2) ∧ (mg ≠ 0 → mf ≠ 5 → v ≠ 31 → b ≠ 31 → Bad (.mopab v b) 2) ∧
    (mg ≠ 0 → mf ≤ 5 → ¬ ok → Bad .mzero 1) ∧ (mg ≠ 0 → mf ≤ 5 → ok → mr ≤ (s.x a).toNat → b ≠ 31 → Bad (.mwr a b) 3) ∧
    (ok → mf ≤ 5 →
      Cells s .mzero (fun _ => true) 0 (fun _ _ => 0) ∧
      (b ≠ 31 → (s.x a).toNat < mr → Cells s (.mwr a b) (fun i => i = (s.x a).toNat) 0 fun _ j => s.el b.toNat 32 j) ∧
      (∀ k fmt, (mf, k, fmt) ∈ [(0, 1, Fmt.fp32), (1, 1, .bf16), (2, 1, .fp16), (3, 2, .e4m3), (4, 2, .e5m2)] → v ≠ 31 → b ≠ 31 →
        Cells (s.countShared s.cur [v.toNat, b.toNat]) (.mopa v b) (fun _ => true) (flags (opa k (term fmt v) (term fmt b))) fun i j => (opa k (term fmt v) (term fmt b) i j).1) ∧
      (mf = 5 → v ≠ 31 → b ≠ 31 →
        Cells (s.countShared s.cur [v.toNat, b.toNat, 31]) (.mopab v b) (fun _ => true) (flags (opa 4 (code v 0) (code b 32))) fun i j => (opa 4 (code v 0) (code b 32) i j).1) ∧
      (0 < s.rows s.cur → (s.x a).toNat < mr → v.toNat % multOf r.vtype = 0 → v.toNat + multOf r.vtype ≤ 31 → s.Writable (groupRegs s v) →
        let w := s.reserve s.cur (touchedGroups (s.rows s.cur) v.toNat 32 mc (multOf r.vtype) (tailZero r.vtype))
        ∃ t, exec (.mrd v a) s = .next t ∧ Retires w (t.setArch s.cur { t.arch s.cur with v := r.v, prog := r.prog }) (s.pc + 4) 0 ∧
          (∀ q : Fin 32, (t.arch s.cur).prog[q.val] = if q.val ∈ groupRegs s v then 4 else r.prog[q.val]) ∧ (t.arch s.cur).x = r.x ∧
          SameVregs s t (groupRegs s v ++ regsFrom v.toNat ((mc + 64 * s.rows s.cur - 1) / (64 * s.rows s.cur))) ∧
          (ewOf r.vtype ≤ 4 → GroupHolds s t v.toNat 32 mc fun j => some (cell r (s.x a).toNat j)) ∧
          ∀ j, j < mc → v.toNat + j / (64 * s.rows s.cur) < 32 → t.el v.toNat 32 j = cell r (s.x a).toNat j))

/-- R238 to R241: cpy and coll. What passes on at acceptance is log entry 38, the wait of a ninth log entry 57. -/
def Obligations.EngineInstructionsHandOverTheirTransfer : Prop :=
  ∀ (s : State) (sc : Scope) (v : VReg) (a : XReg) (i : Instr) (coll : Bool) (b : List Byte) (keys : List Nat),
    (i, coll) ∈ [(Instr.cpy sc v a, false), (.coll sc v a, true)] →
    let r := s.arch s.cur
    let dst := word64At b 0
    let src := word64At b 8
    let len := fieldAt b 16 8
    let counter := word64At b 24
    let shift := fieldAt b 32 1
    let op := fieldAt b 33 1
    let fmt := fieldAt b 34 1
    let chunks := (len + 2 ^ shift - 1) / 2 ^ shift
    let elem := if fmt = 7 ∨ fmt = 8 then 2 else if fmt = 3 ∨ fmt = 9 then 4 else 8
    let bad : List (Prop × Nat) := [
      (fieldAt b 35 13 ≠ 0 ∨ (if coll then 2 < op ∨ fmt ∉ [3, 4, 7, 8, 9, 10] else op ≠ 0 ∨ fmt ≠ 0), 1),
      (len = 0 ∨ 2 ^ 40 < len, 2), (shift < 12 ∨ 21 < shift, 3), (64 * s.rows s.cur < chunks, 4),
      (2 ^ 56 ≤ dst.toNat ∨ 2 ^ 56 ≤ src.toNat ∨ 2 ^ 56 ≤ counter.toNat ∨ counter.toNat % 8 ≠ 0, 5),
      (coll = true ∧ (dst.toNat % elem ≠ 0 ∨ src.toNat % elem ≠ 0 ∨ len % elem ≠ 0), 6),
      (dst.toNat < src.toNat + len ∧ src.toNat < dst.toNat + len, 7), (s.pennantBusy s.cur [v.toNat] = true, 8)]
    (s.thr s.cur).lanes.isSome = true →
    FirstTrap s i [need ((s.x a).toNat % 64 = 0) 0x03 (s.x a), passing (s.locateStruct (s.who s.cur) .store (s.x a) 64),
      passing (s.readStruct (s.who s.cur) (s.x a) 64)] ∧
    ((s.x a).toNat % 64 = 0 → s.locateStruct (s.who s.cur) .store (s.x a) 64 = .ok keys → s.readStruct (s.who s.cur) (s.x a) 64 = .ok b →
    (∀ (k : Nat) (p : Prop) (n : Nat), bad[k]? = some (p, n) → p → (∀ (j : Nat) q, j < k → bad[j]? = some q → ¬ q.1) →
      TrapsRead s i 0x14 (BitVec.ofNat 64 n)) ∧
    ((∀ q ∈ bad, ¬ q.1) →
      (8 ≤ (s.hrt (hartOf s.cur)).transfers.length → exec i s = .next s) ∧
      ((s.hrt (hartOf s.cur)).transfers.length < 8 →
        let c := (s.ownReads (s.who s.cur) [(s.x a, 64)]).closed s.cur
        let w := c.drainOwn s.cur .quad true true
        (c.drainWaits s.cur .quad (StoreEntry.ownKind s.cur true true) = true → exec i s = .next (s.fenceOpen s.cur)) ∧
        (c.drainWaits s.cur .quad (StoreEntry.ownKind s.cur true true) = false →
        ∃ t tr, exec i s = .next t ∧ t = { w with threads := t.threads, harts := t.harts } ∧
          t.hrt (hartOf s.cur) = { s.hrt (hartOf s.cur) with transfers := (s.hrt (hartOf s.cur)).transfers ++ [tr] } ∧
          (∀ h, h ≠ hartOf s.cur → t.hrt h = s.hrt h) ∧
          tr = { kind := if coll then .coll else .cpy, tid := s.cur, site := r.site, scope := sc, vp := v, mode := r.mode
                 pgroot := (s.thr s.cur).pgroot
                 htbase := (s.thr s.cur).htbase, rcd := s.x a, dst := dst, src := src, len := len, counter := counter, shift := shift
                 op := op, fmt := fmt, count := chunks, done := [] } ∧
          t.arch s.cur = { r.advance (s.pc + 4) with v := (t.arch s.cur).v, prog := (t.arch s.cur).prog } ∧ SameVregs s t [v.toNat] ∧
          (∀ q : Fin 32, (t.arch s.cur).prog[q.val] = if q.val = v.toNat then 4 else r.prog[q.val]) ∧
          (t.arch s.cur).vreg v.toNat = BitVec.ofNat 131072 ((r.vreg v.toNat).toNat / 2 ^ chunks * 2 ^ chunks) ∧
          t.thr s.cur = Thread.opened { c.thr s.cur with
            arch := t.arch s.cur, instret := (s.thr s.cur).instret + 1, change := (t.thr s.cur).change } ∧
          (∀ e ∈ t.stores, e.tid = s.cur → e.engine = false → 3 ≤ e.point.rank) ∧
          ∀ u, u ≠ s.cur → t.thr u = { s.thr u with change := (t.thr u).change }))))
/-- R218, R220, R257, R288, R323, R333, R334, R379, R385, R407: events of the memory path. The order of moves is log entry 28 and the model's
reading, as are log entries 41, 47 and 48. -/
def Obligations.StoresMoveOnAndCheckpointsTakeEffect : Prop :=
  (∀ (s : State) (n : Nat) (e : StoreEntry), s.stores[n]? = some e →
    let Free := fun home : Bool => (home = true → s.entryStalls e = false) ∧
      ∀ (m : Nat) (f : StoreEntry), s.stores[m]? = some f → m ≠ n → f.visibleTo e.tid = true →
        f.point = e.point ∧ m < n ∨ home = true ∧ e.point.rank < f.point.rank → Apart f e
    let Performed := fun t : State =>
      t = { s with
        stores := s.stores.eraseIdx n, mem := t.mem, tags := t.tags, bad := t.bad, covers := t.covers, threads := t.threads, dead := t.dead
        known := t.known, debugLog := t.debugLog } ∧ (s.watches = [] → t.debugLog = s.debugLog) ∧
      (∀ u, t.thr u = { s.thr u with change := (s.thr u).change || (e.keys.any fun k => k / 64 * 64 == (s.thr u).watchLine) ||
        (s.dead.any fun r => !t.dead.contains r && ((livenessBase + r / 8) / 64 * 64 == (s.thr u).watchLine ||
          decide (r * 2 ^ 21 ≤ (s.thr u).watchLine ∧ (s.thr u).watchLine < (r + 1) * 2 ^ 21 ∧ (s.thr u).watchLine % 64 = 0))) }) ∧
      (∀ b ∈ e.bytes, t.homeByte b.key = (s.homeByte b.key &&& ~~~b.mask) ||| (b.val &&& b.mask)) ∧
      (∀ k, k ∉ e.keys → (∀ r ∈ s.dead, r ∉ t.dead → k ≠ livenessBase + r / 8) → t.homeByte k = s.homeByte k) ∧
      (∀ r, r ∈ t.dead ↔ r ∈ s.dead ∧ (∀ k ∈ e.keys, isHbm k = true → regionOf k ≠ r) ∧ ∀ f ∈ e.frames, isTagged f = true → regionOf f ≠ r) ∧
      (∀ r ∈ s.dead, r ∉ t.dead → (t.homeByte (livenessBase + r / 8)).getLsbD (r % 8) = true) ∧
      (∀ p ∈ e.tags, isTagged p.1 = true → s.isRetired p.1 = false → t.tagAt p.1 = applyTag (s.tagAt p.1) p.2) ∧
      (∀ f, f ∉ e.frames → s.isRetired f = false → t.tagAt f = s.tagAt f) ∧ (∀ u ∈ t.bad, u ∈ s.bad) ∧
      (s.bad = [] ∨ e.whole = 0 → ∀ c : CtxId, t.known[c.val] =
        if s.known[c.val] = 1 ∧ (∃ k ∈ e.keys, k / 256 = c.val) ∧ t.descState c ≠ 1 then t.descState c else s.known[c.val]) ∧
      let Whole := fun u => ∀ j, j < unitLen u → ∃ b ∈ e.bytes, b.key = u + j ∧ b.mask = 0xFF
      let Fresh := fun u => ∃ r ∈ s.dead, r ∉ t.dead ∧ (r * 2 ^ 21 ≤ u ∧ u < (r + 1) * 2 ^ 21 ∨ tagKey (r * 2 ^ 21) ≤ u ∧
      u < tagKey (r * 2 ^ 21) + 1024)
      (∀ u ∈ s.bad, Whole u ∨ Fresh u → u ∉ t.bad) ∧ (e.whole = 0 → ∀ u ∈ s.bad, u ∉ t.bad → Whole u ∨ Fresh u)
    let Ready := e.keys.Nodup ∧ e.frames.Nodup ∧ s.Canonical ∧ s.dead.contains 0 = false ∧ (∀ k ∈ e.keys ++ e.frames, s.keyDown k = false) ∧
      ∀ k ∈ e.keys, (k < livenessBase ∨ routingWord + 8 ≤ k) ∧ reservedByte k = false
    let next := e.point.rank + 1
    let home := ∀ k ∈ e.keys ++ e.frames, homeRank (hartOf e.tid) k ≤ next
    let Waits := ∃ (m : Nat) (f : StoreEntry), s.stores[m]? = some f ∧ m ≠ n ∧
      (e.chain ≠ 0 ∧ f.chain = e.chain ∧ 2 ≤ f.point.rank ∧ (f.point ≠ .queue ∨ m < n) ∨
        f.tid = e.tid ∧ f.point = .queue ∧ m < n ∧ ¬ Apart f e)
    (e.point.rank < 2 → exec (.storePerformed n) s = .next s ∧ exec (.storePassesVisibilityPoint n) s = .next s) ∧
    (e.point = .queue → exec (.storePerformed n) s = .next s ∧
      (Waits → exec (.storePassesVisibilityPoint n) s = .next s) ∧
      (¬ Waits → exec (.storePassesVisibilityPoint n) s = .next { s with stores := s.stores.eraseIdx n ++ [{ e with point := .hart }] })) ∧
    (2 ≤ e.point.rank → e.point ≠ .queue →
      (Free true → Ready → ∃ t, exec (.storePerformed n) s = .next t ∧ Performed t) ∧
      (next ≤ 5 → home → Free true → Ready → ∃ t, exec (.storePassesVisibilityPoint n) s = .next t ∧ Performed t) ∧
      (next ≤ 5 → ¬ home → Free false → ∃ p : Point, p.rank = next ∧
        exec (.storePassesVisibilityPoint n) s = .next { s with stores := s.stores.eraseIdx n ++ [{ e with point := p }] }))) ∧
  (∀ (s : State) (t : Tid), ((s.thr t).due = none → exec (.checkpointTakesEffect t) s = .next s) ∧
    ∀ c, (s.thr t).due = some c → ∃ u, exec (.checkpointTakesEffect t) s = .next u ∧
      u = { s with threads := u.threads, stores := u.stores } ∧ (∀ v, v ≠ t → u.thr v = s.thr v) ∧ Releases s u t (· == .closing) ∧
      u.thr t = { s.thr t with ckpt := some c, due := none, restarts := 0, closingFrom := none, closingHistory := [] }) ∧
  (∀ (s : State) (t : Tid) (c : Word), ((s.thr t).heldFrom = some c ∨ (s.thr t).closingFrom = some c) → c.toNat + 4000 ≤ (s.cycleOf t).toNat →
    (s.thr t).debugStop = none → (s.arch t).atBoundary = true → (s.thr t).lanes.isSome = true →
    let a := match (s.arch t).convoy with
      | none => s.arch t
      | some q => { s.arch t with pc := q.addr, convoy := if q.resume = noProgress then none else some ⟨q.addr, 0, q.resume, false⟩ }
    ∃ u, exec (.heldStoreCheckpoint t) s = .next u ∧
      u = { s with threads := u.threads, stores := u.stores } ∧ (∀ v, v ≠ t → u.thr v = s.thr v) ∧ u.holdsStore t = false ∧
      Releases s u t (fun p => p == .held || p == .closing) ∧
      u.thr t = { s.thr t with
        ckpt := some ⟨.implicit, a, a⟩, due := none, history := [], closingHistory := [], heldFrom := none, closingFrom := none, restarts := 0 }) ∧
  (∀ (s : State) (v : Word) (idx : Nat) (b : Byte), s.Canonical → s.dead.contains 0 = false →
    ((∀ k ∈ keysFrom routingWord 8, s.keyDown k = false) → ∃ u, exec (.routingTableAddressWrite v) s = .next u ∧ u.homeWord routingWord = v ∧
    u.routes = [] ∧ OnlyChangeBits s u ∧
      u.stores = s.stores ∧ ∀ k, k < routingWord ∨ routingWord + 8 ≤ k → u.homeByte k = s.homeByte k) ∧
    (idx < 49152 → s.keyDown (livenessBase + idx) = false → ∃ u, exec (.livenessTableWrite idx b) s = .next u ∧ OnlyChangeBits s u ∧
    u.routes = s.routes ∧ u.stores = s.stores ∧
      (∀ k, Memory.read u.mem k = if k = livenessBase + idx then b else Memory.read s.mem k) ∧
      ∀ r, r ∈ u.dead ↔ if r / 8 = idx then b.getLsbD (r % 8) = false ∧ alwaysLive r = false else r ∈ s.dead)) ∧
  (∀ (s : State) (dev : BitVec 18) (line : BitVec 40), ∃ u, exec (.remoteWriteReport dev line) s = .next u ∧ u = { s with threads := u.threads } ∧
    ∀ t, u.thr t = { s.thr t with change := (s.thr t).change || (s.thr t).watchLine == lineOf (remoteKey dev.toNat line.toNat) }) ∧
  (∀ (s : State) (c : CtxId),
    let key := descriptorOf c + 96
    let w := s.homeWord key
    let f := (s.dropCached c false).finishStores c
    (w.toNat / 2 ^ 32 = w.toNat % 2 ^ 32 ∨ s.descLost c = true → exec (.shootdown c) s = .next s) ∧
    ((∃ e ∈ s.stores, e.ctx = c ∧ s.entryStalls e = true) → exec (.shootdown c) s = .next s) ∧
    (w.toNat / 2 ^ 32 ≠ w.toNat % 2 ^ 32 → s.descLost c = false → (∀ e ∈ s.stores, e.ctx = c → s.entryStalls e = false) →
      ∃ u, exec (.shootdown c) s = .next u ∧
        (∀ h, (u.hrt h).tlb = (s.hrt h).tlb.filter (fun e => e.ctx != c) ∧ (u.hrt h).tcase = (s.hrt h).tcase) ∧
        (∀ x, (u.fld x).ptrs = (s.fld x).ptrs.filter fun e => e.ctx != c) ∧ u.stores = f.stores ∧ (∀ e ∈ u.stores, e.ctx ≠ c) ∧
        OnlyChangeBits f u ∧ HomeIs f u (keysFrom key 4) (bytesOf (w.toNat / 2 ^ 32) 4))) ∧
  (∀ (s : State) (c : CtxId),
    let old := s.known[c.val]
    let new := s.descState c
    (s.boot.started = false ∨ old = new → exec (.descriptorResident c) s = .next s) ∧
    (s.boot.started = true → old ≠ new → ∃ u, exec (.descriptorResident c) s = .next u ∧
      u = { s with known := s.known.set c.val new, harts := u.harts, fields := u.fields } ∧
      (old ≠ 0 → u.harts = s.harts ∧ u.fields = s.fields) ∧
      (old = 0 → ∀ h x, (u.hrt h).tlb = (s.hrt h).tlb.filter (fun e => e.ctx != c) ∧
        (u.hrt h).tcase = (s.hrt h).tcase.filter (fun e => e.ctx != c) ∧ (u.fld x).ptrs = (s.fld x).ptrs.filter (fun e => e.ctx != c) ∧
        (u.hrt h).lastCtx = if (s.hrt h).lastCtx = .of c then .former else (s.hrt h).lastCtx)))

/-- R252, R289, R303, R308, R309, R312 to R319, R365, R367: events of threads. What a thread without a lane group returns to is log entry 53, the
debugger's part log entry 51. -/
def Obligations.ThreadsWakeYieldAndTakeAsynchronousTraps : Prop :=
  (∀ (s : State) (t : Tid),
    let th := s.thr t
    let awake := th.status = .running ∨ th.status = .wfe ∨ th.status = .bwait
    let First := fun (c : BitVec 8) (l r : List (BitVec 8 × Word)) => if c = 0x16 then ∀ p ∈ l, p.1 ≠ 0x16 else l = [] ∧ ∀ p ∈ r, p.1 ≠ 0x16
    th.debugStop = none →
    (th.status = .wfe → th.pending = [] →
      (th.change = true ∨ th.ystat.getLsbD 0 = true → exec (.wfeWake t) s = .next (s.setThr t { th with
        status := .running, change := false, arch := th.arch.advance (th.arch.pc + 4), instret := th.instret + 1 })) ∧
      (th.change = false → th.ystat.getLsbD 0 = false → exec (.wfeWake t) s = .next s)) ∧
    (∀ sc d a b w, th.status = .bwait → s.fetch t = .ok w → decode w = .ok (.bwait sc d a b) →
      (∀ u, State.bwaitRead { s with cur := t } t (th.arch.getX a) ((th.arch.getX b).extractLsb' 0 16) = .ok (u, none) → exec (.bwaitWake t) s = .next s) ∧
      (∀ u v, State.bwaitRead { s with cur := t } t (th.arch.getX a) ((th.arch.getX b).extractLsb' 0 16) = .ok (u, some v) → ∃ q, exec (.bwaitWake t) s = .next q ∧
        exec (.bwait sc d a b) { s with cur := t } = .next { q with cur := t } ∧ q.cur = s.cur ∧ (q.thr t).status = .running ∧
        (q.arch t).pc = (th.arch.advance (th.arch.pc + 4)).pc ∧ (q.arch t).getX d = (if d = 0 then 0 else v))) ∧
    (∀ (c : BitVec 8) (v : Word) (l r : List (BitVec 8 × Word)) (keys : List Nat), awake → th.arch.atBoundary = true → th.pending = l ++ (c, v) :: r →
      First c l r →
      let s' := s.setThr t { th with pending := l ++ r }
      s'.CanEnter t keys → ∃ u, exec (.trapEntry t) s = .next u ∧ Entered s' u t keys c v th.arch.pc (s.stripState t th.arch.pc) true ∧
        (u.thr t).tstatus.getLsbD 8 = true) ∧
    (awake → (th.preemptDue = true ∨ th.ystat.getLsbD 0 = true ∧ th.ydead ≠ 0 ∧ th.ydead ≤ s.cycleOf t) →
      (th.arch.mode = .supervisor → th.preemptDue = false → ∃ u, exec (.forcedPreemption t) s = .next u ∧
        u = { s with threads := u.threads, harts := u.harts } ∧ u.thr t = { th with preemptDue := true } ∧ (∀ v, v ≠ t → u.thr v = s.thr v) ∧
        (th.lanes.isSome = true → ∀ n g, (u.hrt (hartOf t)).reclaim ≠ .asked n g) ∧
        ((∀ n g, (s.hrt (hartOf t)).reclaim ≠ .asked n g) → u.harts = s.harts)) ∧
      (th.arch.mode = .user → s.trapWaits t = true → exec (.forcedPreemption t) s = .next s) ∧
      (th.arch.mode = .user → s.trapWaits t = false →
        let s' := s.preemptPoint t
        let pc := (s'.arch t).pc
        let strip := if th.status ≠ .wfe ∧ th.lanes.isSome = true ∧ th.ckpt.map Ckpt.kind = some .explicit then 0 else s'.stripState t pc
        (th.lanes.isSome = true → ∀ n g, (s'.hrt (hartOf t)).reclaim ≠ .asked n g) ∧ (∀ v, v ≠ t → s'.thr v = s.thr v) ∧
        s' = { s with threads := s'.threads, harts := s'.harts, stores := s'.stores } ∧
        (th.status = .wfe → th.lanes.isSome = true → s'.arch t = th.arch ∧ Releases s s' t fun p => p == .held || p == .closing) ∧
        (∀ c, th.status ≠ .wfe → th.ckpt = some c → ReturnsTo s s' t c.pre) ∧
        (th.ckpt = none → th.lanes = none → s'.thr t = th ∧ s'.stores = s.stores) ∧
        (∀ keys, th.pending = [] →
          let q := s'.setThr t { s'.thr t with ystat := (th.ystat &&& 8) ||| 4, ydead := 0, preemptDue := false }
          q.CanEnter t keys → ∃ u, exec (.forcedPreemption t) s = .next u ∧ Entered q u t keys 0x17 0 pc strip true) ∧
        (∀ c v l r keys, th.pending = l ++ (c, v) :: r → First c l r →
          let q := s'.setThr t { s'.thr t with preemptDue := true, pending := l ++ r }
          q.CanEnter t keys → ∃ u, exec (.forcedPreemption t) s = .next u ∧ Entered q u t keys c v pc strip true))) ∧
    (let hit := (List.range (max 1 (s.breakMembers t th.arch 4 th.arch.pc))).find? fun k =>
       s.breaks.contains (th.ctx, th.arch.pc + BitVec.ofNat 64 (4 * k))
     let inside := ¬ (th.arch.atBoundary = true ∨ th.debugAsk = .instruction ∧ th.arch.memberBegun = false)
     (awake → th.debugPass = .fresh → exec (.debuggerStop t) s =
       .next (s.setThr t { th with debugAsk := if th.debugAsk = .instruction then .instruction else .boundary })) ∧
     (awake → th.debugPass ≠ .fresh → inside → exec (.debuggerStop t) s = .next (s.setThr t { th with debugAsk := .boundary })) ∧
     (awake → th.debugPass ≠ .fresh → ¬ inside → ∃ u, exec (.debuggerStop t) s = .next u ∧
       u = { s with threads := u.threads, debugLog := s.debugLog ++ [.stopped t th.arch.pc (hit.getD 0)] } ∧
       u.thr t = { th with debugStop := some (s.cycleOf t), debugAsk := .no, debugPass := .no } ∧ u.threadTurn t = none ∧
       ∀ v, v ≠ t → u.thr v = if th.launch.isSome ∧ (s.thr v).launch = th.launch ∧ (s.thr v).alive ∧ (s.thr v).debugAsk = .no then
         { s.thr v with debugAsk := .launch } else s.thr v) ∧
     (th.status = .running → th.preemptDue = false → th.ystat.getLsbD 0 = false → th.pending = [] → th.heldFrom = none → th.closingFrom = none →
       th.arch.convoy = none →
       (th.debugPass = .no ∧ (hit.isSome = true ∨ th.debugAsk ≠ .no) ∨ th.debugPass = .asleep ∧ th.debugAsk = .launch →
         s.threadTurn t = some (.debuggerStop t)) ∧
       (th.debugPass = .fresh ∨ th.debugPass = .asleep ∧ th.debugAsk ≠ .launch ∨ th.debugAsk = .no ∧ hit = none →
         s.threadTurn t = some (s.nextInstr t))))) ∧
  (∀ (s : State) (t : Tid) (c : Word), (s.thr t).debugStop = some c → s.threadTurn t = none ∧
    let th := s.thr t
    let mine := fun v => v = t ∨ th.launch.isSome = true ∧ (s.thr v).launch = th.launch
    let Goes := fun (u : State) (v : Tid) (ask : DebugAsk) (from_ : Word) =>
      let d := s.cycleOf v - from_
      u.thr v = { s.thr v with
        debugStop := none, debugAsk := ask, debugPass := if (s.thr v).status = .running then .fresh else .asleep
        heldFrom := (s.thr v).heldFrom.map (· + d), closingFrom := (s.thr v).closingFrom.map (· + d)
        ydead := if (s.thr v).ydead = 0 then 0
          else (s.thr v).ydead + if (s.thr v).deadFrom - from_ ≤ d then s.cycleOf v - (s.thr v).deadFrom else d }
    (∀ how ask, (how, ask) ∈ [(DebugRun.step, DebugAsk.boundary), (.stepi, .instruction)] → ∃ u, exec (.debuggerResume ⟨t, how⟩) s = .next u ∧
      u = { s with threads := u.threads } ∧ Goes u t ask c ∧ ∀ v, v ≠ t → u.thr v = s.thr v) ∧
    ((∀ p ∈ s.absent, ∀ m, p.met = some m → ¬ mine m) → ∃ u, exec (.debuggerResume ⟨t, .cont⟩) s = .next u ∧ u = { s with threads := u.threads } ∧
      Goes u t .no c ∧
      ∀ v, v ≠ t →
        (mine v → (∀ f, (s.thr v).debugStop = some f → Goes u v .no f) ∧
          ((s.thr v).debugStop = none → u.thr v = { s.thr v with debugAsk := .no })) ∧
        (¬ mine v → u.thr v = s.thr v)) ∧
    ∀ p m, s.absent = [p] → p.met = some m → mine m → ∃ u, exec (.debuggerResume ⟨t, .cont⟩) s = .next u ∧ (u.thr t).debugStop = none ∧
      HomeIs s u (keysFrom p.home 8) (bytesOf p.leaf.toNat 8) ∧ u.absent = [] ∧ m ∈ u.awaitEret) ∧
  (∀ (s : State) (x : Candidate) (v : Running),
    let kernel := s.kernelThreads v.hart v.upper
    let Asks := fun u : State =>
      let reclaims := recReclaim v.launch.image = true ∧ (s.hrt v.hart).groups = 1 ∧ (s.hrt v.hart).reclaim = .none
      let claim : Option (Nat × Bool) := match x with
        | .record l => if recHelpers l.image = 0 then some (l.id, false) else none
        | .saved _ y => if s.halfSuits y v.hart true then some (y.launch, true) else none
      (∀ p, claim = some p → reclaims →
        (u.hrt v.hart).reclaim = .asked p.1 p.2 ∧ AskedToYield s u (tidOf v.hart 0) ∧ (∀ t, t ≠ tidOf v.hart 0 → u.thr t = s.thr t) ∧
        ∀ h, h ≠ v.hart → u.hrt h = s.hrt h) ∧
      (claim = none ∨ ¬ reclaims → u.harts = s.harts ∧
        ∀ t, if t ∈ kernel ∧ (s.thr t).status ≠ .off ∧ (s.thr t).status ≠ .fused then AskedToYield s u t else u.thr t = s.thr t)
    s.nextVictim x = some v →
    (∀ h, s.freeHart h = false) ∧ s.runningOn v.hart v.upper = some v ∧ s.requested v.hart = false ∧
    v.launch.queue.val + 2 ≤ s.effective x ∧
    (∀ h upper r, s.requested h = false → s.runningOn h upper = some r →
      v.launch.queue ≤ r.launch.queue ∧ (r.launch.queue = v.launch.queue → v.since ≤ r.since)) ∧
    (∀ c q, s.headOf c q = some x → ∃ u, exec (.victimPreemption c q) s = .next u ∧ Asks u) ∧
    (∀ t, s.candidates.find? (fun y => (s.nextVictim y).any fun r => (s.kernelThreads r.hart r.upper).contains t) = some x →
      ∃ u, exec (.yieldRequest t) s = .next u ∧ Asks u))

/-- R241 to R245, R353, R355: events of transfers and folds. The model's readings: the stores that an engine sees, and that the completion add first
moves the engine's own writes on (assumption 38); which fault of several a chunk answers, and the tag of a partial frame (57); the triples that a
fold reads (37); reads of dead regions counted by line (34). A chunk's places are `State.chunkPlaces`, an amended frame `State.foldFrame`. -/
def Obligations.EnginesAndThePressFinishTheirWork : Prop :=
  ∀ (s : State) (h : HartId) (slot k : Nat) (tr : Transfer), (s.hrt h).transfers[slot]? = some tr →
    let others := (s.hrt h).transfers.eraseIdx slot
    let Done := fun u : State => (u.hrt h).transfers = (s.hrt h).transfers.set slot { tr with done := k :: tr.done }
    let Pennant := fun (a a' : Arch) (bit : Nat) => (∀ r, r < 32 → r ≠ tr.vp.toNat → a'.vreg r = a.vreg r) ∧
      ∀ j, j < 131072 → (a'.vreg tr.vp.toNat).getLsbD j = (decide (j = bit) || (a.vreg tr.vp.toNat).getLsbD j)
    let Raised := fun (u : State) (bit : Nat) => Pennant (s.arch tr.tid) (u.arch tr.tid) bit ∧
      (∀ c c', (s.thr tr.tid).ckpt = some c → (u.thr tr.tid).ckpt = some c' → Pennant c.pre c'.pre bit ∧ Pennant c.post c'.post bit) ∧
      u.arch tr.tid = { s.arch tr.tid with v := (u.arch tr.tid).v } ∧
      (∀ v, v ≠ tr.tid → u.thr v = { s.thr v with change := (u.thr v).change })
    let Shown := fun (p u : State) (va v : Word) => ∀ keys, keys.Nodup → p.locateStruct (tr.who p) .store va 8 = .ok keys →
      ∀ (j a : Nat), keys[j]? = some a → reservedByte a = false → u.engineByte tr.tid a = v.extractLsb' (8 * j) 8
    let Pends := fun (u : State) (v : Word) => (u.thr tr.tid).pending = (s.thr tr.tid).pending ++ [(0x15, v)] ∧ (u.hrt h).transfers = others
    let at_ := fun (f : Nat → Byte) (l : List Nat) => (l.map fun a => (f a).toNat).foldr (fun b n => n * 256 + b) 0
    (tr.kind ≠ .fold → k < tr.count → k ∉ tr.done →
      (∀ src dst, s.chunkPlaces tr k = .ok (src, dst) →
        (tr.kind = .cpy → ∃ (u : State) (x : Nat → Byte) (tags : List (Nat × TagWrite)) (whole : Nat),
          let d := (s.noteRead (tr.who s).maker (src.map fun a => (none, a))).drain tr.tid .quad (fun _ => false) (dst.filter fun a => !isLocal a)
          exec (.engineChunkDone h slot k) s = .next u ∧ Done u ∧ Raised u k ∧
          u.stores = d.stores ++ (((src.zip dst).zipIdx).filter fun p => !d.keyDown p.1.2).map (fun p =>
            ⟨tr.tid, (s.thr tr.tid).ctx, .quad, true, true, [⟨p.1.2, x p.2, 0xFF⟩], tags.filter fun q => q.1 == frameOf p.1.2, 0, whole, tr.origin⟩) ∧
          (∀ (j a b : Nat), src[j]? = some a → dst[j]? = some b →
            x j = s.engineByte tr.tid a ∨ (s.sharesSource tr b = true ∧ x j = s.engineByte tr.tid b)) ∧
          (tr.src.toNat % 4096 = 0 → tr.dst.toNat % 4096 = 0 → ∀ (i a b : Nat), i < tr.chunkLen k / 4096 →
            src[i * 4096]? = some a → dst[i * 4096]? = some b → isTagged b = true → (b, .set (s.engineTag tr.tid (frameOf a))) ∈ tags) ∧
          ((tr.src.toNat % 4096 ≠ 0 ∨ tr.dst.toNat % 4096 ≠ 0) → ∀ f w, (f, w) ∈ tags ↔ w = .raw ∧ ∃ b ∈ dst, isTagged b = true ∧ f = frameOf b)) ∧
        (∀ n, tr.kind = .coll → collBytes tr.fmt = some n → dst.Nodup → src.length = dst.length →
          (∀ a ∈ src, a ∉ dst) → (∀ b ∈ dst, s.sharesSource tr b = false) →
          (∀ e ∈ s.stores, (∀ a ∈ dst, a ∉ e.keys ∧ frameOf a ∉ e.frames)) → s.Plain dst →
          let comb := fun x y : Nat =>
            match tileFmt tr.fmt with
            | some f => if tr.op = 0 then rne f (addX (unpack f x) (unpack f y)) else fminmax f (tr.op == 2) x y
            | none =>
              let less := fun p q : Nat => (BitVec.ofNat (8 * n) p).toInt < (BitVec.ofNat (8 * n) q).toInt
              (if tr.op = 0 then (x + y) % 2 ^ (8 * n)
               else if tr.op = 1 then (if less y x then y else x) else (if less x y then y else x), 0)
          let op := fun i => comb (at_ s.homeByte ((dst.drop (i * n)).take n)) (at_ (s.engineByte tr.tid) ((src.drop (i * n)).take n))
          ∃ u, exec (.engineChunkDone h slot k) s = .next u ∧ Done u ∧ Raised u k ∧ u.stores = s.stores ∧
            (∀ i j a, i < dst.length / n → j < n → dst[i * n + j]? = some a → u.homeByte a = BitVec.ofNat 8 ((op i).1 / 2 ^ (8 * j))) ∧
            (∀ a, a ∉ dst → u.homeByte a = s.homeByte a) ∧
            (u.thr tr.tid).fflags = (s.thr tr.tid).fflags ||| orFlags ((List.range (dst.length / n)).map fun i => (op i).2))) ∧
      (∀ c v, s.chunkPlaces tr k = .error (c, v) → ∃ u, exec (.engineFault h slot k) s = .next u ∧ Pends u tr.rcd ∧
        let s0 := if c = 0x16 then s.noteFound (tr.who s) v else s
        let st := BitVec.ofNat 64 (2 + c.toNat * 256)
        ∀ s1 s2, s0.engineWrite tr (tr.rcd + 56) v = some s1 → s1.engineWrite tr (tr.rcd + 48) st = some s2 →
          Shown s0 s1 (tr.rcd + 56) v ∧ Shown s1 u (tr.rcd + 48) st ∧ u.stores = s2.stores ∧ u.mem = s2.mem)) ∧
    (tr.kind ≠ .fold → tr.count ≤ tr.done.length →
      (s.engineRecord tr 1 0 = none → ∃ u, exec (.transferComplete h slot) s = .next u ∧ Pends u tr.rcd) ∧
      ∀ s0 s1, s.engineWrite tr (tr.rcd + 56) 0 = some s0 → s0.engineWrite tr (tr.rcd + 48) 1 = some s1 →
        Shown s s0 (tr.rcd + 56) 0 ∧ Shown s0 s1 (tr.rcd + 48) 1 ∧
        (tr.counter = 0 → ∃ u, exec (.transferComplete h slot) s = .next u ∧ (u.hrt h).transfers = others ∧ (∀ v, u.thr v = s1.thr v) ∧
          u.stores = s1.stores ∧ u.mem = s1.mem) ∧
        (tr.counter ≠ 0 → ∀ loc, s1.translate (tr.who s1) .atomic false tr.counter = .ok loc → loc.lost = false → loc.device = false →
          s1.hasBad tr.tid loc.key 8 = false →
          let d := (s1.drain tr.tid tr.scope (fun e => e.tid == tr.tid && e.engine) []).drainAhead tr.tid (keysFrom loc.key 8)
          d.Plain (keysFrom loc.key 8) → ∃ u, exec (.transferComplete h slot) s = .next u ∧ (u.hrt h).transfers = others ∧
            u.homeWord loc.key = d.homeWord loc.key + 1 ∧ (∀ a, a ∉ keysFrom loc.key 8 → u.homeByte a = d.homeByte a) ∧
            OnlyChangeBits s u)) ∧
    (tr.kind = .fold → k < tr.count → k ∉ tr.done → ∀ keys bytes tag fl, s.foldFrame tr k = .ok (keys, bytes, tag, fl) →
      ∃ u, exec (.pressFrameWrite h slot k) s = .next u ∧ Done u ∧ HomeIs ((s.notePress tr (s.foldReads tr k)).drainAhead tr.tid keys) u keys bytes ∧
        (keys.Nodup → ((s.notePress tr (s.foldReads tr k)).drainAhead tr.tid keys).Plain keys → ∀ a ∈ keys, isTagged a = true → Sparse.get 0 u.tags (frameOf a) = tag) ∧
        u.thr tr.tid = { s.thr tr.tid with fflags := (s.thr tr.tid).fflags ||| fl, change := (u.thr tr.tid).change } ∧
        ∀ v, v ≠ tr.tid → u.thr v = { s.thr v with change := (u.thr v).change }) ∧
    (tr.kind = .fold → tr.count ≤ tr.done.length → ∀ r keys, s.foldPlace tr = .ok (r, keys) →
      ∃ u s0, exec (.pressSwap h slot) s = .next u ∧ (u.hrt h).transfers = others ∧ Raised u 0 ∧
        s0 = ((s.notePress tr []).raisePennant tr 0).drainAhead tr.tid keys ∧
        HomeIs s0 u keys (Handle.bytes { r with
          base := r.target, layers := r.layers.drop r.k ++ List.replicate (min r.k 8) 0, n := r.n - r.k, k := 0, target := 0
          busy := false, gen := r.gen + 1 })) ∧
    (tr.kind = .fold → ∀ c v, s.foldFault tr k = some (c, v) → ∃ u, exec (.foldAbandon h slot k) s = .next u ∧
      (let sub := if c = 0x0F then v.toNat % 256 else 0
       Pends u (BitVec.ofNat 64 (tr.rcd.toNat % 4096 + c.toNat * 2 ^ 12 + sub * 2 ^ 20 +
         (if sub = 4 ∨ sub = 5 then v.toNat / 2 ^ 20 % 16 else 0) * 2 ^ 28 + 2 ^ 63))) ∧
      let s0 := if c = 0x16 then s.noteFound (tr.press s) v else s
      ∀ keys, s0.locateStruct (tr.press s).onRecords .store (handleAddr tr.htbase (tr.rcd.toNat % 4096)) 128 = .ok keys →
        let w := word64At (keys.map s0.homeByte) 0
        HomeIs (s0.drainAhead tr.tid keys) u keys
          (bytesOf (w &&& ~~~0xF1_0000#64).toNat 8 ++ ((keys.map s0.homeByte).drop 8).take 16 ++ List.replicate 8 0 ++ (keys.map s0.homeByte).drop 32))

/-- R374 to R392, R402 to R405: events of errors, temperature and power. The model's readings: the bad unit of a failed hop, and fenced fields whose harts
stop (log entry 39); remap, down and narrowing (40); power and temperatures as inputs (24, 25, 45); places of records as free values (23); lost
accesses that show at the thread's next load, atomic or fetch that goes there (52); an error-ring slot that cannot be read (69). -/
def Obligations.ErrorsRestartReportAndProtect : Prop :=
  let StatusUp := fun s : State => ∀ k ∈ keysFrom (managementBase + 0x28) 8, s.keyDown k = false
  (∀ (s : State) (t : Tid) (c : Option (Fin 64)) (k : Ckpt), (s.thr t).ckpt = some k → s.restartable t c = true →
    let struck := if c.isSome then [4] else []
    let failed := fun u : State => (u.hrt (hartOf t)).failed = (s.hrt (hartOf t)).failed ++ c.toList
    ((s.thr t).restarts < 2 → ∃ u, exec (.stripRestart t c) s = .next u ∧ ReturnsTo s u t k.post ∧ (u.thr t).status = .running ∧
      (u.thr t).restarts = (s.thr t).restarts + 1 ∧ (∀ v, v ≠ t → u.thr v = s.thr v) ∧ failed u ∧ Reported s u (struck ++ [13]) ∧ u.mem = s.mem) ∧
    (2 ≤ (s.thr t).restarts → s.trapWaits t = false → ∀ keys, ((s.rowMayFail t c).rollback t false).CanEnter t keys →
      ∃ u, exec (.uncorrectableErrorAsync t (.third c)) s = .next u ∧ (u.thr t).tcause = 0x16 ∧ (u.thr t).tval = 0x8000_0000_0000_0001 ∧
        (u.thr t).tepc = k.pre.pc &&& ~~~3#64 ∧ (u.arch t).mode = .supervisor ∧ (u.arch t).pc = (s.thr t).tvec ∧
        (u.thr t).tstatus.getLsbD 8 = true ∧ (∀ r, r ≠ 2 → (u.arch t).getX r = k.pre.getX r) ∧ failed u ∧ u.holdsStore t = false) ∧
    (c = none → s.trapWaits t = false → ∀ keys, (({ s.dropHeld t with threads := s.threads.set t.val { s.thr t with due := none } } : State).scramble t false).CanEnter t keys →
      ∃ u, exec (.uncorrectableErrorAsync t .lost) s = .next u ∧ (u.thr t).tcause = 0x16 ∧ (u.thr t).tval = 0x8000_0000_0000_0002 ∧
        (u.thr t).tepc = k.pre.pc &&& ~~~3#64 ∧ (u.arch t).mode = .supervisor ∧ (u.arch t).pc = (s.thr t).tvec ∧
        (u.thr t).tstatus.toNat / 8 % 4 = 3 ∧ (u.thr t).tstatus.getLsbD 8 = true ∧ u.holdsStore t = false)) ∧
  (∀ (s : State) (h : HartId) (c : Fin 64), s.enabledHart h = true → s.rowLeft h c = true →
    (∀ t l, hartOf t = h → (s.thr t).status ≠ .off → (s.thr t).lanes = some l → ¬ (l.first ≤ c.val / 4 ∧ c.val / 4 < l.first + l.count)) →
    exec (.rowSelfTest h c true) s = .next s ∧ ∃ u, exec (.rowSelfTest h c false) s = .next u ∧
      u = { s with harts := u.harts, reports := u.reports } ∧ (∀ x, x ≠ h → u.hrt x = s.hrt x) ∧
      u.hrt h = { s.hrt h with failed := (s.hrt h).failed ++ [c] } ∧ Reported s u [4]) ∧
  (∀ (s : State) (hop : Nat) (x : Carried),
    (∀ n, 1 ≤ n → n ≤ 4 → ∃ u, exec (.flitParityResend hop n x) s = .next u ∧ u = { s with reports := u.reports } ∧
      Reported s u (List.replicate n 12)) ∧
    let far := if hop < 3 then hop + 1 else if hop < 6 then hop + 2 else 8
    (s.Canonical → s.dead.contains 0 = false → StatusUp s → (∀ t, x = .result t → s.laneTrapWaits t none = false) →
      ∃ u, exec (.flitParityResend hop 5 x) s = .next u ∧
      (∀ k, x = .data k → Reported s u (List.replicate 5 12 ++ if isHbm k then [3] else []) ∧
        (isHbm k = true → unitOf k ∈ u.bad ∧ (Sparse.get 0 u.tags (frameOf k)).getLsbD 4 = true) ∧ (isLocal k = true → unitOf k ∈ u.bad)) ∧
      (∀ t g, x = .access t g → Reported s u (List.replicate 5 12) ∧
        ((s.thr t).alive = true → (fieldOf (hartOf t)).val < far → u.thr t = { s.thr t with lost := some ⟨.hop, g⟩ })) ∧
      (∀ t k, x = .result t → (s.thr t).ckpt = some k → s.restartable t none = true → (s.thr t).restarts < 2 → s.trapWaits t = false →
        (fieldOf (hartOf t)).val < far → (u.thr t).restarts = (s.thr t).restarts + 1 ∧ u.arch t = k.post ∧
        Reported s u (List.replicate 5 12 ++ [13])) ∧
      (6 ≤ hop → u.fields = s.fields) ∧
      (hop < 6 → ∀ f : FieldId, (u.fld f).fenced = (decide (far ≤ f.val) || (s.fld f).fenced) ∧
        (far ≤ f.val → ∀ t, fieldOf (hartOf t) = f → (u.thr t).status = .off ∧ (u.thr t).lanes = none)))) ∧
  (∀ (s : State) (p : Fin 21) (w : List (Tid × Bool)),
    let x := s.ports[p.val]
    let Only := fun (u : State) (y : Port) (l : List Nat) =>
      u = { s with ports := s.ports.set p.val y, reports := u.reports } ∧ Reported s u l
    let Fails := fun (u : State) (y : Port) (w : List (Tid × Bool)) => u.ports = s.ports.set p.val { y with down := true } ∧
      (p.val < 19 → u = { s with ports := u.ports, reports := u.reports, threads := u.threads } ∧ Reported s u [9] ∧
        (∀ t, (s.thr t).alive = false ∨ (∀ g, (t, g) ∉ w) → u.thr t = s.thr t) ∧
        ∀ t g, (s.thr t).alive = true → (t, g) ∈ w → (t, !g) ∉ w → u.thr t = { s.thr t with lost := some ⟨.port p, g⟩ }) ∧
      (19 ≤ p.val → StatusUp s → (∀ f : FieldId, (u.fld f).fenced = (decide (4 ≤ f.val) || (s.fld f).fenced)) ∧
        Reported s u (List.replicate (1 + (s.stores.filter fun e => e.released && e.crosses).length) 9) ∧
        (∀ e ∈ u.stores, e ∈ s.stores ∧ ¬ (e.released = true ∧ e.crosses = true)) ∧
        ∀ e ∈ s.stores, e.released = true → e.crosses = false → e ∈ u.stores)
    x.down = false →
    (∃ u, exec (.linkCrcRetry p .ok) s = .next u ∧ Only u { x with retries := x.retries + 1 } []) ∧
    (0 < x.spares → ∃ u, exec (.linkCrcRetry p (.exhausted w)) s = .next u ∧ Only u { x with spares := x.spares - 1, remapped := true } [9]) ∧
    (x.spares = 0 → ∃ u, exec (.linkCrcRetry p (.exhausted w)) s = .next u ∧ Fails u x w) ∧
    (x.remapped = true → x.spares = 0 →
      (x.lanes ≤ 1 → ∃ u, exec (.linkCrcRetry p .laneLost) s = .next u ∧ Fails u { x with lanes := 0 } []) ∧
      (1 < x.lanes → ∃ u, exec (.linkCrcRetry p .laneLost) s = .next u ∧ Only u { x with lanes := x.lanes - 1 } [9] ∧
        ∀ n, 2 ^ n ≤ x.lanes - 1 → x.lanes - 1 < 2 ^ (n + 1) → (u.ports[p.val]).width = 2 ^ n))) ∧
  (∀ (s : State) (st : Fin 16) (ch : Fin 32), (st, ch) ∉ s.retired →
    (∃ u, exec (.commandAddressReplay st ch true) s = .next u ∧ u = { s with reports := u.reports } ∧ Reported s u [7]) ∧
    ∃ u, exec (.commandAddressReplay st ch false) s = .next u ∧
      u = { s with reports := u.reports, retired := s.retired ++ [(st, ch)] } ∧ Reported s u (List.replicate 8 7 ++ [8])) ∧
  (∀ (s : State) (st : Fin 16) (die : Fin 2) (c : Byte),
    let x := s.hbm[st.val]
    let d := decide (85 ≤ c.toNat) || x.doubled && decide (82 < c.toNat)
    let v := decide (95 ≤ c.toNat) || x.halved && decide (92 < c.toNat)
    let hot := decide (100 ≤ c.toNat) || s.dies[die.val].hot && decide (95 < c.toNat)
    (105 ≤ c.toNat → ∃ u, exec (.hbmTemperatureThreshold st c) s = .next u ∧ u.boot.stopped = true ∧ u.ports[18].down = true) ∧
    (115 ≤ c.toNat → ∃ u, exec (.dieTemperatureThreshold die c) s = .next u ∧ u.boot.stopped = true ∧ u.ports[18].down = true) ∧
    (c.toNat < 105 → ∃ u, exec (.hbmTemperatureThreshold st c) s = .next u ∧ u = { s with hbm := s.hbm.set st.val ⟨c, d, v⟩, reports := u.reports } ∧
      Reported s u ((if d = x.doubled then [] else [10]) ++ if v = x.halved then [] else [10])) ∧
    (c.toNat < 115 → ∃ u, exec (.dieTemperatureThreshold die c) s = .next u ∧
      u = { s with dies := s.dies.set die.val ⟨c, hot⟩, reports := u.reports, fields := u.fields } ∧
      Reported s u (if hot = s.dies[die.val].hot then [] else [10]) ∧ (hot = s.dies[die.val].hot → u.fields = s.fields) ∧
      (hot ≠ s.dies[die.val].hot → ∀ f : FieldId, if f.val / 4 = die.val then
          (u.fld f).limit.toNat = (if hot then (s.fld f).islim.toNat * 3 / 4 else (s.fld f).islim.toNat) ∧
          ((u.fld f).limit.toNat < (s.fld f).iscur.toNat → (u.fld f).throttled = true) ∧
          ((s.fld f).iscur.toNat * 100 ≤ (u.fld f).limit.toNat * 97 → (u.fld f).throttled = false)
        else u.fld f = s.fld f))) ∧
  (∀ (s : State) (f : FieldId) (w : BitVec 16), (s.fld f).up = true → (s.fld f).fenced = false → ∃ u, exec (.iscurUpdate f w) s = .next u ∧
    u = { s with fields := u.fields } ∧ (∀ g, g ≠ f → u.fld g = s.fld g) ∧
    let x := u.fld f
    x = { s.fld f with iscur := w, limit := x.limit, throttled := x.throttled } ∧
    x.limit.toNat = (if s.dies[f.val / 4]'(by omega) |>.hot then (s.fld f).islim.toNat * 3 / 4 else (s.fld f).islim.toNat) ∧
    x.throttled = if x.limit.toNat < w.toNat then true else if w.toNat * 100 ≤ x.limit.toNat * 97 then false else (s.fld f).throttled) ∧
  (∀ (s : State) (e : CorrectedError), e.kind ∈ [1, 2, 11] →
    (∀ h r t, e.row = some (h, r) → s.rowHolder h r = some t → s.laneTrapWaits t (some r) = false) →
    let old := (s.errCounts.find? fun x => x.kind == e.kind && x.field == e.field && x.loc == e.loc).getD ⟨e.kind, e.field, e.loc, 0, 0⟩
    let noted := if old.seen % 1024 = 0 then [e.kind.toNat] else []
    ∃ u, exec (.errorRingAppend (some e)) s = .next u ∧
      { old with seen := old.seen + 1, since := if old.seen % 1024 = 0 then 0 else old.since + 1 } ∈ u.errCounts ∧
      (e.row = none → u = { s with errCounts := u.errCounts, reports := u.reports } ∧ Reported s u noted) ∧
      ∀ h r, e.row = some (h, r) →
        let now := (s.fld (fieldOf h)).cycle
        let recent := (s.hrt h).slips.filter fun x => decide (now.toNat - x.2.toNat < 2 ^ 24)
        let many := 15 ≤ (recent.filter fun x => x.1 == r).length ∧ s.rowLeft h r = true
        (¬ many → u.hrt h = { s.hrt h with slips := recent ++ [(r, now)] } ∧ Reported s u noted ∧ ∀ v, u.thr v = s.thr v) ∧
        (many → r ∈ (u.hrt h).failed ∧ (u.hrt h).slips = recent.filter (fun x => x.1 != r) ∧
          (s.rowHolder h r = none → Reported s u (noted ++ [4]) ∧ ∀ v, u.thr v = s.thr v) ∧
          ∀ t k, s.rowHolder h r = some t → s.restartable t (some r) = true → (s.thr t).ckpt = some k → (s.thr t).restarts < 2 →
            (u.thr t).restarts = (s.thr t).restarts + 1 ∧ u.arch t = k.post ∧ Reported s u (noted ++ [4, 13]))) ∧
  (∀ (s : State) (r : Report) (rest : List Report), s.reports = r :: rest → 8 ≤ s.boot.step →
    let word := fun k => (s.homeWord (managementBase + k)).toNat
    let slots := word 0x10 % 2 ^ 32
    let tail := word 0x14 % 2 ^ 32
    let slot := word 0x08 + tail % slots * 32
    slots ≠ 0 → s.unreadable managementBase = false → (∀ k ∈ keysFrom slot 32 ++ keysFrom (managementBase + 0x14) 8, s.keyDown k = false) →
    (s.homeByte (slot + 8) ≠ 0 ∨ s.unreadable (slot + 8) = true → ∃ u, exec (.errorRingAppend none) s = .next u ∧ u.reports = rest ∧
      HomeIs s u (keysFrom (managementBase + 0x18) 4) (bytesOf ((word 0x18 + 1) % 2 ^ 32) 4)) ∧
    (s.homeByte (slot + 8) = 0 → s.unreadable (slot + 8) = false → ∃ u, exec (.errorRingAppend none) s = .next u ∧ u.reports = rest ∧
      HomeIs s u (keysFrom slot 32 ++ keysFrom (managementBase + 0x14) 4) (bytesOf r.cycle.toNat 8 ++ [r.kind, BitVec.ofNat 8 r.field.val] ++
        bytesOf r.loc.toNat 2 ++ bytesOf r.count.toNat 4 ++ bytesOf r.pa.toNat 8 ++ bytesOf r.ctx.toNat 2 ++ List.replicate 6 0 ++
        bytesOf ((tail + 1) % 2 ^ 32) 4)))

/-- R29, R293 to R302: the launch unit. Headers and choices are read through `State.queueHeader`, `State.firstCandidate` and `State.dependence`. The
model's readings: HART_FREED saves and restores a pre-empted hart (log entry 17), YDEAD and YSTAT are 0 at entry (32), and the launch unit's reads
of dead regions are counted by line (34). -/
def Obligations.LaunchUnitServesPlacesAndCounts : Prop :=
  (∀ (s : State) (c : CtxId) (q : Fin 8), s.serves c = true →
    let x := s.queue c q
    let va := s.homeWord (descriptorOf c + 32 + 8 * q.val)
    let who := s.launchWho c false
    (∃ u, exec (.queueHeaderRead c q) s = .next u ∧
      u = { s.setQueue c q { x with served := (u.queue c q).served } with
        elided := u.elided, errCounts := u.errCounts, reports := u.reports, debugLog := u.debugLog, tags := u.tags } ∧
      ((u.queue c q).served = true ↔ va ≠ 0 ∧ va.toNat % 64 = 0 ∧ ∃ b loc n, s.readHome (s.launchWho c false) va 64 = .ok b ∧
        fieldAt b 32 32 = 0 ∧ (word64At b 0).toNat % 4096 = 0 ∧ n ≤ 16 ∧ fieldAt b 8 8 = 2 ^ n ∧
        s.translate (s.launchWho c false) .load false (word64At b 0) = .ok loc ∧ isHbm loc.key = true)) ∧
    (∀ (hd : Header) (b : List Byte), x.served = true → x.stage = .idle → s.queueHeader c q = some hd →
      let rcd := hd.base + BitVec.ofNat 64 (hd.head.toNat % hd.slots * 64)
      s.readHome (s.launchWho c false) rcd 64 = .ok b →
      let r := imageOfBytes b
      let f := fun off len => fieldAt b off len
      let one := f 8 8 / 2 ^ 19 % 2 = 1 ∨ f 8 8 / 2 ^ 26 % 64 ≠ 0 ∨ (f 8 8 / 2 ^ 24 % 4 = 0 ∧ f 0 8 % 4 ≠ 0) ∨ f 24 8 % 16 ≠ 0 ∨ f 32 8 % 8 ≠ 0 ∨
        f 48 8 % 8 ≠ 0 ∨ f 8 8 / 2 ^ 16 % 8 ≠ q.val ∨ f 20 4 ≠ 0 ∨ (f 8 8 / 2 ^ 23 % 2 = 1 ∧ f 8 8 / 2 ^ 20 % 8 ≠ 0)
      let two := f 8 2 = 0 ∨ (allHarts.filter s.enabledHart).length < f 8 2
      let p := s.noteStruct who rcd 64
      (f 14 1 ≠ 1 → exec (.launchRecordTake c q) s = .next s) ∧
      (f 14 1 = 1 → (¬ one → ¬ two → exec (.launchRecordTake c q) s = .next (p.setQueue c q { x with stage := .taken rcd r })) ∧
        (∀ u code, (one ∧ code = 1 ∨ ¬ one ∧ two ∧ code = 2) → p.refuse c q rcd code = some u → exec (.launchRecordTake c q) s = .next u))) ∧
    (∀ id u, x.stage = .ready id → (∀ l, s.launchOf (some id) = some l → recCount l.image ≤ l.placed) → s.advanceHead c q = some u →
      exec (.launchRecordTake c q) s = .next u) ∧
    (∀ rcd r, x.stage = .taken rcd r →
      let w0 := s.launchWho c true
      let n := if recDepAddr r = 0 then s else (s.noteStruct w0 (recDepAddr r) 8).noteFault w0 (s.readHome w0 (recDepAddr r) 8)
      let p := n.noteLaunch c r
      (s.dependence c r = .waits → exec (.dependenceMet c q) s = .next s) ∧
      (∀ u, s.dependence c r = .unreadable → n.refuse c q rcd 4 = some u → exec (.dependenceMet c q) s = .next u) ∧
      (s.dependence c r = .met →
        (∀ u code, (∃ e, s.readMap c (recMap r) = .ok none ∧ s.launchEntry c r = .ok e ∧ code = 1) ∨
            (∃ v, s.readMap c (recMap r) = .ok (some v) ∧ s.launchEntry c r = .ok none ∧ code = 3) ∨
            (∃ k, (s.readMap c (recMap r) = .error k ∨ s.launchEntry c r = .error k) ∧ code = 4) → p.refuse c q rcd code = some u →
          exec (.dependenceMet c q) s = .next u) ∧
        (∀ v e m w, s.readMap c (recMap r) = .ok (some v) → s.launchEntry c r = .ok (some (e, m)) → p.setStatus c rcd 2 0 = some w →
          ∃ u, exec (.dependenceMet c q) s = .next u ∧ (u.queue c q).stage = .ready s.nextLaunch ∧ u.nextLaunch = s.nextLaunch + 1 ∧
            u.launches = s.launches ++ [⟨s.nextLaunch, c, q, rcd, r, e, m, v, 0, 0, s.launchClock, 0⟩] ∧ OnlyChangeBits s u ∧
            (s.boot.step ≠ 8 → u.mem = w.mem ∧ u.boot = s.boot))))) ∧
  (∀ (s u : State) (c : CtxId) (q : Fin 8) (rcd : Word) (code : Nat), s.refuse c q rcd code = some u →
    u.launches = s.launches ∧ OnlyChangeBits s u ∧ ∃ w, s.setStatus c rcd 4 code = some w ∧ w.advanceHead c q = some u) ∧
  (∀ (s u : State) (c : CtxId) (q : Fin 8), s.advanceHead c q = some u → (u.queue c q).stage = .idle ∧ u.launches = s.launches ∧
    OnlyChangeBits s u ∧ ∃ hd, s.queueHeader c q = some hd ∧
      ∀ keys, s.locateStruct (s.launchWho c false) .store (hd.addr + 24) 8 = .ok keys → HomeIs s u keys (bytesOf ((hd.head.toNat + 1) % 2 ^ 64) 8)) ∧
  (∀ (s w : State) (c : CtxId) (rcd : Word) (st code : Nat) (keys : List Nat), s.setStatus c rcd st code = some w → st < 256 → code < 256 →
    s.locateStruct (s.launchWho c false) .store (rcd + 8) 8 = .ok keys →
    HomeIs s w keys ((keys.take 6).map s.homeByte ++ [BitVec.ofNat 8 st, BitVec.ofNat 8 code])) ∧
  (∀ (s : State) (ok : HartId → Bool) (x : Candidate) (h : HartId), s.firstCandidate ok = some (x, h) → s.saved.length ≤ 512 →
    x ∈ s.candidates ∧ ok h = true ∧ (∀ l, x = .record l → s.freeHart h = true) ∧ (∀ n y, x = .saved n y → s.restorable y h = true) ∧
    ∀ y ∈ s.candidates, (s.hartFor y ok).isSome = true → s.effective y ≤ s.effective x) ∧
  (∀ (s : State) (l : Launch) (h : HartId) (i : Instr), s.launchOf (some l.id) = some l → l.placed < recCount l.image →
    (i = .hartPlacement l.ctx l.queue ∧ s.firstCandidate (fun _ => true) = some (.record l, h) ∨
      i = .hartFreed h ∧ s.preempted h false = false ∧ s.preempted h true = false ∧
        s.firstCandidate (fun x => x == h) = some (.record l, h)) →
    ∃ u, exec i s = .next u ∧
      let x := u.thr (tidOf h 0)
      x.status = .running ∧ x.ctx = l.ctx ∧ x.lanes = some ⟨0, 16⟩ ∧ x.launch = some l.id ∧ x.arch.pc = l.entry ∧ x.arch.mode = .user ∧
      (∀ r : XReg, x.arch.getX r = if r = 2 then localWindow + (if recReclaim l.image then 0x8000 else 0x1_0000) else if r = 10 then recArgs l.image
        else if r = 11 then BitVec.ofNat 64 l.placed else if r = 12 then BitVec.ofNat 64 (recCount l.image) else if r = 13 then l.method else 0) ∧
      x.pgroot = s.homeWord (descriptorOf l.ctx + 8) &&& rootBits ∧ x.htbase = s.homeWord (descriptorOf l.ctx + 16) &&& tableBits ∧
      x.tcbase = s.homeWord (descriptorOf l.ctx + 24) ∧ x.fflags = 0 ∧ x.arch.vl = 0 ∧ x.arch.acc = [] ∧ x.arch.loopDepth = 0 ∧
      x.farm = (if recFarm l.image = 0 then 0 else l.rcd + 16) ∧ x.ydead = 0 ∧ x.ystat = 0 ∧ (u.hrt h).groups = 1 ∧
      let p := ((s.noteServed (.record l)).startHart h l l.placed).notePlaced l.id
      (l.placed + 1 = recCount l.image → ((p.advanceHead l.ctx l.queue).isSome = true → (u.queue l.ctx l.queue).stage = .idle) ∧
        (p.advanceHead l.ctx l.queue = none → u.queue l.ctx l.queue = s.queue l.ctx l.queue))) ∧
  (∀ (s : State) (h : HartId) (n : Nat) (x : SavedHart), s.preempted h false = false → s.preempted h true = false →
    s.firstCandidate (fun y => y == h) = some (.saved n x, h) →
    ∃ u, exec (.hartFreed h) s = .next u ∧ u.saved = s.saved.eraseIdx n ∧ (s.freeHart h = true → (u.hrt h).groups = x.hart.groups) ∧
      ∀ (g : Fin 8), (x.threads[g.val]).status ≠ .off → (s.freeHart h = true ∨ g = 0) →
        let w := x.threads[g.val]
        let y := u.thr (tidOf h g)
        y.status = w.status ∧ y.arch.pc = w.arch.pc ∧
        (∀ r : XReg, y.arch.getX r = if r = 0 then 0 else if r = 2 then (s.thr (tidOf h g)).tscratch - 64 else w.arch.getX r) ∧ y.tepc = w.tepc ∧
        y.tstatus = w.tstatus ∧ y.ctx = w.ctx ∧
        y.arch.acc = w.arch.acc ∧ y.arch.nests = w.arch.nests ∧ y.tcause = w.tcause ∧ y.tval = w.tval ∧
        y.lanes = (if s.freeHart h then onWhole x w else onHalf false w).lanes ∧
        y.tvec = (s.thr (tidOf h g)).tvec ∧ y.instret = (s.thr (tidOf h g)).instret ∧
        (y.lanes.isSome = true → w.tstatus.toNat / 8 % 4 = 0 → y.arch.vl = 0)) ∧
  (∀ (s : State) (h : HartId) (upper : Bool), s.preempted h upper = true → (upper = true → s.preempted h false = false) →
    let t := tidOf h (if upper then 1 else 0)
    ∃ u x, exec (.hartFreed h) s = .next u ∧ u.saved = s.saved ++ [x] ∧ x.ctx = (s.thr t).ctx ∧
      (∀ v ∈ s.kernelThreads h upper, (u.thr v).status = .off) ∧ (u.thr t).tscratch = (s.arch t).getX 2 + 64 ∧
      (s.isReclaimed h = true → (x.threads[0]).arch = s.arch t ∧ (x.threads[0]).status = (s.thr t).status) ∧
      (s.isReclaimed h = false → (s.boot.started = true → s.enabledHart h = true → (s.hrt h).transfers = [] → u.freeHart h = true) ∧
        ∀ g : Fin 8, (x.threads[g.val]).arch = s.arch (tidOf h g) ∧ (x.threads[g.val]).status = (s.thr (tidOf h g)).status)) ∧
  (∀ (s : State) (c : CtxId) (q : Fin 8), ∃ u, exec (.priorityAging c q) s = .next u ∧
    u = { s with launches := u.launches, saved := u.saved } ∧ u.launches.length = s.launches.length ∧ u.saved.length = s.saved.length ∧
    (∀ (k : Nat) l, s.launches[k]? = some l → u.launches[k]? = some { l with aged := if l.ctx = c ∧ l.queue = q ∧ s.atHead l = true ∧
      q.val + l.aged < 7 ∧ 65536 * (l.aged + 1) ≤ s.launchClock.toNat - l.since.toNat then l.aged + 1 else l.aged }) ∧
    ∀ (k : Nat) x, s.saved[k]? = some x → ∀ l, s.launchOf (some x.launch) = some l → u.saved[k]? = some { x with aged :=
      if l.ctx = c ∧ l.queue = q ∧ q.val + x.aged < 7 ∧ 65536 * (x.aged + 1) ≤ s.launchClock.toNat - x.since.toNat then x.aged + 1 else x.aged }) ∧
  (∀ (s w : State) (n : Nat) (l : Launch), s.launchOf (some n) = some l → l.counted = recCount l.image →
    (s.queue l.ctx l.queue).stage ≠ .ready n → s.setStatus l.ctx l.rcd 3 0 = some w →
    exec (.launchDone n) s = .next { w with launches := s.launches.filter fun x => x.id != n })

/-- R336, R337, R388, R396 to R398, R404: bring-up, power and management commands. The model's choices: five spare vias a channel (log entry 36); a
site that failed must be enabled (42); an unknown code is refused by any command event, and bit 16 of the status word is set while a command is
served (43); what goes on after a failed step 8 (44). -/
def Obligations.BringUpAndManagementCommandsAct : Prop :=
  (∀ (s : State) (i : BringUpInput) (b : Boot), s.boot = b → b.powered = true → b.stopped = false → b.awaiting = false → b.failed ≠ 3 → b.started = false →
    (∀ k : Fin 6, i.crossing = some k →
      let far : FieldId := ⟨if k.val < 3 then k.val + 1 else k.val + 2, by split <;> omega⟩
      let near : FieldId := ⟨far.val - 1, by omega⟩
      if (b.step = 3 ∨ b.step = 5) ∧ i.pass = true ∧ (s.fld far).up = true ∧ (s.fld near).up = true then
        ∃ u, exec (.bringUp i) s = .next u ∧ u = { s with boot := { b with crossed := u.boot.crossed } } ∧ ∀ j, j ∈ u.boot.crossed ↔ j = k ∨
        j ∈ b.crossed
      else exec (.bringUp i) s = .next s) ∧
    (i.crossing = none →
    let At := fun (u : State) (step failed : Nat) => exec (.bringUp i) s = .next u ∧ u.boot.step = step ∧ u.boot.failed = failed
    let Same := fun u : State => u.fields = s.fields ∧ u.m0 = s.m0 ∧ u.m1 = s.m1 ∧ u.harts = s.harts ∧ OnlyChangeBits s u
    let Fenced := fun (u : State) (k : Nat) => ∀ f : FieldId, (u.fld f).fenced = (decide (k ≤ f.val) || (s.fld f).fenced)
    let good := i.image.keyDigest = Config.fusedKeyDigest ∧ Config.fusedVersion.toNat ≤ i.image.version.toNat ∧ i.image.signed = true
    let measured := fun m : Digest => Config.shake256 (bytesOf m.toNat 64 ++ bytesOf i.image.digest.toNat 64)
    let field := fun (n k last step : Nat) => k ≤ last → ∀ f : FieldId, f.val = k → (s.fld f).fenced = false →
      (i.pass = true → ∃ u, At u (if k = last then n else step) b.failed ∧ (u.fld f).up = true ∧ u.boot.position = (if k = last then 0 else k + 1) ∧
        ∀ g, g ≠ f → u.fld g = s.fld g) ∧
      (i.pass = false → ∃ u, At u (if k = last then n else step) n ∧ Fenced u k)
    (b.step = 0 → (i.pass = true → ∃ u, At u 1 b.failed ∧ (u.fld 0).up = true) ∧ (i.pass = false → ∃ u, At u 0 1 ∧ u.boot.awaiting = true ∧ Same u)) ∧
    (b.step = 1 → (good → ∃ u, At u 2 b.failed ∧ u.m0 = measured s.m0) ∧ (¬ good → ∃ u, At u 1 2 ∧ u.boot.awaiting = true ∧ Same u)) ∧
    (b.step = 2 → ∃ u, At u (if i.pass then 3 else 2) (if i.pass then b.failed else 3) ∧ Same u) ∧
    (b.step = 3 → field 4 (max 1 b.position) 3 3) ∧
    (b.step = 4 → (i.pass = true → ∃ u, At u 5 b.failed ∧ Same u) ∧ (i.pass = false → ∃ u, At u 5 5 ∧ Fenced u 4)) ∧
    (b.step = 5 → field 6 (max 4 b.position) 7 5) ∧
    (b.step = 6 → b.position < 6 → ∀ far : FieldId, far.val = (if b.position < 3 then b.position + 1 else b.position + 2) →
      let k : Fin 6 := ⟨b.position % 6, by omega⟩
      (i.pass = true ∨ k ∈ b.crossed ∨ (s.fld far).fenced = true → ∃ u, At u (if b.position = 5 then 7 else 6) b.failed ∧ Same u ∧
        (i.pass = true → (s.fld far).fenced = false → k ∈ u.boot.crossed)) ∧
      (i.pass = false → k ∉ b.crossed → (s.fld far).fenced = false → (b.retries < 8 → ∃ u, At u 6 b.failed ∧ u.boot.retries = b.retries + 1 ∧
      Same u) ∧
        (8 ≤ b.retries → ∃ u, At u (if b.position = 5 then 7 else 6) 7 ∧ Fenced u far.val))) ∧
    (b.step = 7 → good → ∃ u, At u 8 b.failed ∧ u.m1 = measured s.m1 ∧ u.m0 = s.m0 ∧ OnlyChangeBits s u) ∧
    (8 ≤ b.step → ∃ u, exec (.bringUp i) s = .next u ∧ u.boot.started = true ∧ ∀ h, s.enabledHart h = true → let x := u.thr (tidOf h 0)
      x.status = .running ∧ x.arch.mode = .supervisor ∧ x.arch.pc = i.entry &&& vectorBits ∧ x.lanes = some ⟨0, 16⟩ ∧ x.pgroot = 0 ∧
      x.tvec = i.trapVector &&& vectorBits ∧ ∀ r : XReg, x.arch.getX r = if r = 2 then i.stackTops[h.val * 8]?.getD 0 else
        if r = 10 then BitVec.ofNat 64 h.val else 0))) ∧
  (∀ (s : State) (g : SignedImage), s.boot.awaiting = true →
    let good := g.keyDigest = Config.fusedKeyDigest ∧ Config.fusedVersion.toNat ≤ g.version.toNat ∧ g.signed = true
    (s.boot.step = 0 → ∃ u, exec (.newFirmwareImage g) s = .next u ∧ u.boot = { s.boot with awaiting := false, failed := 0 } ∧ u.m0 = s.m0) ∧
    (s.boot.step ≠ 0 → good → ∃ u, exec (.newFirmwareImage g) s = .next u ∧ u.boot.step = 2 ∧ u.boot.awaiting = false ∧ u.boot.failed = 0 ∧
      u.m0 = Config.shake256 (bytesOf s.m0.toNat 64 ++ bytesOf g.digest.toNat 64)) ∧
    (s.boot.step ≠ 0 → ¬ good → exec (.newFirmwareImage g) s = .next s)) ∧
  (∀ s : State, ∃ u, exec .powerOff s = .next u ∧ u = { State.reset with
    boot := { State.reset.boot with powered := false }, hardRows := s.hardRows, linkOut := s.linkOut, debugLog := s.debugLog, schedule := s.schedule
    fresh := s.fresh
    nextLaunch := s.nextLaunch, mem := s.mem.filter fun p => decide (2 ^ 60 ≤ p.1), tags := s.tags.filter fun p => decide (2 ^ 60 ≤ p.1) }) ∧
  (∀ (s : State) (c : Command) (i : Instr) (o : RepairOutcome) (code : Nat), s.nextCommand = some c → (∀ k ∈ keysFrom (c.slot + 48) 8, s.keyDown k = false) →
    (i, code) ∈ [(Instr.spareQuadSite o, 1), (.postPackageRepair o, 2), (.spareVia o, 3), (.spareLinkLane o, 4), (.attestationReportCommand, 5), (.statusRead, 6)] →
    let a := fun k : Nat => (c.arg k).toNat
    let zero := fun from_ : Nat => ∀ k, from_ ≤ k → k < 5 → a k = 0
    let Answers := fun (p u : State) (st : Nat) => exec i s = .next u ∧ u.commands = s.commands + 1 ∧
      HomeIs p u (keysFrom (c.slot + 48) 8) (bytesOf st 8)
    let Refuses := fun n : Nat => ∃ u, Answers s u (2 + n * 256) ∧ OnlyChangeBits s u ∧ u.fields = s.fields ∧ u.ports = s.ports ∧
    u.softRows = s.softRows ∧
      u.hardRows = s.hardRows ∧ u.vias = s.vias ∧ u.reports = s.reports
    let Finds := fun rest : Prop => (o = .busy → Refuses 2) ∧ (o = .noSpare → Refuses 3) ∧ (o = .failed → Refuses 4) ∧ (o = .done → rest)
    let field : FieldId := ⟨a 0 % 8, Nat.mod_lt _ (by decide)⟩
    let row := a 0 < 16 ∧ a 1 < 32
    (c.code = 0 ∨ 6 < c.code → Refuses 1) ∧ (c.code = code → c.clean = false → Refuses 1) ∧
    (c.code = code → c.clean = true →
      (code = 1 → let x := s.fld field
        let ok := a 0 < 8 ∧ a 1 < 16 ∧ zero 2 ∧ x.sites.getLsbD (a 1) = true
        (¬ ok → Refuses 1) ∧ (ok → s.quadHeld field (a 1) = true → Refuses 2) ∧
        (ok → s.quadHeld field (a 1) = false → (∀ q, q < 16 → x.sites.getLsbD q = true ∨ x.broken.getLsbD q = true) → Refuses 3) ∧
        (ok → s.quadHeld field (a 1) = false → (∃ q, q < 16 ∧ x.sites.getLsbD q = false ∧ x.broken.getLsbD q = false) →
          Finds (∃ u q, Answers s u 1 ∧ q < 16 ∧ x.sites.getLsbD q = false ∧ x.broken.getLsbD q = false ∧ Reported s u [14] ∧
            (∀ k, k < 16 → (u.fld field).sites.getLsbD k = (decide (k = q) || (x.sites.getLsbD k && decide (k ≠ a 1)))) ∧
            (∀ k, k < 16 → (u.fld field).broken.getLsbD k = (decide (k = a 1) || x.broken.getLsbD k)) ∧ ∀ g, g ≠ field → u.fld g = s.fld g))) ∧
      (code = 2 → (¬ (row ∧ a 4 ≤ 1) → Refuses 1) ∧ (row → a 4 ≤ 1 → Finds (∃ u, Answers s u 1 ∧ Reported s u [14] ∧
        u.softRows = (if a 4 = 0 then s.softRows ++ [(a 0, a 1, a 2, a 3)] else s.softRows) ∧
        u.hardRows = (if a 4 = 0 then s.hardRows else s.hardRows ++ [(a 0, a 1, a 2, a 3)])))) ∧
      (code = 3 → (¬ (row ∧ zero 2) → Refuses 1) ∧ (row → zero 2 → 5 ≤ s.vias.count (a 0, a 1) → Refuses 3) ∧
        (row → zero 2 → s.vias.count (a 0, a 1) < 5 → Finds (∃ u, Answers s u 1 ∧ Reported s u [14] ∧ u.vias = s.vias ++ [(a 0, a 1)]))) ∧
      (code = 4 → (¬ (a 0 < 21 ∧ zero 1) → Refuses 1) ∧ (zero 1 → ∀ h : a 0 < 21, let p := s.ports[a 0]
        (p.spares = 0 → Refuses 3) ∧ (p.spares ≠ 0 → Finds (∃ u, Answers s u 1 ∧ Reported s u [9] ∧
          u.ports = s.ports.set (a 0) { p with spares := p.spares - 1, remapped := true })))) ∧
      (code = 5 → let ok := zero 3 ∧ a 2 % 8 = 0 ∧ s.hbmRange (a 0) 32 = true ∧ s.hbmRange (a 2) 1528 = true ∧ a 1 < 64
        (¬ ok → Refuses 1) ∧ (ok → (∀ j, j < 32 → s.unreadable (a 0 + j) = false) → ∀ h : a 1 < 64, ∃ u, exec i s = .next u ∧
        u.commands = s.commands + 1 ∧
          HomeIs s u (keysFrom (a 2) 1528 ++ keysFrom (c.slot + 48) 8)
            (s.attestation ((List.range 32).map fun j => s.homeByte (a 0 + j)) ⟨a 1, h⟩ ++ bytesOf 1 8))) ∧
      (code = 6 → let ok := zero 1 ∧ a 0 % 64 = 0 ∧ s.hbmRange (a 0) 64 = true
        (¬ ok → Refuses 1) ∧ (ok → ∃ u, exec i s = .next u ∧ u.commands = s.commands + 1 ∧
          HomeIs s u (keysFrom (a 0) 64 ++ keysFrom (c.slot + 48) 8)
            (bytesOf (s.boot.step % 16 + s.boot.failed % 16 * 16 + s.fencedMask * 256 + 2 ^ 16) 8 ++
              (s.fields.toList.flatMap fun f => bytesOf f.iscur.toNat 2) ++ s.hbm.toList.map Stack.celsius ++ s.dies.toList.map Die.celsius ++
              List.replicate 22 0 ++ bytesOf 1 8)))))

/-- R338, R406, R407. The model's readings: the byte that a bad unit answers is a free value (log entry 7), an access from outside is performed at
its home at once (15), elided reads are counted by line (34), and a write makes its frames raw (56). -/
def Obligations.RequestsFromOutsideAreAnsweredOrPerformed : Prop :=
  ∀ (s : State),
    (∀ (nonce : BitVec 256) (c : CtxId), s.boot.step ≠ 0 → s.ports[18].down = false → exec (.attestationRequest nonce c) s = .next { s with
      linkOut := s.linkOut ++ [.attestation (let st := s.descState c
        let body := bytesOf 1 4 ++ bytesOf s.devid.toNat 4 ++ bytesOf (c.val + st.toNat * 256) 4 ++ bytesOf 0 4 ++ bytesOf nonce.toNat 32 ++
          bytesOf s.m0.toNat 64 ++ bytesOf s.m1.toNat 64 ++
          (if st = 0 then List.replicate 64 0 else (List.range 64).map fun j => s.homeByte (descriptorOf c + 104 + j)) ++
          bytesOf Config.fusedVersion.toNat 8
        body ++ bytesOf (Config.falconSign (Config.shake256 body)).toNat 1280)] }) ∧
    (∀ (port : Fin 18) (dev : BitVec 18) (op : OutsideOp), s.ports[port.val].down = false → dev ≠ s.devid →
      ∃ u, exec (.remoteRequest ⟨port, dev⟩ op) s = .next u ∧
        u = { s with linkOut := s.linkOut ++ [.dropped dev], reports := u.reports } ∧ Reported s u [9] ∧
        (u.reports.getLast?).map Report.loc = some (BitVec.ofNat 16 port.val)) ∧
    (∀ i : OutsideOp → Instr, 3 ≤ s.boot.step → (i = Instr.hostAccess ∧ s.ports[18].down = false ∨
        ∃ port : Fin 18, s.ports[port.val].down = false ∧ i = Instr.remoteRequest ⟨port, s.devid⟩) →
      let there := fun (pa : BitVec 40) (len : Nat) => 0 < len ∧ s.hbmRange pa.toNat len = true
      let dead := fun (k : Nat) => isHbm k = true ∧ s.dead.contains (regionOf k) = true
      let bad := fun (k : Nat) => unitOf k ∈ s.bad ∧ ¬ dead k
      let clean := fun (k : Nat) => ¬ bad k ∧ s.isRetired k = false
      let elided := fun (u : State) (pa len : Nat) => ∀ n : Fin 128, u.elided[n.val] = s.elided[n.val] +
        ((((keysFrom pa len).map fun k => k / 64 * 64).dedup).filter fun k => isHbm k && s.dead.contains (regionOf k) && sliceOf k == n).length
      (∀ (pa : BitVec 40) (len : Nat), there pa len → ∃ u b, exec (i (.read pa len)) s = .next u ∧ b.length = len ∧
        u = { s with
          linkOut := s.linkOut ++ [.answer b], fresh := u.fresh, elided := u.elided, errCounts := u.errCounts, reports := u.reports, tags := u.tags
          debugLog := u.debugLog } ∧ (s.watches = [] → u.debugLog = s.debugLog) ∧
        elided u pa.toNat len ∧
        (∀ j, j < len → clean (pa.toNat + j) → b[j]? = some (s.homeByte (pa.toNat + j))) ∧
        (∀ j, j < len → bad (pa.toNat + j) → (Sparse.get 0 u.tags (frameOf (pa.toNat + j))).getLsbD 4 = true) ∧
        ((∀ j, j < len → ¬ bad (pa.toNat + j)) → u.tags = s.tags)) ∧
      (∀ (pa : BitVec 40) (bytes : List Byte), there pa bytes.length → ∃ u, exec (i (.write pa bytes)) s = .next u ∧ u.stores = s.stores ∧
        u.linkOut = s.linkOut ∧ OnlyChangeBits s u ∧
        ((∀ k ∈ keysFrom pa.toNat bytes.length, s.isRetired k = false) → HomeIs s u (keysFrom pa.toNat bytes.length) bytes) ∧
        ((∀ k ∈ keysFrom pa.toNat bytes.length, s.isRetired k = true) → Reported s u [8] ∧ ∀ k, u.homeByte k = s.homeByte k)) ∧
      (∀ (pa : BitVec 40) (w : AWidth) (len : Nat) (b e : Word) (o : AtomicOp) (new : Nat → Option Nat), (w, len) ∈ [(AWidth.w32, 4), (.w64, 8)] →
        there pa len → (∀ j, j < len → clean (pa.toNat + j)) →
        let m := 2 ^ (8 * len)
        let sg := fun x : Nat => if 2 * (x % m) < m then ((x % m : Nat) : Int) else ((x % m : Nat) : Int) - m
        let x := b.toNat % m
        (o, new) ∈ [(AtomicOp.add, fun old => some ((old + x) % m)), (.and, fun old => some (old &&& x)), (.or, fun old => some (old ||| x)),
          (.xor, fun old => some (old ^^^ x)), (.min, fun old => some (if sg x < sg old then x else old)),
          (.max, fun old => some (if sg old < sg x then x else old)), (.swap, fun _ => some x),
          (.cas, fun old => if old = e.toNat % m then some x else none),
          (.fadd, fun old => let f := if len = 4 then Fmt.fp32 else .fp64
            some (fadd f (unpack f old) (unpack f x)).1)] →
        let old := s.homeNum pa.toNat len
        ∃ u, exec (i (.atomic o w pa b e)) s = .next u ∧ u.linkOut = s.linkOut ++ [.answer (bytesOf old len)] ∧ u.stores = s.stores ∧
          OnlyChangeBits s u ∧ elided u pa.toNat len ∧
          (∀ v, new old = some v → HomeIs s u (keysFrom pa.toNat len) (bytesOf v len)) ∧
          (new old = none → ∀ k, u.homeByte k = s.homeByte k)))
/-- R43 to R56: one word of each major group, and one for each row of the table of R56. -/
def Obligations.WordsOfTheMapDecode : Prop :=
  decode 0x7A88_0804 = .ok (.vredsum false 1 20 8 1) ∧ decode 0x6822_1800 = .ok (.vadd false 1 2 (.vec 3)) ∧
  decode 0b000001_00101_00110_00111_000001_00000 = .ok (.sub 5 6 7) ∧ decode 0b000010_00001_00010_1111111111111111 = .ok (.addi 1 2 0xFFFF) ∧
  decode 0b000110_00011_00100_10_00000000_001001 = .ok (.srai 3 4 9) ∧ decode 0b001001_00001_00010_00011_000111_00_00_1 = .ok (.fma .d 1 2 3) ∧
  decode 0b001010_00101_00110_010_0000000001000 = .ok (.ldw 5 6 8) ∧ decode 0b001011_00101_00110_100_1111111111000 = .ok (.std 5 6 0x1FF8) ∧
  decode 0b001100_00001_00010_00011_000111_100_0_1 = .ok (.amocas .w32 .sys true 1 2 3) ∧
  decode 0b001110_00110_00111_1111111111111001 = .ok (.bne 6 7 0xFFF9) ∧ decode 0b010011_11111111111111111111111110 = .ok (.jal 0x3FF_FFFE) ∧
  decode 0b010110_00000_00101_0000000000000010 = .ok (.loopi 5 2) ∧ decode 0b010111_00000_00000_00010_000000_00001 = .ok (.svc 65) ∧
  decode 0b011000_00101_00100_0000000000000011 = .ok (.setvl 5 4 3) ∧
  decode 0b011010_00001_00010_00100_00001_1_000_01 = .ok (.vsub true 1 2 (.scal 4)) ∧
  decode 0b011111_00010_00011_00001_00000_0_010_01 = .ok (.vscansum false true 2 2 3 1) ∧
  decode 0b100001_00010_00100_00000_00001_0_000_11 = .ok (.venc4 .hyb 2 4) ∧
  decode 0b100010_00010_00110_00111_00001_1_000_01 = .ok (.vlds true .stream 2 6 7) ∧
  decode 0b100011_00010_00110_00000_00000_0_000_10 = .ok (.vst false .keep 2 6) ∧
  decode 0b100100_00010_00011_00100_000000_000_1_0 = .ok (.tld true false 2 3 4) ∧
  decode 0b100101_00001_00010_00011_000001_001_00 = .ok (.lattach .quad 1 2 3) ∧
  decode 0b100110_00000_00010_00011_000011_00000 = .ok (.mopa 2 3) ∧ decode 0b100111_00010_00011_00000_000001_010_00 = .ok (.coll .field 2 3) ∧
  decode 0b101000_00001_00010_00011_000010_011_00 = .ok (.bwait .pkg 1 2 3) ∧
  decode 0 = .error .reservedMajor ∧ decode 0xFFFF_FFFF = .error .reservedMajor ∧
  decode 0b000001_00001_00010_00011_010010_00000 = .error .unassignedSelector ∧
  decode 0b001010_00001_00010_101_0000000000000 = .error .reservedKind ∧ decode 0b000001_00001_00010_00011_001111_00000 = .error .mustBeZero ∧
  decode 0b011110_00001_00010_00000_00000_0_101_00 = .error .reservedDepth ∧ decode 0b100111_00010_00011_00000_000000_101_00 = .error .reservedScope ∧
  decode 0b100010_00010_00110_00000_00000_0_000_11 = .error .reservedCache ∧ decode 0b011000_00101_00100_0000000001000011 = .error .malformedImage ∧
  decode 0b011110_00011_00010_00000_01001_0_000_00 = .error .oddIndexDestination ∧
  decode 0b010110_00000_00101_0000000000000000 = .error .loopEndNotAhead

/-- The turn order is the model's (log entry 5), and so is the debugger's leave (51); what comes before the instruction is R220, R309, R312 and R367. -/
def Obligations.StepRunsTheDecodedInstruction : Prop :=
  ∀ (s : State) (slot : Slot) (rest : State), s.nextSlot = (slot, rest) →
    (slot, rest) = (match s.schedule with
      | a :: r => (a, { s with schedule := r })
      | [] => (⟨.thread s.cur, Config.stepCycles s.fresh⟩, { s with fresh := s.fresh + 1 })) ∧
    let on := s.boot.powered = true ∧ s.boot.stopped = false
    let ticked : State := { rest with fields := ⟨(rest.fields.toList.map fun f => { f with cycle := f.cycle + BitVec.ofNat 64 slot.cycles }).toArray, by simp⟩ }
    let r := ticked.seeWatches
    (rest.watches = [] → r = ticked) ∧
    (∀ t, on → slot.turn = .thread t →
      let u : State := { r with cur := t }
      let th := u.thr t
      (th.debugStop ≠ none ∨ th.status ∉ [.running, .wfe, .bwait] → ¬ (th.arch.mode = .supervisor ∧ u.deadlineMet t = true) → step s = .next u) ∧
      let Does := fun (i : Instr) (fetched : Bool) =>
        (step s = match exec i u with | .next v => .next (v.endTurn u t i fetched) | q => q) ∧
        ∀ v, exec i u = .next v → th.debugPass = .no → v.dead = [] ∨ fetched = false → v.watches = [] ∨ fetched = false → v.absent = [] →
          v.awaitEret = [] → step s = .next v
      let Runs := fun i => Does i true
      let Comes := fun i => Does i false
      let preempts := th.arch.mode = .user ∧ (th.preemptDue = true ∨ u.deadlineMet t = true) ∧ u.yieldWins t = false
      let boundary := th.arch.atBoundary = true
      (th.debugStop = none → th.status ∈ [.running, .wfe, .bwait] → (th.arch.mode = .user ∨ u.deadlineMet t = false) →
        (preempts → Comes (.forcedPreemption t)) ∧
        (¬ preempts → boundary → th.pending ≠ [] → Comes (.trapEntry t)) ∧
        (¬ preempts → boundary → th.pending = [] → u.heldTooLong t = true → Comes (.heldStoreCheckpoint t)) ∧
        (¬ preempts → (boundary → th.pending = [] ∧ u.heldTooLong t = false) →
          (u.debugDue t = true → Comes (.debuggerStop t)) ∧
          (u.debugDue t = false →
            (th.status = .wfe → Comes (.wfeWake t)) ∧ (th.status = .bwait → Comes (.bwaitWake t)) ∧
            (th.status = .running →
              (∀ w i, u.fetch t = .ok w → decode w = .ok i → Runs i) ∧
              (∀ w e, u.fetch t = .ok w → decode w = .error e → Runs (.illegalInstruction w)) ∧
              (∀ e, u.fetch t = .error e → Runs .instructionFetchFault)))))) ∧
    (∀ i, on → slot.turn = .event i → i.isEvent = true →
      (eventThread i = none → step s = exec i r) ∧
      ∀ t, eventThread i = some t → (step s = match exec i r with | .next v => .next (v.endPass t (r.thr t) false) | q => q) ∧
        ((r.thr t).debugPass = .no → step s = exec i r)) ∧
    (¬ on → (∀ i, slot.turn ≠ .event i) → step s = .fault .packageOff) ∧
    (¬ on → ∀ i, slot.turn = .event i → ((∃ b, i = .bringUp b) ∨ i = .powerOff → step s = exec i rest) ∧
      (¬ ((∃ b, i = .bringUp b) ∨ i = .powerOff) → step s = .fault .packageOff))

/-- R43 to R56: all 193 word rows at once; the six special writes are other names of wsys words. -/
def Obligations.EncodeAndDecodeAgree : Prop :=
  (∀ (w : IWord) (i : Instr), decode w = .ok i ↔ i.wf = true ∧ encode i = some w) ∧
  (∀ i : Instr, i.isEvent = true → encode i = none) ∧
  (∀ i : Instr, i.isEvent = false → (∃ w, encode i = some w) ∨
    match i with
    | .fflagsWrite _ => True
    | .tcbaseWrite _ => True
    | .progWrite _ _ => True
    | .loopStackWrite _ _ => True
    | .pgrootWrite _ => True
    | .islimWrite _ => True
    | .illegalInstruction _ => True
    | .instructionFetchFault => True
    | _ => False) ∧
  ∀ (i j : Instr) (w : IWord), encode i = some w → encode j = some w → i.wf = true → j.wf = true → i = j

/-- Registers without a reset value are zero (log entry 2); what an unlisted byte reads as is log entry 1; the spare sites are log entry 13. -/
def Obligations.ResetIsAsStated : Prop :=
  let s := State.reset
  s.boot = ⟨true, false, 0, 0, 0, 0, [], false, false⟩ ∧ s.Canonical ∧ s.mem = [] ∧ s.tags = [] ∧ s.stores = [] ∧ (∀ k, s.homeByte k = 0) ∧
  (∀ f, (s.fld f).up = false ∧ (s.fld f).fenced = false ∧ (s.fld f).islim = 0x0B40 ∧
    ((List.range 16).filter fun q => (s.fld f).sites.getLsbD q).length = 14) ∧
  s.dead = [] ∧ s.bad = [] ∧ s.retired = [] ∧ s.launches = [] ∧ s.saved = [] ∧ s.reports = [] ∧ s.linkOut = [] ∧ s.breaks = [] ∧ s.watches = [] ∧
  s.absent = [] ∧ s.debugLog = [] ∧ s.owed = [] ∧
  (∀ h, (s.hrt h).rows = Vector.replicate 16 4 ∧ (s.hrt h).spares = 2 ∧ (s.hrt h).transfers = [] ∧ (s.hrt h).groups = 1) ∧
  (∀ t, (s.thr t).status = .off ∧ ∀ r, (s.arch t).getX r = 0) ∧
  (∀ p : Fin 21, s.ports[p.val] = if p.val < 18 then ⟨1, false, 8, false, 0⟩ else if p.val = 18 then ⟨2, false, 32, false, 0⟩
    else ⟨4, false, 1, false, 0⟩) ∧
  ∀ t, ∃ e, step s = .next e ∧ (e.thr t).status = .off

/-- The canonical form is the model's own way of holding memory (log entry 1). -/
def Obligations.StepsKeepMemoryCanonical : Prop :=
  (∀ (i : Instr) (s t : State), s.Canonical → exec i s = .next t → t.Canonical) ∧
  (∀ (s t : State), s.Canonical → step s = .next t → t.Canonical) ∧
  ∀ (m : Memory) (k j : Nat) (b : Byte), m.wf = true → (m.write k b).wf = true ∧ (m.write k b).read j = if j = k then b else m.read j
end

