-- ==== Sys2Proof/Laws/State.lean ====
section
/-! SUPPORT. What each update of the state leaves alone, field by field, and what the accessors read after it. -/

namespace Sys2Proof.Machine

/-! ## setThr -/

@[simp] theorem State.setThr_harts (s : State) (t : Tid) (th : Thread) : (s.setThr t th).harts = s.harts := rfl
@[simp] theorem State.setThr_fields (s : State) (t : Tid) (th : Thread) : (s.setThr t th).fields = s.fields := rfl
@[simp] theorem State.setThr_dies (s : State) (t : Tid) (th : Thread) : (s.setThr t th).dies = s.dies := rfl
@[simp] theorem State.setThr_hbm (s : State) (t : Tid) (th : Thread) : (s.setThr t th).hbm = s.hbm := rfl
@[simp] theorem State.setThr_ports (s : State) (t : Tid) (th : Thread) : (s.setThr t th).ports = s.ports := rfl
@[simp] theorem State.setThr_boot (s : State) (t : Tid) (th : Thread) : (s.setThr t th).boot = s.boot := rfl
@[simp] theorem State.setThr_devid (s : State) (t : Tid) (th : Thread) : (s.setThr t th).devid = s.devid := rfl
@[simp] theorem State.setThr_m0 (s : State) (t : Tid) (th : Thread) : (s.setThr t th).m0 = s.m0 := rfl
@[simp] theorem State.setThr_m1 (s : State) (t : Tid) (th : Thread) : (s.setThr t th).m1 = s.m1 := rfl
@[simp] theorem State.setThr_mem (s : State) (t : Tid) (th : Thread) : (s.setThr t th).mem = s.mem := rfl
@[simp] theorem State.setThr_tags (s : State) (t : Tid) (th : Thread) : (s.setThr t th).tags = s.tags := rfl
@[simp] theorem State.setThr_bad (s : State) (t : Tid) (th : Thread) : (s.setThr t th).bad = s.bad := rfl
@[simp] theorem State.setThr_covers (s : State) (t : Tid) (th : Thread) : (s.setThr t th).covers = s.covers := rfl
@[simp] theorem State.setThr_dead (s : State) (t : Tid) (th : Thread) : (s.setThr t th).dead = s.dead := rfl
@[simp] theorem State.setThr_elided (s : State) (t : Tid) (th : Thread) : (s.setThr t th).elided = s.elided := rfl
@[simp] theorem State.setThr_retired (s : State) (t : Tid) (th : Thread) : (s.setThr t th).retired = s.retired := rfl
@[simp] theorem State.setThr_softRows (s : State) (t : Tid) (th : Thread) : (s.setThr t th).softRows = s.softRows := rfl
@[simp] theorem State.setThr_hardRows (s : State) (t : Tid) (th : Thread) : (s.setThr t th).hardRows = s.hardRows := rfl
@[simp] theorem State.setThr_vias (s : State) (t : Tid) (th : Thread) : (s.setThr t th).vias = s.vias := rfl
@[simp] theorem State.setThr_stores (s : State) (t : Tid) (th : Thread) : (s.setThr t th).stores = s.stores := rfl
@[simp] theorem State.setThr_routes (s : State) (t : Tid) (th : Thread) : (s.setThr t th).routes = s.routes := rfl
@[simp] theorem State.setThr_queues (s : State) (t : Tid) (th : Thread) : (s.setThr t th).queues = s.queues := rfl
@[simp] theorem State.setThr_launches (s : State) (t : Tid) (th : Thread) : (s.setThr t th).launches = s.launches := rfl
@[simp] theorem State.setThr_saved (s : State) (t : Tid) (th : Thread) : (s.setThr t th).saved = s.saved := rfl
@[simp] theorem State.setThr_lastServed (s : State) (t : Tid) (th : Thread) : (s.setThr t th).lastServed = s.lastServed := rfl
@[simp] theorem State.setThr_known (s : State) (t : Tid) (th : Thread) : (s.setThr t th).known = s.known := rfl
@[simp] theorem State.setThr_doubleFaults (s : State) (t : Tid) (th : Thread) : (s.setThr t th).doubleFaults = s.doubleFaults := rfl
@[simp] theorem State.setThr_reports (s : State) (t : Tid) (th : Thread) : (s.setThr t th).reports = s.reports := rfl
@[simp] theorem State.setThr_errCounts (s : State) (t : Tid) (th : Thread) : (s.setThr t th).errCounts = s.errCounts := rfl
@[simp] theorem State.setThr_commands (s : State) (t : Tid) (th : Thread) : (s.setThr t th).commands = s.commands := rfl
@[simp] theorem State.setThr_linkOut (s : State) (t : Tid) (th : Thread) : (s.setThr t th).linkOut = s.linkOut := rfl
@[simp] theorem State.setThr_breaks (s : State) (t : Tid) (th : Thread) : (s.setThr t th).breaks = s.breaks := rfl
@[simp] theorem State.setThr_watches (s : State) (t : Tid) (th : Thread) : (s.setThr t th).watches = s.watches := rfl
@[simp] theorem State.setThr_absent (s : State) (t : Tid) (th : Thread) : (s.setThr t th).absent = s.absent := rfl
@[simp] theorem State.setThr_awaitEret (s : State) (t : Tid) (th : Thread) : (s.setThr t th).awaitEret = s.awaitEret := rfl
@[simp] theorem State.setThr_debugLog (s : State) (t : Tid) (th : Thread) : (s.setThr t th).debugLog = s.debugLog := rfl
@[simp] theorem State.setThr_owed (s : State) (t : Tid) (th : Thread) : (s.setThr t th).owed = s.owed := rfl
@[simp] theorem State.setThr_cur (s : State) (t : Tid) (th : Thread) : (s.setThr t th).cur = s.cur := rfl
@[simp] theorem State.setThr_schedule (s : State) (t : Tid) (th : Thread) : (s.setThr t th).schedule = s.schedule := rfl
@[simp] theorem State.setThr_fresh (s : State) (t : Tid) (th : Thread) : (s.setThr t th).fresh = s.fresh := rfl
@[simp] theorem State.setThr_nextLaunch (s : State) (t : Tid) (th : Thread) : (s.setThr t th).nextLaunch = s.nextLaunch := rfl

/-! ## setHrt -/

@[simp] theorem State.setHrt_threads (s : State) (h : HartId) (x : Hart) : (s.setHrt h x).threads = s.threads := rfl
@[simp] theorem State.setHrt_fields (s : State) (h : HartId) (x : Hart) : (s.setHrt h x).fields = s.fields := rfl
@[simp] theorem State.setHrt_dies (s : State) (h : HartId) (x : Hart) : (s.setHrt h x).dies = s.dies := rfl
@[simp] theorem State.setHrt_hbm (s : State) (h : HartId) (x : Hart) : (s.setHrt h x).hbm = s.hbm := rfl
@[simp] theorem State.setHrt_ports (s : State) (h : HartId) (x : Hart) : (s.setHrt h x).ports = s.ports := rfl
@[simp] theorem State.setHrt_boot (s : State) (h : HartId) (x : Hart) : (s.setHrt h x).boot = s.boot := rfl
@[simp] theorem State.setHrt_devid (s : State) (h : HartId) (x : Hart) : (s.setHrt h x).devid = s.devid := rfl
@[simp] theorem State.setHrt_m0 (s : State) (h : HartId) (x : Hart) : (s.setHrt h x).m0 = s.m0 := rfl
@[simp] theorem State.setHrt_m1 (s : State) (h : HartId) (x : Hart) : (s.setHrt h x).m1 = s.m1 := rfl
@[simp] theorem State.setHrt_mem (s : State) (h : HartId) (x : Hart) : (s.setHrt h x).mem = s.mem := rfl
@[simp] theorem State.setHrt_tags (s : State) (h : HartId) (x : Hart) : (s.setHrt h x).tags = s.tags := rfl
@[simp] theorem State.setHrt_bad (s : State) (h : HartId) (x : Hart) : (s.setHrt h x).bad = s.bad := rfl
@[simp] theorem State.setHrt_covers (s : State) (h : HartId) (x : Hart) : (s.setHrt h x).covers = s.covers := rfl
@[simp] theorem State.setHrt_dead (s : State) (h : HartId) (x : Hart) : (s.setHrt h x).dead = s.dead := rfl
@[simp] theorem State.setHrt_elided (s : State) (h : HartId) (x : Hart) : (s.setHrt h x).elided = s.elided := rfl
@[simp] theorem State.setHrt_retired (s : State) (h : HartId) (x : Hart) : (s.setHrt h x).retired = s.retired := rfl
@[simp] theorem State.setHrt_softRows (s : State) (h : HartId) (x : Hart) : (s.setHrt h x).softRows = s.softRows := rfl
@[simp] theorem State.setHrt_hardRows (s : State) (h : HartId) (x : Hart) : (s.setHrt h x).hardRows = s.hardRows := rfl
@[simp] theorem State.setHrt_vias (s : State) (h : HartId) (x : Hart) : (s.setHrt h x).vias = s.vias := rfl
@[simp] theorem State.setHrt_stores (s : State) (h : HartId) (x : Hart) : (s.setHrt h x).stores = s.stores := rfl
@[simp] theorem State.setHrt_routes (s : State) (h : HartId) (x : Hart) : (s.setHrt h x).routes = s.routes := rfl
@[simp] theorem State.setHrt_queues (s : State) (h : HartId) (x : Hart) : (s.setHrt h x).queues = s.queues := rfl
@[simp] theorem State.setHrt_launches (s : State) (h : HartId) (x : Hart) : (s.setHrt h x).launches = s.launches := rfl
@[simp] theorem State.setHrt_saved (s : State) (h : HartId) (x : Hart) : (s.setHrt h x).saved = s.saved := rfl
@[simp] theorem State.setHrt_lastServed (s : State) (h : HartId) (x : Hart) : (s.setHrt h x).lastServed = s.lastServed := rfl
@[simp] theorem State.setHrt_known (s : State) (h : HartId) (x : Hart) : (s.setHrt h x).known = s.known := rfl
@[simp] theorem State.setHrt_doubleFaults (s : State) (h : HartId) (x : Hart) : (s.setHrt h x).doubleFaults = s.doubleFaults := rfl
@[simp] theorem State.setHrt_reports (s : State) (h : HartId) (x : Hart) : (s.setHrt h x).reports = s.reports := rfl
@[simp] theorem State.setHrt_errCounts (s : State) (h : HartId) (x : Hart) : (s.setHrt h x).errCounts = s.errCounts := rfl
@[simp] theorem State.setHrt_commands (s : State) (h : HartId) (x : Hart) : (s.setHrt h x).commands = s.commands := rfl
@[simp] theorem State.setHrt_linkOut (s : State) (h : HartId) (x : Hart) : (s.setHrt h x).linkOut = s.linkOut := rfl
@[simp] theorem State.setHrt_breaks (s : State) (h : HartId) (x : Hart) : (s.setHrt h x).breaks = s.breaks := rfl
@[simp] theorem State.setHrt_watches (s : State) (h : HartId) (x : Hart) : (s.setHrt h x).watches = s.watches := rfl
@[simp] theorem State.setHrt_absent (s : State) (h : HartId) (x : Hart) : (s.setHrt h x).absent = s.absent := rfl
@[simp] theorem State.setHrt_awaitEret (s : State) (h : HartId) (x : Hart) : (s.setHrt h x).awaitEret = s.awaitEret := rfl
@[simp] theorem State.setHrt_debugLog (s : State) (h : HartId) (x : Hart) : (s.setHrt h x).debugLog = s.debugLog := rfl
@[simp] theorem State.setHrt_owed (s : State) (h : HartId) (x : Hart) : (s.setHrt h x).owed = s.owed := rfl
@[simp] theorem State.setHrt_cur (s : State) (h : HartId) (x : Hart) : (s.setHrt h x).cur = s.cur := rfl
@[simp] theorem State.setHrt_schedule (s : State) (h : HartId) (x : Hart) : (s.setHrt h x).schedule = s.schedule := rfl
@[simp] theorem State.setHrt_fresh (s : State) (h : HartId) (x : Hart) : (s.setHrt h x).fresh = s.fresh := rfl
@[simp] theorem State.setHrt_nextLaunch (s : State) (h : HartId) (x : Hart) : (s.setHrt h x).nextLaunch = s.nextLaunch := rfl

/-! ## setFld -/

@[simp] theorem State.setFld_threads (s : State) (f : FieldId) (x : Field) : (s.setFld f x).threads = s.threads := rfl
@[simp] theorem State.setFld_harts (s : State) (f : FieldId) (x : Field) : (s.setFld f x).harts = s.harts := rfl
@[simp] theorem State.setFld_dies (s : State) (f : FieldId) (x : Field) : (s.setFld f x).dies = s.dies := rfl
@[simp] theorem State.setFld_hbm (s : State) (f : FieldId) (x : Field) : (s.setFld f x).hbm = s.hbm := rfl
@[simp] theorem State.setFld_ports (s : State) (f : FieldId) (x : Field) : (s.setFld f x).ports = s.ports := rfl
@[simp] theorem State.setFld_boot (s : State) (f : FieldId) (x : Field) : (s.setFld f x).boot = s.boot := rfl
@[simp] theorem State.setFld_devid (s : State) (f : FieldId) (x : Field) : (s.setFld f x).devid = s.devid := rfl
@[simp] theorem State.setFld_m0 (s : State) (f : FieldId) (x : Field) : (s.setFld f x).m0 = s.m0 := rfl
@[simp] theorem State.setFld_m1 (s : State) (f : FieldId) (x : Field) : (s.setFld f x).m1 = s.m1 := rfl
@[simp] theorem State.setFld_mem (s : State) (f : FieldId) (x : Field) : (s.setFld f x).mem = s.mem := rfl
@[simp] theorem State.setFld_tags (s : State) (f : FieldId) (x : Field) : (s.setFld f x).tags = s.tags := rfl
@[simp] theorem State.setFld_bad (s : State) (f : FieldId) (x : Field) : (s.setFld f x).bad = s.bad := rfl
@[simp] theorem State.setFld_covers (s : State) (f : FieldId) (x : Field) : (s.setFld f x).covers = s.covers := rfl
@[simp] theorem State.setFld_dead (s : State) (f : FieldId) (x : Field) : (s.setFld f x).dead = s.dead := rfl
@[simp] theorem State.setFld_elided (s : State) (f : FieldId) (x : Field) : (s.setFld f x).elided = s.elided := rfl
@[simp] theorem State.setFld_retired (s : State) (f : FieldId) (x : Field) : (s.setFld f x).retired = s.retired := rfl
@[simp] theorem State.setFld_softRows (s : State) (f : FieldId) (x : Field) : (s.setFld f x).softRows = s.softRows := rfl
@[simp] theorem State.setFld_hardRows (s : State) (f : FieldId) (x : Field) : (s.setFld f x).hardRows = s.hardRows := rfl
@[simp] theorem State.setFld_vias (s : State) (f : FieldId) (x : Field) : (s.setFld f x).vias = s.vias := rfl
@[simp] theorem State.setFld_stores (s : State) (f : FieldId) (x : Field) : (s.setFld f x).stores = s.stores := rfl
@[simp] theorem State.setFld_routes (s : State) (f : FieldId) (x : Field) : (s.setFld f x).routes = s.routes := rfl
@[simp] theorem State.setFld_queues (s : State) (f : FieldId) (x : Field) : (s.setFld f x).queues = s.queues := rfl
@[simp] theorem State.setFld_launches (s : State) (f : FieldId) (x : Field) : (s.setFld f x).launches = s.launches := rfl
@[simp] theorem State.setFld_saved (s : State) (f : FieldId) (x : Field) : (s.setFld f x).saved = s.saved := rfl
@[simp] theorem State.setFld_lastServed (s : State) (f : FieldId) (x : Field) : (s.setFld f x).lastServed = s.lastServed := rfl
@[simp] theorem State.setFld_known (s : State) (f : FieldId) (x : Field) : (s.setFld f x).known = s.known := rfl
@[simp] theorem State.setFld_doubleFaults (s : State) (f : FieldId) (x : Field) : (s.setFld f x).doubleFaults = s.doubleFaults := rfl
@[simp] theorem State.setFld_reports (s : State) (f : FieldId) (x : Field) : (s.setFld f x).reports = s.reports := rfl
@[simp] theorem State.setFld_errCounts (s : State) (f : FieldId) (x : Field) : (s.setFld f x).errCounts = s.errCounts := rfl
@[simp] theorem State.setFld_commands (s : State) (f : FieldId) (x : Field) : (s.setFld f x).commands = s.commands := rfl
@[simp] theorem State.setFld_linkOut (s : State) (f : FieldId) (x : Field) : (s.setFld f x).linkOut = s.linkOut := rfl
@[simp] theorem State.setFld_breaks (s : State) (f : FieldId) (x : Field) : (s.setFld f x).breaks = s.breaks := rfl
@[simp] theorem State.setFld_watches (s : State) (f : FieldId) (x : Field) : (s.setFld f x).watches = s.watches := rfl
@[simp] theorem State.setFld_absent (s : State) (f : FieldId) (x : Field) : (s.setFld f x).absent = s.absent := rfl
@[simp] theorem State.setFld_awaitEret (s : State) (f : FieldId) (x : Field) : (s.setFld f x).awaitEret = s.awaitEret := rfl
@[simp] theorem State.setFld_debugLog (s : State) (f : FieldId) (x : Field) : (s.setFld f x).debugLog = s.debugLog := rfl
@[simp] theorem State.setFld_owed (s : State) (f : FieldId) (x : Field) : (s.setFld f x).owed = s.owed := rfl
@[simp] theorem State.setFld_cur (s : State) (f : FieldId) (x : Field) : (s.setFld f x).cur = s.cur := rfl
@[simp] theorem State.setFld_schedule (s : State) (f : FieldId) (x : Field) : (s.setFld f x).schedule = s.schedule := rfl
@[simp] theorem State.setFld_fresh (s : State) (f : FieldId) (x : Field) : (s.setFld f x).fresh = s.fresh := rfl
@[simp] theorem State.setFld_nextLaunch (s : State) (f : FieldId) (x : Field) : (s.setFld f x).nextLaunch = s.nextLaunch := rfl

/-! ## setArch -/

@[simp] theorem State.setArch_harts (s : State) (t : Tid) (a : Arch) : (s.setArch t a).harts = s.harts := rfl
@[simp] theorem State.setArch_fields (s : State) (t : Tid) (a : Arch) : (s.setArch t a).fields = s.fields := rfl
@[simp] theorem State.setArch_dies (s : State) (t : Tid) (a : Arch) : (s.setArch t a).dies = s.dies := rfl
@[simp] theorem State.setArch_hbm (s : State) (t : Tid) (a : Arch) : (s.setArch t a).hbm = s.hbm := rfl
@[simp] theorem State.setArch_ports (s : State) (t : Tid) (a : Arch) : (s.setArch t a).ports = s.ports := rfl
@[simp] theorem State.setArch_boot (s : State) (t : Tid) (a : Arch) : (s.setArch t a).boot = s.boot := rfl
@[simp] theorem State.setArch_devid (s : State) (t : Tid) (a : Arch) : (s.setArch t a).devid = s.devid := rfl
@[simp] theorem State.setArch_m0 (s : State) (t : Tid) (a : Arch) : (s.setArch t a).m0 = s.m0 := rfl
@[simp] theorem State.setArch_m1 (s : State) (t : Tid) (a : Arch) : (s.setArch t a).m1 = s.m1 := rfl
@[simp] theorem State.setArch_mem (s : State) (t : Tid) (a : Arch) : (s.setArch t a).mem = s.mem := rfl
@[simp] theorem State.setArch_tags (s : State) (t : Tid) (a : Arch) : (s.setArch t a).tags = s.tags := rfl
@[simp] theorem State.setArch_bad (s : State) (t : Tid) (a : Arch) : (s.setArch t a).bad = s.bad := rfl
@[simp] theorem State.setArch_covers (s : State) (t : Tid) (a : Arch) : (s.setArch t a).covers = s.covers := rfl
@[simp] theorem State.setArch_dead (s : State) (t : Tid) (a : Arch) : (s.setArch t a).dead = s.dead := rfl
@[simp] theorem State.setArch_elided (s : State) (t : Tid) (a : Arch) : (s.setArch t a).elided = s.elided := rfl
@[simp] theorem State.setArch_retired (s : State) (t : Tid) (a : Arch) : (s.setArch t a).retired = s.retired := rfl
@[simp] theorem State.setArch_softRows (s : State) (t : Tid) (a : Arch) : (s.setArch t a).softRows = s.softRows := rfl
@[simp] theorem State.setArch_hardRows (s : State) (t : Tid) (a : Arch) : (s.setArch t a).hardRows = s.hardRows := rfl
@[simp] theorem State.setArch_vias (s : State) (t : Tid) (a : Arch) : (s.setArch t a).vias = s.vias := rfl
@[simp] theorem State.setArch_stores (s : State) (t : Tid) (a : Arch) : (s.setArch t a).stores = s.stores := rfl
@[simp] theorem State.setArch_routes (s : State) (t : Tid) (a : Arch) : (s.setArch t a).routes = s.routes := rfl
@[simp] theorem State.setArch_queues (s : State) (t : Tid) (a : Arch) : (s.setArch t a).queues = s.queues := rfl
@[simp] theorem State.setArch_launches (s : State) (t : Tid) (a : Arch) : (s.setArch t a).launches = s.launches := rfl
@[simp] theorem State.setArch_saved (s : State) (t : Tid) (a : Arch) : (s.setArch t a).saved = s.saved := rfl
@[simp] theorem State.setArch_lastServed (s : State) (t : Tid) (a : Arch) : (s.setArch t a).lastServed = s.lastServed := rfl
@[simp] theorem State.setArch_known (s : State) (t : Tid) (a : Arch) : (s.setArch t a).known = s.known := rfl
@[simp] theorem State.setArch_doubleFaults (s : State) (t : Tid) (a : Arch) : (s.setArch t a).doubleFaults = s.doubleFaults := rfl
@[simp] theorem State.setArch_reports (s : State) (t : Tid) (a : Arch) : (s.setArch t a).reports = s.reports := rfl
@[simp] theorem State.setArch_errCounts (s : State) (t : Tid) (a : Arch) : (s.setArch t a).errCounts = s.errCounts := rfl
@[simp] theorem State.setArch_commands (s : State) (t : Tid) (a : Arch) : (s.setArch t a).commands = s.commands := rfl
@[simp] theorem State.setArch_linkOut (s : State) (t : Tid) (a : Arch) : (s.setArch t a).linkOut = s.linkOut := rfl
@[simp] theorem State.setArch_breaks (s : State) (t : Tid) (a : Arch) : (s.setArch t a).breaks = s.breaks := rfl
@[simp] theorem State.setArch_watches (s : State) (t : Tid) (a : Arch) : (s.setArch t a).watches = s.watches := rfl
@[simp] theorem State.setArch_absent (s : State) (t : Tid) (a : Arch) : (s.setArch t a).absent = s.absent := rfl
@[simp] theorem State.setArch_awaitEret (s : State) (t : Tid) (a : Arch) : (s.setArch t a).awaitEret = s.awaitEret := rfl
@[simp] theorem State.setArch_debugLog (s : State) (t : Tid) (a : Arch) : (s.setArch t a).debugLog = s.debugLog := rfl
@[simp] theorem State.setArch_owed (s : State) (t : Tid) (a : Arch) : (s.setArch t a).owed = s.owed := rfl
@[simp] theorem State.setArch_cur (s : State) (t : Tid) (a : Arch) : (s.setArch t a).cur = s.cur := rfl
@[simp] theorem State.setArch_schedule (s : State) (t : Tid) (a : Arch) : (s.setArch t a).schedule = s.schedule := rfl
@[simp] theorem State.setArch_fresh (s : State) (t : Tid) (a : Arch) : (s.setArch t a).fresh = s.fresh := rfl
@[simp] theorem State.setArch_nextLaunch (s : State) (t : Tid) (a : Arch) : (s.setArch t a).nextLaunch = s.nextLaunch := rfl

/-! ## setX -/

@[simp] theorem State.setX_harts (s : State) (r : XReg) (v : Word) : (s.setX r v).harts = s.harts := rfl
@[simp] theorem State.setX_fields (s : State) (r : XReg) (v : Word) : (s.setX r v).fields = s.fields := rfl
@[simp] theorem State.setX_dies (s : State) (r : XReg) (v : Word) : (s.setX r v).dies = s.dies := rfl
@[simp] theorem State.setX_hbm (s : State) (r : XReg) (v : Word) : (s.setX r v).hbm = s.hbm := rfl
@[simp] theorem State.setX_ports (s : State) (r : XReg) (v : Word) : (s.setX r v).ports = s.ports := rfl
@[simp] theorem State.setX_boot (s : State) (r : XReg) (v : Word) : (s.setX r v).boot = s.boot := rfl
@[simp] theorem State.setX_devid (s : State) (r : XReg) (v : Word) : (s.setX r v).devid = s.devid := rfl
@[simp] theorem State.setX_m0 (s : State) (r : XReg) (v : Word) : (s.setX r v).m0 = s.m0 := rfl
@[simp] theorem State.setX_m1 (s : State) (r : XReg) (v : Word) : (s.setX r v).m1 = s.m1 := rfl
@[simp] theorem State.setX_mem (s : State) (r : XReg) (v : Word) : (s.setX r v).mem = s.mem := rfl
@[simp] theorem State.setX_tags (s : State) (r : XReg) (v : Word) : (s.setX r v).tags = s.tags := rfl
@[simp] theorem State.setX_bad (s : State) (r : XReg) (v : Word) : (s.setX r v).bad = s.bad := rfl
@[simp] theorem State.setX_covers (s : State) (r : XReg) (v : Word) : (s.setX r v).covers = s.covers := rfl
@[simp] theorem State.setX_dead (s : State) (r : XReg) (v : Word) : (s.setX r v).dead = s.dead := rfl
@[simp] theorem State.setX_elided (s : State) (r : XReg) (v : Word) : (s.setX r v).elided = s.elided := rfl
@[simp] theorem State.setX_retired (s : State) (r : XReg) (v : Word) : (s.setX r v).retired = s.retired := rfl
@[simp] theorem State.setX_softRows (s : State) (r : XReg) (v : Word) : (s.setX r v).softRows = s.softRows := rfl
@[simp] theorem State.setX_hardRows (s : State) (r : XReg) (v : Word) : (s.setX r v).hardRows = s.hardRows := rfl
@[simp] theorem State.setX_vias (s : State) (r : XReg) (v : Word) : (s.setX r v).vias = s.vias := rfl
@[simp] theorem State.setX_stores (s : State) (r : XReg) (v : Word) : (s.setX r v).stores = s.stores := rfl
@[simp] theorem State.setX_routes (s : State) (r : XReg) (v : Word) : (s.setX r v).routes = s.routes := rfl
@[simp] theorem State.setX_queues (s : State) (r : XReg) (v : Word) : (s.setX r v).queues = s.queues := rfl
@[simp] theorem State.setX_launches (s : State) (r : XReg) (v : Word) : (s.setX r v).launches = s.launches := rfl
@[simp] theorem State.setX_saved (s : State) (r : XReg) (v : Word) : (s.setX r v).saved = s.saved := rfl
@[simp] theorem State.setX_lastServed (s : State) (r : XReg) (v : Word) : (s.setX r v).lastServed = s.lastServed := rfl
@[simp] theorem State.setX_known (s : State) (r : XReg) (v : Word) : (s.setX r v).known = s.known := rfl
@[simp] theorem State.setX_doubleFaults (s : State) (r : XReg) (v : Word) : (s.setX r v).doubleFaults = s.doubleFaults := rfl
@[simp] theorem State.setX_reports (s : State) (r : XReg) (v : Word) : (s.setX r v).reports = s.reports := rfl
@[simp] theorem State.setX_errCounts (s : State) (r : XReg) (v : Word) : (s.setX r v).errCounts = s.errCounts := rfl
@[simp] theorem State.setX_commands (s : State) (r : XReg) (v : Word) : (s.setX r v).commands = s.commands := rfl
@[simp] theorem State.setX_linkOut (s : State) (r : XReg) (v : Word) : (s.setX r v).linkOut = s.linkOut := rfl
@[simp] theorem State.setX_breaks (s : State) (r : XReg) (v : Word) : (s.setX r v).breaks = s.breaks := rfl
@[simp] theorem State.setX_watches (s : State) (r : XReg) (v : Word) : (s.setX r v).watches = s.watches := rfl
@[simp] theorem State.setX_absent (s : State) (r : XReg) (v : Word) : (s.setX r v).absent = s.absent := rfl
@[simp] theorem State.setX_awaitEret (s : State) (r : XReg) (v : Word) : (s.setX r v).awaitEret = s.awaitEret := rfl
@[simp] theorem State.setX_debugLog (s : State) (r : XReg) (v : Word) : (s.setX r v).debugLog = s.debugLog := rfl
@[simp] theorem State.setX_owed (s : State) (r : XReg) (v : Word) : (s.setX r v).owed = s.owed := rfl
@[simp] theorem State.setX_cur (s : State) (r : XReg) (v : Word) : (s.setX r v).cur = s.cur := rfl
@[simp] theorem State.setX_schedule (s : State) (r : XReg) (v : Word) : (s.setX r v).schedule = s.schedule := rfl
@[simp] theorem State.setX_fresh (s : State) (r : XReg) (v : Word) : (s.setX r v).fresh = s.fresh := rfl
@[simp] theorem State.setX_nextLaunch (s : State) (r : XReg) (v : Word) : (s.setX r v).nextLaunch = s.nextLaunch := rfl

/-! ## retireTo -/

@[simp] theorem State.retireTo_harts (s : State) (n : Word) : (s.retireTo n).harts = s.harts := rfl
@[simp] theorem State.retireTo_fields (s : State) (n : Word) : (s.retireTo n).fields = s.fields := rfl
@[simp] theorem State.retireTo_dies (s : State) (n : Word) : (s.retireTo n).dies = s.dies := rfl
@[simp] theorem State.retireTo_hbm (s : State) (n : Word) : (s.retireTo n).hbm = s.hbm := rfl
@[simp] theorem State.retireTo_ports (s : State) (n : Word) : (s.retireTo n).ports = s.ports := rfl
@[simp] theorem State.retireTo_boot (s : State) (n : Word) : (s.retireTo n).boot = s.boot := rfl
@[simp] theorem State.retireTo_devid (s : State) (n : Word) : (s.retireTo n).devid = s.devid := rfl
@[simp] theorem State.retireTo_m0 (s : State) (n : Word) : (s.retireTo n).m0 = s.m0 := rfl
@[simp] theorem State.retireTo_m1 (s : State) (n : Word) : (s.retireTo n).m1 = s.m1 := rfl
@[simp] theorem State.retireTo_mem (s : State) (n : Word) : (s.retireTo n).mem = s.mem := rfl
@[simp] theorem State.retireTo_tags (s : State) (n : Word) : (s.retireTo n).tags = s.tags := rfl
@[simp] theorem State.retireTo_bad (s : State) (n : Word) : (s.retireTo n).bad = s.bad := rfl
@[simp] theorem State.retireTo_covers (s : State) (n : Word) : (s.retireTo n).covers = s.covers := rfl
@[simp] theorem State.retireTo_dead (s : State) (n : Word) : (s.retireTo n).dead = s.dead := rfl
@[simp] theorem State.retireTo_elided (s : State) (n : Word) : (s.retireTo n).elided = s.elided := rfl
@[simp] theorem State.retireTo_retired (s : State) (n : Word) : (s.retireTo n).retired = s.retired := rfl
@[simp] theorem State.retireTo_softRows (s : State) (n : Word) : (s.retireTo n).softRows = s.softRows := rfl
@[simp] theorem State.retireTo_hardRows (s : State) (n : Word) : (s.retireTo n).hardRows = s.hardRows := rfl
@[simp] theorem State.retireTo_vias (s : State) (n : Word) : (s.retireTo n).vias = s.vias := rfl
@[simp] theorem State.retireTo_stores (s : State) (n : Word) : (s.retireTo n).stores = s.stores := rfl
@[simp] theorem State.retireTo_routes (s : State) (n : Word) : (s.retireTo n).routes = s.routes := rfl
@[simp] theorem State.retireTo_queues (s : State) (n : Word) : (s.retireTo n).queues = s.queues := rfl
@[simp] theorem State.retireTo_launches (s : State) (n : Word) : (s.retireTo n).launches = s.launches := rfl
@[simp] theorem State.retireTo_saved (s : State) (n : Word) : (s.retireTo n).saved = s.saved := rfl
@[simp] theorem State.retireTo_lastServed (s : State) (n : Word) : (s.retireTo n).lastServed = s.lastServed := rfl
@[simp] theorem State.retireTo_known (s : State) (n : Word) : (s.retireTo n).known = s.known := rfl
@[simp] theorem State.retireTo_doubleFaults (s : State) (n : Word) : (s.retireTo n).doubleFaults = s.doubleFaults := rfl
@[simp] theorem State.retireTo_reports (s : State) (n : Word) : (s.retireTo n).reports = s.reports := rfl
@[simp] theorem State.retireTo_errCounts (s : State) (n : Word) : (s.retireTo n).errCounts = s.errCounts := rfl
@[simp] theorem State.retireTo_commands (s : State) (n : Word) : (s.retireTo n).commands = s.commands := rfl
@[simp] theorem State.retireTo_linkOut (s : State) (n : Word) : (s.retireTo n).linkOut = s.linkOut := rfl
@[simp] theorem State.retireTo_breaks (s : State) (n : Word) : (s.retireTo n).breaks = s.breaks := rfl
@[simp] theorem State.retireTo_watches (s : State) (n : Word) : (s.retireTo n).watches = s.watches := rfl
@[simp] theorem State.retireTo_absent (s : State) (n : Word) : (s.retireTo n).absent = s.absent := rfl
@[simp] theorem State.retireTo_awaitEret (s : State) (n : Word) : (s.retireTo n).awaitEret = s.awaitEret := rfl
@[simp] theorem State.retireTo_debugLog (s : State) (n : Word) : (s.retireTo n).debugLog = s.debugLog := rfl
@[simp] theorem State.retireTo_owed (s : State) (n : Word) : (s.retireTo n).owed = s.owed := rfl
@[simp] theorem State.retireTo_cur (s : State) (n : Word) : (s.retireTo n).cur = s.cur := rfl
@[simp] theorem State.retireTo_schedule (s : State) (n : Word) : (s.retireTo n).schedule = s.schedule := rfl
@[simp] theorem State.retireTo_fresh (s : State) (n : Word) : (s.retireTo n).fresh = s.fresh := rfl
@[simp] theorem State.retireTo_nextLaunch (s : State) (n : Word) : (s.retireTo n).nextLaunch = s.nextLaunch := rfl

/-! ## retireBranch -/

@[simp] theorem State.retireBranch_harts (s : State) (n : Word) : (s.retireBranch n).harts = s.harts := rfl
@[simp] theorem State.retireBranch_fields (s : State) (n : Word) : (s.retireBranch n).fields = s.fields := rfl
@[simp] theorem State.retireBranch_dies (s : State) (n : Word) : (s.retireBranch n).dies = s.dies := rfl
@[simp] theorem State.retireBranch_hbm (s : State) (n : Word) : (s.retireBranch n).hbm = s.hbm := rfl
@[simp] theorem State.retireBranch_ports (s : State) (n : Word) : (s.retireBranch n).ports = s.ports := rfl
@[simp] theorem State.retireBranch_boot (s : State) (n : Word) : (s.retireBranch n).boot = s.boot := rfl
@[simp] theorem State.retireBranch_devid (s : State) (n : Word) : (s.retireBranch n).devid = s.devid := rfl
@[simp] theorem State.retireBranch_m0 (s : State) (n : Word) : (s.retireBranch n).m0 = s.m0 := rfl
@[simp] theorem State.retireBranch_m1 (s : State) (n : Word) : (s.retireBranch n).m1 = s.m1 := rfl
@[simp] theorem State.retireBranch_mem (s : State) (n : Word) : (s.retireBranch n).mem = s.mem := rfl
@[simp] theorem State.retireBranch_tags (s : State) (n : Word) : (s.retireBranch n).tags = s.tags := rfl
@[simp] theorem State.retireBranch_bad (s : State) (n : Word) : (s.retireBranch n).bad = s.bad := rfl
@[simp] theorem State.retireBranch_covers (s : State) (n : Word) : (s.retireBranch n).covers = s.covers := rfl
@[simp] theorem State.retireBranch_dead (s : State) (n : Word) : (s.retireBranch n).dead = s.dead := rfl
@[simp] theorem State.retireBranch_elided (s : State) (n : Word) : (s.retireBranch n).elided = s.elided := rfl
@[simp] theorem State.retireBranch_retired (s : State) (n : Word) : (s.retireBranch n).retired = s.retired := rfl
@[simp] theorem State.retireBranch_softRows (s : State) (n : Word) : (s.retireBranch n).softRows = s.softRows := rfl
@[simp] theorem State.retireBranch_hardRows (s : State) (n : Word) : (s.retireBranch n).hardRows = s.hardRows := rfl
@[simp] theorem State.retireBranch_vias (s : State) (n : Word) : (s.retireBranch n).vias = s.vias := rfl
@[simp] theorem State.retireBranch_stores (s : State) (n : Word) : (s.retireBranch n).stores = s.stores := rfl
@[simp] theorem State.retireBranch_routes (s : State) (n : Word) : (s.retireBranch n).routes = s.routes := rfl
@[simp] theorem State.retireBranch_queues (s : State) (n : Word) : (s.retireBranch n).queues = s.queues := rfl
@[simp] theorem State.retireBranch_launches (s : State) (n : Word) : (s.retireBranch n).launches = s.launches := rfl
@[simp] theorem State.retireBranch_saved (s : State) (n : Word) : (s.retireBranch n).saved = s.saved := rfl
@[simp] theorem State.retireBranch_lastServed (s : State) (n : Word) : (s.retireBranch n).lastServed = s.lastServed := rfl
@[simp] theorem State.retireBranch_known (s : State) (n : Word) : (s.retireBranch n).known = s.known := rfl
@[simp] theorem State.retireBranch_doubleFaults (s : State) (n : Word) : (s.retireBranch n).doubleFaults = s.doubleFaults := rfl
@[simp] theorem State.retireBranch_reports (s : State) (n : Word) : (s.retireBranch n).reports = s.reports := rfl
@[simp] theorem State.retireBranch_errCounts (s : State) (n : Word) : (s.retireBranch n).errCounts = s.errCounts := rfl
@[simp] theorem State.retireBranch_commands (s : State) (n : Word) : (s.retireBranch n).commands = s.commands := rfl
@[simp] theorem State.retireBranch_linkOut (s : State) (n : Word) : (s.retireBranch n).linkOut = s.linkOut := rfl
@[simp] theorem State.retireBranch_breaks (s : State) (n : Word) : (s.retireBranch n).breaks = s.breaks := rfl
@[simp] theorem State.retireBranch_watches (s : State) (n : Word) : (s.retireBranch n).watches = s.watches := rfl
@[simp] theorem State.retireBranch_absent (s : State) (n : Word) : (s.retireBranch n).absent = s.absent := rfl
@[simp] theorem State.retireBranch_awaitEret (s : State) (n : Word) : (s.retireBranch n).awaitEret = s.awaitEret := rfl
@[simp] theorem State.retireBranch_debugLog (s : State) (n : Word) : (s.retireBranch n).debugLog = s.debugLog := rfl
@[simp] theorem State.retireBranch_owed (s : State) (n : Word) : (s.retireBranch n).owed = s.owed := rfl
@[simp] theorem State.retireBranch_cur (s : State) (n : Word) : (s.retireBranch n).cur = s.cur := rfl
@[simp] theorem State.retireBranch_schedule (s : State) (n : Word) : (s.retireBranch n).schedule = s.schedule := rfl
@[simp] theorem State.retireBranch_fresh (s : State) (n : Word) : (s.retireBranch n).fresh = s.fresh := rfl
@[simp] theorem State.retireBranch_nextLaunch (s : State) (n : Word) : (s.retireBranch n).nextLaunch = s.nextLaunch := rfl

/-! ## Accessors after updates -/

@[simp] theorem State.thr_setThr_same (s : State) (t : Tid) (th : Thread) : (s.setThr t th).thr t = th := by
  simp [State.thr, State.setThr]

theorem State.thr_setThr_ne (s : State) {t u : Tid} (th : Thread) (h : u ≠ t) : (s.setThr t th).thr u = s.thr u := by
  have h' : t.val ≠ u.val := fun e => h (Fin.ext e.symm)
  simp [State.thr, State.setThr, h']

theorem State.thr_setThr (s : State) (t u : Tid) (th : Thread) : (s.setThr t th).thr u = if u = t then th else s.thr u := by
  split
  next h => subst h; simp
  next h => exact s.thr_setThr_ne th h

@[simp] theorem State.setThr_setThr (s : State) (t : Tid) (a b : Thread) : (s.setThr t a).setThr t b = s.setThr t b := by
  simp [State.setThr]

@[simp] theorem State.setThr_thr (s : State) (t : Tid) : s.setThr t (s.thr t) = s := by
  simp [State.setThr, State.thr]

@[simp] theorem State.arch_setThr_same (s : State) (t : Tid) (th : Thread) : (s.setThr t th).arch t = th.arch := by
  simp [State.arch]

@[simp] theorem State.arch_setArch_same (s : State) (t : Tid) (a : Arch) : (s.setArch t a).arch t = a := by
  simp [State.setArch]

@[simp] theorem State.thr_setArch_same (s : State) (t : Tid) (a : Arch) : (s.setArch t a).thr t = { s.thr t with arch := a } := by
  simp [State.setArch]

theorem State.thr_setArch_ne (s : State) {t u : Tid} (a : Arch) (h : u ≠ t) : (s.setArch t a).thr u = s.thr u := by
  simp [State.setArch, s.thr_setThr_ne _ h]

@[simp] theorem State.hrt_setHrt_same (s : State) (h : HartId) (x : Hart) : (s.setHrt h x).hrt h = x := by
  simp [State.hrt, State.setHrt]

theorem State.hrt_setHrt_ne (s : State) {h g : HartId} (x : Hart) (e : g ≠ h) : (s.setHrt h x).hrt g = s.hrt g := by
  have e' : h.val ≠ g.val := fun q => e (Fin.ext q.symm)
  simp [State.hrt, State.setHrt, e']

@[simp] theorem State.fld_setFld_same (s : State) (f : FieldId) (x : Field) : (s.setFld f x).fld f = x := by
  simp [State.fld, State.setFld]

theorem State.fld_setFld_ne (s : State) {f g : FieldId} (x : Field) (e : g ≠ f) : (s.setFld f x).fld g = s.fld g := by
  have e' : f.val ≠ g.val := fun q => e (Fin.ext q.symm)
  simp [State.fld, State.setFld, e']

@[simp] theorem State.hrt_setThr (s : State) (t : Tid) (th : Thread) (h : HartId) : (s.setThr t th).hrt h = s.hrt h := rfl
@[simp] theorem State.fld_setThr (s : State) (t : Tid) (th : Thread) (f : FieldId) : (s.setThr t th).fld f = s.fld f := rfl
@[simp] theorem State.thr_setHrt (s : State) (h : HartId) (x : Hart) (t : Tid) : (s.setHrt h x).thr t = s.thr t := rfl
@[simp] theorem State.thr_setFld (s : State) (f : FieldId) (x : Field) (t : Tid) : (s.setFld f x).thr t = s.thr t := rfl

/-! ## The x registers (R16) -/

@[simp] theorem Arch.getX_zero (a : Arch) : a.getX 0 = 0 := by simp [Arch.getX]

@[simp] theorem Arch.setX_zero (a : Arch) (v : Word) : a.setX 0 v = a := by simp [Arch.setX]

theorem Arch.getX_setX (a : Arch) (d r : XReg) (v : Word) : (a.setX d v).getX r = if r = 0 then 0 else if r = d then v else a.getX r := by
  by_cases hr : r = 0
  · rw [if_pos hr, Arch.getX, if_pos hr]
  · rw [if_neg hr, Arch.getX, if_neg hr]
    by_cases hd : d = 0
    · have e : r ≠ d := fun q => hr (q.trans hd)
      rw [if_neg e, Arch.getX, if_neg hr]
      simp only [Arch.setX, if_pos hd]
    · simp only [Arch.setX, if_neg hd]
      by_cases e : r = d
      · subst e
        simp
      · have e' : d.toNat ≠ r.toNat := fun q => e (BitVec.eq_of_toNat_eq q.symm)
        rw [if_neg e, Arch.getX, if_neg hr]
        simp [e']

@[simp] theorem Arch.setX_pc (a : Arch) (r : XReg) (v : Word) : (a.setX r v).pc = a.pc := by unfold Arch.setX; split <;> rfl
@[simp] theorem Arch.setX_lpc (a : Arch) (r : XReg) (v : Word) : (a.setX r v).lpc = a.lpc := by unfold Arch.setX; split <;> rfl
@[simp] theorem Arch.setX_lcnt (a : Arch) (r : XReg) (v : Word) : (a.setX r v).lcnt = a.lcnt := by unfold Arch.setX; split <;> rfl
@[simp] theorem Arch.setX_cf (a : Arch) (r : XReg) (v : Word) : (a.setX r v).cf = a.cf := by unfold Arch.setX; split <;> rfl
@[simp] theorem Arch.setX_mode (a : Arch) (r : XReg) (v : Word) : (a.setX r v).mode = a.mode := by unfold Arch.setX; split <;> rfl
@[simp] theorem Arch.setX_vl (a : Arch) (r : XReg) (v : Word) : (a.setX r v).vl = a.vl := by unfold Arch.setX; split <;> rfl
@[simp] theorem Arch.setX_vtype (a : Arch) (r : XReg) (v : Word) : (a.setX r v).vtype = a.vtype := by unfold Arch.setX; split <;> rfl
@[simp] theorem Arch.setX_vlmax (a : Arch) (r : XReg) (v : Word) : (a.setX r v).vlmax = a.vlmax := by unfold Arch.setX; split <;> rfl
@[simp] theorem Arch.setX_ml (a : Arch) (r : XReg) (v : Word) : (a.setX r v).ml = a.ml := by unfold Arch.setX; split <;> rfl
@[simp] theorem Arch.setX_ffst (a : Arch) (r : XReg) (v : Word) : (a.setX r v).ffst = a.ffst := by unfold Arch.setX; split <;> rfl
@[simp] theorem Arch.setX_nests (a : Arch) (r : XReg) (v : Word) : (a.setX r v).nests = a.nests := by unfold Arch.setX; split <;> rfl
@[simp] theorem Arch.setX_v (a : Arch) (r : XReg) (v : Word) : (a.setX r v).v = a.v := by unfold Arch.setX; split <;> rfl
@[simp] theorem Arch.setX_acc (a : Arch) (r : XReg) (v : Word) : (a.setX r v).acc = a.acc := by unfold Arch.setX; split <;> rfl
@[simp] theorem Arch.setX_prog (a : Arch) (r : XReg) (v : Word) : (a.setX r v).prog = a.prog := by unfold Arch.setX; split <;> rfl
@[simp] theorem Arch.setX_convoy (a : Arch) (r : XReg) (v : Word) : (a.setX r v).convoy = a.convoy := by unfold Arch.setX; split <;> rfl
@[simp] theorem Arch.setX_runs (a : Arch) (r : XReg) (v : Word) : (a.setX r v).runs = a.runs := by unfold Arch.setX; split <;> rfl

/-! ## The loop stack -/

@[simp] theorem Arch.setLoop_pc (a : Arch) (k : Nat) (e c : Word) : (a.setLoop k e c).pc = a.pc := by unfold Arch.setLoop; split <;> rfl
@[simp] theorem Arch.setLoop_x (a : Arch) (k : Nat) (e c : Word) : (a.setLoop k e c).x = a.x := by unfold Arch.setLoop; split <;> rfl
@[simp] theorem Arch.setLoop_cf (a : Arch) (k : Nat) (e c : Word) : (a.setLoop k e c).cf = a.cf := by unfold Arch.setLoop; split <;> rfl
@[simp] theorem Arch.setLoop_mode (a : Arch) (k : Nat) (e c : Word) : (a.setLoop k e c).mode = a.mode := by unfold Arch.setLoop; split <;> rfl
@[simp] theorem Arch.setLoop_vl (a : Arch) (k : Nat) (e c : Word) : (a.setLoop k e c).vl = a.vl := by unfold Arch.setLoop; split <;> rfl
@[simp] theorem Arch.setLoop_vtype (a : Arch) (k : Nat) (e c : Word) : (a.setLoop k e c).vtype = a.vtype := by unfold Arch.setLoop; split <;> rfl
@[simp] theorem Arch.setLoop_vlmax (a : Arch) (k : Nat) (e c : Word) : (a.setLoop k e c).vlmax = a.vlmax := by unfold Arch.setLoop; split <;> rfl
@[simp] theorem Arch.setLoop_ml (a : Arch) (k : Nat) (e c : Word) : (a.setLoop k e c).ml = a.ml := by unfold Arch.setLoop; split <;> rfl
@[simp] theorem Arch.setLoop_ffst (a : Arch) (k : Nat) (e c : Word) : (a.setLoop k e c).ffst = a.ffst := by unfold Arch.setLoop; split <;> rfl
@[simp] theorem Arch.setLoop_nests (a : Arch) (k : Nat) (e c : Word) : (a.setLoop k e c).nests = a.nests := by unfold Arch.setLoop; split <;> rfl
@[simp] theorem Arch.setLoop_v (a : Arch) (k : Nat) (e c : Word) : (a.setLoop k e c).v = a.v := by unfold Arch.setLoop; split <;> rfl
@[simp] theorem Arch.setLoop_acc (a : Arch) (k : Nat) (e c : Word) : (a.setLoop k e c).acc = a.acc := by unfold Arch.setLoop; split <;> rfl
@[simp] theorem Arch.setLoop_prog (a : Arch) (k : Nat) (e c : Word) : (a.setLoop k e c).prog = a.prog := by unfold Arch.setLoop; split <;> rfl
@[simp] theorem Arch.setLoop_convoy (a : Arch) (k : Nat) (e c : Word) : (a.setLoop k e c).convoy = a.convoy := by unfold Arch.setLoop; split <;> rfl
@[simp] theorem Arch.setLoop_runs (a : Arch) (k : Nat) (e c : Word) : (a.setLoop k e c).runs = a.runs := by unfold Arch.setLoop; split <;> rfl

@[simp] theorem Arch.endOfPass_pc (n : Nat) (a : Arch) (next : Word) : (Arch.endOfPass n a next).1.pc = a.pc := by
  induction n generalizing a next with
  | zero => rfl
  | succ n ih => unfold Arch.endOfPass; simp only; repeat' split
                 all_goals simp [ih]
@[simp] theorem Arch.endOfPass_x (n : Nat) (a : Arch) (next : Word) : (Arch.endOfPass n a next).1.x = a.x := by
  induction n generalizing a next with
  | zero => rfl
  | succ n ih => unfold Arch.endOfPass; simp only; repeat' split
                 all_goals simp [ih]
@[simp] theorem Arch.endOfPass_cf (n : Nat) (a : Arch) (next : Word) : (Arch.endOfPass n a next).1.cf = a.cf := by
  induction n generalizing a next with
  | zero => rfl
  | succ n ih => unfold Arch.endOfPass; simp only; repeat' split
                 all_goals simp [ih]
@[simp] theorem Arch.endOfPass_mode (n : Nat) (a : Arch) (next : Word) : (Arch.endOfPass n a next).1.mode = a.mode := by
  induction n generalizing a next with
  | zero => rfl
  | succ n ih => unfold Arch.endOfPass; simp only; repeat' split
                 all_goals simp [ih]
@[simp] theorem Arch.endOfPass_vl (n : Nat) (a : Arch) (next : Word) : (Arch.endOfPass n a next).1.vl = a.vl := by
  induction n generalizing a next with
  | zero => rfl
  | succ n ih => unfold Arch.endOfPass; simp only; repeat' split
                 all_goals simp [ih]
@[simp] theorem Arch.endOfPass_vtype (n : Nat) (a : Arch) (next : Word) : (Arch.endOfPass n a next).1.vtype = a.vtype := by
  induction n generalizing a next with
  | zero => rfl
  | succ n ih => unfold Arch.endOfPass; simp only; repeat' split
                 all_goals simp [ih]
@[simp] theorem Arch.endOfPass_vlmax (n : Nat) (a : Arch) (next : Word) : (Arch.endOfPass n a next).1.vlmax = a.vlmax := by
  induction n generalizing a next with
  | zero => rfl
  | succ n ih => unfold Arch.endOfPass; simp only; repeat' split
                 all_goals simp [ih]
@[simp] theorem Arch.endOfPass_ml (n : Nat) (a : Arch) (next : Word) : (Arch.endOfPass n a next).1.ml = a.ml := by
  induction n generalizing a next with
  | zero => rfl
  | succ n ih => unfold Arch.endOfPass; simp only; repeat' split
                 all_goals simp [ih]
@[simp] theorem Arch.endOfPass_ffst (n : Nat) (a : Arch) (next : Word) : (Arch.endOfPass n a next).1.ffst = a.ffst := by
  induction n generalizing a next with
  | zero => rfl
  | succ n ih => unfold Arch.endOfPass; simp only; repeat' split
                 all_goals simp [ih]
@[simp] theorem Arch.endOfPass_nests (n : Nat) (a : Arch) (next : Word) : (Arch.endOfPass n a next).1.nests = a.nests := by
  induction n generalizing a next with
  | zero => rfl
  | succ n ih => unfold Arch.endOfPass; simp only; repeat' split
                 all_goals simp [ih]
@[simp] theorem Arch.endOfPass_v (n : Nat) (a : Arch) (next : Word) : (Arch.endOfPass n a next).1.v = a.v := by
  induction n generalizing a next with
  | zero => rfl
  | succ n ih => unfold Arch.endOfPass; simp only; repeat' split
                 all_goals simp [ih]
@[simp] theorem Arch.endOfPass_acc (n : Nat) (a : Arch) (next : Word) : (Arch.endOfPass n a next).1.acc = a.acc := by
  induction n generalizing a next with
  | zero => rfl
  | succ n ih => unfold Arch.endOfPass; simp only; repeat' split
                 all_goals simp [ih]
@[simp] theorem Arch.endOfPass_prog (n : Nat) (a : Arch) (next : Word) : (Arch.endOfPass n a next).1.prog = a.prog := by
  induction n generalizing a next with
  | zero => rfl
  | succ n ih => unfold Arch.endOfPass; simp only; repeat' split
                 all_goals simp [ih]
@[simp] theorem Arch.endOfPass_convoy (n : Nat) (a : Arch) (next : Word) : (Arch.endOfPass n a next).1.convoy = a.convoy := by
  induction n generalizing a next with
  | zero => rfl
  | succ n ih => unfold Arch.endOfPass; simp only; repeat' split
                 all_goals simp [ih]
@[simp] theorem Arch.endOfPass_runs (n : Nat) (a : Arch) (next : Word) : (Arch.endOfPass n a next).1.runs = a.runs := by
  induction n generalizing a next with
  | zero => rfl
  | succ n ih => unfold Arch.endOfPass; simp only; repeat' split
                 all_goals simp [ih]

@[simp] theorem Arch.exitLoops_pc (n : Nat) (a : Arch) (b target : Word) : (Arch.exitLoops n a b target).pc = a.pc := by
  induction n generalizing a with
  | zero => rfl
  | succ n ih => unfold Arch.exitLoops; simp only; repeat' split
                 all_goals simp [ih]
@[simp] theorem Arch.exitLoops_x (n : Nat) (a : Arch) (b target : Word) : (Arch.exitLoops n a b target).x = a.x := by
  induction n generalizing a with
  | zero => rfl
  | succ n ih => unfold Arch.exitLoops; simp only; repeat' split
                 all_goals simp [ih]
@[simp] theorem Arch.exitLoops_cf (n : Nat) (a : Arch) (b target : Word) : (Arch.exitLoops n a b target).cf = a.cf := by
  induction n generalizing a with
  | zero => rfl
  | succ n ih => unfold Arch.exitLoops; simp only; repeat' split
                 all_goals simp [ih]
@[simp] theorem Arch.exitLoops_mode (n : Nat) (a : Arch) (b target : Word) : (Arch.exitLoops n a b target).mode = a.mode := by
  induction n generalizing a with
  | zero => rfl
  | succ n ih => unfold Arch.exitLoops; simp only; repeat' split
                 all_goals simp [ih]
@[simp] theorem Arch.exitLoops_vl (n : Nat) (a : Arch) (b target : Word) : (Arch.exitLoops n a b target).vl = a.vl := by
  induction n generalizing a with
  | zero => rfl
  | succ n ih => unfold Arch.exitLoops; simp only; repeat' split
                 all_goals simp [ih]
@[simp] theorem Arch.exitLoops_vtype (n : Nat) (a : Arch) (b target : Word) : (Arch.exitLoops n a b target).vtype = a.vtype := by
  induction n generalizing a with
  | zero => rfl
  | succ n ih => unfold Arch.exitLoops; simp only; repeat' split
                 all_goals simp [ih]
@[simp] theorem Arch.exitLoops_vlmax (n : Nat) (a : Arch) (b target : Word) : (Arch.exitLoops n a b target).vlmax = a.vlmax := by
  induction n generalizing a with
  | zero => rfl
  | succ n ih => unfold Arch.exitLoops; simp only; repeat' split
                 all_goals simp [ih]
@[simp] theorem Arch.exitLoops_ml (n : Nat) (a : Arch) (b target : Word) : (Arch.exitLoops n a b target).ml = a.ml := by
  induction n generalizing a with
  | zero => rfl
  | succ n ih => unfold Arch.exitLoops; simp only; repeat' split
                 all_goals simp [ih]
@[simp] theorem Arch.exitLoops_ffst (n : Nat) (a : Arch) (b target : Word) : (Arch.exitLoops n a b target).ffst = a.ffst := by
  induction n generalizing a with
  | zero => rfl
  | succ n ih => unfold Arch.exitLoops; simp only; repeat' split
                 all_goals simp [ih]
@[simp] theorem Arch.exitLoops_nests (n : Nat) (a : Arch) (b target : Word) : (Arch.exitLoops n a b target).nests = a.nests := by
  induction n generalizing a with
  | zero => rfl
  | succ n ih => unfold Arch.exitLoops; simp only; repeat' split
                 all_goals simp [ih]
@[simp] theorem Arch.exitLoops_v (n : Nat) (a : Arch) (b target : Word) : (Arch.exitLoops n a b target).v = a.v := by
  induction n generalizing a with
  | zero => rfl
  | succ n ih => unfold Arch.exitLoops; simp only; repeat' split
                 all_goals simp [ih]
@[simp] theorem Arch.exitLoops_acc (n : Nat) (a : Arch) (b target : Word) : (Arch.exitLoops n a b target).acc = a.acc := by
  induction n generalizing a with
  | zero => rfl
  | succ n ih => unfold Arch.exitLoops; simp only; repeat' split
                 all_goals simp [ih]
@[simp] theorem Arch.exitLoops_prog (n : Nat) (a : Arch) (b target : Word) : (Arch.exitLoops n a b target).prog = a.prog := by
  induction n generalizing a with
  | zero => rfl
  | succ n ih => unfold Arch.exitLoops; simp only; repeat' split
                 all_goals simp [ih]
@[simp] theorem Arch.exitLoops_convoy (n : Nat) (a : Arch) (b target : Word) : (Arch.exitLoops n a b target).convoy = a.convoy := by
  induction n generalizing a with
  | zero => rfl
  | succ n ih => unfold Arch.exitLoops; simp only; repeat' split
                 all_goals simp [ih]
@[simp] theorem Arch.exitLoops_runs (n : Nat) (a : Arch) (b target : Word) : (Arch.exitLoops n a b target).runs = a.runs := by
  induction n generalizing a with
  | zero => rfl
  | succ n ih => unfold Arch.exitLoops; simp only; repeat' split
                 all_goals simp [ih]

@[simp] theorem Arch.advance_x (a : Arch) (next : Word) : (a.advance next).x = a.x := by simp [Arch.advance]
@[simp] theorem Arch.advance_cf (a : Arch) (next : Word) : (a.advance next).cf = a.cf := by simp [Arch.advance]
@[simp] theorem Arch.advance_mode (a : Arch) (next : Word) : (a.advance next).mode = a.mode := by simp [Arch.advance]
@[simp] theorem Arch.advance_vl (a : Arch) (next : Word) : (a.advance next).vl = a.vl := by simp [Arch.advance]
@[simp] theorem Arch.advance_vtype (a : Arch) (next : Word) : (a.advance next).vtype = a.vtype := by simp [Arch.advance]
@[simp] theorem Arch.advance_vlmax (a : Arch) (next : Word) : (a.advance next).vlmax = a.vlmax := by simp [Arch.advance]
@[simp] theorem Arch.advance_ml (a : Arch) (next : Word) : (a.advance next).ml = a.ml := by simp [Arch.advance]
@[simp] theorem Arch.advance_ffst (a : Arch) (next : Word) : (a.advance next).ffst = a.ffst := by simp [Arch.advance]
@[simp] theorem Arch.advance_nests (a : Arch) (next : Word) : (a.advance next).nests = a.nests := by simp [Arch.advance]
@[simp] theorem Arch.advance_v (a : Arch) (next : Word) : (a.advance next).v = a.v := by simp [Arch.advance]
@[simp] theorem Arch.advance_acc (a : Arch) (next : Word) : (a.advance next).acc = a.acc := by simp [Arch.advance]
@[simp] theorem Arch.advance_prog (a : Arch) (next : Word) : (a.advance next).prog = a.prog := by simp [Arch.advance]
@[simp] theorem Arch.advance_runs (a : Arch) (next : Word) : (a.advance next).runs = a.runs := by simp [Arch.advance]
@[simp] theorem Arch.advance_convoy (a : Arch) (next : Word) : (a.advance next).convoy = none := rfl

end Sys2Proof.Machine
end

