-- ==== Sys2Proof/Laws/Memory.lean ====
section
/-! SUPPORT. Memory as sparse data: reading after writing, and that every operation on memory and tags keeps their canonical form. -/

namespace Sys2Proof.Machine

/-! ## Sparse maps -/

theorem Sparse.wf_iff {α : Type} [DecidableEq α] (d : α) (m : List (Nat × α)) :
    Sparse.wf d m = true ↔ (∀ p ∈ m, p.2 ≠ d) ∧ m.Pairwise fun p q => p.1 < q.1 := by
  induction m with
  | nil => simp [Sparse.wf]
  | cons p t ih =>
    obtain ⟨a, v⟩ := p
    cases t with
    | nil => simp [Sparse.wf]
    | cons q t =>
      obtain ⟨b, w⟩ := q
      simp only [Sparse.wf, Bool.and_eq_true, decide_eq_true_eq, ih, List.mem_cons, forall_eq_or_imp, List.pairwise_cons]
      constructor
      · rintro ⟨⟨hv, hab⟩, ⟨hw, ht⟩, hb, hp⟩
        exact ⟨⟨hv, hw, ht⟩, ⟨hab, fun p hp' => lt_trans hab (hb p hp')⟩, hb, hp⟩
      · rintro ⟨⟨hv, hw, ht⟩, ⟨hab, -⟩, hb, hp⟩
        exact ⟨⟨hv, hab⟩, ⟨hw, ht⟩, hb, hp⟩

theorem Sparse.wf_tail {α : Type} [DecidableEq α] {d : α} {p : Nat × α} {m : List (Nat × α)} (h : Sparse.wf d (p :: m) = true) :
    Sparse.wf d m = true := by
  rw [Sparse.wf_iff] at *
  exact ⟨fun q hq => h.1 q (List.mem_cons_of_mem _ hq), (List.pairwise_cons.mp h.2).2⟩

theorem Sparse.head_lt {α : Type} [DecidableEq α] {d : α} {p : Nat × α} {m : List (Nat × α)} (h : Sparse.wf d (p :: m) = true) :
    ∀ q ∈ m, p.1 < q.1 := by
  rw [Sparse.wf_iff] at h; exact (List.pairwise_cons.mp h.2).1

/-- Every entry of a write is an old one, or the new one. -/
theorem Sparse.mem_set {α : Type} [DecidableEq α] {d : α} {m : List (Nat × α)} {k : Nat} {v : α} {p : Nat × α} (h : p ∈ Sparse.set d m k v) :
    p ∈ m ∨ p = (k, v) ∧ v ≠ d := by
  induction m with
  | nil => simp only [Sparse.set] at h; split at h <;> simp_all
  | cons q t ih =>
    obtain ⟨a, w⟩ := q
    simp only [Sparse.set] at h
    split at h
    · split at h <;> simp_all
      tauto
    · split at h
      · split at h <;> simp_all
        tauto
      · rcases List.mem_cons.mp h with rfl | h
        · simp
        · rcases ih h with h | h <;> simp_all

theorem Sparse.set_wf {α : Type} [DecidableEq α] {d : α} {m : List (Nat × α)} (h : Sparse.wf d m = true) (k : Nat) (v : α) :
    Sparse.wf d (Sparse.set d m k v) = true := by
  induction m with
  | nil => by_cases hv : v = d <;> simp [Sparse.set, Sparse.wf, hv]
  | cons q t ih =>
    obtain ⟨a, w⟩ := q
    have ht := Sparse.wf_tail h
    have hlt := Sparse.head_lt h
    have hw : w ≠ d := ((Sparse.wf_iff d _).mp h).1 (a, w) (by simp)
    simp only [Sparse.set]
    split
    next hk =>
      subst hk
      split
      · exact ht
      · rw [Sparse.wf_iff] at *
        exact ⟨List.forall_mem_cons.mpr ⟨by assumption, ht.1⟩, List.pairwise_cons.mpr ⟨hlt, ht.2⟩⟩
    next hk =>
      split
      next hka =>
        split
        · exact h
        · rw [Sparse.wf_iff] at *
          refine ⟨List.forall_mem_cons.mpr ⟨by assumption, h.1⟩, List.pairwise_cons.mpr ⟨?_, h.2⟩⟩
          intro q hq
          rcases List.mem_cons.mp hq with rfl | hq
          · exact hka
          · exact lt_trans hka (hlt q hq)
      next hka =>
        have := (Sparse.wf_iff d _).mp (ih ht)
        rw [Sparse.wf_iff]
        refine ⟨?_, List.pairwise_cons.mpr ⟨?_, this.2⟩⟩
        · intro q hq
          rcases List.mem_cons.mp hq with rfl | hq
          · exact hw
          · exact this.1 q hq
        · intro q hq
          rcases Sparse.mem_set hq with hq | ⟨rfl, -⟩
          · exact hlt q hq
          · simp only; omega

theorem Sparse.get_lt {α : Type} [DecidableEq α] {d : α} {m : List (Nat × α)} {k : Nat} (h : ∀ p ∈ m, k < p.1) : Sparse.get d m k = d := by
  cases m with
  | nil => rfl
  | cons q t =>
    obtain ⟨a, w⟩ := q
    have := h (a, w) (by simp)
    simp only at this
    simp only [Sparse.get]
    rw [if_neg (by omega), if_pos this]

/-- Reading after writing (R201). -/
theorem Sparse.get_set {α : Type} [DecidableEq α] {d : α} {m : List (Nat × α)} (h : Sparse.wf d m = true) (k j : Nat) (v : α) :
    Sparse.get d (Sparse.set d m k v) j = if j = k then v else Sparse.get d m j := by
  induction m with
  | nil => by_cases hv : v = d <;> by_cases hj : j = k <;> simp [Sparse.set, Sparse.get, hv, hj]
  | cons q t ih =>
    obtain ⟨a, w⟩ := q
    have ht := Sparse.wf_tail h
    have hlt := Sparse.head_lt h
    simp only at hlt
    have hd : ∀ i, i ≤ a → Sparse.get d t i = d := fun i hi => Sparse.get_lt fun p hp => lt_of_le_of_lt hi (hlt p hp)
    simp only [Sparse.set]
    by_cases hka : k = a
    · subst hka
      by_cases hv : v = d
      · subst hv
        simp only [if_true, Sparse.get]
        by_cases hj : j = k
        · subst hj; simp [hd j le_rfl]
        · by_cases hjk : j < k
          · simp [hj, hjk, hd j hjk.le]
          · simp [hj, hjk]
      · simp [hv, Sparse.get]
        by_cases hj : j = k <;> simp [hj]
    · by_cases hlt' : k < a
      · by_cases hv : v = d
        · subst hv
          simp only [hka, hlt', if_true, if_false]
          by_cases hj : j = k
          · subst hj; simp [Sparse.get, hka, hlt']
          · simp [hj]
        · simp only [hka, hlt', hv, if_true, if_false, Sparse.get]
          by_cases hj : j = k
          · simp [hj]
          · by_cases hjk : j < k
            · have : j ≠ a := by omega
              have h2 : j < a := by omega
              simp [hj, hjk, this, h2]
            · simp [hj, hjk]
      · simp only [hka, hlt', if_false, Sparse.get, ih ht]
        by_cases hj : j = a
        · subst hj; have : ¬ j = k := fun e => hka e.symm; simp [this]
        · by_cases hja : j < a
          · have : j ≠ k := by omega
            simp [hj, hja, this]
          · simp [hj, hja]

theorem Sparse.filter_wf {α : Type} [DecidableEq α] {d : α} {m : List (Nat × α)} (h : Sparse.wf d m = true) (f : Nat × α → Bool) :
    Sparse.wf d (m.filter f) = true := by
  rw [Sparse.wf_iff] at *
  exact ⟨fun p hp => h.1 p (List.mem_of_mem_filter hp), h.2.filter f⟩

theorem Sparse.clear_wf {α : Type} [DecidableEq α] {d : α} {m : List (Nat × α)} (h : Sparse.wf d m = true) (lo hi : Nat) :
    Sparse.wf d (Sparse.clear lo hi m) = true := Sparse.filter_wf h _

/-- Reading after keys have been dropped. -/
theorem Sparse.get_clear {α : Type} [DecidableEq α] {d : α} {m : List (Nat × α)} (h : Sparse.wf d m = true) (lo hi j : Nat) :
    Sparse.get d (Sparse.clear lo hi m) j = if lo ≤ j ∧ j < hi then d else Sparse.get d m j := by
  induction m with
  | nil => simp [Sparse.clear, Sparse.get]
  | cons q t ih =>
    obtain ⟨a, w⟩ := q
    have ht := Sparse.wf_tail h
    have hlt := Sparse.head_lt h
    simp only at hlt
    have ih := ih ht
    unfold Sparse.clear at *
    by_cases hin : a < lo ∨ hi ≤ a
    · rw [List.filter_cons_of_pos (by simpa using hin)]
      simp only [Sparse.get]
      by_cases hj : j = a
      · subst hj
        simp only [if_true]
        rw [if_neg (by omega)]
      · by_cases hja : j < a
        · simp [hj, hja]
        · simp [hj, hja, ih]
    · rw [List.filter_cons_of_neg (by simpa using hin)]
      rw [ih]
      by_cases hj : j = a
      · subst hj
        rw [if_pos (by omega), if_pos (by omega)]
      · by_cases hja : j < a
        · simp only [Sparse.get, hj, hja, if_true, if_false]
          rw [Sparse.get_lt fun p hp => lt_trans hja (hlt p hp)]
        · simp only [Sparse.get, hj, hja, if_false]

theorem Memory.write_wf {m : Memory} (h : m.wf = true) (k : Nat) (b : Byte) : (m.write k b).wf = true := Sparse.set_wf h k b

theorem Memory.read_write {m : Memory} (h : m.wf = true) (k j : Nat) (b : Byte) : (m.write k b).read j = if j = k then b else m.read j :=
  Sparse.get_set h k j b

theorem Memory.foldl_write_wf {β : Type} (l : List β) (f : β → Nat) (g : β → Byte) {m : Memory} (h : m.wf = true) :
    (l.foldl (fun m p => m.write (f p) (g p)) m).wf = true := by
  induction l generalizing m with
  | nil => exact h
  | cons p t ih => exact ih (Memory.write_wf h _ _)

theorem putNum_wf {m : Memory} (h : m.wf = true) (k v n : Nat) : (putNum m k v n).wf = true := by
  induction n generalizing k v with
  | zero => exact h
  | succ n ih => exact Memory.write_wf (ih _ _) _ _

/-! ## The operations of the state -/

theorem State.Canonical.of_eq {s t : State} (h : s.Canonical) (hm : t.mem = s.mem) (ht : t.tags = s.tags) : t.Canonical := by
  unfold State.Canonical; rw [hm, ht]; exact h

theorem reset_canonical : State.reset.Canonical := by constructor <;> rfl

/-- A fold keeps the form when each of its steps does. -/
theorem State.foldl_canonical {β : Type} {f : State → β → State} (hf : ∀ s b, s.Canonical → (f s b).Canonical) (l : List β) {s : State}
    (h : s.Canonical) : (l.foldl f s).Canonical := by
  induction l generalizing s with
  | nil => exact h
  | cons b t ih => exact ih (hf s b h)

theorem State.noticeThreads_canonical {s : State} (h : s.Canonical) (f : Nat → Bool) : (s.noticeThreads f).Canonical := h

theorem State.noticeWrite_canonical {s : State} (h : s.Canonical) (l : List Nat) : (s.noticeWrite l).Canonical := by
  unfold State.noticeWrite; split
  · exact h
  · exact State.noticeThreads_canonical h _

theorem State.noticeRange_canonical {s : State} (h : s.Canonical) (lo hi : Nat) : (s.noticeRange lo hi).Canonical :=
  State.noticeThreads_canonical h _

theorem State.reportHits_canonical {s : State} (h : s.Canonical) (w : Bool) (m : Option (Tid × Word × Nat)) (l : List (Option Nat × Nat)) :
    (s.reportHits w m l).Canonical := by
  unfold State.reportHits; split <;> exact h

theorem State.revive_canonical {s : State} (h : s.Canonical) (r : Nat) : (s.revive r).Canonical := by
  unfold State.revive
  apply State.noticeWrite_canonical
  apply State.noticeRange_canonical
  exact ⟨Memory.write_wf (Sparse.clear_wf h.1 _ _) _ _, Sparse.clear_wf h.2 _ _⟩

theorem State.reviveAt_canonical {s : State} (h : s.Canonical) (k : Nat) : (s.reviveAt k).Canonical := by
  unfold State.reviveAt; split
  · exact State.revive_canonical h _
  · exact h

theorem State.performByte_canonical {s : State} (h : s.Canonical) (b : SByte) : (s.performByte b).Canonical :=
  ⟨Memory.write_wf (State.reviveAt_canonical h _).1 _ _, (State.reviveAt_canonical h _).2⟩

theorem State.performTag_canonical {s : State} (h : s.Canonical) (p : Nat × TagWrite) : (s.performTag p).Canonical := by
  unfold State.performTag
  split
  · exact ⟨(State.reviveAt_canonical h _).1, Sparse.set_wf (State.reviveAt_canonical h _).2 _ _⟩
  · exact h

theorem State.report_canonical {s : State} (h : s.Canonical) (k : Byte) (f : FieldId) (l : BitVec 16) (pa : Word) (c : BitVec 16) :
    (s.report k f l pa c).Canonical := h

theorem State.countEvent_canonical {s : State} (h : s.Canonical) (k : Byte) (f : FieldId) (l : BitVec 16) (pa : Word) (c : BitVec 16) :
    (s.countEvent k f l pa c).Canonical := by
  unfold State.countEvent; dsimp only; split <;> exact h

theorem State.poison_canonical {s : State} (h : s.Canonical) (k : Nat) : (s.poison k).Canonical := by
  unfold State.poison
  split
  · exact ⟨h.1, Sparse.set_wf h.2 _ _⟩
  · exact h

theorem State.findErrors_canonical {s : State} (h : s.Canonical) (keys : List Nat) : (s.findErrors keys).Canonical :=
  State.foldl_canonical (fun s k h => State.poison_canonical (s := s) h k) _ h

theorem State.noticeDescriptor_canonical {s : State} (h : s.Canonical) (k : Nat) : (s.noticeDescriptor k).Canonical := by
  unfold State.noticeDescriptor
  split
  · extract_lets; split <;> exact h
  · exact h

theorem State.perform_canonical {s : State} (h : s.Canonical) (bytes : List SByte) (tags : List (Nat × TagWrite)) :
    (s.perform bytes tags).Canonical := by
  unfold State.perform
  apply State.noticeWrite_canonical
  refine State.foldl_canonical (fun s k h => State.noticeDescriptor_canonical (s := s) h k) _ ?_
  have := State.foldl_canonical (fun s p h => State.performTag_canonical (s := s) h p) tags
    (State.foldl_canonical (fun s b h => State.performByte_canonical (s := s) h b) bytes h)
  exact this

theorem State.reportPort_canonical {s : State} (h : s.Canonical) (p : Nat) (c : BitVec 16) : (s.reportPort p c).Canonical := h
theorem State.reportLoss_canonical {s : State} (h : s.Canonical) (c : BitVec 16) (k : Nat) : (s.reportLoss c k).Canonical := by
  unfold State.reportLoss
  split
  · split <;> exact h
  · exact h

theorem State.reportLost_canonical {s : State} (h : s.Canonical) (c : CtxId) (k : Nat) : (s.reportLost c k).Canonical :=
  State.reportLoss_canonical h _ _

theorem State.coverBad_canonical {s : State} (h : s.Canonical) (e : StoreEntry) : (s.coverBad e).Canonical := by
  unfold State.coverBad; split <;> exact h

theorem State.performEntry_canonical {s : State} (h : s.Canonical) (e : StoreEntry) : (s.performEntry e).Canonical := by
  unfold State.performEntry
  dsimp only
  split
  · exact State.reportHits_canonical (State.coverBad_canonical (State.perform_canonical h _ _) _) _ _ _
  · exact State.reportLost_canonical (State.reportHits_canonical (State.perform_canonical h _ _) _ _ _) _ _

theorem State.drainHome_canonical {s : State} (h : s.Canonical) (t : Tid) (sel : StoreEntry → Bool) (keys : List Nat) :
    (s.drainHome t sel keys).Canonical := by
  unfold State.drainHome
  dsimp only
  split
  · exact h
  · exact State.foldl_canonical (fun s e h => State.performEntry_canonical (s := s) h e) _ h

theorem State.drain_canonical {s : State} (h : s.Canonical) (t : Tid) (sc : Scope) (sel : StoreEntry → Bool) (keys : List Nat) :
    (s.drain t sc sel keys).Canonical := by
  unfold State.drain
  dsimp only
  split
  · exact State.drainHome_canonical h _ _ _
  · split
    · exact State.drainHome_canonical h _ _ _
    · exact State.drainHome_canonical (by exact State.drainHome_canonical h _ _ _) _ _ _

theorem State.drainAhead_canonical {s : State} (h : s.Canonical) (t : Tid) (keys : List Nat) : (s.drainAhead t keys).Canonical :=
  State.drain_canonical h _ _ _ _

theorem State.drainOwn_canonical {s : State} (h : s.Canonical) (t : Tid) (sc : Scope) (a b : Bool) : (s.drainOwn t sc a b).Canonical :=
  State.drain_canonical h _ _ _ _

theorem State.releaseAt_canonical {s : State} (h : s.Canonical) (t : Tid) (p : Point → Bool) : (s.releaseAt t p).Canonical := by
  unfold State.releaseAt; dsimp only; split <;> exact h

theorem State.release_canonical {s : State} (h : s.Canonical) (t : Tid) : (s.release t).Canonical := State.releaseAt_canonical h t _

theorem State.releaseClosing_canonical {s : State} (h : s.Canonical) (t : Tid) : (s.releaseClosing t).Canonical := State.releaseAt_canonical h t _

theorem State.settle_canonical {s : State} (h : s.Canonical) (t : Tid) : (s.settle t).Canonical := by
  unfold State.settle
  split
  · exact h
  · exact State.releaseClosing_canonical h t

theorem State.pruneAhead_canonical {s : State} (h : s.Canonical) (t : Tid) (f : Ahead → Bool) : (s.pruneAhead t f).Canonical := by
  unfold State.pruneAhead; split <;> exact h

theorem State.accessNow_canonical {s : State} (h : s.Canonical) (t : Tid) (keys : List Nat) : (s.accessNow t keys).Canonical :=
  State.pruneAhead_canonical h _ _

theorem State.dropAhead_canonical {s : State} (h : s.Canonical) (t : Tid) : (s.dropAhead t).Canonical := State.pruneAhead_canonical h _ _

theorem State.performNow_canonical {s : State} (h : s.Canonical) (t : Tid) (bytes : List SByte) : (s.performNow t bytes).Canonical := by
  unfold State.performNow
  exact State.reportHits_canonical (State.perform_canonical (State.accessNow_canonical h _ _) _ _) _ _ _

theorem State.performAt_canonical {s : State} (h : s.Canonical) (t : Tid) (k : Nat) (bytes : List Byte) : (s.performAt t k bytes).Canonical := by
  unfold State.performAt
  exact State.performNow_canonical (State.drainAhead_canonical h _ _) _ _

theorem State.performFor_canonical {s : State} (h : s.Canonical) (t : Tid) (o : Origin) (keys : List Nat) (bytes : List Byte) :
    (s.performFor t o keys bytes).Canonical := by
  unfold State.performFor
  exact State.performEntry_canonical (State.drainAhead_canonical h _ _) _

theorem State.performStruct_canonical {s : State} (h : s.Canonical) (t : Tid) (keys : List Nat) (bytes : List Byte) :
    (s.performStruct t keys bytes).Canonical := by
  unfold State.performStruct
  exact State.performFor_canonical (State.accessNow_canonical h _ _) _ _ _ _

theorem State.noteElided_canonical {s : State} (h : s.Canonical) (k : Nat) : (s.noteElided k).Canonical := by
  unfold State.noteElided
  split
  · exact State.countEvent_canonical (by exact h) _ _ _ _ _
  · exact h

theorem State.noteLines_canonical {s : State} (h : s.Canonical) (keys : List Nat) : (s.noteLines keys).Canonical := by
  unfold State.noteLines
  split
  · exact h
  · exact State.foldl_canonical (fun s k h => State.noteElided_canonical (s := s) h k) _ h

theorem State.noteRead_canonical {s : State} (h : s.Canonical) (m : Option (Tid × Word × Nat)) (l : List (Option Nat × Nat)) :
    (s.noteRead m l).Canonical := by
  unfold State.noteRead
  exact State.reportHits_canonical (State.noteLines_canonical h _) _ _ _

theorem State.noteStruct_canonical {s : State} (h : s.Canonical) (w : Who) (va : Word) (len : Nat) : (s.noteStruct w va len).Canonical := by
  unfold State.noteStruct
  split
  · exact h
  · split
    · exact State.noteRead_canonical h _ _
    · exact h

theorem State.noteReads_canonical {s : State} (h : s.Canonical) (w : Who) (l : List (Word × Nat)) : (s.noteReads w l).Canonical :=
  State.foldl_canonical (fun s p h => State.noteStruct_canonical (s := s) h w p.1 p.2) l h

theorem State.ownReads_canonical {s : State} (h : s.Canonical) (w : Who) (l : List (Word × Nat)) : (s.ownReads w l).Canonical := by
  unfold State.ownReads
  have h := State.noteReads_canonical h w l
  dsimp only
  split
  · exact h
  · refine State.foldl_canonical (fun s p h => ?_) l h
    split
    · exact State.accessNow_canonical h _ _
    · exact h

theorem State.writeHome_canonical {s : State} (h : s.Canonical) (k : Nat) (bytes : List Byte) : (s.writeHome k bytes).Canonical := by
  unfold State.writeHome
  dsimp only
  split
  · exact State.reportLoss_canonical (State.reportHits_canonical (State.perform_canonical h _ _) _ _ _) _ _
  · exact State.reportHits_canonical (State.perform_canonical h _ _) _ _ _

theorem State.deviceRead_canonical {s : State} (h : s.Canonical) (t : Tid) (loc : Loc) (len : Nat) : (s.deviceRead t loc len).2.Canonical := by
  have h := State.noteRead_canonical (State.accessNow_canonical (State.drainAhead_canonical h t ((List.range len).map (loc.key + ·))) t
    ((List.range len).map (loc.key + ·)))
  unfold State.deviceRead
  extract_lets keys u r
  exact State.Canonical.of_eq (h (u.who t).maker [(none, loc.key)]) rfl rfl

theorem State.deviceWrite_canonical {s : State} (h : s.Canonical) (t : Tid) (loc : Loc) (bytes : List SByte) :
    (s.deviceWrite t loc bytes).Canonical := by
  unfold State.deviceWrite
  split
  · exact State.reportLost_canonical h _ _
  · split
    · exact State.reportLost_canonical h _ _
    · exact State.performNow_canonical (State.drainAhead_canonical h _ _) _ _

theorem State.putStore_canonical {s : State} (h : s.Canonical) (t : Tid) (v : Bool) (bytes : List SByte) (tags : List (Nat × TagWrite)) :
    (s.putStore t v bytes tags).Canonical := by
  have h := State.accessNow_canonical h t (bytes.map SByte.key)
  unfold State.putStore; dsimp only; split <;> exact h

theorem State.storeLoc_canonical {s : State} (h : s.Canonical) (t : Tid) (v : Bool) (loc : Loc) (bytes : List Byte) :
    (s.storeLoc t v loc bytes).Canonical := by
  unfold State.storeLoc
  split
  · exact State.reportLost_canonical h _ _
  · exact State.putStore_canonical h _ _ _ _

theorem State.noteAtomic_canonical {s : State} (h : s.Canonical) (t : Tid) (k : Nat) (w : Bool) : (s.noteAtomic t k w).Canonical := by
  unfold State.noteAtomic
  split
  · exact State.noteLines_canonical h _
  · exact State.noteRead_canonical h _ _

theorem State.atomicAt_canonical {s : State} (h : s.Canonical) (t : Tid) (loc : Loc) (op : AtomicOp) (w : AWidth) (b e : Nat) :
    (s.atomicAt t loc op w b e).2.2.Canonical := by
  unfold State.atomicAt
  dsimp only
  split
  · dsimp only
    split
    · exact State.deviceWrite_canonical (State.deviceRead_canonical h _ _ _) _ _ _
    · exact State.deviceRead_canonical h _ _ _
  · have h := State.accessNow_canonical (State.drainAhead_canonical h t ((List.range (amoBytes w)).map (loc.key + ·))) t
      ((List.range (amoBytes w)).map (loc.key + ·))
    split
    · exact State.noteAtomic_canonical h _ _ _
    · exact State.performNow_canonical (State.noteAtomic_canonical h _ _ _) _ _

theorem State.outsideWrite_canonical {s : State} (h : s.Canonical) (k : Nat) (b : Byte) : (s.outsideWrite k b).Canonical := by
  unfold State.outsideWrite
  split
  · exact ⟨Memory.write_wf h.1 _ _, h.2⟩
  · exact h

theorem State.clearLocal_canonical {s : State} (h : s.Canonical) (x : HartId) (lo hi : Nat) : (s.clearLocal x lo hi).Canonical := by
  unfold State.clearLocal
  dsimp only
  apply State.noticeRange_canonical
  exact ⟨Sparse.clear_wf h.1 _ _, h.2⟩

theorem State.claim_canonical {s : State} (h : s.Canonical) (x : HartId) (c : CtxId) : (s.claim x c).Canonical := by
  unfold State.claim
  dsimp only
  split
  · exact h
  · exact State.clearLocal_canonical (by exact h) _ _ _

theorem State.scrub_canonical {s : State} (h : s.Canonical) (x : HartId) (c : CtxId) : (s.scrub x c).Canonical := by
  unfold State.scrub
  exact State.foldl_canonical (fun s y h => State.claim_canonical (s := s) h y c) _ (State.claim_canonical h x c)

theorem State.placeWord_canonical {s : State} (h : s.Canonical) (w len : Nat) : (s.placeWord w len).Canonical :=
  ⟨putNum_wf h.1 _ _ _, h.2⟩

end Sys2Proof.Machine
end

