-- ==== Sys2Proof/Laws/Retire.lean ====
section
/-! SUPPORT. What it means for an instruction to write xd and retire: one lemma for each shared operation that ends a scalar instruction. -/

namespace Sys2Proof.Machine

theorem Arch.setLoop_withX (a : Arch) (y : Vector Word 32) (k : Nat) (e c : Word) :
    ({ a with x := y } : Arch).setLoop k e c = { a.setLoop k e c with x := y } := by
  unfold Arch.setLoop; split <;> rfl

/-- The end of a pass reads and changes the loop stack only. -/
theorem Arch.endOfPass_withX (n : Nat) (a : Arch) (y : Vector Word 32) (next : Word) :
    Arch.endOfPass n { a with x := y } next = ({ (Arch.endOfPass n a next).1 with x := y }, (Arch.endOfPass n a next).2) := by
  induction n generalizing a with
  | zero => rfl
  | succ n ih =>
    unfold Arch.endOfPass
    simp only [Arch.setLoop_withX, ih]
    have h1 : ({ a with x := y } : Arch).loopDepth = a.loopDepth := rfl
    have h2 : ∀ k, ({ a with x := y } : Arch).lpcAt k = a.lpcAt k := fun _ => rfl
    have h3 : ∀ k, ({ a with x := y } : Arch).lcntAt k = a.lcntAt k := fun _ => rfl
    have h4 : ∀ k, ({ a with x := y } : Arch).loopStart k = a.loopStart k := fun _ => rfl
    simp only [h1, h2, h3, h4]
    split
    · rfl
    · split
      · split <;> rfl
      · rfl

theorem Arch.advance_withX (a : Arch) (y : Vector Word 32) (next : Word) :
    ({ a with x := y } : Arch).advance next = { a.advance next with x := y } := by
  simp only [Arch.advance, Arch.endOfPass_withX]

theorem Arch.setX_eq_withX (a : Arch) (d : XReg) (v : Word) : a.setX d v = { a with x := (a.setX d v).x } := by
  unfold Arch.setX; split <;> rfl

theorem Arch.advance_setX (a : Arch) (d : XReg) (v next : Word) :
    (a.setX d v).advance next = { a.advance next with x := (a.setX d v).x } := by
  rw [Arch.setX_eq_withX, Arch.advance_withX]

theorem State.setArch_arch_self (s : State) (t : Tid) : { s.thr t with arch := s.arch t } = s.thr t := rfl

/-- An instruction that writes xd, raises flags and retires (R16, R24, R78, R283). -/
theorem State.complete_spec (s : State) (d : XReg) (v next : Word) (fl : BitVec 5) :
    Retires s (((s.setX d v).raiseOwn fl).retireTo next) next fl ∧ WritesX s (((s.setX d v).raiseOwn fl).retireTo next) d v := by
  have hcur : ((s.setX d v).raiseOwn fl).cur = s.cur := by
    unfold State.raiseOwn State.raise; split <;> rfl
  have hthr : ((s.setX d v).raiseOwn fl).thr s.cur
      = { s.thr s.cur with arch := (s.arch s.cur).setX d v, fflags := (s.thr s.cur).fflags ||| fl } := by
    unfold State.raiseOwn State.raise
    split
    next h => subst h; simp [State.setX]
    next h => simp [State.setX]
  have hne : ∀ u, u ≠ s.cur → ((s.setX d v).raiseOwn fl).thr u = s.thr u := by
    intro u hu
    unfold State.raiseOwn State.raise
    split
    · exact s.thr_setArch_ne _ hu
    · rw [State.setX_cur, State.thr_setThr_ne _ _ hu]; exact s.thr_setArch_ne _ hu
  have htop : (((s.setX d v).raiseOwn fl).retireTo next).thr s.cur = { s.thr s.cur with
      arch := ((s.arch s.cur).setX d v).advance next, fflags := (s.thr s.cur).fflags ||| fl, instret := (s.thr s.cur).instret + 1 } := by
    unfold State.retireTo
    rw [hcur, hthr, State.thr_setThr_same]
  have harch : (((s.setX d v).raiseOwn fl).retireTo next).arch s.cur = ((s.arch s.cur).setX d v).advance next := by
    simp only [State.arch, htop]
  refine ⟨⟨?_, ?_, ?_, ?_⟩, ?_⟩
  · unfold State.retireTo State.raiseOwn State.raise; split <;> rfl
  · intro u hu
    unfold State.retireTo
    rw [hcur, State.thr_setThr_ne _ _ hu, hne u hu]
  · rw [harch, htop]
  · rw [harch, Arch.advance_setX]
  · intro r
    rw [harch, Arch.advance_setX]
    exact Arch.getX_setX _ _ _ _

theorem State.complete_x_spec (s : State) (d : XReg) (v next : Word) :
    Retires s ((s.setX d v).retireTo next) next 0 ∧ WritesX s ((s.setX d v).retireTo next) d v := by
  have h := s.complete_spec d v next 0
  simpa [State.raiseOwn, State.raise] using h

theorem State.setX_pc (s : State) (d : XReg) (v : Word) : (s.setX d v).pc = s.pc := by
  simp [State.pc, State.setX]

/-- `completeX` in one line: what every integer and immediate instruction does. -/
theorem writes_of_completeX {s : State} {i : Instr} {d : XReg} {v : Word} (h : exec i s = s.completeX d v) : Writes s i d v := by
  refine ⟨_, h, ?_⟩
  have := s.complete_x_spec d v (s.pc + 4)
  unfold State.retire
  rw [State.setX_pc]
  exact this

/-- `completeF` in one line: what every scalar floating-point instruction does. -/
theorem writes_of_completeF {s : State} {i : Instr} {d : XReg} {r : Nat × BitVec 5} (h : exec i s = s.completeF d r) :
    Writes s i d (BitVec.ofNat 64 r.1) r.2 := by
  refine ⟨_, h, ?_⟩
  have hpc : ((s.setX d (BitVec.ofNat 64 r.1)).raiseOwn r.2).pc = s.pc := by
    unfold State.raiseOwn State.raise
    split
    · exact s.setX_pc _ _
    · simp [State.pc, State.setX]
  have := s.complete_spec d (BitVec.ofNat 64 r.1) (s.pc + 4) r.2
  unfold State.retire
  rw [hpc]
  exact this

end Sys2Proof.Machine
end

