-- ==== Sys2Proof/Laws/Shared.lean ====
section
/-! SUPPORT. For each operation that meanings and events share, what it can do, said once: how a meaning ends, what a trap, a checkpoint, a
rollback, a save and a restore leave of memory and tags, and what a turn runs. -/

namespace Sys2Proof.Machine

/-! ## How a meaning ends (R370) -/

/-- A meaning answers a next state, always: its own, a trap's, or, where it waits, the state as it was. -/
theorem finish_cases (s : State) (r : Except Stop State) :
    (∃ t, r = .ok t ∧ finish s r = .next t) ∨ (∃ c v, r = .error (.trap c v) ∧ finish s r = .next (s.syncTrap s.cur c v s.pc)) ∨
      (r = .error .wait ∧ finish s r = .next s) := by
  cases r with
  | ok t => exact .inl ⟨t, rfl, rfl⟩
  | error e =>
    cases e with
    | trap c v => exact .inr (.inl ⟨c, v, rfl, rfl⟩)
    | wait => exact .inr (.inr ⟨rfl, rfl⟩)

@[simp] theorem finish_ok (s t : State) : finish s (.ok t) = .next t := rfl
@[simp] theorem finish_trap (s : State) (c : BitVec 8) (v : Word) : finish s (.error (.trap c v)) = .next (s.syncTrap s.cur c v s.pc) := rfl
@[simp] theorem finish_wait (s : State) : finish s (.error .wait) = .next s := rfl

/-- An event answers a next state, always. -/
theorem event_eq (s : State) (o : Option State) : event s o = .next (o.getD s) := rfl
@[simp] theorem event_some (s t : State) : event s (some t) = .next t := rfl
@[simp] theorem event_none (s : State) : event s none = .next s := rfl

/-! ## Updates that touch neither memory nor tags -/

theorem State.setThr_canonical {s : State} (h : s.Canonical) (t : Tid) (th : Thread) : (s.setThr t th).Canonical := h
theorem State.setArch_canonical {s : State} (h : s.Canonical) (t : Tid) (a : Arch) : (s.setArch t a).Canonical := h
theorem State.setHrt_canonical {s : State} (h : s.Canonical) (x : HartId) (y : Hart) : (s.setHrt x y).Canonical := h
theorem State.setFld_canonical {s : State} (h : s.Canonical) (x : FieldId) (y : Field) : (s.setFld x y).Canonical := h
theorem State.setX_canonical {s : State} (h : s.Canonical) (d : XReg) (v : Word) : (s.setX d v).Canonical := h
theorem State.retireTo_canonical {s : State} (h : s.Canonical) (n : Word) : (s.retireTo n).Canonical := h
theorem State.retire_canonical {s : State} (h : s.Canonical) : s.retire.Canonical := h
theorem State.retireBranch_canonical {s : State} (h : s.Canonical) (n : Word) : (s.retireBranch n).Canonical := h
theorem State.raise_canonical {s : State} (h : s.Canonical) (t : Tid) (fl : BitVec 5) : (s.raise t fl).Canonical := by
  unfold State.raise; split <;> exact h
theorem State.dropHeld_canonical {s : State} (h : s.Canonical) (t : Tid) : (s.dropHeld t).Canonical := h

/-! ## Checkpoints, traps and restarts -/

theorem State.takeCkpt_canonical {s : State} (h : s.Canonical) (t : Tid) (c : Ckpt) : (s.takeCkpt t c).Canonical :=
  State.release_canonical (s := s) h t

theorem State.implicitCkpt_canonical {s : State} (h : s.Canonical) (t : Tid) : (s.implicitCkpt t).Canonical := by
  unfold State.implicitCkpt
  split
  · exact State.takeCkpt_canonical h t _
  · exact h

theorem State.openStrip_canonical {s : State} (h : s.Canonical) (t : Tid) (a b : Arch) : (s.openStrip t a b).Canonical :=
  State.settle_canonical (s := s) h t

theorem State.convoyCkpt_canonical {s : State} (h : s.Canonical) (t : Tid) : (s.convoyCkpt t).Canonical := by
  unfold State.convoyCkpt
  split
  · exact State.takeCkpt_canonical h t _
  · exact h

theorem State.closed_canonical {s : State} (h : s.Canonical) (t : Tid) : (s.closed t).Canonical :=
  State.release_canonical (State.settle_canonical h t) t

theorem State.doubleFault_canonical {s : State} (h : s.Canonical) (t : Tid) : (s.doubleFault t).Canonical := h

theorem State.noteFound_canonical {s : State} (h : s.Canonical) (w : Who) (va : Word) : (s.noteFound w va).Canonical := by
  unfold State.noteFound
  split
  · split
    · exact State.findErrors_canonical h _
    · split
      · exact State.poison_canonical h _
      · exact h
  · exact h

theorem State.noteTrap_canonical {s : State} (h : s.Canonical) (t : Tid) (c : BitVec 8) (v : Word) : (s.noteTrap t c v).Canonical := by
  unfold State.noteTrap
  dsimp only
  split
  · exact State.noteFound_canonical h _ _
  · split
    · split
      · exact State.noteLines_canonical h _
      · exact h
    · exact h

theorem State.trapStart_canonical {s : State} (h : s.Canonical) (t : Tid) (c : BitVec 8) (v : Word) (a : Bool) : (s.trapStart t c v a).Canonical := by
  unfold State.trapStart
  split
  · exact h
  · exact State.noteTrap_canonical h _ _ _

/-- Trap entry writes the nest frame and, beside what the access that trapped has done, nothing else of memory, and stops the thread where it
cannot. -/
theorem State.trapEntry_canonical {s : State} (h : s.Canonical) (t : Tid) (c : BitVec 8) (v : Word) (i : TrapInfo) :
    (s.trapEntry t c v i).Canonical := by
  have h0 := State.closed_canonical (State.trapStart_canonical h t c v i.async) t
  unfold State.trapEntry
  rw [show (if i.async = true then s else s.noteTrap t c v) = s.trapStart t c v i.async from rfl]
  dsimp only
  split
  · exact h0
  · split
    · exact State.performStruct_canonical (s := State.setThr (((s.trapStart t c v i.async).settle t).release t) t _) h0 _ _ _
    · exact State.performStruct_canonical (s := State.setThr (((s.trapStart t c v i.async).settle t).release t) t _) h0 _ _ _

theorem State.syncTrap_canonical {s : State} (h : s.Canonical) (t : Tid) (c : BitVec 8) (v e : Word) : (s.syncTrap t c v e).Canonical := by
  unfold State.syncTrap
  split
  · exact h
  · exact State.trapEntry_canonical h _ _ _ _

theorem State.pendingTrap_canonical {s : State} (h : s.Canonical) (t : Tid) (p : BitVec 8 × Word) (n : Nat) : (s.pendingTrap t p n).Canonical :=
  State.trapEntry_canonical (State.setThr_canonical h _ _) _ _ _ _

theorem State.rollback_canonical {s : State} (h : s.Canonical) (t : Tid) (post : Bool) : (s.rollback t post).Canonical := by
  unfold State.rollback
  split <;> exact h

theorem State.endAsk_canonical {s : State} (h : s.Canonical) (t : Tid) : (s.endAsk t).Canonical := by
  unfold State.endAsk
  dsimp only
  split
  · split <;> exact h
  · exact h

theorem State.preemptPoint_canonical {s : State} (h : s.Canonical) (t : Tid) : (s.preemptPoint t).Canonical := by
  unfold State.preemptPoint
  apply State.endAsk_canonical
  apply State.rollback_canonical
  split
  · exact State.implicitCkpt_canonical h t
  · exact h

theorem State.forcedPreempt_canonical {s : State} (h : s.Canonical) (t : Tid) : (s.forcedPreempt t).Canonical := by
  have h0 := State.preemptPoint_canonical h t
  unfold State.forcedPreempt
  dsimp only
  split
  · exact State.pendingTrap_canonical (State.setThr_canonical h0 _ _) _ _ _
  · exact State.trapEntry_canonical (State.setThr_canonical h0 _ _) _ _ _ _

theorem State.scramble_canonical {s : State} (h : s.Canonical) (t : Tid) (k : Bool) : (s.scramble t k).Canonical := h

/-! ## Harts, contexts and power -/

theorem State.clearUpper_canonical {s : State} (h : s.Canonical) (x : HartId) : (s.clearUpper x).Canonical :=
  State.clearLocal_canonical (State.clearLocal_canonical h _ _ _) _ _ _

theorem State.startThread_canonical {s : State} (h : s.Canonical) (t : Tid) (l : Launch) (n : Nat) (g : Option Lanes) (sp : Word) (p r : Bool) :
    (s.startThread t l n g sp p r).Canonical := h

theorem State.startHart_canonical {s : State} (h : s.Canonical) (x : HartId) (l : Launch) (n : Nat) : (s.startHart x l n).Canonical := by
  unfold State.startHart
  dsimp only
  exact State.foldl_canonical (fun s k h => State.startThread_canonical h _ _ _ _ _ _ _) _
    (State.startThread_canonical (State.setHrt_canonical (State.scrub_canonical h _ _) _ _) _ _ _ _ _ _ _)

theorem State.loadRoots_canonical {s : State} (h : s.Canonical) (t : Tid) (c : CtxId) : (s.loadRoots t c).Canonical := h

theorem State.restoreThread_canonical {s : State} (h : s.Canonical) (t : Tid) (th : Thread) (f : List Byte) (a : Nat) (l : Option Lanes)
    (p r : Bool) : (s.restoreThread t th f a l p r).Canonical := by
  unfold State.restoreThread
  split
  · exact h
  · extract_lets
    split
    · exact State.performStruct_canonical (by exact h) _ _ _
    · exact h

theorem State.putWindow_canonical {s : State} (h : s.Canonical) (x : HartId) (u : Bool) (i : Nat) (y : SavedHart) :
    (s.putWindow x u i y).Canonical := by
  unfold State.putWindow
  dsimp only
  apply State.noticeWrite_canonical
  exact ⟨Memory.foldl_write_wf _ _ _ h.1, h.2⟩

theorem State.restoreHart_canonical {s : State} (h : s.Canonical) (x : HartId) (i : Nat) (y : SavedHart) : (s.restoreHart x i y).Canonical := by
  unfold State.restoreHart
  dsimp only
  split
  · exact State.putWindow_canonical (State.foldl_canonical
      (fun (u : State) (p : Thread × Tid) h => State.restoreThread_canonical h _ _ _ _ _ _ _) _
      (State.setHrt_canonical (State.scrub_canonical h _ _) _ _)) _ _ _ _
  · refine State.putWindow_canonical (State.restoreThread_canonical (State.setHrt_canonical ?_ _ _) _ _ _ _ _ _ _) _ _ _ _
    split
    · exact h
    · exact State.clearLocal_canonical (State.clearLocal_canonical h _ _ _) _ _ _

theorem State.lost_canonical {s : State} (h : s.Canonical) : s.lost.Canonical := ⟨Sparse.filter_wf h.1 _, Sparse.filter_wf h.2 _⟩

theorem State.loadRuntime_canonical {s : State} (h : s.Canonical) (i : BringUpInput) : (s.loadRuntime i).Canonical := by
  unfold State.loadRuntime State.Canonical
  extract_lets m0 m1 m2 m3
  have h0 : Memory.wf m0 = true := Sparse.clear_wf h.1 _ _
  have h1 : Memory.wf m1 = true := Memory.foldl_write_wf _ _ _ h0
  have h2 : Memory.wf m2 = true := Sparse.clear_wf h1 _ _
  have h3 : Memory.wf m3 = true := Memory.foldl_write_wf _ _ _ h2
  have h4 : Sparse.wf 0 (s.tags.filter fun p => decide (2 ^ 60 ≤ p.1)) = true := Sparse.filter_wf h.2 _
  clear_value m3
  exact ⟨h3, h4⟩

/-! ## Turns -/

/-- A package without power, or stopped, answers a next state to a bring-up and a power-off only. -/
theorem State.offTurn_cases (s : State) (turn : Turn) :
    s.offTurn turn = .fault .packageOff ∨ ∃ i, turn = .event i ∧ revives i = true ∧ s.offTurn turn = exec i s := by
  unfold State.offTurn
  split
  · next i =>
    split
    · next h => exact .inr ⟨i, rfl, h, rfl⟩
    · exact .inl rfl
  · exact .inl rfl

/-- A step with power takes the slot's turn after its cycles have passed. -/
theorem step_on (s : State) (h : s.boot.powered = true) (h' : s.boot.stopped = false) :
    step s = (s.nextSlot.2.tick s.nextSlot.1.cycles).takeTurn s.nextSlot.1.turn := by
  simp [step, State.stepOnce, h, h']

theorem State.tick_canonical {s : State} (h : s.Canonical) (n : Nat) : (s.tick n).Canonical := h

/-! ## Rows (R13) -/

/-- A hart holds at most 64 healthy rows, whatever group of clusters is counted. -/
theorem rowsIn_le (h : Hart) (l : Lanes) : rowsIn h l ≤ 64 := by
  have key : ∀ (m : List (Fin 5)) (n : Nat), m.foldl (fun n r => n + r.val) n ≤ n + 4 * m.length := by
    intro m
    induction m with
    | nil => intro n; simp
    | cons a t ih => intro n; have := ih (n + a.val); have := a.isLt; simp only [List.foldl_cons, List.length_cons]; omega
  have := key ((h.rows.toArray.toList.drop l.first).take l.count) 0
  have hl : ((h.rows.toArray.toList.drop l.first).take l.count).length ≤ 16 := by simp
  unfold rowsIn
  omega

theorem State.rows_le (s : State) (t : Tid) : s.rows t ≤ 64 := by
  unfold State.rows
  split
  · exact rowsIn_le _ _
  · omega

end Sys2Proof.Machine
end

