-- ==== Sys2Proof/Laws/Elem.lean ====
section
/-! SUPPORT. Vector registers as elements: what an element reads after a write of an element, of a list of elements, or of another register. -/

namespace Sys2Proof.Machine

theorem Arch.vreg_setVreg (a : Arch) (n m : Nat) (x : VWord) : (a.setVreg n x).vreg m = if m = n ∧ n < 32 then x else a.vreg m := by
  unfold Arch.setVreg Arch.vreg
  split
  next h =>
    by_cases hm : m = n
    · subst hm; simp [h]
    · simp [hm, Ne.symm hm]
  next h => simp [h]

theorem Arch.setVreg_eq (a : Arch) (n : Nat) (x : VWord) : a.setVreg n x = { a with v := (a.setVreg n x).v } := by
  unfold Arch.setVreg; split <;> rfl

theorem Arch.setElem_eq (a : Arch) (rows v w i val : Nat) : a.setElem rows v w i val = { a with v := (a.setElem rows v w i val).v } :=
  Arch.setVreg_eq _ _ _

theorem putBits_getLsbD (x : VWord) (off w val p : Nat) (hp : p < 131072) :
    (putBits x off w val).getLsbD p = if off ≤ p ∧ p < off + w then val.testBit (p - off) else x.getLsbD p := by
  unfold putBits
  simp only [BitVec.getLsbD_or, BitVec.getLsbD_and, BitVec.getLsbD_not, BitVec.getLsbD_ofNat, hp, decide_true, Bool.true_and,
    Nat.testBit_shiftLeft, Nat.testBit_two_pow_sub_one, Nat.testBit_mod_two_pow]
  by_cases h1 : off ≤ p
  · by_cases h2 : p < off + w
    · have : p - off < w := by omega
      simp [h1, h2, this]
    · have : ¬ p - off < w := by omega
      simp [h1, h2, this]
  · simp [h1]

theorem Arch.elem_testBit (a : Arch) (rows v w i k : Nat) :
    (a.elem rows v w i).testBit k = (decide (k < w) && (a.vreg (v + i * w / regBits rows)).getLsbD (i * w % regBits rows + k)) := by
  unfold Arch.elem
  simp [Nat.testBit_mod_two_pow, Nat.testBit_shiftRight, BitVec.getLsbD]

theorem Arch.elem_lt (a : Arch) (rows v w i : Nat) : a.elem rows v w i < 2 ^ w := Nat.mod_lt _ (by positivity)

/-- Two different elements of one register do not overlap. -/
theorem elem_apart {w i j n : Nat} (hw : w ∣ n) (hi : i ≠ j) (hq : i * w / n = j * w / n) :
    i * w % n + w ≤ j * w % n ∨ j * w % n + w ≤ i * w % n := by
  obtain ⟨c, rfl⟩ := hw
  rcases Nat.eq_zero_or_pos w with rfl | hw
  · simp
  have e : ∀ x, x * w % (w * c) = x % c * w := fun x => by rw [Nat.mul_comm x w, Nat.mul_mod_mul_left, Nat.mul_comm]
  have q : ∀ x, x * w / (w * c) = x / c := fun x => by rw [Nat.mul_comm x w, Nat.mul_div_mul_left _ _ hw]
  rw [q, q] at hq
  rw [e, e]
  have hne : i % c ≠ j % c := fun h => hi (by rw [← Nat.div_add_mod i c, ← Nat.div_add_mod j c, hq, h])
  rcases Nat.lt_or_gt_of_ne hne with h | h
  · left; nlinarith
  · right; nlinarith

/-- Reading an element after writing one at the same width (R60). -/
theorem Arch.elem_setElem (a : Arch) {rows v w i : Nat} (j val : Nat) (hr : 0 < rows) (hr' : rows ≤ 64) (hw : w ∣ regBits rows)
    (hv : v + i * w / regBits rows < 32) :
    (a.setElem rows v w i val).elem rows v w j = if j = i then val % 2 ^ w else a.elem rows v w j := by
  have hpos : 0 < regBits rows := by unfold regBits; omega
  have hle : regBits rows ≤ 131072 := by unfold regBits; omega
  have hwle : w ≤ regBits rows := Nat.le_of_dvd hpos hw
  have fit : ∀ x, x * w % regBits rows + w ≤ regBits rows := fun x => by
    obtain ⟨c, hc⟩ := hw
    have hc0 : 0 < c := Nat.pos_of_ne_zero fun h => by rw [h] at hc; omega
    have e : x * w % (w * c) = x % c * w := by rw [Nat.mul_comm x w, Nat.mul_mod_mul_left, Nat.mul_comm]
    rw [hc, e]
    have := Nat.mod_lt x hc0
    nlinarith
  apply Nat.eq_of_testBit_eq
  intro k
  rw [Arch.elem_testBit]
  unfold Arch.setElem
  rw [Arch.vreg_setVreg]
  by_cases hk : k < w
  · have hp : j * w % regBits rows + k < 131072 := by have := fit j; omega
    by_cases hji : j = i
    · subst hji
      simp [hk, hv, putBits_getLsbD _ _ _ _ _ hp, Nat.testBit_mod_two_pow]
    · by_cases hq : i * w / regBits rows = j * w / regBits rows
      · have hap := elem_apart hw (Ne.symm hji) hq
        have : v + j * w / regBits rows < 32 := by omega
        simp only [hk, hq, this, and_self, if_true, decide_true, Bool.true_and, hji, if_false, Arch.elem_testBit]
        rw [putBits_getLsbD _ _ _ _ _ hp, if_neg (by omega)]
      · have : ¬ j * w / regBits rows = i * w / regBits rows := fun e => hq e.symm
        simp [hk, this, hji, Arch.elem_testBit]
  · by_cases hji : j = i <;> simp [hk, hji, Arch.elem_testBit, Nat.testBit_mod_two_pow]

/-- A register that the element does not lie in is as it was. -/
theorem Arch.vreg_setElem_ne (a : Arch) {rows v w i r : Nat} (val : Nat) (h : r ≠ v + i * w / regBits rows) :
    (a.setElem rows v w i val).vreg r = a.vreg r := by
  unfold Arch.setElem; rw [Arch.vreg_setVreg]; simp [h]

/-! ## Writing a list of elements -/

/-- Flags gathered along a list are those gathered from none, beside the ones there. -/
theorem foldl_flags {β : Type} (g : Arch × BitVec 5 → β → Arch × BitVec 5)
    (hg : ∀ a fl i, g (a, fl) i = ((g (a, 0) i).1, fl ||| (g (a, 0) i).2)) (idx : List β) (a : Arch) (fl : BitVec 5) :
    idx.foldl g (a, fl) = ((idx.foldl g (a, 0)).1, fl ||| (idx.foldl g (a, 0)).2) := by
  induction idx generalizing a fl with
  | nil => simp
  | cons i t ih =>
    simp only [List.foldl_cons]
    rw [hg a fl i, ih, ← Prod.mk.eta (p := g (a, 0) i), ih (g (a, 0) i).1 (g (a, 0) i).2]
    simp [BitVec.or_assoc]

theorem writeElems_nil (a : Arch) (rows d w : Nat) (f : Nat → Option (Nat × BitVec 5)) : writeElems a rows d w f [] = (a, 0) := rfl

theorem writeElems_cons (a : Arch) (rows d w : Nat) (f : Nat → Option (Nat × BitVec 5)) (i : Nat) (t : List Nat) :
    writeElems a rows d w f (i :: t) =
      (match f i with
      | none => writeElems a rows d w f t
      | some r => ((writeElems (a.setElem rows d w i r.1) rows d w f t).1, r.2 ||| (writeElems (a.setElem rows d w i r.1) rows d w f t).2)) := by
  unfold writeElems
  simp only [List.foldl_cons]
  cases hf : f i with
  | none => rfl
  | some r =>
    dsimp only
    rw [foldl_flags]
    · simp
    · intro a fl i
      dsimp only
      cases f i <;> simp

/-- Each element listed, at most once, becomes what `f` says, and the others stay. -/
theorem writeElems_elem (rows d w : Nat) (f : Nat → Option (Nat × BitVec 5)) {idx : List Nat} (a : Arch) (j : Nat) (hr : 0 < rows) (hr' : rows ≤ 64)
    (hw : w ∣ regBits rows) (hidx : idx.Nodup) (hv : ∀ i ∈ idx, d + i * w / regBits rows < 32) :
    (writeElems a rows d w f idx).1.elem rows d w j =
      if j ∈ idx then (match f j with | some r => r.1 % 2 ^ w | none => a.elem rows d w j) else a.elem rows d w j := by
  induction idx generalizing a with
  | nil => simp [writeElems_nil]
  | cons i t ih =>
    obtain ⟨hi, ht⟩ := List.nodup_cons.mp hidx
    have hv' : ∀ k ∈ t, d + k * w / regBits rows < 32 := fun k hk => hv k (List.mem_cons_of_mem _ hk)
    rw [writeElems_cons]
    cases hf : f i with
    | none =>
      simp only
      rw [ih a ht hv']
      by_cases hj : j = i
      · subst hj; simp [hi, hf]
      · simp [hj]
    | some r =>
      simp only
      rw [ih _ ht hv', Arch.elem_setElem a j r.1 hr hr' hw (hv i (by simp))]
      by_cases hj : j = i
      · subst hj; simp [hi, hf]
      · simp [hj]

/-- The flags are those of the elements written. -/
theorem writeElems_flags (rows d w : Nat) (f : Nat → Option (Nat × BitVec 5)) (idx : List Nat) (a : Arch) :
    (writeElems a rows d w f idx).2 = ((idx.filterMap f).map Prod.snd).foldr (· ||| ·) 0 := by
  induction idx generalizing a with
  | nil => rfl
  | cons i t ih =>
    rw [writeElems_cons]
    cases hf : f i with
    | none => simp [hf, ih]
    | some r => simp [hf, ih]

/-- Nothing but vector registers changes. -/
theorem writeElems_frame (rows d w : Nat) (f : Nat → Option (Nat × BitVec 5)) (idx : List Nat) (a : Arch) :
    (writeElems a rows d w f idx).1 = { a with v := (writeElems a rows d w f idx).1.v } := by
  induction idx generalizing a with
  | nil => rfl
  | cons i t ih =>
    rw [writeElems_cons]
    cases hf : f i with
    | none => exact ih a
    | some r =>
      simp only
      rw [ih (a.setElem rows d w i r.1), Arch.setElem_eq]

/-- A register that holds no element listed is as it was. -/
theorem writeElems_vreg (rows d w : Nat) (f : Nat → Option (Nat × BitVec 5)) {idx : List Nat} (a : Arch) (r : Nat)
    (h : ∀ i ∈ idx, r ≠ d + i * w / regBits rows) : (writeElems a rows d w f idx).1.vreg r = a.vreg r := by
  induction idx generalizing a with
  | nil => rfl
  | cons i t ih =>
    have h' : ∀ k ∈ t, r ≠ d + k * w / regBits rows := fun k hk => h k (List.mem_cons_of_mem _ hk)
    rw [writeElems_cons]
    cases hf : f i with
    | none => exact ih a h'
    | some q =>
      simp only
      rw [ih _ h', Arch.vreg_setElem_ne _ _ (h i (by simp))]

end Sys2Proof.Machine
end

