-- ==== Sys2Proof/Laws/PerInstr.lean ====
section
/-! SUPPORT. One lemma per row of the opcode table: which terms have an instruction word. -/

namespace Sys2Proof.Laws.Encoding

/-- A special-register write that the table lists beside wsys: its words are those of wsys (R46, R291). -/
def special : Instr → Bool
  | .fflagsWrite .. | .tcbaseWrite .. | .progWrite .. | .loopStackWrite .. | .pgrootWrite .. | .islimWrite .. => true
  | _ => false

/-- A word that stands for no instruction, or that cannot be fetched, as an instruction meets it (R56, R279). -/
def unreadable : Instr → Bool
  | .illegalInstruction _ | .instructionFetchFault => true
  | _ => false

/-- A term has an instruction word unless it is an event, another name of wsys words, or no instruction at all. -/
def Statement (i : Instr) : Prop := (encode i).isSome = !(i.isEvent || special i || unreadable i)

theorem add : ∀ x0 x1 x2, Statement (.add x0 x1 x2) := fun _ _ _ => rfl
theorem sub : ∀ x0 x1 x2, Statement (.sub x0 x1 x2) := fun _ _ _ => rfl
theorem and : ∀ x0 x1 x2, Statement (.and x0 x1 x2) := fun _ _ _ => rfl
theorem or : ∀ x0 x1 x2, Statement (.or x0 x1 x2) := fun _ _ _ => rfl
theorem xor : ∀ x0 x1 x2, Statement (.xor x0 x1 x2) := fun _ _ _ => rfl
theorem sll : ∀ x0 x1 x2, Statement (.sll x0 x1 x2) := fun _ _ _ => rfl
theorem srl : ∀ x0 x1 x2, Statement (.srl x0 x1 x2) := fun _ _ _ => rfl
theorem sra : ∀ x0 x1 x2, Statement (.sra x0 x1 x2) := fun _ _ _ => rfl
theorem slt : ∀ x0 x1 x2, Statement (.slt x0 x1 x2) := fun _ _ _ => rfl
theorem sltu : ∀ x0 x1 x2, Statement (.sltu x0 x1 x2) := fun _ _ _ => rfl
theorem mul : ∀ x0 x1 x2, Statement (.mul x0 x1 x2) := fun _ _ _ => rfl
theorem mulh : ∀ x0 x1 x2, Statement (.mulh x0 x1 x2) := fun _ _ _ => rfl
theorem mulhu : ∀ x0 x1 x2, Statement (.mulhu x0 x1 x2) := fun _ _ _ => rfl
theorem div : ∀ x0 x1 x2, Statement (.div x0 x1 x2) := fun _ _ _ => rfl
theorem divu : ∀ x0 x1 x2, Statement (.divu x0 x1 x2) := fun _ _ _ => rfl
theorem clz : ∀ x0 x1, Statement (.clz x0 x1) := fun _ _ => rfl
theorem ctz : ∀ x0 x1, Statement (.ctz x0 x1) := fun _ _ => rfl
theorem popc : ∀ x0 x1, Statement (.popc x0 x1) := fun _ _ => rfl
theorem addi : ∀ x0 x1 x2, Statement (.addi x0 x1 x2) := fun _ _ _ => rfl
theorem andi : ∀ x0 x1 x2, Statement (.andi x0 x1 x2) := fun _ _ _ => rfl
theorem ori : ∀ x0 x1 x2, Statement (.ori x0 x1 x2) := fun _ _ _ => rfl
theorem xori : ∀ x0 x1 x2, Statement (.xori x0 x1 x2) := fun _ _ _ => rfl
theorem slli : ∀ x0 x1 x2, Statement (.slli x0 x1 x2) := fun _ _ _ => rfl
theorem srli : ∀ x0 x1 x2, Statement (.srli x0 x1 x2) := fun _ _ _ => rfl
theorem srai : ∀ x0 x1 x2, Statement (.srai x0 x1 x2) := fun _ _ _ => rfl
theorem lui : ∀ x0 x1, Statement (.lui x0 x1) := fun _ _ => rfl
theorem adr : ∀ x0 x1, Statement (.adr x0 x1) := fun _ _ => rfl
theorem fadd : ∀ x0 x1 x2 x3, Statement (.fadd x0 x1 x2 x3) := fun _ _ _ _ => rfl
theorem fsub : ∀ x0 x1 x2 x3, Statement (.fsub x0 x1 x2 x3) := fun _ _ _ _ => rfl
theorem fmul : ∀ x0 x1 x2 x3, Statement (.fmul x0 x1 x2 x3) := fun _ _ _ _ => rfl
theorem fdiv : ∀ x0 x1 x2 x3, Statement (.fdiv x0 x1 x2 x3) := fun _ _ _ _ => rfl
theorem fsqrt : ∀ x0 x1 x2, Statement (.fsqrt x0 x1 x2) := fun _ _ _ => rfl
theorem fmin : ∀ x0 x1 x2 x3, Statement (.fmin x0 x1 x2 x3) := fun _ _ _ _ => rfl
theorem fmax : ∀ x0 x1 x2 x3, Statement (.fmax x0 x1 x2 x3) := fun _ _ _ _ => rfl
theorem fma : ∀ x0 x1 x2 x3, Statement (.fma x0 x1 x2 x3) := fun _ _ _ _ => rfl
theorem fcmplt : ∀ x0 x1 x2 x3, Statement (.fcmplt x0 x1 x2 x3) := fun _ _ _ _ => rfl
theorem fcmple : ∀ x0 x1 x2 x3, Statement (.fcmple x0 x1 x2 x3) := fun _ _ _ _ => rfl
theorem fcmpeq : ∀ x0 x1 x2 x3, Statement (.fcmpeq x0 x1 x2 x3) := fun _ _ _ _ => rfl
theorem fcvtfi : ∀ x0 x1 x2, Statement (.fcvtfi x0 x1 x2) := fun _ _ _ => rfl
theorem fcvtif : ∀ x0 x1 x2 x3, Statement (.fcvtif x0 x1 x2 x3) := fun _ _ _ _ => rfl
theorem ldb : ∀ x0 x1 x2, Statement (.ldb x0 x1 x2) := fun _ _ _ => rfl
theorem ldbu : ∀ x0 x1 x2, Statement (.ldbu x0 x1 x2) := fun _ _ _ => rfl
theorem ldw : ∀ x0 x1 x2, Statement (.ldw x0 x1 x2) := fun _ _ _ => rfl
theorem ldwu : ∀ x0 x1 x2, Statement (.ldwu x0 x1 x2) := fun _ _ _ => rfl
theorem ldd : ∀ x0 x1 x2, Statement (.ldd x0 x1 x2) := fun _ _ _ => rfl
theorem stb : ∀ x0 x1 x2, Statement (.stb x0 x1 x2) := fun _ _ _ => rfl
theorem stw : ∀ x0 x1 x2, Statement (.stw x0 x1 x2) := fun _ _ _ => rfl
theorem std : ∀ x0 x1 x2, Statement (.std x0 x1 x2) := fun _ _ _ => rfl
theorem amoadd : ∀ x0 x1 x2 x3 x4 x5, Statement (.amoadd x0 x1 x2 x3 x4 x5) := fun _ _ _ _ _ _ => rfl
theorem amoand : ∀ x0 x1 x2 x3 x4 x5, Statement (.amoand x0 x1 x2 x3 x4 x5) := fun _ _ _ _ _ _ => rfl
theorem amoor : ∀ x0 x1 x2 x3 x4 x5, Statement (.amoor x0 x1 x2 x3 x4 x5) := fun _ _ _ _ _ _ => rfl
theorem amoxor : ∀ x0 x1 x2 x3 x4 x5, Statement (.amoxor x0 x1 x2 x3 x4 x5) := fun _ _ _ _ _ _ => rfl
theorem amomin : ∀ x0 x1 x2 x3 x4 x5, Statement (.amomin x0 x1 x2 x3 x4 x5) := fun _ _ _ _ _ _ => rfl
theorem amomax : ∀ x0 x1 x2 x3 x4 x5, Statement (.amomax x0 x1 x2 x3 x4 x5) := fun _ _ _ _ _ _ => rfl
theorem amoswap : ∀ x0 x1 x2 x3 x4 x5, Statement (.amoswap x0 x1 x2 x3 x4 x5) := fun _ _ _ _ _ _ => rfl
theorem amocas : ∀ x0 x1 x2 x3 x4 x5, Statement (.amocas x0 x1 x2 x3 x4 x5) := fun _ _ _ _ _ _ => rfl
theorem famoadd : ∀ x0 x1 x2 x3 x4 x5, Statement (.famoadd x0 x1 x2 x3 x4 x5) := fun _ _ _ _ _ _ => rfl
theorem beq : ∀ x0 x1 x2, Statement (.beq x0 x1 x2) := fun _ _ _ => rfl
theorem bne : ∀ x0 x1 x2, Statement (.bne x0 x1 x2) := fun _ _ _ => rfl
theorem blt : ∀ x0 x1 x2, Statement (.blt x0 x1 x2) := fun _ _ _ => rfl
theorem bge : ∀ x0 x1 x2, Statement (.bge x0 x1 x2) := fun _ _ _ => rfl
theorem bltu : ∀ x0 x1 x2, Statement (.bltu x0 x1 x2) := fun _ _ _ => rfl
theorem bgeu : ∀ x0 x1 x2, Statement (.bgeu x0 x1 x2) := fun _ _ _ => rfl
theorem jal : ∀ x0, Statement (.jal x0) := fun _ => rfl
theorem jalr : ∀ x0 x1 x2, Statement (.jalr x0 x1 x2) := fun _ _ _ => rfl
theorem loop : ∀ x0 x1, Statement (.loop x0 x1) := fun _ _ => rfl
theorem loopi : ∀ x0 x1, Statement (.loopi x0 x1) := fun _ _ => rfl
theorem svc : ∀ x0, Statement (.svc x0) := fun _ => rfl
theorem wfe : ∀ x0, Statement (.wfe x0) := fun _ => rfl
theorem rsys : ∀ x0 x1, Statement (.rsys x0 x1) := fun _ _ => rfl
theorem wsys : ∀ x0 x1, Statement (.wsys x0 x1) := fun _ _ => rfl
theorem fenceSv : ∀ x0, Statement (.fenceSv x0) := fun _ => rfl
theorem fenceVs : ∀ x0, Statement (.fenceVs x0) := fun _ => rfl
theorem fenceVv : ∀ x0, Statement (.fenceVv x0) := fun _ => rfl
theorem brk : ∀ x0, Statement (.brk x0) := fun _ => rfl
theorem setvl : ∀ x0 x1 x2, Statement (.setvl x0 x1 x2) := fun _ _ _ => rfl
theorem setvlr : ∀ x0 x1 x2, Statement (.setvlr x0 x1 x2) := fun _ _ _ => rfl
theorem setvlm : ∀ x0 x1, Statement (.setvlm x0 x1) := fun _ _ => rfl
theorem vlq : ∀ x0 x1, Statement (.vlq x0 x1) := fun _ _ => rfl
theorem vadd : ∀ x0 x1 x2 x3, Statement (.vadd x0 x1 x2 x3) := fun _ _ _ _ => rfl
theorem vsub : ∀ x0 x1 x2 x3, Statement (.vsub x0 x1 x2 x3) := fun _ _ _ _ => rfl
theorem vmul : ∀ x0 x1 x2 x3, Statement (.vmul x0 x1 x2 x3) := fun _ _ _ _ => rfl
theorem vand : ∀ x0 x1 x2 x3, Statement (.vand x0 x1 x2 x3) := fun _ _ _ _ => rfl
theorem vor : ∀ x0 x1 x2 x3, Statement (.vor x0 x1 x2 x3) := fun _ _ _ _ => rfl
theorem vxor : ∀ x0 x1 x2 x3, Statement (.vxor x0 x1 x2 x3) := fun _ _ _ _ => rfl
theorem vsll : ∀ x0 x1 x2 x3, Statement (.vsll x0 x1 x2 x3) := fun _ _ _ _ => rfl
theorem vsrl : ∀ x0 x1 x2 x3, Statement (.vsrl x0 x1 x2 x3) := fun _ _ _ _ => rfl
theorem vsra : ∀ x0 x1 x2 x3, Statement (.vsra x0 x1 x2 x3) := fun _ _ _ _ => rfl
theorem vmin : ∀ x0 x1 x2 x3, Statement (.vmin x0 x1 x2 x3) := fun _ _ _ _ => rfl
theorem vmax : ∀ x0 x1 x2 x3, Statement (.vmax x0 x1 x2 x3) := fun _ _ _ _ => rfl
theorem vsadd : ∀ x0 x1 x2 x3, Statement (.vsadd x0 x1 x2 x3) := fun _ _ _ _ => rfl
theorem vssub : ∀ x0 x1 x2 x3, Statement (.vssub x0 x1 x2 x3) := fun _ _ _ _ => rfl
theorem vpopc : ∀ x0 x1 x2, Statement (.vpopc x0 x1 x2) := fun _ _ _ => rfl
theorem vmerge : ∀ x0 x1 x2, Statement (.vmerge x0 x1 x2) := fun _ _ _ => rfl
theorem vmv : ∀ x0 x1 x2, Statement (.vmv x0 x1 x2) := fun _ _ _ => rfl
theorem vmvScalar : ∀ x0 x1 x2, Statement (.vmvScalar x0 x1 x2) := fun _ _ _ => rfl
theorem vid : ∀ x0 x1, Statement (.vid x0 x1) := fun _ _ => rfl
theorem vwiden : ∀ x0 x1 x2 x3 x4, Statement (.vwiden x0 x1 x2 x3 x4) := fun _ _ _ _ _ => rfl
theorem vnarrow : ∀ x0 x1 x2 x3 x4, Statement (.vnarrow x0 x1 x2 x3 x4) := fun _ _ _ _ _ => rfl
theorem vcmpeq : ∀ x0 x1 x2 x3, Statement (.vcmpeq x0 x1 x2 x3) := fun _ _ _ _ => rfl
theorem vcmpne : ∀ x0 x1 x2 x3, Statement (.vcmpne x0 x1 x2 x3) := fun _ _ _ _ => rfl
theorem vcmplt : ∀ x0 x1 x2 x3, Statement (.vcmplt x0 x1 x2 x3) := fun _ _ _ _ => rfl
theorem vcmpltu : ∀ x0 x1 x2 x3, Statement (.vcmpltu x0 x1 x2 x3) := fun _ _ _ _ => rfl
theorem vcmple : ∀ x0 x1 x2 x3, Statement (.vcmple x0 x1 x2 x3) := fun _ _ _ _ => rfl
theorem vcmpleu : ∀ x0 x1 x2 x3, Statement (.vcmpleu x0 x1 x2 x3) := fun _ _ _ _ => rfl
theorem vfcmpeq : ∀ x0 x1 x2 x3, Statement (.vfcmpeq x0 x1 x2 x3) := fun _ _ _ _ => rfl
theorem vfcmplt : ∀ x0 x1 x2 x3, Statement (.vfcmplt x0 x1 x2 x3) := fun _ _ _ _ => rfl
theorem vfcmple : ∀ x0 x1 x2 x3, Statement (.vfcmple x0 x1 x2 x3) := fun _ _ _ _ => rfl
theorem vfadd : ∀ x0 x1 x2 x3, Statement (.vfadd x0 x1 x2 x3) := fun _ _ _ _ => rfl
theorem vfsub : ∀ x0 x1 x2 x3, Statement (.vfsub x0 x1 x2 x3) := fun _ _ _ _ => rfl
theorem vfmul : ∀ x0 x1 x2 x3, Statement (.vfmul x0 x1 x2 x3) := fun _ _ _ _ => rfl
theorem vfma : ∀ x0 x1 x2 x3, Statement (.vfma x0 x1 x2 x3) := fun _ _ _ _ => rfl
theorem vfdiv : ∀ x0 x1 x2 x3, Statement (.vfdiv x0 x1 x2 x3) := fun _ _ _ _ => rfl
theorem vfmin : ∀ x0 x1 x2 x3, Statement (.vfmin x0 x1 x2 x3) := fun _ _ _ _ => rfl
theorem vfmax : ∀ x0 x1 x2 x3, Statement (.vfmax x0 x1 x2 x3) := fun _ _ _ _ => rfl
theorem vfscale : ∀ x0 x1 x2 x3, Statement (.vfscale x0 x1 x2 x3) := fun _ _ _ _ => rfl
theorem vfcvtfi : ∀ x0 x1 x2, Statement (.vfcvtfi x0 x1 x2) := fun _ _ _ => rfl
theorem vfcvtif : ∀ x0 x1 x2 x3, Statement (.vfcvtif x0 x1 x2 x3) := fun _ _ _ _ => rfl
theorem vfwiden : ∀ x0 x1 x2 x3, Statement (.vfwiden x0 x1 x2 x3) := fun _ _ _ _ => rfl
theorem vfnarrow : ∀ x0 x1 x2 x3, Statement (.vfnarrow x0 x1 x2 x3) := fun _ _ _ _ => rfl
theorem vflogt : ∀ x0 x1 x2 x3, Statement (.vflogt x0 x1 x2 x3) := fun _ _ _ _ => rfl
theorem vmand : ∀ x0 x1 x2 x3, Statement (.vmand x0 x1 x2 x3) := fun _ _ _ _ => rfl
theorem vmor : ∀ x0 x1 x2 x3, Statement (.vmor x0 x1 x2 x3) := fun _ _ _ _ => rfl
theorem vmxor : ∀ x0 x1 x2 x3, Statement (.vmxor x0 x1 x2 x3) := fun _ _ _ _ => rfl
theorem vmpopc : ∀ x0 x1 x2, Statement (.vmpopc x0 x1 x2) := fun _ _ _ => rfl
theorem vmfirst : ∀ x0 x1 x2, Statement (.vmfirst x0 x1 x2) := fun _ _ _ => rfl
theorem vredsum : ∀ x0 x1 x2 x3 x4, Statement (.vredsum x0 x1 x2 x3 x4) := fun _ _ _ _ _ => rfl
theorem vredmin : ∀ x0 x1 x2 x3 x4, Statement (.vredmin x0 x1 x2 x3 x4) := fun _ _ _ _ _ => rfl
theorem vredmax : ∀ x0 x1 x2 x3 x4, Statement (.vredmax x0 x1 x2 x3 x4) := fun _ _ _ _ _ => rfl
theorem vredand : ∀ x0 x1 x2 x3 x4, Statement (.vredand x0 x1 x2 x3 x4) := fun _ _ _ _ _ => rfl
theorem vredor : ∀ x0 x1 x2 x3 x4, Statement (.vredor x0 x1 x2 x3 x4) := fun _ _ _ _ _ => rfl
theorem vredxor : ∀ x0 x1 x2 x3 x4, Statement (.vredxor x0 x1 x2 x3 x4) := fun _ _ _ _ _ => rfl
theorem vfredsum : ∀ x0 x1 x2 x3 x4, Statement (.vfredsum x0 x1 x2 x3 x4) := fun _ _ _ _ _ => rfl
theorem vfredmin : ∀ x0 x1 x2 x3 x4, Statement (.vfredmin x0 x1 x2 x3 x4) := fun _ _ _ _ _ => rfl
theorem vfredmax : ∀ x0 x1 x2 x3 x4, Statement (.vfredmax x0 x1 x2 x3 x4) := fun _ _ _ _ _ => rfl
theorem vredminx : ∀ x0 x1 x2 x3 x4, Statement (.vredminx x0 x1 x2 x3 x4) := fun _ _ _ _ _ => rfl
theorem vfredmaxx : ∀ x0 x1 x2 x3 x4, Statement (.vfredmaxx x0 x1 x2 x3 x4) := fun _ _ _ _ _ => rfl
theorem vscansum : ∀ x0 x1 x2 x3 x4 x5, Statement (.vscansum x0 x1 x2 x3 x4 x5) := fun _ _ _ _ _ _ => rfl
theorem vscanmax : ∀ x0 x1 x2 x3 x4 x5, Statement (.vscanmax x0 x1 x2 x3 x4 x5) := fun _ _ _ _ _ _ => rfl
theorem vfscansum : ∀ x0 x1 x2 x3 x4 x5, Statement (.vfscansum x0 x1 x2 x3 x4 x5) := fun _ _ _ _ _ _ => rfl
theorem vfscanmax : ∀ x0 x1 x2 x3 x4 x5, Statement (.vfscanmax x0 x1 x2 x3 x4 x5) := fun _ _ _ _ _ _ => rfl
theorem vdist : ∀ x0 x1 x2 x3 x4, Statement (.vdist x0 x1 x2 x3 x4) := fun _ _ _ _ _ => rfl
theorem vpack : ∀ x0 x1 x2, Statement (.vpack x0 x1 x2) := fun _ _ _ => rfl
theorem vcompress : ∀ x0 x1 x2, Statement (.vcompress x0 x1 x2) := fun _ _ _ => rfl
theorem vsegid : ∀ x0 x1 x2 x3, Statement (.vsegid x0 x1 x2 x3) := fun _ _ _ _ => rfl
theorem vseglen : ∀ x0 x1 x2, Statement (.vseglen x0 x1 x2) := fun _ _ _ => rfl
theorem vtree : ∀ x0 x1, Statement (.vtree x0 x1) := fun _ _ => rfl
theorem nset : ∀ x0 x1 x2, Statement (.nset x0 x1 x2) := fun _ _ _ => rfl
theorem npush : ∀ x0 x1, Statement (.npush x0 x1) := fun _ _ => rfl
theorem npop : ∀ x0 x1, Statement (.npop x0 x1) := fun _ _ => rfl
theorem vslideup : ∀ x0 x1 x2 x3 x4, Statement (.vslideup x0 x1 x2 x3 x4) := fun _ _ _ _ _ => rfl
theorem vslidedn : ∀ x0 x1 x2 x3 x4, Statement (.vslidedn x0 x1 x2 x3 x4) := fun _ _ _ _ _ => rfl
theorem vrgather : ∀ x0 x1 x2 x3 x4, Statement (.vrgather x0 x1 x2 x3 x4) := fun _ _ _ _ _ => rfl
theorem vmvxs : ∀ x0 x1 x2, Statement (.vmvxs x0 x1 x2) := fun _ _ _ => rfl
theorem vdec4 : ∀ x0 x1 x2, Statement (.vdec4 x0 x1 x2) := fun _ _ _ => rfl
theorem venc4 : ∀ x0 x1 x2, Statement (.venc4 x0 x1 x2) := fun _ _ _ => rfl
theorem vbsum : ∀ x0 x1 x2 x3 x4, Statement (.vbsum x0 x1 x2 x3 x4) := fun _ _ _ _ _ => rfl
theorem vld : ∀ x0 x1 x2 x3, Statement (.vld x0 x1 x2 x3) := fun _ _ _ _ => rfl
theorem vlds : ∀ x0 x1 x2 x3 x4, Statement (.vlds x0 x1 x2 x3 x4) := fun _ _ _ _ _ => rfl
theorem vldx : ∀ x0 x1 x2 x3 x4, Statement (.vldx x0 x1 x2 x3 x4) := fun _ _ _ _ _ => rfl
theorem vldxo : ∀ x0 x1 x2 x3 x4, Statement (.vldxo x0 x1 x2 x3 x4) := fun _ _ _ _ _ => rfl
theorem vldff : ∀ x0 x1 x2, Statement (.vldff x0 x1 x2) := fun _ _ _ => rfl
theorem vfill : ∀ x0 x1 x2, Statement (.vfill x0 x1 x2) := fun _ _ _ => rfl
theorem vst : ∀ x0 x1 x2 x3, Statement (.vst x0 x1 x2 x3) := fun _ _ _ _ => rfl
theorem vsts : ∀ x0 x1 x2 x3 x4, Statement (.vsts x0 x1 x2 x3 x4) := fun _ _ _ _ _ => rfl
theorem vstx : ∀ x0 x1 x2 x3 x4, Statement (.vstx x0 x1 x2 x3 x4) := fun _ _ _ _ _ => rfl
theorem vstxo : ∀ x0 x1 x2 x3 x4, Statement (.vstxo x0 x1 x2 x3 x4) := fun _ _ _ _ _ => rfl
theorem vspill : ∀ x0 x1 x2, Statement (.vspill x0 x1 x2) := fun _ _ _ => rfl
theorem tld : ∀ x0 x1 x2 x3 x4, Statement (.tld x0 x1 x2 x3 x4) := fun _ _ _ _ _ => rfl
theorem tst : ∀ x0 x1 x2 x3, Statement (.tst x0 x1 x2 x3) := fun _ _ _ _ => rfl
theorem ttag : ∀ x0 x1 x2, Statement (.ttag x0 x1 x2) := fun _ _ _ => rfl
theorem tset : ∀ x0 x1 x2, Statement (.tset x0 x1 x2) := fun _ _ _ => rfl
theorem tcall : ∀ x0 x1, Statement (.tcall x0 x1) := fun _ _ => rfl
theorem lmk : ∀ x0 x1 x2, Statement (.lmk x0 x1 x2) := fun _ _ _ => rfl
theorem lattach : ∀ x0 x1 x2 x3, Statement (.lattach x0 x1 x2 x3) := fun _ _ _ _ => rfl
theorem ldetach : ∀ x0 x1 x2 x3, Statement (.ldetach x0 x1 x2 x3) := fun _ _ _ _ => rfl
theorem lfold : ∀ x0 x1 x2 x3, Statement (.lfold x0 x1 x2 x3) := fun _ _ _ _ => rfl
theorem mattach : ∀ x0 x1, Statement (.mattach x0 x1) := fun _ _ => rfl
theorem mmode : ∀ x0, Statement (.mmode x0) := fun _ => rfl
theorem mopa : ∀ x0 x1, Statement (.mopa x0 x1) := fun _ _ => rfl
theorem mopab : ∀ x0 x1, Statement (.mopab x0 x1) := fun _ _ => rfl
theorem mrd : ∀ x0 x1, Statement (.mrd x0 x1) := fun _ _ => rfl
theorem mwr : ∀ x0 x1, Statement (.mwr x0 x1) := fun _ _ => rfl
theorem cpy : ∀ x0 x1 x2, Statement (.cpy x0 x1 x2) := fun _ _ _ => rfl
theorem coll : ∀ x0 x1 x2, Statement (.coll x0 x1 x2) := fun _ _ _ => rfl
theorem fclaim : ∀ x0, Statement (.fclaim x0) := fun _ => rfl
theorem vfbar : ∀ x0 x1 x2, Statement (.vfbar x0 x1 x2) := fun _ _ _ => rfl
theorem bwait : ∀ x0 x1 x2 x3, Statement (.bwait x0 x1 x2 x3) := fun _ _ _ _ => rfl
theorem lsplit : ∀ x0 x1 x2, Statement (.lsplit x0 x1 x2) := fun _ _ _ => rfl
theorem fflagsWrite : ∀ x0, Statement (.fflagsWrite x0) := fun _ => rfl
theorem tcbaseWrite : ∀ x0, Statement (.tcbaseWrite x0) := fun _ => rfl
theorem progWrite : ∀ x0 x1, Statement (.progWrite x0 x1) := fun _ _ => rfl
theorem loopStackWrite : ∀ x0 x1, Statement (.loopStackWrite x0 x1) := fun _ _ => rfl
theorem pgrootWrite : ∀ x0, Statement (.pgrootWrite x0) := fun _ => rfl
theorem islimWrite : ∀ x0, Statement (.islimWrite x0) := fun _ => rfl
theorem routingTableAddressWrite : ∀ x0, Statement (.routingTableAddressWrite x0) := fun _ => rfl
theorem livenessTableWrite : ∀ x0 x1, Statement (.livenessTableWrite x0 x1) := fun _ _ => rfl
theorem checkpointTakesEffect : ∀ x0, Statement (.checkpointTakesEffect x0) := fun _ => rfl
theorem heldStoreCheckpoint : ∀ x0, Statement (.heldStoreCheckpoint x0) := fun _ => rfl
theorem storePerformed : ∀ x0, Statement (.storePerformed x0) := fun _ => rfl
theorem wfeWake : ∀ x0, Statement (.wfeWake x0) := fun _ => rfl
theorem bwaitWake : ∀ x0, Statement (.bwaitWake x0) := fun _ => rfl
theorem engineChunkDone : ∀ x0 x1 x2, Statement (.engineChunkDone x0 x1 x2) := fun _ _ _ => rfl
theorem transferComplete : ∀ x0 x1, Statement (.transferComplete x0 x1) := fun _ _ => rfl
theorem engineFault : ∀ x0 x1 x2, Statement (.engineFault x0 x1 x2) := fun _ _ _ => rfl
theorem pressFrameWrite : ∀ x0 x1 x2, Statement (.pressFrameWrite x0 x1 x2) := fun _ _ _ => rfl
theorem pressSwap : ∀ x0 x1, Statement (.pressSwap x0 x1) := fun _ _ => rfl
theorem foldAbandon : ∀ x0 x1 x2, Statement (.foldAbandon x0 x1 x2) := fun _ _ _ => rfl
theorem trapEntry : ∀ x0, Statement (.trapEntry x0) := fun _ => rfl
theorem stripRestart : ∀ x0 x1, Statement (.stripRestart x0 x1) := fun _ _ => rfl
theorem uncorrectableErrorAsync : ∀ x0 x1, Statement (.uncorrectableErrorAsync x0 x1) := fun _ _ => rfl
theorem rowSelfTest : ∀ x0 x1 x2, Statement (.rowSelfTest x0 x1 x2) := fun _ _ _ => rfl
theorem yieldRequest : ∀ x0, Statement (.yieldRequest x0) := fun _ => rfl
theorem forcedPreemption : ∀ x0, Statement (.forcedPreemption x0) := fun _ => rfl
theorem victimPreemption : ∀ x0 x1, Statement (.victimPreemption x0 x1) := fun _ _ => rfl
theorem queueHeaderRead : ∀ x0 x1, Statement (.queueHeaderRead x0 x1) := fun _ _ => rfl
theorem launchRecordTake : ∀ x0 x1, Statement (.launchRecordTake x0 x1) := fun _ _ => rfl
theorem dependenceMet : ∀ x0 x1, Statement (.dependenceMet x0 x1) := fun _ _ => rfl
theorem hartPlacement : ∀ x0 x1, Statement (.hartPlacement x0 x1) := fun _ _ => rfl
theorem hartFreed : ∀ x0, Statement (.hartFreed x0) := fun _ => rfl
theorem priorityAging : ∀ x0 x1, Statement (.priorityAging x0 x1) := fun _ _ => rfl
theorem launchDone : ∀ x0, Statement (.launchDone x0) := fun _ => rfl
theorem shootdown : ∀ x0, Statement (.shootdown x0) := fun _ => rfl
theorem descriptorResident : ∀ x0, Statement (.descriptorResident x0) := fun _ => rfl
theorem iscurUpdate : ∀ x0 x1, Statement (.iscurUpdate x0 x1) := fun _ _ => rfl
theorem flitParityResend : ∀ x0 x1 x2, Statement (.flitParityResend x0 x1 x2) := fun _ _ _ => rfl
theorem linkCrcRetry : ∀ x0 x1, Statement (.linkCrcRetry x0 x1) := fun _ _ => rfl
theorem commandAddressReplay : ∀ x0 x1 x2, Statement (.commandAddressReplay x0 x1 x2) := fun _ _ _ => rfl
theorem hbmTemperatureThreshold : ∀ x0 x1, Statement (.hbmTemperatureThreshold x0 x1) := fun _ _ => rfl
theorem dieTemperatureThreshold : ∀ x0 x1, Statement (.dieTemperatureThreshold x0 x1) := fun _ _ => rfl
theorem errorRingAppend : ∀ x0, Statement (.errorRingAppend x0) := fun _ => rfl
theorem bringUp : ∀ x0, Statement (.bringUp x0) := fun _ => rfl
theorem spareQuadSite : ∀ x0, Statement (.spareQuadSite x0) := fun _ => rfl
theorem postPackageRepair : ∀ x0, Statement (.postPackageRepair x0) := fun _ => rfl
theorem spareVia : ∀ x0, Statement (.spareVia x0) := fun _ => rfl
theorem spareLinkLane : ∀ x0, Statement (.spareLinkLane x0) := fun _ => rfl
theorem attestationRequest : ∀ x0 x1, Statement (.attestationRequest x0 x1) := fun _ _ => rfl
theorem hostAccess : ∀ x0, Statement (.hostAccess x0) := fun _ => rfl
theorem remoteRequest : ∀ x0 x1, Statement (.remoteRequest x0 x1) := fun _ _ => rfl
theorem illegalInstruction : ∀ x0, Statement (.illegalInstruction x0) := fun _ => rfl
theorem storePassesVisibilityPoint : ∀ x0, Statement (.storePassesVisibilityPoint x0) := fun _ => rfl
theorem remoteWriteReport : ∀ x0 x1, Statement (.remoteWriteReport x0 x1) := fun _ _ => rfl
theorem newFirmwareImage : ∀ x0, Statement (.newFirmwareImage x0) := fun _ => rfl
theorem debuggerStop : ∀ x0, Statement (.debuggerStop x0) := fun _ => rfl
theorem debuggerResume : ∀ x0, Statement (.debuggerResume x0) := fun _ => rfl
theorem mzero : Statement (.mzero) := rfl
theorem eret : Statement (.eret) := rfl
theorem yield : Statement (.yield) := rfl
theorem lfuse : Statement (.lfuse) := rfl
theorem attestationReportCommand : Statement (.attestationReportCommand) := rfl
theorem statusRead : Statement (.statusRead) := rfl
theorem instructionFetchFault : Statement (.instructionFetchFault) := rfl
theorem powerOff : Statement (.powerOff) := rfl

end Sys2Proof.Laws.Encoding
end

