-- ==== Sys2Proof/Tests/Slice0.lean ====
section
/-! SUPPORT. Tests of the model on small states: terms that the well-formedness check refuses, words written out from the spec's encoding map, one step
of the machine, and for every statement that has hypotheses a state and operands that meet them together. -/

open Sys2Proof Sys2Proof.Machine

namespace Sys2Proof.Tests

set_option Elab.async false

/-! ## Well-formedness -/

theorem test_wf_refuses_a_reserved_width : (Instr.setvl 1 2 5).wf = false ∧ (Instr.setvl 1 2 4).wf = true := by decide
theorem test_wf_refuses_bit_6_beside_another_width : (Instr.setvl 1 2 0x43).wf = false ∧ (Instr.setvl 1 2 0x42).wf = true := by decide
theorem test_wf_refuses_high_image_bits : (Instr.setvl 1 2 0x80).wf = false := by decide
theorem test_wf_refuses_a_loop_end_behind : (Instr.loop 1 0).wf = false ∧ (Instr.loop 1 0xFFFF).wf = false ∧
(Instr.loop 1 0x7FFF).wf = true := by decide
theorem test_wf_refuses_an_immediate_loop_end_behind :
    (Instr.loopi 1 0).wf = false ∧ (Instr.loopi 1 0x8000).wf = false ∧ (Instr.loopi 1 1).wf = true := by decide
theorem test_wf_refuses_a_liveness_index : (Instr.livenessTableWrite 49152 0).wf = false ∧ (Instr.livenessTableWrite 49151 0).wf = true := by decide
theorem test_wf_refuses_resend_counts :
    (Instr.flitParityResend 0 0 (.data 0)).wf = false ∧ (Instr.flitParityResend 0 6 (.data 0)).wf = false ∧
    (Instr.flitParityResend 0 5 (.data 0)).wf = true := by decide
theorem test_wf_refuses_an_uncounted_kind : (Instr.errorRingAppend (some ⟨none, 4, 0, 0, 0, 0⟩)).wf = false ∧
(Instr.errorRingAppend none).wf = true := by decide
theorem test_wf_refuses_ring_places :
    (Instr.bringUp { (default : BringUpInput) with cmdRing := 32, errSlots := 64 }).wf = false ∧
    (Instr.bringUp { (default : BringUpInput) with errRing := 16, errSlots := 64 }).wf = false ∧
    (Instr.bringUp { (default : BringUpInput) with errSlots := 96 }).wf = false ∧
    (Instr.bringUp { (default : BringUpInput) with errSlots := 65536 }).wf = true := by decide
theorem test_wf_refuses_outside_accesses :
    (Instr.hostAccess (.read 0 65)).wf = false ∧ (Instr.hostAccess (.atomic .add .w32 2 0 0)).wf = false ∧
    (Instr.remoteRequest ⟨2, 1⟩ (.atomic .add .w64 4 0 0)).wf = false ∧ (Instr.remoteRequest ⟨2, 1⟩ (.write 0 (List.replicate 65 0))).wf = false ∧
    (Instr.hostAccess (.read 0 64)).wf = true := by decide


/-! ## Words written out from the formats of R43 and the opcode map of R53 and R54 -/

/-- R97, major 0x01: d, a, b, fn6. -/
theorem test_words_of_salu :
    decode 0b000001_00001_00010_00011_000000_00000 = .ok (.add 1 2 3) ∧
    decode 0b000001_00001_00010_00011_000001_00000 = .ok (.sub 1 2 3) ∧
    decode 0b000001_00001_00010_00011_000010_00000 = .ok (.and 1 2 3) ∧
    decode 0b000001_00001_00010_00011_000011_00000 = .ok (.or 1 2 3) ∧
    decode 0b000001_00001_00010_00011_000100_00000 = .ok (.xor 1 2 3) ∧
    decode 0b000001_00001_00010_00011_000101_00000 = .ok (.sll 1 2 3) ∧
    decode 0b000001_00001_00010_00011_000110_00000 = .ok (.srl 1 2 3) ∧
    decode 0b000001_00001_00010_00011_000111_00000 = .ok (.sra 1 2 3) ∧
    decode 0b000001_00001_00010_00011_001000_00000 = .ok (.slt 1 2 3) ∧
    decode 0b000001_00001_00010_00011_001001_00000 = .ok (.sltu 1 2 3) ∧
    decode 0b000001_00001_00010_00011_001010_00000 = .ok (.mul 1 2 3) ∧
    decode 0b000001_00001_00010_00011_001011_00000 = .ok (.mulh 1 2 3) ∧
    decode 0b000001_00001_00010_00011_001100_00000 = .ok (.mulhu 1 2 3) ∧
    decode 0b000001_00001_00010_00011_001101_00000 = .ok (.div 1 2 3) ∧
    decode 0b000001_00001_00010_00011_001110_00000 = .ok (.divu 1 2 3) ∧
    decode 0b000001_00001_00010_00000_001111_00000 = .ok (.clz 1 2) ∧
    decode 0b000001_00001_00010_00000_010000_00000 = .ok (.ctz 1 2) ∧
    decode 0b000001_00001_00010_00000_010001_00000 = .ok (.popc 1 2) := by decide

/-- R98, R99, majors 0x02 to 0x08. -/
theorem test_words_of_immediates :
    decode 0b000010_00001_00010_1000000000000001 = .ok (.addi 1 2 0x8001) ∧
    decode 0b000011_00001_00010_1000000000000001 = .ok (.andi 1 2 0x8001) ∧
    decode 0b000100_00001_00010_1000000000000001 = .ok (.ori 1 2 0x8001) ∧
    decode 0b000101_00001_00010_1000000000000001 = .ok (.xori 1 2 0x8001) ∧
    decode 0b000110_00001_00010_00_00000000_100001 = .ok (.slli 1 2 33) ∧
    decode 0b000110_00001_00010_01_00000000_100001 = .ok (.srli 1 2 33) ∧
    decode 0b000110_00001_00010_10_00000000_100001 = .ok (.srai 1 2 33) ∧
    decode 0b000111_00001_00000_1000000000000001 = .ok (.lui 1 0x8001) ∧
    decode 0b001000_00001_00000_1000000000000001 = .ok (.adr 1 0x8001) := by decide

/-- R100, R101, major 0x09: ctl is 00, the rounding mode of fcvtif, the precision. -/
theorem test_words_of_sfpu :
    decode 0b001001_00001_00010_00011_000000_00_00_1 = .ok (.fadd .d 1 2 3) ∧
    decode 0b001001_00001_00010_00011_000001_00_00_1 = .ok (.fsub .d 1 2 3) ∧
    decode 0b001001_00001_00010_00011_000010_00_00_1 = .ok (.fmul .d 1 2 3) ∧
    decode 0b001001_00001_00010_00011_000011_00_00_1 = .ok (.fdiv .d 1 2 3) ∧
    decode 0b001001_00001_00010_00011_000101_00_00_1 = .ok (.fmin .d 1 2 3) ∧
    decode 0b001001_00001_00010_00011_000110_00_00_1 = .ok (.fmax .d 1 2 3) ∧
    decode 0b001001_00001_00010_00011_000111_00_00_1 = .ok (.fma .d 1 2 3) ∧
    decode 0b001001_00001_00010_00011_001000_00_00_1 = .ok (.fcmplt .d 1 2 3) ∧
    decode 0b001001_00001_00010_00011_001001_00_00_1 = .ok (.fcmple .d 1 2 3) ∧
    decode 0b001001_00001_00010_00011_001010_00_00_1 = .ok (.fcmpeq .d 1 2 3) ∧
    decode 0b001001_00001_00010_00000_000100_00_00_0 = .ok (.fsqrt .s 1 2) ∧
    decode 0b001001_00001_00010_00000_001011_00_00_0 = .ok (.fcvtfi .s 1 2) ∧
    decode 0b001001_00001_00010_00000_001100_00_10_1 = .ok (.fcvtif .d .rdn 1 2) := by decide

/-- R202, majors 0x0A and 0x0B: kind in imm[15:13], offset below it. -/
theorem test_words_of_scalar_memory :
    decode 0b001010_00001_00010_000_1111111111001 = .ok (.ldb 1 2 0x1FF9) ∧
    decode 0b001010_00001_00010_001_1111111111001 = .ok (.ldbu 1 2 0x1FF9) ∧
    decode 0b001010_00001_00010_010_1111111111001 = .ok (.ldw 1 2 0x1FF9) ∧
    decode 0b001010_00001_00010_011_1111111111001 = .ok (.ldwu 1 2 0x1FF9) ∧
    decode 0b001010_00001_00010_100_1111111111001 = .ok (.ldd 1 2 0x1FF9) ∧
    decode 0b001011_00001_00010_000_1111111111001 = .ok (.stb 1 2 0x1FF9) ∧
    decode 0b001011_00001_00010_010_1111111111001 = .ok (.stw 1 2 0x1FF9) ∧
    decode 0b001011_00001_00010_100_1111111111001 = .ok (.std 1 2 0x1FF9) := by decide

/-- R229, major 0x0C: ctl is scope, width, acquire-release. -/
theorem test_words_of_atomics :
    decode 0b001100_00001_00010_00011_000000_011_1_0 = .ok (.amoadd .w64 .pkg false 1 2 3) ∧
    decode 0b001100_00001_00010_00011_000001_011_1_0 = .ok (.amoand .w64 .pkg false 1 2 3) ∧
    decode 0b001100_00001_00010_00011_000010_011_1_0 = .ok (.amoor .w64 .pkg false 1 2 3) ∧
    decode 0b001100_00001_00010_00011_000011_011_1_0 = .ok (.amoxor .w64 .pkg false 1 2 3) ∧
    decode 0b001100_00001_00010_00011_000100_011_1_0 = .ok (.amomin .w64 .pkg false 1 2 3) ∧
    decode 0b001100_00001_00010_00011_000101_011_1_0 = .ok (.amomax .w64 .pkg false 1 2 3) ∧
    decode 0b001100_00001_00010_00011_000110_011_1_0 = .ok (.amoswap .w64 .pkg false 1 2 3) ∧
    decode 0b001100_00001_00010_00011_000111_011_1_0 = .ok (.amocas .w64 .pkg false 1 2 3) ∧
    decode 0b001100_00001_00010_00011_001000_011_1_0 = .ok (.famoadd .w64 .pkg false 1 2 3) := by decide

/-- R278, R280, R282, majors 0x0D to 0x16. -/
theorem test_words_of_control :
    decode 0b001101_00001_00010_1000000000000001 = .ok (.beq 1 2 0x8001) ∧
    decode 0b001110_00001_00010_1000000000000001 = .ok (.bne 1 2 0x8001) ∧
    decode 0b001111_00001_00010_1000000000000001 = .ok (.blt 1 2 0x8001) ∧
    decode 0b010000_00001_00010_1000000000000001 = .ok (.bge 1 2 0x8001) ∧
    decode 0b010001_00001_00010_1000000000000001 = .ok (.bltu 1 2 0x8001) ∧
    decode 0b010010_00001_00010_1000000000000001 = .ok (.bgeu 1 2 0x8001) ∧
    decode 0b010100_00001_00010_1000000000000001 = .ok (.jalr 1 2 0x8001) ∧
    decode 0b010011_10000000000000000000000001 = .ok (.jal 0x2000001) ∧
    decode 0b010101_00001_00000_0111111111111111 = .ok (.loop 1 0x7FFF) ∧
    decode 0b010110_10000_00011_0000000000000001 = .ok (.loopi 515 1) := by decide

/-- R46, major 0x17. -/
theorem test_words_of_sys :
    decode 0b010111_00000_00000_00011_000000_00100 = .ok (.svc 100) ∧
    decode 0b010111_00000_00000_00000_000001_00000 = .ok (.eret) ∧
    decode 0b010111_00000_00010_00000_000010_00000 = .ok (.wfe 2) ∧
    decode 0b010111_00000_00000_00000_000011_00000 = .ok (.yield) ∧
    decode 0b010111_00001_00000_00010_000100_00001 = .ok (.rsys 1 0x041) ∧
    decode 0b010111_00000_00010_00010_000101_00001 = .ok (.wsys 2 0x041) ∧
    decode 0b010111_00000_00000_00000_000110_001_00 = .ok (.fenceSv .quad) ∧
    decode 0b010111_00000_00000_00000_000111_010_00 = .ok (.fenceVs .field) ∧
    decode 0b010111_00000_00000_00000_001000_100_00 = .ok (.fenceVv .sys) ∧
    decode 0b010111_00000_00000_00011_001001_00100 = .ok (.brk 100) := by decide

/-- R108, R109, majors 0x18 and 0x19. -/
theorem test_words_of_vector_length :
    decode 0b011000_00001_00010_0000000001111010 = .ok (.setvl 1 2 0x7A) ∧
    decode 0b011001_00001_00010_00011_000000_00000 = .ok (.setvlr 1 2 3) ∧
    decode 0b011001_00001_00010_00000_000001_00000 = .ok (.setvlm 1 2) ∧
    decode 0b011001_00001_00000_00011_000010_00000 = .ok (.vlq 1 3) := by decide

/-- R118, major 0x1A: vd, va, vb, fn5, m, dep, var. -/
theorem test_words_of_vialu :
    decode 0b011010_00001_00010_00011_00000_1_000_00 = .ok (.vadd true 1 2 (.vec 3)) ∧
    decode 0b011010_00001_00010_00011_00001_1_000_01 = .ok (.vsub true 1 2 (.scal 3)) ∧
    decode 0b011010_00001_00010_00011_00010_1_000_00 = .ok (.vmul true 1 2 (.vec 3)) ∧
    decode 0b011010_00001_00010_00011_00011_1_000_01 = .ok (.vand true 1 2 (.scal 3)) ∧
    decode 0b011010_00001_00010_00011_00100_1_000_00 = .ok (.vor true 1 2 (.vec 3)) ∧
    decode 0b011010_00001_00010_00011_00101_1_000_01 = .ok (.vxor true 1 2 (.scal 3)) ∧
    decode 0b011010_00001_00010_00011_00110_1_000_00 = .ok (.vsll true 1 2 (.vec 3)) ∧
    decode 0b011010_00001_00010_00011_00111_1_000_01 = .ok (.vsrl true 1 2 (.scal 3)) ∧
    decode 0b011010_00001_00010_00011_01000_1_000_00 = .ok (.vsra true 1 2 (.vec 3)) ∧
    decode 0b011010_00001_00010_00011_01001_1_000_01 = .ok (.vmin true 1 2 (.scal 3)) ∧
    decode 0b011010_00001_00010_00011_01010_1_000_00 = .ok (.vmax true 1 2 (.vec 3)) ∧
    decode 0b011010_00001_00010_00011_01011_1_000_01 = .ok (.vsadd true 1 2 (.scal 3)) ∧
    decode 0b011010_00001_00010_00011_01100_1_000_00 = .ok (.vssub true 1 2 (.vec 3)) ∧
    decode 0b011010_00001_00010_00000_01101_1_000_00 = .ok (.vpopc true 1 2) ∧
    decode 0b011010_00001_00010_00011_01110_0_000_01 = .ok (.vmerge 1 2 (.scal 3)) ∧
    decode 0b011010_00001_00010_00000_01111_1_000_00 = .ok (.vmv true 1 2) ∧
    decode 0b011010_00001_00000_00011_01111_1_000_01 = .ok (.vmvScalar true 1 3) ∧
    decode 0b011010_00001_00000_00000_10000_1_000_00 = .ok (.vid true 1) ∧
    decode 0b011010_00001_00010_00011_10001_0_000_10 = .ok (.vwiden false true 1 2 (.vec 3)) ∧
    decode 0b011010_00001_00010_00011_10010_0_000_01 = .ok (.vnarrow false false 1 2 (.scal 3)) := by decide

/-- R120, major 0x1B. -/
theorem test_words_of_vcmp :
    decode 0b011011_00001_00010_00011_00000_1_000_00 = .ok (.vcmpeq true 1 2 (.vec 3)) ∧
    decode 0b011011_00001_00010_00011_00001_1_000_01 = .ok (.vcmpne true 1 2 (.scal 3)) ∧
    decode 0b011011_00001_00010_00011_00010_1_000_00 = .ok (.vcmplt true 1 2 (.vec 3)) ∧
    decode 0b011011_00001_00010_00011_00011_1_000_01 = .ok (.vcmpltu true 1 2 (.scal 3)) ∧
    decode 0b011011_00001_00010_00011_00100_1_000_00 = .ok (.vcmple true 1 2 (.vec 3)) ∧
    decode 0b011011_00001_00010_00011_00101_1_000_01 = .ok (.vcmpleu true 1 2 (.scal 3)) ∧
    decode 0b011011_00001_00010_00011_00110_1_000_00 = .ok (.vfcmpeq true 1 2 (.vec 3)) ∧
    decode 0b011011_00001_00010_00011_00111_1_000_01 = .ok (.vfcmplt true 1 2 (.scal 3)) ∧
    decode 0b011011_00001_00010_00011_01000_1_000_00 = .ok (.vfcmple true 1 2 (.vec 3)) := by decide

/-- R121, major 0x1C. -/
theorem test_words_of_vfpu :
    decode 0b011100_00001_00010_00011_00000_1_000_00 = .ok (.vfadd true 1 2 3) ∧
    decode 0b011100_00001_00010_00011_00001_1_000_00 = .ok (.vfsub true 1 2 3) ∧
    decode 0b011100_00001_00010_00011_00010_1_000_00 = .ok (.vfmul true 1 2 3) ∧
    decode 0b011100_00001_00010_00011_00011_1_000_00 = .ok (.vfma true 1 2 3) ∧
    decode 0b011100_00001_00010_00011_00100_1_000_00 = .ok (.vfdiv true 1 2 3) ∧
    decode 0b011100_00001_00010_00011_00101_1_000_00 = .ok (.vfmin true 1 2 3) ∧
    decode 0b011100_00001_00010_00011_00110_1_000_00 = .ok (.vfmax true 1 2 3) ∧
    decode 0b011100_00001_00010_00011_00111_1_000_00 = .ok (.vfscale true 1 2 3) ∧
    decode 0b011100_00001_00010_00011_01100_1_000_00 = .ok (.vflogt true 1 2 3) ∧
    decode 0b011100_00001_00010_00000_01000_0_000_00 = .ok (.vfcvtfi false 1 2) ∧
    decode 0b011100_00001_00010_00000_01001_0_000_11 = .ok (.vfcvtif false .rup 1 2) ∧
    decode 0b011100_00001_00010_00000_01010_0_000_01 = .ok (.vfwiden false .e5m2 1 2) ∧
    decode 0b011100_00001_00010_00000_01011_0_000_10 = .ok (.vfnarrow false .bf16 1 2) := by decide

/-- R124, major 0x1D. -/
theorem test_words_of_vmask :
    decode 0b011101_00001_00010_00011_00000_0_000_00 = .ok (.vmand false 1 2 3) ∧
    decode 0b011101_00001_00010_00011_00001_0_000_00 = .ok (.vmor false 1 2 3) ∧
    decode 0b011101_00001_00010_00011_00010_0_000_00 = .ok (.vmxor false 1 2 3) ∧
    decode 0b011101_00001_00010_00000_00011_1_000_00 = .ok (.vmpopc true 1 2) ∧
    decode 0b011101_00001_00010_00000_00100_1_000_00 = .ok (.vmfirst true 1 2) := by decide

/-- R133, R55, majors 0x1E and 0x1F; the index destination of vredminx is a pair. -/
theorem test_words_of_vred_and_vscan :
    decode 0b011110_00010_00011_00100_00000_1_000_00 = .ok (.vredsum true 0 2 3 4) ∧
    decode 0b011110_00010_00011_00100_00001_1_001_00 = .ok (.vredmin true 1 2 3 4) ∧
    decode 0b011110_00010_00011_00100_00010_1_010_00 = .ok (.vredmax true 2 2 3 4) ∧
    decode 0b011110_00010_00011_00100_00011_1_011_00 = .ok (.vredand true 3 2 3 4) ∧
    decode 0b011110_00010_00011_00100_00100_1_100_00 = .ok (.vredor true 4 2 3 4) ∧
    decode 0b011110_00010_00011_00100_00101_1_000_00 = .ok (.vredxor true 0 2 3 4) ∧
    decode 0b011110_00010_00011_00100_00110_1_001_00 = .ok (.vfredsum true 1 2 3 4) ∧
    decode 0b011110_00010_00011_00100_00111_1_010_00 = .ok (.vfredmin true 2 2 3 4) ∧
    decode 0b011110_00010_00011_00100_01000_1_011_00 = .ok (.vfredmax true 3 2 3 4) ∧
    decode 0b011110_00110_00011_00100_01001_0_100_00 = .ok (.vredminx false 4 3 3 4) ∧
    decode 0b011110_00110_00011_00100_01010_0_011_00 = .ok (.vfredmaxx false 3 3 3 4) ∧
    decode 0b011111_00010_00011_00100_00000_0_010_00 = .ok (.vscansum false false 2 2 3 4) ∧
    decode 0b011111_00010_00011_00100_00001_0_010_01 = .ok (.vscanmax false true 2 2 3 4) ∧
    decode 0b011111_00010_00011_00100_00010_0_010_00 = .ok (.vfscansum false false 2 2 3 4) ∧
    decode 0b011111_00010_00011_00100_00011_0_010_01 = .ok (.vfscanmax false true 2 2 3 4) := by decide

/-- R133, R150, majors 0x20 and 0x21. -/
theorem test_words_of_vshape_and_vscl :
    decode 0b100000_00001_00010_00011_00000_1_100_00 = .ok (.vdist true 4 1 2 3) ∧
    decode 0b100000_00001_00010_00011_00001_0_000_00 = .ok (.vpack 1 2 3) ∧
    decode 0b100000_00001_00010_00011_00010_0_000_00 = .ok (.vcompress 1 2 3) ∧
    decode 0b100000_00001_00000_00011_00011_1_001_00 = .ok (.vsegid true 1 1 3) ∧
    decode 0b100000_00001_00000_00011_00100_0_010_00 = .ok (.vseglen 2 1 3) ∧
    decode 0b100000_00001_00010_00000_00101_0_000_00 = .ok (.vtree 1 2) ∧
    decode 0b100000_00001_00010_00011_00110_0_000_00 = .ok (.nset 1 2 3) ∧
    decode 0b100000_00001_00000_00011_00111_0_000_00 = .ok (.npush 1 3) ∧
    decode 0b100000_00001_00000_00000_01000_0_000_01 = .ok (.npop true 1) ∧
    decode 0b100000_00001_00010_00011_01001_1_000_00 = .ok (.vslideup true 0 1 2 3) ∧
    decode 0b100000_00001_00010_00011_01010_1_001_00 = .ok (.vslidedn true 1 1 2 3) ∧
    decode 0b100000_00001_00010_00011_01011_1_011_00 = .ok (.vrgather true 3 1 2 3) ∧
    decode 0b100000_00001_00010_00011_01100_0_000_00 = .ok (.vmvxs 1 2 3) ∧
    decode 0b100001_00001_00010_00000_00000_1_000_00 = .ok (.vdec4 true 1 2) ∧
    decode 0b100001_00001_00010_00000_00001_0_000_10 = .ok (.venc4 .pow 1 2) ∧
    decode 0b100001_00001_00010_00011_00010_1_010_00 = .ok (.vbsum true 2 1 2 3) := by decide

/-- R203, R49, majors 0x22 and 0x23. -/
theorem test_words_of_vector_memory :
    decode 0b100010_00001_00010_00000_00000_1_000_01 = .ok (.vld true .stream 1 2) ∧
    decode 0b100010_00001_00010_00011_00001_1_000_10 = .ok (.vlds true .keep 1 2 3) ∧
    decode 0b100010_00001_00010_00011_00010_1_000_00 = .ok (.vldx true .normal 1 2 3) ∧
    decode 0b100010_00001_00010_00011_00011_0_000_01 = .ok (.vldxo false .stream 1 2 3) ∧
    decode 0b100010_00001_00010_00000_00100_0_000_10 = .ok (.vldff .keep 1 2) ∧
    decode 0b100010_00001_00010_00000_00101_0_000_00 = .ok (.vfill .normal 1 2) ∧
    decode 0b100011_00001_00010_00000_00000_1_000_01 = .ok (.vst true .stream 1 2) ∧
    decode 0b100011_00001_00010_00011_00001_1_000_10 = .ok (.vsts true .keep 1 2 3) ∧
    decode 0b100011_00001_00010_00011_00010_1_000_00 = .ok (.vstx true .normal 1 2 3) ∧
    decode 0b100011_00001_00010_00011_00011_0_000_01 = .ok (.vstxo false .stream 1 2 3) ∧
    decode 0b100011_00001_00010_00000_00100_0_000_10 = .ok (.vspill .keep 1 2) := by decide

/-- R167, R178, R349, majors 0x24 and 0x25. -/
theorem test_words_of_tiles_and_layers :
    decode 0b100100_00001_00010_00011_000000_000_10 = .ok (.tld true false 1 2 3) ∧
    decode 0b100100_00001_00010_00011_000000_000_01 = .ok (.tld false true 1 2 3) ∧
    decode 0b100100_00001_00010_00011_000001_000_10 = .ok (.tst true 1 2 3) ∧
    decode 0b100100_00001_00010_00011_000010_00000 = .ok (.ttag 1 2 3) ∧
    decode 0b100100_00001_00010_00011_000011_00000 = .ok (.tset 1 2 3) ∧
    decode 0b100100_00000_00010_00000_000100_000_11 = .ok (.tcall 2 .three) ∧
    decode 0b100101_00000_00010_00011_000000_011_00 = .ok (.lmk .pkg 2 3) ∧
    decode 0b100101_00001_00010_00011_000001_100_00 = .ok (.lattach .sys 1 2 3) ∧
    decode 0b100101_00001_00010_00011_000010_000_00 = .ok (.ldetach .hart 1 2 3) ∧
    decode 0b100101_00001_00010_00011_000011_010_00 = .ok (.lfold .field 1 2 3) := by decide

/-- R158, R239, R250, R275, R276, R304, majors 0x26 to 0x28. -/
theorem test_words_of_matrix_engines_and_sync :
    decode 0b100110_00001_00010_00000_000000_00000 = .ok (.mattach 1 2) ∧
    decode 0b100110_00000_00010_00000_000001_00000 = .ok (.mmode 2) ∧
    decode 0b100110_00000_00000_00000_000010_00000 = .ok (.mzero) ∧
    decode 0b100110_00000_00010_00011_000011_00000 = .ok (.mopa 2 3) ∧
    decode 0b100110_00000_00010_00011_000100_00000 = .ok (.mopab 2 3) ∧
    decode 0b100110_00001_00010_00000_000101_00000 = .ok (.mrd 1 2) ∧
    decode 0b100110_00000_00010_00011_000110_00000 = .ok (.mwr 2 3) ∧
    decode 0b100111_00001_00010_00000_000000_001_00 = .ok (.cpy .quad 1 2) ∧
    decode 0b100111_00001_00010_00000_000001_100_00 = .ok (.coll .sys 1 2) ∧
    decode 0b101000_00001_00000_00000_000000_00000 = .ok (.fclaim 1) ∧
    decode 0b101000_00001_00010_00000_000001_010_00 = .ok (.vfbar .field 1 2) ∧
    decode 0b101000_00001_00010_00011_000010_000_00 = .ok (.bwait .hart 1 2 3) ∧
    decode 0b101000_00000_00010_00011_000011_000_10 = .ok (.lsplit 2 3 .four) ∧
    decode 0b101000_00000_00000_00000_000100_00000 = .ok (.lfuse) := by decide

/-- The words that the spec's own examples print. -/
theorem test_words_the_spec_prints :
    decode 0x7A88_0804 = .ok (.vredsum false 1 20 8 1) ∧
    decode 0x60A4_0003 = .ok (.setvl 5 4 3) ∧
    decode 0x6822_1800 = .ok (.vadd false 1 2 (.vec 3)) ∧
    decode 0x08C6_0001 = .ok (.addi 6 6 1) ∧
    decode 0x38C7_FFF9 = .ok (.bne 6 7 0xFFF9) ∧
    decode 0x5460_0008 = .ok (.loop 3 8) ∧
    decode 0x5864_0005 = .ok (.loopi 100 5) ∧
    decode 0x5C00_0000 = .ok (.svc 0) ∧
    decode 0x5C00_1804 = .ok (.svc 100) ∧
    decode 0x5C00_0060 = .ok (.yield) ∧
    decode 0x5C00_0020 = .ok (.eret) ∧
    decode 0x5CA0_1080 = .ok (.rsys 5 0x040) ∧
    decode 0x5C00_0120 = .ok (.brk 0) ∧
    decode 0x5C00_0127 = .ok (.brk 7) ∧
    decode 0x5C00_1924 = .ok (.brk 100) ∧
    decode 0x70C4_02C0 = .ok (.vfnarrow false .e4m3 6 4) ∧
    decode 0x7523_00C0 = .ok (.vmpopc false 9 3) ∧
    decode 0x9405_300C = .ok (.lmk .pkg 5 6) ∧
    decode 0x94E5_302C = .ok (.lattach .pkg 7 5 6) ∧
    decode 0x94E5_404C = .ok (.ldetach .pkg 7 5 8) ∧
    decode 0x9465_486C = .ok (.lfold .pkg 3 5 9) ∧
    decode 0x98A6_0000 = .ok (.mattach 5 6) ∧
    decode 0x9807_0020 = .ok (.mmode 7) ∧
    decode 0x9800_0040 = .ok (.mzero) ∧
    decode 0x9808_4860 = .ok (.mopa 8 9) ∧
    decode 0x9808_4880 = .ok (.mopab 8 9) ∧
    decode 0x998D_00A0 = .ok (.mrd 12 13) ∧
    decode 0x980D_70C0 = .ok (.mwr 13 14) := by decide

/-- R56: one word for each row of its table. -/
theorem test_words_that_are_not_instructions :
    decode 0b000000_00000_00000_00000_000000_00000 = .error .reservedMajor ∧ decode 0b101001_00000_00000_00000_000000_00000 = .error .reservedMajor ∧
    decode 0b001100_00001_00010_00011_001001_00000 = .error .unassignedSelector ∧
    decode 0b000110_00001_00010_11_00000000_000000 = .error .reservedKind ∧
    decode 0b001011_00001_00010_001_0000000000000 = .error .reservedKind ∧ decode 0b000110_00001_00010_00_00000001_000000 = .error .mustBeZero ∧
    decode 0b011110_00010_00011_01000_00000_0_000_00 = .error .mustBeZero ∧ decode 0b001100_00001_00010_00011_000000_101_0_0 = .error .reservedScope ∧
    decode 0b011000_00001_00010_0000000000000101 = .error .malformedImage ∧
    decode 0b010101_00001_00000_1000000000000000 = .error .loopEndNotAhead := by
  decide
/-! ## A small package -/

/-- A thread of the device runtime with one lane cluster, at 0x100_0000, in supervisor mode. -/
def thread0 : Thread := { Thread.zero with
  arch := { Arch.zero with pc := 0x100_0000, mode := .supervisor, x := ((Arch.zero.x.set 5 0x100_0100).set 6 7).set 2 0x100_9000 }
  status := .running, lanes := some ⟨0, 1⟩, tvec := 0x100_8000, tscratch := 0x100_A000 }

def atThread (th : Thread) : State := { State.reset with
  threads := State.reset.threads.set 0 th
  fields := Vector.replicate 8 { Field.zero 0 with
    up := true, sites := 0x3FFF }
  boot := { State.reset.boot with step := 9, started := true } }

def lab : State := atThread thread0

/-- x register r of the small package's thread. -/
def withX (s : State) (r : XReg) (v : Word) : State := s.setX r v

/-- The thread without lanes. -/
def helper : State := atThread { thread0 with lanes := none }

/-- Its thread in user mode. -/
def userLab : State := atThread { thread0 with arch := { thread0.arch with mode := .user } }

/-- Bytes from an address on, zeros left out. -/
def place (key : Nat) (b : List Byte) : Memory := (b.zipIdx.map fun q => (key + q.2, q.1)).filter fun q => q.2 != 0

def keyA : Nat := 0x100_0100
def locA : Loc := ⟨0x100_0100, false, false⟩

/-! ## A step -/

/-- `addi x1, x0, 7` (0x08200007) as the first instruction after reset; the word is the spec's map written out. -/
theorem test_step_runs_the_placed_word :
    (match step (State.reset.withFetchWord 32 0b000010_00001_00000_0000000000000111) with
      | .next t => decide (t.x 1 = 7 ∧ t.pc = 0x100_0004 ∧ (t.thr 0).instret = 1)
      | _ => false) = true := by decide

theorem test_the_table_word_decodes : decodeTableWord 32 0b000010_00001_00000_0000000000000111 = some (.addi 1 0 7) := by decide

/-! ## Hypotheses of the statements: scalar instructions -/

theorem test_premises_exact_results :
    (1 : Nat) ≠ 0 ∧ (rne .fp32 (.fin false 1 0)).2 &&& flOF = 0 ∧ (unpack .fp32 0).isFin = true ∧ (rne .fp32 (.fin true 1 200)).2 &&& flOF ≠ 0 ∧
    (FVal.fin true 3 1).isFin = true := by decide

theorem test_premises_loads :
    (lab.x 5 + (8 : BitVec 13).signExtend 64).toNat % 8 = 0 ∧
    lab.translate (lab.who lab.cur) .load true (lab.x 5 + (8 : BitVec 13).signExtend 64) = .ok ⟨0x100_0108, false, false⟩ ∧
    lab.aheadFor lab.cur false 0 (lab.x 5 + (8 : BitVec 13).signExtend 64) 0x100_0108 8 = none ∧
    lab.hasBad lab.cur 0x100_0108 8 = false ∧ lab.copyStalls lab.cur (keysFrom 0x100_0108 8) false noneAcquired = false ∧
    (atThread { thread0 with ahead := [⟨false, 0, 0x100_0108, 0x100_0108, 8, 9, 3, false⟩] }).aheadFor 0 false 0 (thread0.arch.getX 5 + 8) 0x100_0108 8 =
      some ⟨false, 0, 0x100_0108, 0x100_0108, 8, 9, 3, false⟩ := by decide

/-- A package that maps virtual page 0x40_0000_0000 to device-class host memory. -/
def devLab : State :=
  let s := (atThread { thread0 with pgroot := 0x8_0000, arch := { thread0.arch with x := thread0.arch.x.set 5 0x40_0000_0000, vtype := 3, vlmax := 64, vl := 2 } })
  s.setHrt 0 { s.hrt 0 with rows := (s.hrt 0).rows.set 0 1, tlb := [⟨0, 0, 0x40_0000, 0x0000_0D00_0000_006F⟩] }

def devLoc (k : Nat) : Loc := ⟨hostKey (3 * 2 ^ 40 + k), true, false⟩

theorem test_premises_device_scalar_accesses :
    (devLab.x 5 + (8 : BitVec 13).signExtend 64).toNat % 8 = 0 ∧
    devLab.translate (devLab.who 0) .load true (devLab.x 5 + (8 : BitVec 13).signExtend 64) = .ok (devLoc 8) ∧
    devLab.translate (devLab.who 0) .store true (devLab.x 5 + (8 : BitVec 13).signExtend 64) = .ok (devLoc 8) ∧
    (devLoc 8).device = true ∧ (devLoc 8).lost = false ∧ devLab.losesTo 0 false (devLoc 8).key = false := by decide

theorem test_premises_device_store_plain :
    ((devLab.closed 0).drainAhead 0 (keysFrom (devLoc 8).key 8)).Plain (keysFrom (devLoc 8).key 8) :=
  ⟨⟨by decide, by decide⟩, by decide⟩

theorem test_premises_device_vector_accesses :
    VectorReady devLab ∧ devLab.Writable (groupRegs devLab 8) ∧
    (1 ≤ ewOf (devLab.arch 0).vtype ∧ groupOk 8 (multOf (devLab.arch 0).vtype) = true ∧
      (List.range (devLab.arch 0).vl).filter (devLab.on false) = [0, 1]) ∧
    (∀ k ∈ [0, 1], (devLab.x 5 + BitVec.ofNat 64 (k * 4)).toNat % 4 = 0 ∧
      devLab.translate (devLab.who 0) .load true (devLab.x 5 + BitVec.ofNat 64 (k * 4)) = .ok (devLoc (k * 4)) ∧
      devLab.translate (devLab.who 0) .store true (devLab.x 5 + BitVec.ofNat 64 (k * 4)) = .ok (devLoc (k * 4)) ∧ (devLoc (k * 4)).device = true ∧
      (devLoc (k * 4)).lost = false ∧ devLab.losesTo 0 false (devLoc (k * 4)).key = false) ∧ (∀ e ∈ devLab.stores, e.visibleTo 0 = false) ∧
    devLab.Plain ([0, 1].flatMap fun k => keysFrom (devLoc (k * 4)).key 4) ∧
    (∀ j ∈ [0, 1], ∀ k ∈ [0, 1], j < k → (devLoc (j * 4)).key + 4 ≤ (devLoc (k * 4)).key ∨ (devLoc (k * 4)).key + 4 ≤ (devLoc (j * 4)).key) :=
  ⟨⟨by decide, by decide, by decide, by decide, by decide⟩, by unfold State.Writable; decide, by decide, by decide, by decide,
    ⟨⟨by decide, by decide⟩, by decide⟩, by decide⟩

/-- A package whose thread's strip fills its 8,192 granules, so that one more store does not fit (R200). -/
def fullLab : State := { lab with
  stores := [⟨0, 0, .held, false, false, (List.range 8192).map fun k => ⟨0x200_0000 + 16 * k, 1, 0xFF⟩, [], 0, 0, ⟨none, none⟩⟩] }

theorem fullLab_granules : fullLab.heldGranules (hartOf 0) = (List.range 8192).map fun k => (0, 0x20_0000 + k) := by
  have h : ((List.range 8192).map fun k => ((0 : Nat), 0x20_0000 + k)).Nodup := List.nodup_range.map fun _ _ e => by simpa using e
  have e : ∀ k : Nat, (0x200_0000 + 16 * k) / 16 = 0x20_0000 + k := fun k => by omega
  simp only [State.heldGranules, fullLab, List.filter_cons, List.filter_nil, Bool.and_eq_true, Bool.or_eq_true, beq_self_eq_true, true_or, and_true, if_true,
    List.flatMap_cons, List.flatMap_nil, List.append_nil, List.map_map, Function.comp_def, e]
  exact h.dedup

theorem test_premises_stores :
    (lab.x 5 + (8 : BitVec 13).signExtend 64).toNat % 8 = 0 ∧
    lab.translate (lab.who 0) .store true (lab.x 5 + (8 : BitVec 13).signExtend 64) = .ok ⟨0x100_0108, false, false⟩ ∧
    lab.copyStalls 0 (keysFrom 0x100_0108 8) true noneAcquired = false ∧
    (lab.thr 0).lanes.isSome = true ∧ lab.storeFits 0 (keysFrom 0x100_0108 8) = true := by decide

theorem test_premises_stores_that_need_room :
    fullLab.storeFits 0 (keysFrom 0x100_0108 8) = false ∧ (fullLab.implicitCkpt 0).storeFits 0 (keysFrom 0x100_0108 8) = true := by
  refine ⟨?_, by decide +kernel⟩
  have h : ((keysFrom 0x100_0108 8).map fun k => ((0 : Tid).val, k / 16)).dedup = [(0, 0x10_0010)] := by decide
  have n : ((List.range 8192).map fun k => (0, 0x20_0000 + k)).contains ((0 : Nat), (0x10_0010 : Nat)) = false := by simp; omega
  simp only [State.storeFits, fullLab_granules, h, List.filter_cons, n, Bool.not_false, if_true, List.filter_nil, List.length_cons, List.length_nil,
    List.length_map, List.length_range]
  rfl

/-- The tables of R328's example, whose level-4 table lies at 0x10_0000, under a user thread. -/
def example328 : Nat → Word
  | 4 => 0x10_1001
  | 3 => 0x10_2001
  | 2 => 0x10_3001
  | 1 => 0x10_4001
  | _ => 0x1_2345_002F

def walking (leaf : Word) : State :=
  { atThread { thread0 with pgroot := 0x10_0000, arch := { thread0.arch with mode := .user } } with
    mem := place 0x10_0000 (bytesOf 0x10_1001 8) ++ place 0x10_1008 (bytesOf 0x10_2001 8) ++ place 0x10_2008 (bytesOf 0x10_3001 8) ++
      place 0x10_3018 (bytesOf 0x10_4001 8) ++ place 0x10_4028 (bytesOf leaf.toNat 8) }

/-- The walk of R328's example reaches the leaf that the table prints; a store there has its address. -/
theorem test_premises_walks :
    WalksTo (walking 0x1_2345_002F) ((walking 0x1_2345_002F).who 0) 0x80_4065_1234 0 example328 ∧ IsLeaf (walking 0x1_2345_002F) 0 (example328 0) ∧
    Admits ((walking 0x1_2345_002F).who 0) .store (example328 0) ∧ IsOwn (walking 0x1_2345_002F) (example328 0) ∧
    (walking 0x1_2345_002F).translate ((walking 0x1_2345_002F).who 0) .store true 0x80_4065_1234 = .ok ⟨0x1_2345_1234, false, false⟩ :=
  ⟨⟨by decide, by decide, by decide, by decide, by decide, fun l h1 h2 => by unfold IsPointer IsOwn; interval_cases l <;> decide⟩,
    by unfold IsLeaf IsOwn InHbm; decide, by dsimp only [Admits]; decide, by unfold IsOwn; decide, by decide⟩

/-- Entries that are malformed, absent, of the host, or of a device page, and a user load that a page without U denies. -/
theorem test_premises_entries :
    IsMalformed lab 0 0x1_2345_00AF ∧ (0x1_2345_002E : Word).getLsbD 0 = false ∧ IsLeaf lab 0 0x0000_0D00_0000_006F ∧
    (0x0000_0D00_0000_006F : Word).extractLsb' 40 2 = 1#2 ∧ IsLeaf lab 0 0x0000_0600_0000_002F ∧ ¬ IsOwn lab 0x0000_0600_0000_002F ∧
    ¬ Admits (userLab.who 0) .load 0x1_2345_000F ∧ (userLab.who 0).pgroot.extractLsb' 11 29 = 0#29 ∧ (lab.who 0).mode = .supervisor :=
  ⟨by unfold IsMalformed IsOwn InHbm; decide, by decide, by unfold IsLeaf IsOwn InHbm; decide, by decide, by unfold IsLeaf IsOwn InHbm; decide,
    by unfold IsOwn; decide, by dsimp only [Admits]; decide, by decide, by decide⟩

theorem test_premises_scalar_traps :
    (lab.x 5 + (1 : BitVec 13).signExtend 64).toNat % 4 ≠ 0 ∧
    userLab.translate (userLab.who 0) .load true (userLab.x 5 + (8 : BitVec 13).signExtend 64) = .error 0x04 ∧
    userLab.translate (userLab.who 0) .store true (userLab.x 5) = .error 0x05 ∧
    (let s := { lab with bad := [0x100_0100] };
      s.translate (s.who 0) .load true (s.x 5) = .ok locA ∧ s.hasBad 0 locA.key 8 = true ∧
      s.copyStalls 0 (keysFrom locA.key 8) false noneAcquired = false) := by decide

theorem test_premises_quotients_and_orders :
    (FVal.fin false 3 0).rat ≠ 0 ∧ (FVal.fin true 0 0).rat = 0 ∧ (0 : Rat) < (FVal.fin false 3 0).rat ∧ (FVal.fin true 3 0).rat < 0 ∧
    (FVal.nan true).isNaN = true ∧ (unpack .fp32 0x7FC0_0000).isNaN = true ∧ (unpack .fp32 0).isNaN = false ∧
    ¬ (FVal.fin false 1 0).lt (FVal.fin true 1 0) := by
  refine ⟨by norm_num [FVal.rat], by norm_num [FVal.rat], by norm_num [FVal.rat], by norm_num [FVal.rat], by decide, by decide, by decide, ?_⟩
  norm_num [FVal.lt, FVal.rat]

theorem test_premises_atomics :
    (lab.x 5).toNat % 8 = 0 ∧ lab.translate (lab.who 0) .atomic true (lab.x 5) = .ok locA ∧ lab.hasBad 0 locA.key 8 = false ∧
    lab.copyStalls 0 (keysFrom locA.key 8) true noneAcquired = false ∧
    (lab.closed 0).drainWaits 0 .sys (StoreEntry.ownKind 0 true true) = false ∧
    (((lab.closed 0).drainOwn 0 .sys true true).drainAhead 0 (keysFrom locA.key 8)).Plain (keysFrom locA.key 8) :=
  ⟨by decide, by decide, by decide, by decide, by decide, ⟨⟨by decide, by decide⟩, by decide⟩⟩

theorem test_premises_fences :
    (Instr.fenceSv .sys, true, false) ∈ [(Instr.fenceSv .sys, true, false), (.fenceVs .sys, true, true), (.fenceVv .sys, false, true)] ∧
    (lab.thr 0).lanes.isSome = true ∧ (helper.thr 0).lanes.isSome = false ∧ helper.holdsStore 0 = false ∧
    (lab.closed 0).drainWaits 0 .sys (StoreEntry.ownKind 0 true false) = false := by decide

/-! ## Control flow -/

theorem test_premises_branches :
    lab.x 5 ≠ lab.x 6 ∧ ¬ (lab.x 5).toInt < (lab.x 6).toInt ∧ (lab.x 6).toInt ≤ (lab.x 5).toInt ∧ lab.x 6 = lab.x 6 := by decide

/-- Two loops: the outer body is 0x100_0000 to 0x100_0010, the inner one 0x100_0004 to 0x100_0008. -/
def loops : Arch := { thread0.arch with
  lpc := (Arch.zero.lpc.set 0 0x100_0010).set 1 0x100_0008, lcnt := (Arch.zero.lcnt.set 0 0x5_0000_0003).set 1 0x2_0000_0001 }

theorem test_premises_exit_rule :
    (Arch.exitLoops 4 loops 0x100_0008 0x100_000C).loopDepth = 1 ∧ loops.loopDepth = 2 ∧ loops.loopStart 1 = 0x100_0004 := by decide

theorem test_premises_end_of_pass :
    thread0.arch.loopDepth = 0 ∧ loops.loopDepth = 1 + 1 ∧ (0x100_000C : Word) = loops.lpcAt 1 + 4 ∧ (loops.lcntAt 1).toNat % 2 ^ 32 ≤ 1 ∧
    (loops.setLoop 1 0 0).loopDepth = 0 + 1 ∧ (0x100_0014 : Word) = (loops.setLoop 1 0 0).lpcAt 0 + 4 ∧
    1 < ((loops.setLoop 1 0 0).lcntAt 0).toNat % 2 ^ 32 := by decide

theorem test_premises_jumps :
    ((lab.x 5).toNat + (4 : BitVec 16).toInt) % 4 = 0 ∧ ((lab.x 5).toNat + (2 : BitVec 16).toInt) % 4 ≠ 0 := by decide

theorem test_premises_loops :
    0 < (2 : BitVec 16).toInt ∧ (0x8000 : BitVec 16).toInt ≤ 0 ∧ (1 : BitVec 5) ≠ 0 ∧ loopAhead 2 = true ∧ (lab.x 5).toNat % 2 ^ 32 ≠ 0 ∧ (lab.x 0).toNat % 2 ^ 32 = 0 ∧ (lab.arch 0).loopDepth = 0 ∧
    (let s := lab.setArch 0 { loops with pc := 0x100_0008 };
      (s.arch 0).loopDepth ≠ 0 ∧ s.pc = (s.arch 0).lpcAt ((s.arch 0).loopDepth - 1)) ∧
    (let s := lab.setArch 0 { loops with lcnt := Vector.replicate 4 0x1_0000_0001, lpc := Vector.replicate 4 0x100_0100 };
      (s.arch 0).loopDepth = 4 ∧ s.pc ≠ (s.arch 0).lpcAt 3) := by decide

/-! ## Traps and return -/

def frameKeys0 : List Nat := keysFrom 0x100_8FC0 64
def userFrame : List Nat := keysFrom 0x100_9FC0 64

theorem test_premises_trap_entry : lab.CanEnter 0 frameKeys0 ∧
userLab.CanEnter 0 userFrame := ⟨⟨by decide, by decide, by decide, by decide⟩, ⟨by decide, by decide, by decide, by decide⟩⟩

theorem test_premises_double_fault :
    ((atThread { thread0 with tvec := 0 }).thr 0).tvec = 0 ∧
    (let s := withX lab 2 0;
      (s.closed 0).framePlace 0 = .error (.trap 0x06 0xFFFF_FFFF_FFFF_FFC0) ∧ s.trapWaits 0 = false) := by
  decide

theorem test_premises_calls_and_bad_words :
    (1 : BitVec 10) ≠ 0 ∧ lab.CanEnter lab.cur frameKeys0 ∧
    (let s := lab.setArch 0 { lab.arch 0 with pc := 0x100_0002 };
      s.CanEnter s.cur frameKeys0 ∧ s.fetch s.cur = .error (.trap 0x03 0x100_0002)) :=
  ⟨by decide, ⟨by decide, by decide, by decide, by decide⟩, ⟨by decide, by decide, by decide, by decide⟩, by decide⟩

/-- In a handler: a frame of eight nests of depth 0 at x2, back to user mode. -/
def handler : State := atThread { thread0 with tepc := 0x100_0200, tscratch := 0x100_A000, tstatus := 0 }

theorem test_premises_eret :
    (handler.thr 0).arch.mode = .supervisor ∧ handler.readStruct (handler.who 0) ((handler.arch 0).getX 2) 64 = .ok (List.replicate 64 0) ∧
    (∀ k, k < 8 → (List.replicate 8 Nest.zero)[k]? = some Nest.zero ∧ Nest.zero.image = BitVec.ofNat 64 (fieldAt (List.replicate 64 0) (8 * k) 8)) ∧
    (handler.thr 0).tstatus &&& 0xFFFF_FF00_0000_FC00 = 0 ∧ (handler.thr 0).tstatus.toNat / 8 % 4 ≠ 3 ∧
    (∀ k : Fin 4, let p := (handler.thr 0).tstatus.toNat / 2 ^ (16 + 6 * k.val) % 64; p ≤ 32 ∨ p = 63) := by decide

/-- In a handler whose frame resumes `vld v16, 0(x5)` at 0x100_0200 in its third element group, in supervisor mode. -/
def resumer : State :=
  { (atThread { thread0 with
      tepc := 0x100_0200, tstatus := 0x2_0001, arch := { thread0.arch with vtype := 3, vlmax := 64, vl := 64 } }) with
    mem := place 0x100_0200 (bytesOf 0b100010_10000_00101_00000_00000_0_000_00 4) }

theorem test_premises_eret_resumes :
    let s := resumer;
    let th := s.thr 0;
    let a := { th.arch.advance th.tepc with x := (th.arch.setX 2 (th.arch.getX 2 + 64)).x, nests := Vector.replicate 8 Nest.zero, mode := .supervisor };
    let w := (s.noteStruct (s.who 0) (th.arch.getX 2) 64).closed 0;
    let v := w.setThr 0 { w.thr 0 with arch := a, wakeOnce := true, instret := th.instret + 1, ahead := [] };
    let p := v.cleanProgress 0 a.pc (((noProgress.set 0 2).set 1 0).set 2 0);
    let v' := v.setArch 0 { a with convoy := some ⟨a.pc, 0, p, false⟩ };
    p ≠ noProgress ∧ progressAt p 0 = 2 ∧ ((v'.membersFrom 0 a.pc).map fun x => (x.1, x.2.writes)) = [(Instr.vld false .normal 16 5, [16])] := by
  decide +kernel

theorem test_premises_eret_traps :
    (userLab.arch 0).mode = .user ∧
    (let s := atThread { thread0 with tstatus := 0x400 };
      (s.arch 0).mode = .supervisor ∧ s.readStruct (s.who 0) ((s.arch 0).getX 2) 64 = .ok (List.replicate 64 0) ∧
      (s.thr 0).tstatus &&& 0xFFFF_FF00_0000_FC00 ≠ 0) ∧
    (let s := { lab with mem := [(0x100_9000, 5)] };
      s.readStruct (s.who 0) ((s.arch 0).getX 2) 64 = .ok (5 :: List.replicate 63 0) ∧
      4 < fieldAt (5 :: List.replicate 63 0) (8 * 0) 8 % 8) ∧
    (let p := (0x21_0000 : Word).toNat / 2 ^ (16 + 6 * (0 : Fin 4).val) % 64; 33 ≤ p ∧ p ≤ 62) := by decide;

/-! ## System registers, yield, events -/

theorem test_premises_system_reads :
    (lab.thr 0).arch.mode = .supervisor ∧ (userLab.thr 0).arch.mode = .user ∧
    (0x041#10) ∉ [0x050#10, 0x051#10, 0x060#10, 0x061#10, 0x062#10, 0x063#10, 0x064#10, 0x065#10, 0x080#10] ∧
    (0x010#10 = BitVec.ofNat 10 (0x010 + (0 : Fin 32).val)) ∧ (0x0BF#10 = BitVec.ofNat 10 (0x0B0 + (15 : Fin 16).val)) ∧
    (0x0A7#10 = BitVec.ofNat 10 (0x0A4 + (3 : Fin 4).val)) := by decide

theorem test_premises_system_writes :
    (lab.arch 0).mode = .supervisor ∧ (0x02F#10 = BitVec.ofNat 10 (0x010 + (31 : Fin 32).val)) ∧ (0x080#10, 0xFF_FFFF_F800#64) ∈
      [(0x071#10, 0xF#64), (0x080#10, 0xFF_FFFF_F800#64)] ∧ (userLab.arch 0).mode = .user ∧ (0x005#10) ∈ [0x003#10, 0x005#10, 0x006#10] := by decide

theorem test_premises_system_checks :
    ¬ ((7 : Nat) ≤ 6 ∨ (0x10 ≤ 7 ∧ 7 ≤ 0x35) ∨ 7 ∈ [0x40, 0x41, 0x50, 0x51, 0x52] ∨ (0x60 ≤ 7 ∧ 7 ≤ 0x65) ∨ 7 ∈ [0x70, 0x71, 0x80, 0x90, 0x91] ∨
      (0xA0 ≤ 7 ∧ 7 ≤ 0xA7) ∨ (0xB0 ≤ 7 ∧ 7 ≤ 0xBF)) ∧ (0x35#10).toNat ≤ 0x35 ∧ (userLab.arch 0).mode = .user ∧ (0x065#10).toNat ≤ 0x65 := by decide

theorem test_premises_system_writes_of_progress :
    (if (lab.thr 0).lanes.isSome then lab.cur else tidOf (hartOf 0) 0) = 0 ∧ (lab.arch 0).atBoundary = true ∧
    ((lab.setArch 0 { lab.arch 0 with convoy := some ⟨0x100_0000, 1, noProgress, false⟩ }).arch 0).atBoundary = false := by decide

/-- A request to yield, and a reclaim of lanes that was asked for. -/
def yielding : State :=
  let s := atThread { thread0 with ystat := 1 };
  s.setHrt 0 { s.hrt 0 with reclaim := .asked 1 false }

theorem test_premises_yield :
    (lab.thr 0).ystat.getLsbD 0 = false ∧ (yielding.thr 0).ystat.getLsbD 0 = true ∧
    (yielding.hrt (hartOf 0)).transfers.all (fun x => x.tid != 0) = true ∧ (yielding.hrt (hartOf 0)).reclaim = .asked 1 false ∧
    (yielding.accept ⟨.cpy, 0, .sys, 0, 0, .user, 0, 0, 0, 0, 0, 0, 0, 0, 0, 0, 0, []⟩ 1 |>.hrt 0).transfers.any (fun x => x.tid == 0) = true ∧
    yielding.trapWaits 0 = false ∧ (yielding.thr 0).lanes.isSome = true ∧
    ((yielding.endAsk 0).setThr 0 { yielding.thr 0 with
      arch := { (yielding.thr 0).arch with pc := yielding.pc + 4, convoy := none }, instret := (yielding.thr 0).instret + 1
      ystat := ((yielding.thr 0).ystat &&& 8) ||| 2, ydead := 0, preemptDue := false }).CanEnter 0 frameKeys0 :=
  ⟨by decide, by decide, by decide, by decide, by decide, by decide, ⟨by decide, by decide, by decide, by decide⟩⟩

theorem test_premises_wfe :
    (lab.x 6).toNat % 8 ≠ 0 ∧ (lab.x 5).toNat % 8 = 0 ∧ lab.translate (lab.who 0) .load false (lab.x 5) = .ok locA ∧
    userLab.translate (userLab.who 0) .load false (userLab.x 5) = .error 0x04 ∧ (lab.thr 0).wakeOnce = false ∧
    ((atThread { thread0 with wakeOnce := true }).thr 0).wakeOnce = true ∧
    ((atThread { thread0 with watchLine := 0x100_0100, change := true }).thr 0).watchLine = locA.key / 64 * 64 := by decide

/-- A farm word, or a barrier word of generation 0 for 2 threads, at x5. -/
def words (w : Byte) : State := { atThread { thread0 with farm := 0x100_0100 } with mem := [(0x100_0100, w), (0x100_0104, 2)] }

theorem test_premises_shared_words :
    (lab.thr 0).farm = 0 ∧ ((words 9).thr 0).farm ≠ 0 ∧ ((words 9).thr 0).farm.toNat % 8 = 0 ∧
    (words 9).translate ((words 9).who 0) .atomic true (words 9 |>.thr 0).farm = .ok locA ∧
    (words 9).translate ((words 9).who 0) .atomic false ((words 9).x 5) = .ok locA ∧
    (words 9).translate ((words 9).who 0) .load false ((words 9).x 5) = .ok locA ∧ (words 9).hasBad 0 locA.key 8 = false ∧
    (words 9).copyStalls 0 (keysFrom locA.key 8) true noneAcquired = false ∧ (words 9).copyStalls 0 (keysFrom locA.key 8) false noneAcquired = false ∧
    ((words 9).closed 0).drainWaits 0 .hart (StoreEntry.ownKind 0 true true) = false ∧
    (((words 9).closed 0).drainAhead 0 (keysFrom locA.key 8)).Plain (keysFrom locA.key 8) ∧
    ((((words 9).closed 0).drainOwn 0 .hart true true).drainAhead 0 (keysFrom locA.key 8)).Plain (keysFrom locA.key 8) ∧
    ((words 9).homeWord locA.key).toNat / 2 ^ 48 ≠ ((words 9).x 6).toNat % 2 ^ 16 ∧
    ((words 9).homeWord locA.key).toNat / 2 ^ 48 = ((words 9).x 0).toNat % 2 ^ 16 :=
  ⟨by decide, by decide, by decide, by decide, by decide, by decide, by decide, by decide, by decide, by decide, ⟨⟨by decide, by decide⟩, by decide⟩,
    ⟨⟨by decide, by decide⟩, by decide⟩, by decide, by decide⟩

/-! ## Threads, lane groups and strips -/

/-- The thread with these lanes and this hart. -/
def withHart (h : Hart) (th : Thread) : State := (atThread th).setHrt 0 h

def whole : Thread := { thread0 with lanes := some ⟨0, 16⟩ }
def oneGroup : Hart := { Hart.zero with groups := 1 }

/-- Hart 0 in two lane groups, seen from thread 1. -/
def groupLab : State :=
  let s := withHart { Hart.zero with groups := 2 } { thread0 with lanes := some ⟨0, 8⟩ };
  { s with threads := s.threads.set 1 { thread0 with lanes := some ⟨8, 8⟩ }, cur := 1 }

/-- A kernel whose launch names the counter at 0x100_0100. -/
def counterLab : State :=
  { withHart oneGroup { whole with launch := some 1 } with
    launches := [⟨1, 0, 0, 0, (Vector.replicate 8 0).set 6 0x100_0100, 0, 0, Vector.replicate 8 0, 1, 0, 0, 0⟩] }

theorem test_premises_thread_ends :
    ((helper.thr 0).lanes = none ∧ (helper.hrt (hartOf 0)).transfers = []) ∧
    ((groupLab.thr groupLab.cur).lanes.isSome = true ∧ (groupLab.hrt (hartOf groupLab.cur)).groups ≠ 1 ∧ threadOf groupLab.cur ≠ 0 ∧
      (groupLab.hrt (hartOf groupLab.cur)).reclaim = .none ∧ (groupLab.hrt (hartOf groupLab.cur)).transfers = []) ∧
    ((counterLab.thr 0).lanes.isSome = true ∧ (counterLab.hrt (hartOf 0)).groups = 1 ∧ (counterLab.hrt (hartOf 0)).transfers = [] ∧
      counterLab.helpersRun 0 = false ∧ (counterLab.hrt (hartOf 0)).reclaim = .none ∧
      (counterLab.launchOf (counterLab.thr 0).launch).map (fun l => recCounter l.image) = some 0x100_0100 ∧
      counterLab.atomicLoc 0 0x100_0100 8 = .ok locA ∧
      counterLab.hartWaits (hartOf 0) (fun e => e.ctx == (counterLab.thr 0).ctx) = false ∧
      (((hartThreads (hartOf 0)).foldl (fun (s : State) u => s.drainHome u (fun e => e.tid == u && e.ctx == (counterLab.thr 0).ctx) [])
        (counterLab.closed 0)).drainAhead 0 (keysFrom locA.key 8)).Plain (keysFrom locA.key 8)) :=
  ⟨by decide, by decide, by decide, by decide, by decide, by decide, by decide, by decide, by decide, by decide, ⟨⟨by decide, by decide⟩, by decide⟩⟩

theorem test_premises_split :
    let s := withHart oneGroup whole
    ((s.thr 0).lanes = some ⟨0, 16⟩ ∧ (s.hrt (hartOf 0)).groups = 1 ∧ s.helperRuns (hartOf 0) 8 = false ∧ (s.x 5).toNat % 4 = 0 ∧
      (s.hrt (hartOf 0)).transfers = [] ∧ threadOf 0 = 0 ∧ (s.x 6).toNat % 4 ≠ 0) ∧
    ((groupLab.thr groupLab.cur).lanes.isSome = true ∧ (groupLab.hrt 0).groups ≠ 1) ∧
    ({ s with threads := s.threads.set 7 { thread0 with lanes := none } }).helperRuns (hartOf 0) 8 = true := by decide

theorem test_premises_fuse :
    ((groupLab.hrt (hartOf groupLab.cur)).failed = [] ∧ (groupLab.hrt (hartOf groupLab.cur)).groups ≠ 1 ∧ threadOf groupLab.cur ≠ 0) ∧
    ((counterLab.hrt (hartOf 0)).failed = [] ∧ (counterLab.hrt (hartOf 0)).groups = 1) ∧
    (let s := { groupLab with cur := 0, threads := groupLab.threads.set 1 { thread0 with lanes := some ⟨8, 8⟩, status := .fused } };
      ({ groupLab with cur := 0 }).allFused 0 = false ∧
      (s.thr s.cur).lanes.isSome = true ∧ (s.hrt 0).groups = 2 ∧ threadOf s.cur = 0 ∧ s.allFused s.cur = true ∧ (s.hrt 0).failed = [] ∧
      (s.hrt 0).transfers = []) := by decide

theorem test_premises_strip_openers :
    (lab.thr 0).lanes.isSome = true ∧ (helper.thr 0).lanes = none ∧ (lab.hrt (hartOf 0)).failed = [] ∧ (lab.hrt (hartOf 0)).reclaim = .none ∧
    (let bad := fun v : Nat => 4 < v % 8 ∨ (v / 64 % 2 = 1 ∧ v % 8 ≠ 2) ∨ 128 ≤ v;
      bad 5 ∧ bad 0x43 ∧ bad 128 ∧ bad (lab.x 5).toNat ∧ ¬ bad 0x42 ∧ ¬ bad 4 ∧ bad (lab.x 6).toNat ∧ ¬ bad (lab.x 0).toNat) := by decide

/-! ## Vector instructions -/

/-- One lane row, VL elements of VTYPE, v0 all ones in its low bits, x5 = 0x100_0100, and nests n0 of depth 0 and n1 of depth 1 with two
segments, 0 to 1 and 1 to 2, whose entries are in v8. -/
def vlab (img : BitVec 16) (vl : Nat) : State :=
  withHart { oneGroup with rows := oneGroup.rows.set 0 1 } { thread0 with
    lanes := some ⟨0, 1⟩
    arch := { thread0.arch with
      vtype := img, vlmax := vlmaxOf img 1, vl := vl
      nests := (thread0.arch.nests.set 1 ⟨1, 8, #v[2, 0, 0, 0], false, false⟩).set 2 ⟨2, 9, #v[1, 2, 0, 0], false, false⟩
      v := ((((Arch.zero.v.set 0 0b11).set 8 0x2_0000_0001_0000_0000).set 9 0x2_0000_0000).set 10 0x2_0000_0001_0000_0000).set 11 0x2_0000_0001_0000_0000 } }

theorem test_premises_vector_integer :
    VectorReady (vlab 3 2) ∧ (vlab 3 2).Writable (groupRegs (vlab 3 2) 16) ∧ groupOk 16 (multOf 3) = true ∧ srcGroupOk (.scal 5) (multOf 3) = true ∧
    srcGroupOk (.vec 8) (multOf 3) = true ∧ 2 ≤ ewOf 3 ∧ VectorReady (vlab 0x18 1024) ∧ groupOk 24 (multOf 0x18) = true ∧ ¬ 1 ≤ ewOf 0x18 ∧
    (vlab 0x18 1024).Writable (groupRegs (vlab 0x18 1024) 24) :=
  ⟨⟨by decide, by decide, by decide, by decide, by decide⟩, by unfold State.Writable; decide, by decide, by decide, by decide, by decide,
    ⟨by decide, by decide, by decide, by decide, by decide⟩, by decide, by decide, by unfold State.Writable; decide⟩

theorem test_premises_vector_comparisons :
    maskOk 3 16 = true ∧ (vlab 3 2).Writable (regsFrom 16 (maskRegs 3)) ∧ maskOk 3 8 = true ∧ 2 ≤ ewOf 3 :=
  ⟨by decide, by unfold State.Writable; decide, by decide, by decide⟩

theorem test_premises_vector_float :
    (ewOf 3 = 3 ∧ (Narrow.f16, Fmt.fp16) ∈ [(Narrow.e4m3, Fmt.e4m3), (.e5m2, .e5m2), (.bf16, .bf16), (.f16, .fp16)]) ∧ ewOf 4 = 4 ∧
    VectorReady (vlab 4 2) ∧ VectorReady (vlab 0x42 2) ∧ 2 ≤ ewOf 0x42 ∧ (vlab 4 2).Writable (groupRegs (vlab 4 2) 16) :=
  ⟨by decide, by decide, ⟨by decide, by decide, by decide, by decide, by decide⟩, ⟨by decide, by decide, by decide, by decide, by decide⟩, by decide,
    by unfold State.Writable; decide⟩

theorem test_premises_scalar_results :
    let ones := fun (s : State) (a : Nat) => (List.range (s.arch s.cur).vl).filter fun k => s.on false k && (s.arch s.cur).maskBit (s.rows s.cur) a k;
    VectorReady (vlab 3 2) ∧ ones (vlab 3 2) 0 = [0, 1] ∧ ones (vlab 3 2) 16 = [] ∧ (∀ j ∈ ones (vlab 3 2) 0, 0 ≤ j) ∧ groupOk 16 (multOf 3) = true :=
  ⟨⟨by decide +kernel, by decide +kernel, by decide +kernel, by decide +kernel, by decide +kernel⟩, by decide +kernel, by decide +kernel,
    by decide +kernel, by decide +kernel⟩

theorem test_premises_reductions :
    VectorReady (vlab 3 2) ∧ Segments (vlab 3 2) ((vlab 3 2).nest 1) 1 [(0, 1), (1, 2)] ∧ Segments (vlab 3 2) ((vlab 3 2).nest 0) 0 [(0, 2)] ∧
    [(0, 1), (1, 2)].length ≤ ((vlab 3 2).arch 0).positions 32 ∧ (16 : BitVec 5).toNat + multOf 3 ≤ 31 ∧ (8 : VReg) ≠ 0 ∧
    groupOk 8 (multOf 3) = true ∧ multOf 3 = 1 ∧ (vlab 3 2).Writable [16, 17] :=
  ⟨⟨by decide +kernel, by decide +kernel, by decide +kernel, by decide +kernel, by decide +kernel⟩, ⟨by decide +kernel,
    by decide +kernel⟩, ⟨by decide +kernel, by decide +kernel⟩, by decide +kernel, by decide +kernel, by decide +kernel, by decide +kernel,
    by decide +kernel, by unfold State.Writable; decide +kernel⟩

theorem test_premises_indexed_reductions :
    (vlab 3 2).actives false 0 1 ≠ [] ∧ (vlab 3 2).actives true 1 1 = [] ∧ 2 ≤ ewOf 3 ∧
    (∃ q ∈ [(0, 1), (1, 2)], ∃ j ∈ (vlab 3 2).actives false q.1 q.2, (unpack .fp32 ((vlab 3 2).el 8 32 j)).signals = false) := by decide +kernel

theorem test_premises_scans_and_shapes :
    VectorReady (vlab 3 2) ∧ (vlab 3 2).Writable (groupRegs (vlab 3 2) 16) ∧ Segments (vlab 3 2) ((vlab 3 2).nest 1) 1 [(0, 1), (1, 2)] ∧
    Segments (vlab 3 2) ((vlab 3 2).nest 2) 2 [(0, 1), (1, 2)] ∧ Segments (vlab 3 2) ((vlab 3 2).nest 0) 0 [(0, 2)] ∧ 3 ≤ ewOf 3 :=
  ⟨⟨by decide +kernel, by decide +kernel, by decide +kernel, by decide +kernel, by decide +kernel⟩,
    by unfold State.Writable; decide +kernel, ⟨by decide +kernel, by decide +kernel⟩, ⟨by decide +kernel, by decide +kernel⟩,
    ⟨by decide +kernel, by decide +kernel⟩, by decide +kernel⟩

theorem test_premises_nests :
    (let v := (vlab 3 2).x 6; v.toNat < 2 ^ 32 ∧ v.toNat % 2 ^ 32 + 1 ≤ 64 * (vlab 3 2).rows 0 ∧ v.toNat + 1 ≤ 64 * (vlab 3 2).rows 0) ∧
    ((vlab 3 2).nest 0).base.toNat + ((vlab 3 2).nest 0).d.val ≤ 31 ∧ ((vlab 3 2).nest 0).d.val < 4 ∧ ((vlab 3 2).nest 1).d.val = 1 ∧
    ((vlab 3 2).nest 2).d.val = 2 ∧ ((vlab 3 2).arch 0).checkLevels ((vlab 3 2).rows 0) ((vlab 3 2).nest 2) 1 none = .ok () ∧
    (vlab 3 2).Writable [9] ∧
    (let s := (vlab 3 2).setArch 0 { (vlab 3 2).arch 0 with nests := ((vlab 3 2).arch 0).nests.set 3 ⟨3, 9, #v[1, 2, 2, 0], false, false⟩ };
      (s.nest 3).d.val = 3 ∧ (s.arch 0).checkLevels (s.rows 0) (s.nest 3) 2 none = .ok () ∧
      (s.arch 0).checkLevels (s.rows 0) (s.nest 3) 1 none = .ok ()) :=
  ⟨by decide +kernel, by decide +kernel, by decide +kernel, by decide +kernel, by decide +kernel, by decide +kernel,
    by unfold State.Writable; decide +kernel, by decide +kernel⟩

/-- Parents -1 and 0 in v16. -/
def tree : State := (vlab 3 2).setArch 0 { (vlab 3 2).arch 0 with v := ((vlab 3 2).arch 0).v.set 16 0x0000_0000_FFFF_FFFF }

theorem test_premises_pack_compress_and_tree :
    (∃ l, l = segPairs (((vlab 3 2).arch 0).segs ((vlab 3 2).rows 0) ((vlab 3 2).nest 1) 1) ∧
      ((vlab 3 2).arch 0).checkLevels ((vlab 3 2).rows 0) ((vlab 3 2).nest 1) (max 1 1) (some (2, 2 * l.length)) = .ok ()) ∧
    (8 + 1 ∉ groupRegs (vlab 3 2) 16 ∧ 8 + 1 - 1 ∉ groupRegs (vlab 3 2) 16) ∧
    (vlab 3 2).Writable (groupRegs (vlab 3 2) 16 ++ [9, 8]) ∧ (vlab 3 2).Writable (groupRegs (vlab 3 2) 16 ++ [0]) ∧
    ((vlab 3 2).arch 0).checkLevels ((vlab 3 2).rows 0) ((vlab 3 2).nest 0) (max 1 0) (some (1, 2)) = .ok () ∧
    ((vlab 3 2).arch 0).checkLevels ((vlab 3 2).rows 0) ((vlab 3 2).nest 1) 1 none = .ok () ∧ VectorReady tree ∧
    (∀ k, k < 2 → -1 ≤ sext 32 (tree.el 16 32 k) ∧ sext 32 (tree.el 16 32 k) < k) ∧
    (∀ k, k < 2 → (fun j => if j = 1 then 1 else 0 : Nat → Nat) k =
      if sext 32 (tree.el 16 32 k) = -1 then 0 else (fun j => if j = 1 then 1 else 0 : Nat → Nat) (sext 32 (tree.el 16 32 k)).toNat + 1) :=
  ⟨⟨[(0, 1), (1, 2)], by decide +kernel, by decide +kernel⟩, by decide +kernel, by unfold State.Writable; decide +kernel,
    by unfold State.Writable; decide +kernel, by decide +kernel, by decide +kernel,
    ⟨by decide +kernel, by decide +kernel, by decide +kernel, by decide +kernel, by decide +kernel⟩, by decide +kernel, by decide +kernel⟩

theorem test_premises_codes :
    (ewOf 0x42 = 2 ∧ (0x42 : BitVec 16).getLsbD 6 = true) ∧ VectorReady (vlab 0x42 2) ∧ (vlab 0x42 2).Writable (groupRegs (vlab 0x42 2) 16 ++ [31]) ∧
    3 ≤ ewOf 3 ∧ VectorReady (vlab 3 2) ∧ (vlab 3 2).Writable (groupRegs (vlab 3 2) 16 ++ [31]) ∧ (30 : VReg).toNat + multOf 3 ≤ 31 :=
  ⟨by decide +kernel, ⟨by decide +kernel, by decide +kernel, by decide +kernel, by decide +kernel, by decide +kernel⟩,
    by unfold State.Writable; decide +kernel, by decide +kernel,
    ⟨by decide +kernel, by decide +kernel, by decide +kernel, by decide +kernel, by decide +kernel⟩, by unfold State.Writable; decide +kernel,
      by decide +kernel⟩

theorem test_premises_vector_faults :
    (lab.CanEnter 0 frameKeys0 ∧ (vlab 3 2).CanEnter 0 frameKeys0 ∧ helper.CanEnter 0 frameKeys0) ∧
    (memberOf (.vadd false 1 2 (.vec 3)) helper).isSome = true ∧ (helper.thr 0).lanes = none ∧
    progressAt ((helper.arch 0).convoyHere.resume) (helper.arch 0).convoyHere.member = 0 ∧
    ewOf (vlab 0 2 |>.arch 0).vtype < 1 ∧ (∃ v ∈ [(1 : VReg), 2, 3], v.toNat % multOf (vlab 0xB 2 |>.arch 0).vtype ≠ 0) ∧
    ((vlab 3 2).nest 1).d < (2 : Depth) ∧
    (let s := (vlab 3 2).setArch 0 { (vlab 3 2).arch 0 with nests := (((vlab 3 2).arch 0).nests.set 3 ⟨1, 12, #v[2, 0, 0, 0], false, false⟩).set 4 ⟨4, 9, #v[1, 2, 2, 2], false, false⟩ };
      (s.arch 0).checkDepth (s.rows 0) (s.nest 3) 1 = .error (.trap 0x08 0x1_0000_0002) ∧ (s.nest 4).d = 4 ∧ (s.x 6).toNat < 2 ^ 32) ∧
    (0 : Nat) < ((vlab 3 2).arch 0).vl ∧ ((0 : Nat) : Int) ≤ sext 32 ((vlab 3 2).el 16 32 0) :=
  ⟨⟨⟨by decide, by decide, by decide⟩, ⟨by decide, by decide, by decide⟩, ⟨by decide, by decide, by decide⟩⟩, by decide, by decide, by decide,
    by decide,
    by decide, by decide, by decide +kernel, by decide, by decide +kernel⟩

/-- What an element of a vector access meets: its address, its home and its checks. -/
def elementOk (s : State) (i : Instr) (form : VForm) (store : Bool) (k : Nat) : Bool :=
  match memberOf i s with
  | none => false
  | some m =>
    let u := s.reserved i m;
    let a := (s.arch s.cur).elemAddr (s.rows s.cur) form 5 k
    match s.translate (s.who s.cur) (if store then .store else .load) false a with
    | .ok l => a.toNat % 4 == 0 && !l.device && !l.lost && !(u.hasBad s.cur l.key 4) && !(u.copyStalls s.cur (keysFrom l.key 4) store noneAcquired) &&
        l.key == a.toNat && (store || decide (s.translate (s.who s.cur) .load true a = .ok l)) && u.storeFits s.cur (keysFrom 0x100_0100 64)
    | _ => false
/-- Numbers, codes and blocks for the statements of exact values. -/
theorem test_premises_exact_values :
    (FVal.fin false 3 0).isFin = true ∧ (FVal.fin false 3 0).rat ≠ (FVal.fin true 1 0).rat ∧ (FVal.fin true 0 0).rat = 0 ∧
    ([FVal.fin false 3 0, .fin true 1 0].map FVal.rat).sum ≠ 0 ∧ ([FVal.fin false 3 0, .fin true 3 0].map FVal.rat).sum = 0 ∧
    [CodeType.int, .e2m1, .pow, .hyb][70 / 64]? = some .e2m1 ∧ 70 % 64 ≠ 32 ∧ 96 % 64 = 32 ∧
    ¬ |(FVal.fin false 3 0).rat| < (2 : Rat) ^ (1 - (Fmt.fp32.bias : Int)) ∧ |(FVal.fin false 0 0).rat| < (2 : Rat) ^ (1 - (Fmt.fp32.bias : Int)) ∧
    (lab.thr 0).ahead = [] ∧ (vlab 3 2).isDead 0x100_0100 = false := by
  refine ⟨by decide, by norm_num [FVal.rat], by norm_num [FVal.rat], by norm_num [FVal.rat], by norm_num [FVal.rat], by decide, by decide,
    by decide, ?_, ?_,
    by decide, by decide⟩
  · norm_num [FVal.rat, Fmt.bias, zpow_neg]
  · norm_num [FVal.rat, Fmt.bias, zpow_neg]

theorem test_premises_vector_loads :
    (∀ k, k < 2 → elementOk (vlab 3 2) (.vld false .normal 16 5) .unit false k = true) ∧
    (∀ k, k < 2 → elementOk (vlab 3 2) (.vlds true .normal 16 5 0) (.strided 0) false k = true) ∧
    (∀ k, k < 2 → elementOk (vlab 3 2) (.vldx false .keep 16 5 9) (.indexed 9) false k = true) ∧
    (∀ k, k < 16 → elementOk (vlab 3 2) (.vfill .normal 16 5) .unit false k = true) ∧
    (let span := multOf 3 * max 1 (32 / 32); (9 : VReg).toNat % span = 0 ∧ (9 : VReg).toNat + span ≤ 32) ∧
    ((vlab 3 2).x 5).toNat % 64 = 0 ∧ 0 < (vlab 3 2).rows 0 ∧ (2 + 1 * 512 / 32 - 1) / (1 * 512 / 32) * (1 * 512 / 32) = 16 := by decide +kernel

theorem test_premises_vector_stores :
    (∀ k, k < 2 → elementOk (vlab 3 2) (.vst false .normal 16 5) .unit true k = true) ∧
    (∀ k, k < 2 → elementOk (vlab 3 2) (.vstxo true .normal 16 5 8) (.indexed 8) true k = true) ∧
    (∀ k, k < 16 → elementOk (vlab 3 2) (.vspill .normal 16 5) .unit true k = true) ∧
    (∀ j ∈ [0, 1], ∀ k ∈ [0, 1], j < k → 0x100_0100 + j * 4 + 4 ≤ 0x100_0100 + k * 4) := by decide +kernel

/-- A read ahead that stands for element 1 of a `vld` at x5, and one that a pennant bit has passed. -/
theorem test_premises_reads_ahead :
    let s := (vlab 3 2).setThr 0 { (vlab 3 2).thr 0 with ahead := [⟨true, 1, 0x100_0104, 0x100_0104, 4, 7, 2, false⟩, ⟨true, 0, 0x100_0100, 0x100_0100, 4, 7, 2, true⟩] };
    (s.aheadFor 0 true 1 ((s.arch 0).elemAddr 1 .unit 5 1) 0x100_0104 4).isSome = true ∧
    ((s.aheadFor 0 true 0 ((s.arch 0).elemAddr 1 .unit 5 0) 0x100_0100 4).filter fun x => !(true && x.passed)) = none := by decide +kernel

/-! ## Tiles, dispatch and layers -/

/-- A shape record at 0x100_0100 of one frame at 0x101_0000, of FP32 tiles without data (tag 0x4A00), its expected tag `want`; handle 0 over it
at 0x100_0180, free or live with `n` layers, in the table 0x100_0180. -/
def tiles (want : Nat) (n : Nat) (busy : Bool) : State :=
  { vlab 3 2 with
    mem := place 0x100_0100 (bytesOf 0x101_0000 8 ++ bytesOf 0 8 ++ bytesOf 0x100_2000 8 ++ bytesOf 1 2 ++ bytesOf 2 2 ++ bytesOf 1 2 ++ bytesOf want 2) ++
      place 0x100_1000 ((⟨1, n, busy, 0, 0x100_0100, 7, 0, List.replicate n 0x100_0400 ++ List.replicate (8 - n) 0, false⟩ : Handle).bytes)
    tags := [(0x101_0000, 0x4A00)] }

/-- The same, x5 naming handle 0. -/
def handles (n : Nat) (busy : Bool) : State :=
  let s := tiles 0x4A00 n busy;
  withX (s.setThr 0 { s.thr 0 with htbase := 0x100_1000 }) 5 (2 ^ 63)

/-- All of these conditions hold, as a computation. -/
def passAll (l : List (Except Stop Unit)) : Bool := l.all fun o => decide (o = .ok ())
theorem allPass_of (l : List (Except Stop Unit)) (h : passAll l = true) : AllPass l := fun o ho => of_decide_eq_true (List.all_eq_true.1 h o ho)

/-- The first condition that fails, with its cause and value. -/
def firstFail (l : List (Except Stop Unit)) : Option (BitVec 8 × Word) :=
  l.findSome? fun o => match o with | .error (.trap c v) => some (c, v) | _ => none

/-- The conditions of tld, in the order of R180. -/
def tldOrders (s : State) (sc wide : Bool) (d : VReg) (a b : XReg) : List (Except Stop Unit) :=
  let rows := s.rows s.cur
  let u := s.seeEngine s.cur (decide (2 ^ 63 ≤ (s.x a).toNat))
  let v := u.tileView (s.x a) (s.x b) .load none
  let tag := v.stored
  let form := tagFormat tag
  let shape := tileShape form
  let scaled := sc = true ∧ form = 11
  let scaleAt := v.shape.scale + BitVec.ofNat 64 ((v.i * v.shape.cols + v.j) * 256)
  let n := (s.x b).toNat % 2 ^ 32
  let spanOf := fun size : Nat => (size + rows * 256 - 1) / (rows * 256)
  let spanOk := fun size : Nat => need (d.toNat + spanOf size ≤ if sc then 31 else 32) 0x01 (wordOf (.tld sc wide d a b))
  let size := if wide then 4096 * 32 / shape.2.2 else 4096
  let adder := { u.who s.cur with window := false }
  let h := (s.x a).toNat % 4096
  let ls := (v.handle.layers.take v.handle.n).zipIdx
  let y := v.i * shape.1
  let z := v.j * shape.2.1
  let frameBytes : Except Stop (List Byte) := if tagSparsity tag = 2 then .ok []
    else if v.named then u.readHome adder v.frame 4096 else u.readStruct (u.who s.cur) v.frame 4096
  let scaleBytes := u.readStruct (u.who s.cur) scaleAt 256
  [spanOk 4096] ++ v.orders ++ [v.tagged] ++ (if scaled then [passing (u.mapStruct (u.who s.cur) .load scaleAt 256)] else []) ++
    [need (v.shape.tag = 0 ∨ v.shape.tag.toNat / 32 = tag.toNat / 32) 0x0C (BitVec.ofNat 64 (tag.toNat + v.shape.tag.toNat * 2 ^ 16)),
      need (tagPoison tag = false) 0x16 v.frame, need (wide = true → 5 ≤ form ∧ form ≤ 8) 0x0B (shapeWord 4 n), spanOk size] ++
    (if v.named then [need (v.handle.malformed = false) 0x0F (faultWord 3 h 0),
      need (isHbm v.key = true ∧ v.shape.amendable = true) 0x0F (faultWord 6 h 0)] ++
      u.descriptorOrders adder v.shape h ls ++ u.layerDataOrders adder v.shape h shape.1 shape.2.1 y z ls else []) ++
    [passing frameBytes] ++ (if scaled then [passing scaleBytes] else [])

/-- Those of tst. -/
def tstOrders (s : State) (sc : Bool) (d : VReg) (a b : XReg) : List (Except Stop Unit) :=
  let rows := s.rows s.cur
  let span := (4096 + rows * 256 - 1) / (rows * 256)
  let v := s.tileView (s.x a) (s.x b) .store (some fun tag => tag.setWidth 64)
  let tag := v.shape.tag
  let dense := (List.range 4096).map fun j => BitVec.ofNat 8 (s.el d.toNat 8 j)
  let scaled := sc = true ∧ tagFormat tag = 11
  let scaleAt := v.shape.scale + BitVec.ofNat 64 ((v.i * v.shape.cols + v.j) * 256)
  let places := if scaled then s.mapStruct (s.who s.cur) .store scaleAt 256 else .ok []
  let packed : Except Nat (List Byte) := if tagSparsity tag = 1 then compactFrame (tagFormat tag) (tileShape (tagFormat tag)).2.2 dense else .ok dense
  [need (d.toNat + span ≤ if sc then 31 else 32) 0x01 (wordOf (.tst sc d a b))] ++ v.orders ++
    [passing places, (match packed with | .error g => .error (.trap 0x0B (shapeWord 1 g)) | .ok _ => .ok ()),
      need (s.isRetired v.key = false) 0x16 v.frame, passing (s.retiredAt (places.toOption.getD []) scaleAt)]

/-- The place of a handle's record, with the conditions of R357 for lmk that makes or frees, lattach, ldetach and lfold. -/
def layerOrders (s u : State) (v : VReg) (a b : XReg) : List (List (Except Stop Unit)) :=
  let th := s.thr s.cur
  let x := s.x b
  let h := (s.x a).toNat % 4096
  let place := th.htbase + BitVec.ofNat 64 (h * 128)
  let first := fun align : Nat => [need ((s.x a).toNat / 4096 = 2 ^ 51) 0x0F (faultWord 0 h 0), need (th.htbase ≠ 0) 0x0F (faultWord 1 h 0),
    need (x.toNat % align = 0) 0x03 x]
  let me := u.who s.cur
  let adder := { me with window := false }
  let own := { me with window := false, checkU := false }
  let record := u.readHome own place 128
  let r := handleOf (record.toOption.getD [])
  let recorded := fun (making : Bool) => [passing record, passing (u.locateStruct own .store place 128),
    need (r.malformed = false) 0x0F (faultWord 3 h 0)] ++ if making then [] else [need (r.state = 1) 0x0F (faultWord 1 h 0)]
  let shape := fun at_ : Word => shapeOf ((u.readStruct me at_ 32).toOption.getD [])
  let made := first 32 ++ recorded true ++ [passing (u.readStruct me x 32), need ((shape x).amendable = true) 0x0F (faultWord 6 h 0),
    need (r.state ≠ 1) 0x0F (faultWord 2 h 0)]
  let freed := first 32 ++ recorded false ++ [need (r.n = 0 ∧ r.busy = false) 0x0F (faultWord 2 h 0)]
  let data := match u.layerAt adder x with | some (.sparse t p) => [(p, 16 * t)] | _ => []
  let attached := first 64 ++ recorded false ++ [passing (u.readStruct me r.base 32)] ++
    u.descriptorOrders adder (shape r.base) h [(x, r.n)] ++
    (data.flatMap fun p => [passing (u.readHome adder p.1 p.2),
      need (triplesOk (shape r.base) (triplesOf (p.2 / 16) ((u.readHome adder p.1 p.2).toOption.getD [])) = true) 0x0F
        (faultWord 5 h r.n)]) ++ [need (r.n ≠ 8) 0x0E (s.x a)]
  let detached := first 1 ++ recorded false ++ [need (x.toNat < r.n) 0x0F (faultWord 7 h (x.toNat % 16)),
    need (r.busy = false ∨ r.k ≤ x.toNat) 0x0F (faultWord 9 h 0)]
  let base := shape r.base
  let count := if base.count = 0 then .ok base.rows else u.readWord me base.count 4
  let rows := count.toOption.getD 0
  let size := rows * base.cols * 4096
  let target := shape x
  let folded := first 32 ++ recorded false ++ [need (s.pennantBusy s.cur [v.toNat] = false) 0x14 8,
    need (r.busy = false) 0x0F (faultWord 9 h 0), passing (u.readStruct me x 32), passing (u.readStruct me r.base 32), passing count,
    need (target.count = 0 ∧ target.rows = rows ∧ target.cols = base.cols ∧
      (target.tag = 0 ∨ tagFormat target.tag = tagFormat base.tag) ∧ target.base.toNat % 4096 = 0 ∧
      (base.base.toNat + size ≤ target.base.toNat ∨ target.base.toNat + size ≤ base.base.toNat ∨ size = 0)) 0x0F (faultWord 10 h 0)]
  [made, freed, attached, detached, folded]

theorem amendFrame_length (tag : BitVec 16) (image : List Byte) (i j : Nat) :
    (amendFrame tag .fp32 image [] i j false).1.length = image.length / 4 * 4 := by
  have h : ∀ v : Nat, (bytesOf v (32 / 8)).length = 4 := fun v => by simp [bytesOf]
  have e : Fmt.fp32.width = 32 := rfl
  simp [amendFrame, packElems, widenFrame, elemsOf, e, List.length_flatMap, h, Function.comp_def]

theorem amendedTile_without_layers (s : State) (w : Who) (r : Shape) (h : Nat) (f : Fmt) (tag : BitVec 16) (fa : Word) (i j : Nat) (wide : Bool)
    (hs : tagSparsity tag = 2) :
    s.amendedTile w r h [] f tag fa i j wide = .ok (amendFrame tag f (frameImage tag []) [] i j wide) := by
  have hb : s.baseFrame w tag fa = .ok [] := if_pos hs
  simp only [State.amendedTile, State.readLayers, hb]
  rfl

theorem test_premises_tile_loads :
    (match (tiles 0x4A00 0 false).tileAt 0 0x100_0100 0 none with
      | .ok p => p.handle.isNone && p.shape.tag == 0x4A00 && decide ((tiles 0x4A00 0 false).tileTag 0 p = .ok 0x4A00)
      | _ => false) = true ∧
    tagPoison 0x4A00 = false ∧ tagSparsity 0x4A00 = 2 ∧ tagFormat 0x4A00 = 9 ∧ (tiles 0x4A00 0 false).rows 0 = 1 ∧
    (1 : VReg).toNat + (4096 + 1 * 256 - 1) / (1 * 256) ≤ 31 ∧ (tiles 0x4A00 0 false).pennantBusy 0 (regsFrom 1 16) = false := by decide +kernel

theorem test_premises_tile_load_conditions :
    AllPass (tldOrders (tiles 0x4A00 0 false) false false 1 5 0) ∧ (handles 0 false).seeEngine 0 true = handles 0 false ∧
    AllPass (tldOrders (handles 0 false) false false 1 5 0) :=
  ⟨allPass_of _ (by decide +kernel), rfl, allPass_of _ (by decide +kernel)⟩

/-- A tag other than the expected one, a poisoned frame, a shape without rows, and a malformed handle. -/
theorem test_premises_tile_load_faults :
    firstFail (tldOrders (tiles 0x4800 0 false) false false 1 5 0) = some (0x0C, 0x4800_4A00) ∧
    firstFail (tldOrders { tiles 0x4A00 0 false with tags := [(0x101_0000, 0x4A10)] } false false 1 5 0) = some (0x16, 0x101_0000) ∧
    firstFail (tldOrders (withX (tiles 0x4A00 0 false) 6 0x1_0000) false false 1 5 6) = some (0x0B, 0x1_0000_0002) ∧
    firstFail (tldOrders (handles 9 false) false false 1 5 0) = some (0x0F, 3) := by decide +kernel

theorem test_premises_tile_loads_through_a_handle :
    (match (handles 0 false).tileAt 0 0x8000_0000_0000_0000 0 none with
      | .ok p => match p.handle with
        | some r => !r.malformed && decide (amendableFrame p.shape p.loc.key (handleIndex 0x8000_0000_0000_0000) = .ok .fp32) &&
            decide (r.layers.take r.n = []) && decide ((handles 0 false).tileTag 0 p = .ok 0x4A00)
        | none => false
      | _ => false) = true := by decide +kernel

theorem test_premises_amended_tile (s : State) (w : Who) (r : Shape) (fa : Word) (i j : Nat) :
    ∃ q : List Byte × BitVec 5, s.amendedTile w r 0 [] .fp32 0x4A00 fa i j false = .ok q ∧ q.1.length = 4096 := by
  have hi : frameImage 0x4A00 [] = List.replicate 4096 0 := if_pos (by decide)
  exact ⟨_, amendedTile_without_layers s w r 0 .fp32 0x4A00 fa i j false (by decide),
    (amendFrame_length 0x4A00 (frameImage 0x4A00 []) i j).trans (by rw [hi, List.length_replicate])⟩

theorem test_premises_tile_stores :
    (match (tiles 0x4A00 0 false).tileAt 0 0x100_0100 0 (some fun r => r.tag.setWidth 64) with
      | .ok p => !p.loc.lost && p.shape.tag == 0x4A00 && p.loc.key == 0x101_0000 | _ => false) = true ∧
    (tiles 0x4A00 0 false).copyStalls 0 [] true noneAcquired = false ∧ (tiles 0x4A00 0 false).storeFits 0 [] = true ∧ isTagged 0x101_0000 = true ∧
    tagFormat 0x5800 = 11 ∧ tagSparsity 0x4900 = 1 := by decide +kernel

theorem test_premises_tile_store_conditions :
    AllPass (tstOrders (tiles 0x4A00 0 false) false 1 5 0) ∧ AllPass (tstOrders (tiles 0x5800 0 false) true 1 5 0) ∧
    ((tiles 0x5800 0 false).mapStruct ((tiles 0x5800 0 false).who 0) .store 0x100_2000 256 = .ok (keysFrom 0x100_2000 256) ∧
      (keysFrom 0x100_2000 256).all (fun k => !(tiles 0x5800 0 false).keyDown k) = true) ∧
    firstFail (tstOrders (withX (tiles 0x4A00 0 false) 6 0x1_0000) false 1 5 6) = some (0x0B, 0x1_0000_0002) :=
  ⟨allPass_of _ (by decide +kernel), allPass_of _ (by decide +kernel), by decide +kernel, by decide +kernel⟩

/-- The conditions of tset and of ttag. -/
theorem test_premises_tag_conditions :
    AllPass ((tiles 0x4800 0 false).tileView ((tiles 0x4800 0 false).x 5) 0 .store (some fun _ => 0x4800)).orders ∧
    ((tiles 0x4800 0 false).isRetired 0x101_0000 = false) ∧
    (let v := (handles 0 false).tileView ((handles 0 false).x 5) 0 .load none;
      v.named = true ∧ v.handle.malformed = false ∧ passAll v.orders = true ∧ v.key = 0x101_0000) ∧
    (match (handles 0 false).tileAt 0 ((handles 0 false).x 5) 0 none with | .ok p => p.loc.key == 0x101_0000 | _ => false) = true :=
  ⟨allPass_of _ (by decide +kernel), by decide +kernel, by decide +kernel, by decide +kernel⟩

theorem test_premises_tag_stores :
    (match (tiles 0x4800 0 false).tileAt 0 0x100_0100 0 (some fun _ => 0x4800) with
      | .ok p => !p.loc.lost && !((tiles 0x4800 0 false).copyStalls 0 (keysFrom p.loc.key 4096) true noneAcquired) | _ => false) = true := by
  decide +kernel

theorem keysFrom_nodup (key len : Nat) : (keysFrom key len).Nodup :=
  List.nodup_range.map fun _ _ h => Nat.add_left_cancel h

theorem test_premises_scale_stores :
    (tiles 0x5800 0 false).locateStruct ((tiles 0x5800 0 false).who 0) .store 0x100_2000 256 = .ok (keysFrom 0x100_2000 256) := by decide +kernel

theorem test_premises_scale_keys : (keysFrom 0x101_0000 4096 ++ keysFrom 0x100_2000 256).Nodup :=
  List.nodup_append.2 ⟨keysFrom_nodup _ _, keysFrom_nodup _ _, fun a ha b hb => by
    simp only [keysFrom, List.mem_map, List.mem_range] at ha hb
    omega⟩

theorem test_premises_frames_that_are_not_sparse :
    compactFrame 1 8 ((List.range 4096).map fun j => if j < 3 then 1 else 0) = .error 0 ∧ (tileShape (tagFormat 0x0900)).2.2 = 8 ∧
    tagSparsity 0x0900 = 1 := by decide +kernel

/-- A type case at 0x100_1000 whose one method takes tag `t` for operator 7, and whose one conversion is from 0x4800 to 0x2800; a frame of tag
0x4800 at x10. -/
def cases (t : Nat) : State :=
  let row := fun (routine count cost : Nat) (f : List Nat) => bytesOf (routine + count * 2 ^ 56 + cost * 2 ^ 58) 8 ++ f.flatMap fun v => bytesOf v 2;
  { withX (withX (atThread { thread0 with tcbase := 0x100_1000 }) 10 0x101_0000) 6 7 with
    mem := place 0x100_1000 (bytesOf 0x100_1100 8 ++ bytesOf 1 4 ++ bytesOf 1 4 ++ bytesOf 0x100_1200 8 ++ bytesOf 0 8) ++
      place 0x100_1100 (row 0x200_0000 1 1 [7, t, 0, 0]) ++ place 0x100_1200 (row 0x300_0000 0 1 [0x4800, 0x2800, 0, 0])
    tags := [(0x101_0000, 0x4800)] }

theorem test_premises_dispatch :
    (lab.thr 0).tcbase = 0 ∧ (cases 0x4800).operandTags ((cases 0x4800).who 0) 0 false [0x101_0000] = .ok [0x4800] ∧
    (match (cases 0x4800).selectCase ((cases 0x4800).who 0) 0x100_1000 7 [0x4800] false with
      | .ok (some ⟨m, none⟩) => m.methodMatches 7 [0x4800] | _ => false) = true ∧
    (match (cases 0x2800).selectCase ((cases 0x2800).who 0) 0x100_1000 7 [0x4800] false with
      | .ok (some ⟨m, some (i, c)⟩) => i == 0 && c.convMatches 0x4800 && m.methodMatches 7 ([0x4800].set i c.f1) | _ => false) = true ∧
    (match (cases 0x3000).selectCase ((cases 0x3000).who 0) 0x100_1000 7 [0x4800] false with | .ok none => true | _ => false) = true := by decide +kernel

/-- The conditions of the layer instruction `k` of `layerOrders` hold, x being in xb, and the record of handle h lies where it should. -/
def layerMeets (s : State) (k h : Nat) (b : XReg) : Bool :=
  let u := s.layerReady 0
  passAll ((layerOrders s u 3 5 b)[k]?.getD []) && decide (s.x 5 = BitVec.ofNat 64 (2 ^ 63 + h)) &&
    !((s.closed 0).drainWaits 0 .sys (StoreEntry.ownKind 0 true true)) &&
    decide (u.locateStruct { u.who 0 with window := false, checkU := false } .store ((s.thr 0).htbase + BitVec.ofNat 64 (h * 128)) 128 =
      .ok (keysFrom (0x100_1000 + 128 * h) 128))

def layerFails (s : State) (k : Nat) (b : XReg) : Option (BitVec 8 × Word) :=
  firstFail ((layerOrders s (s.layerReady 0) 3 5 b)[k]?.getD [])

def layered (n : Nat) : State :=
  let s := handles n false;
  { s with mem := place 0x100_0100 (bytesOf 0x101_0000 8 ++ bytesOf 0 8 ++ bytesOf 0x100_2000 8 ++ bytesOf 1 2 ++ bytesOf 2 2 ++ bytesOf 1 2 ++ bytesOf 0x4A00 2) ++
      place 0x100_0120 (bytesOf 0x102_0000 8 ++ bytesOf 0 16 ++ bytesOf 1 2 ++ bytesOf 2 2 ++ bytesOf 1 2 ++ bytesOf 0 2) ++
      place 0x100_0400 (bytesOf 1 4 ++ bytesOf 0 4 ++ bytesOf 1 8 ++ bytesOf 0x100_0800 8) ++ s.mem.filter fun q => 0x100_1000 ≤ q.1 }

/-- The thread has a store to the destination of a copy in flight, in the scratchpad. -/
def stalled : State :=
  let s := handles 0 false;
  let copy : Transfer :=
    { kind := .cpy, tid := 0, scope := .hart, vp := 4, site := 0, mode := .supervisor, pgroot := 0, htbase := 0, rcd := 0x100_0100, dst := localWindow + 0x10_0000
      src := 0x100_2000, len := 4096, counter := 0, shift := 12, op := 0, fmt := 0, count := 1, done := [] };
  { s.setHrt 0 { s.hrt 0 with transfers := [copy] } with
    stores := [⟨0, 0, .hart, false, false, [⟨localKey 0 0x10_0000, 1, 0xFF⟩], [], 0, 0, ⟨none, none⟩⟩] }

theorem test_premises_layers :
    layerMeets (withX (withX (handles 0 false) 5 (2 ^ 63 + 1)) 6 0x100_0100) 0 1 6 = true ∧ layerMeets (handles 0 false) 1 0 0 = true ∧
    layerMeets (withX (layered 0) 6 0x100_0400) 2 0 6 = true ∧ layerMeets (layered 1) 3 0 0 = true ∧
    layerMeets (withX (layered 0) 6 0x100_0120) 4 0 6 = true ∧ ((layered 0).hrt (hartOf 0)).transfers.length < 8 ∧
    (stalled.closed 0).drainWaits 0 .sys (StoreEntry.ownKind 0 true true) = true ∧
    passAll [need ((stalled.x 5).toNat / 4096 = 2 ^ 51) 0x0F (faultWord 0 0 0), need ((stalled.thr 0).htbase ≠ 0) 0x0F (faultWord 1 0 0),
      need ((stalled.x 0).toNat % 64 = 0) 0x03 (stalled.x 0)] = true := by decide +kernel

theorem test_premises_layer_faults :
    layerFails (withX (handles 0 false) 6 0x100_0100) 0 6 = some (0x0F, 2) ∧ layerFails (layered 1) 1 0 = some (0x0F, 2) ∧
    layerFails (withX (layered 8) 6 0x100_0400) 2 6 = some (0x0E, 0x8000_0000_0000_0000) ∧
    layerFails (layered 0) 3 0 = some (0x0F, 7) ∧ layerFails (withX (layered 0) 6 0x100_0100) 4 6 = some (0x0F, 10) := by decide +kernel

theorem test_premises_layer_record_plain :
    (let u := (handles 0 false).layerReady 0;
      let w := ((u.noteStruct { u.who 0 with window := false, checkU := false } 0x100_1000 128).noteReads (u.who 0) []).drainAhead 0 (keysFrom 0x100_1000 128);
      Memory.wf w.mem && Sparse.wf (0 : BitVec 16) w.tags && (keysFrom 0x100_1000 128).all fun k =>
        !(w.dead.contains (regionOf k)) && decide (routingWord + 8 ≤ k) && !(reservedByte k) && !(w.keyDown k)) = true ∧
    (keysFrom 0x100_1000 128).Nodup := ⟨by decide +kernel, keysFrom_nodup _ _⟩

/-! ## The matrix unit and the engines -/

/-- 16 accumulator rows, mode `ml`, and a in x5. -/
def matrix (ml a : Word) : State :=
  let s := vlab 3 2;
  withX (s.setArch 0 { s.arch 0 with acc := List.replicate 16 0, ml := ml }) 5 a

theorem test_premises_matrix :
    (lab.arch 0).acc.length = 0 ∧ ((matrix 0x1_0001 0).arch 0).acc.length = 16 ∧
    (∀ mf ∈ [0, 1, 2, 3, 4, 5], let ml := ((matrix (BitVec.ofNat 64 (16 + 256 * 2 ^ 16 + mf * 2 ^ 32)) 0).arch 0).ml.toNat;
      ml / 2 ^ 32 % 16 = mf ∧ 1 ≤ ml % 2 ^ 16 ∧ ml % 2 ^ 16 ≤ 16 ∧ 1 ≤ ml / 2 ^ 16 % 2 ^ 16 ∧ ml / 2 ^ 16 % 2 ^ 16 ≤ 256) ∧
    (let fits := fun m : Nat => 1 ≤ m % 2 ^ 16 ∧ m % 2 ^ 16 ≤ 16 ∧ 1 ≤ m / 2 ^ 16 % 2 ^ 16 ∧ m / 2 ^ 16 % 2 ^ 16 ≤ 256;
      fits 0x5_0100_0010 ∧ ¬ fits 0x5_0100_0011 ∧ ¬ fits 0x5_0101_0010 ∧ ¬ fits 0x5_0000_0010 ∧ 0x5_0100_0010 / 2 ^ 32 ≤ 5 ∧
      5 < 0x6_0001_0001 / 2 ^ 32 ∧ 0x6_0001_0001 < 2 ^ 36 ∧ 2 ^ 36 ≤ 0x10_0001_0001) ∧
    ((matrix 0x1_0001 0).x 5).toNat < 1 ∧ 1 ≤ ((matrix 0x1_0001 1).x 5).toNat ∧
    ((matrix 0x1_0001 0).arch 0).vlmax = vlmaxOf 3 ((matrix 0x1_0001 0).rows 0) ∧
    1 ≤ ((matrix 0x1_0001 0).arch 0).positions 32 ∧ (matrix 0x1_0001 0).pennantBusy 0 (groupRegs (matrix 0x1_0001 0) 30) = false := by decide +kernel

def transfer : Transfer :=
  { kind := .cpy, tid := 0, scope := .hart, vp := 3, site := 0x100_0000, mode := .supervisor, pgroot := 0, htbase := 0, rcd := 0x100_0100, dst := 0x100_4000, src := 0x100_2000,
    len := 4096, counter := 0, shift := 12, op := 0, fmt := 0, count := 1, done := [] }

/-- An engine record at 0x100_0100, and transfers in flight. -/
def engine (dst src len counter shift op fmt spare : Nat) (l : List Transfer) : State :=
  let s := { vlab 3 2 with
    mem := place 0x100_0100 (bytesOf dst 8 ++ bytesOf src 8 ++ bytesOf len 8 ++ bytesOf counter 8 ++ bytesOf shift 1 ++ bytesOf op 1 ++ bytesOf fmt 1 ++
      bytesOf spare 13) };
  s.setHrt 0 { s.hrt 0 with transfers := l }

/-- Which of the eight conditions of R240 the record at x5 meets first, 0 for none. -/
def firstBad (s : State) (coll : Bool) : Nat :=
  match s.readStruct (s.who 0) (s.x 5) 64, s.locateStruct (s.who 0) .store (s.x 5) 64 with
  | .ok b, .ok _ =>
    let dst := word64At b 0
    let src := word64At b 8
    let len := fieldAt b 16 8
    let counter := word64At b 24
    let shift := fieldAt b 32 1
    let op := fieldAt b 33 1
    let fmt := fieldAt b 34 1
    let elem := if fmt = 7 ∨ fmt = 8 then 2 else if fmt = 3 ∨ fmt = 9 then 4 else 8
    let bad := [fieldAt b 35 13 ≠ 0 || (if coll then decide (2 < op ∨ fmt ∉ [3, 4, 7, 8, 9, 10]) else decide (op ≠ 0 ∨ fmt ≠ 0)),
      decide (len = 0 ∨ 2 ^ 40 < len), decide (shift < 12 ∨ 21 < shift), decide (64 * s.rows 0 < (len + 2 ^ shift - 1) / 2 ^ shift),
      decide (2 ^ 56 ≤ dst.toNat ∨ 2 ^ 56 ≤ src.toNat ∨ 2 ^ 56 ≤ counter.toNat ∨ counter.toNat % 8 ≠ 0),
      coll && decide (dst.toNat % elem ≠ 0 ∨ src.toNat % elem ≠ 0 ∨ len % elem ≠ 0),
      decide (dst.toNat < src.toNat + len ∧ src.toNat < dst.toNat + len), s.pennantBusy 0 [3]]
    ((bad.zipIdx.find? fun q => q.1).map fun q => q.2 + 1).getD 0
  | _, _ => 9

theorem test_premises_engine_instructions :
    firstBad (engine 0x100_4000 0x100_2000 4096 0 12 0 0 0 []) false = 0 ∧
    firstBad (engine 0x100_4000 0x100_2000 4096 0x100_0200 21 2 10 0 []) true = 0 ∧
    firstBad (engine 0x100_4000 0x100_2000 4096 0 12 0 0 1 []) false = 1 ∧ firstBad (engine 0x100_4000 0x100_2000 4096 0 12 3 9 0 []) true = 1 ∧
    firstBad (engine 0x100_4000 0x100_2000 0 0 12 0 0 0 []) false = 2 ∧ firstBad (engine 0x100_4000 0x100_2000 (2 ^ 40 + 1) 0 12 0 0 0 []) false = 2 ∧
    firstBad (engine 0x100_4000 0x100_2000 4096 0 11 0 0 0 []) false = 3 ∧ firstBad (engine 0x100_4000 0x100_2000 4096 0 22 0 0 0 []) false = 3 ∧
    firstBad (engine 0x900_4000 0x100_2000 (64 * 4096 + 1) 0 12 0 0 0 []) false = 4 ∧
    firstBad (engine (2 ^ 56) 0x100_2000 4096 0 12 0 0 0 []) false = 5 ∧
    firstBad (engine 0x100_4002 0x100_2000 4096 0 12 0 9 0 []) true = 6 ∧ firstBad (engine 0x100_2FFF 0x100_2000 4096 0 12 0 0 0 []) false = 7 ∧
    firstBad (engine 0x100_4000 0x100_2000 4096 0 12 0 0 0 [transfer]) false = 8 ∧
    firstBad (engine 0x100_4000 0x100_2000 4096 0 12 0 0 0 (List.replicate 8 { transfer with vp := 4 })) false = 0 := by decide +kernel

theorem test_premises_engine_acceptance :
    (let s := engine 0x100_4000 0x100_2000 4096 0 12 0 0 0 [];
      (((s.ownReads (s.who 0) [(s.x 5, 64)]).closed 0).drainWaits 0 .quad (StoreEntry.ownKind 0 true true) = false ∧ 0 < s.rows 0)) ∧
    ((stalled.ownReads (stalled.who 0) [(0x100_0100, 64)]).closed 0).drainWaits 0 .quad (StoreEntry.ownKind 0 true true) = true ∧
    (lab.x 6).toNat % 64 ≠ 0 := by decide +kernel

/-! ## Events of the memory path and of threads -/

/-- One store of thread 0, of one byte at a key, at a point. -/
def storing (key : Nat) (p : Point) : State := { lab with stores := [⟨0, 0, p, true, false, [⟨key, 1, 0xFF⟩], [], 0, 0, ⟨none, none⟩⟩] }

/-- Two stores of thread 0 to one byte, of one vstxo: the second waits in the release queue, the first at a point. -/
def chained (p : Point) : State :=
  { lab with stores := [⟨0, 0, p, true, false, [⟨keyA, 1, 0xFF⟩], [], 1, 1, ⟨none, none⟩⟩, ⟨0, 0, .queue, true, false, [⟨keyA, 2, 0xFF⟩], [], 1, 1, ⟨none, none⟩⟩] }

theorem test_premises_stores_move_on :
    Point.held.rank < 2 ∧ Point.closing.rank < 2 ∧ 2 ≤ Point.hart.rank ∧
    (∀ k ∈ [0x100_0100], homeRank (hartOf 0) k ≤ Point.field.rank + 1) ∧ Point.field.rank + 1 ≤ 5 ∧
    ¬ homeRank (hartOf 0) 0x100_0100 ≤ Point.hart.rank + 1 ∧
    (storing keyA .hart).stores.length = 1 ∧ [keyA].Nodup ∧ Memory.wf (storing keyA .hart).mem = true ∧
    Sparse.wf (0 : BitVec 16) (storing keyA .hart).tags = true ∧
    (storing keyA .hart).dead.contains 0 = false ∧ (∀ k ∈ [keyA], (storing keyA .hart).keyDown k = false) ∧
    (routingWord + 8 ≤ keyA ∧ reservedByte keyA = false) ∧ ((storing keyA .hart).stores.all fun e => !(storing keyA .hart).entryStalls e) = true ∧
    (stalled.stores.any stalled.entryStalls) = true := by decide +kernel

theorem test_premises_release_queue :
    ((chained .hart).stores[0]?.map fun e => decide (e.chain ≠ 0 ∧ 2 ≤ e.point.rank ∧ e.point ≠ .queue)) = some true ∧
    ({ lab with stores := (chained .hart).stores.drop 1 } : State).stores.length = 1 ∧
    ((chained .queue).stores.map fun e => (e.chain, e.point)) = [(1, .queue), (1, .queue)] := by decide

theorem test_premises_checkpoints_and_tables :
    (lab.thr 0).due = none ∧ ((atThread { thread0 with due := some ⟨.explicit, thread0.arch, thread0.arch⟩ }).thr 0).due ≠ none ∧
    (∀ c ∈ [thread0.arch.convoy, some ⟨0x100_0000, 0, noProgress, false⟩, some ⟨0x100_0000, 0, noProgress.set 0 2, false⟩],
      (let s := { atThread { thread0 with heldFrom := some 0, arch := { thread0.arch with convoy := c } } with
          fields := Vector.replicate 8 { Field.zero 0 with
            up := true, cycle := 4000 } };
        (s.thr 0).heldFrom = some 0 ∧ (0 : Word).toNat + 4000 ≤ (s.cycleOf 0).toNat ∧ (s.thr 0).debugStop = none ∧ (s.arch 0).atBoundary = true ∧
        (s.thr 0).lanes.isSome = true)) ∧
    lab.dead.contains 0 = false ∧ (49151 : Nat) < 49152 ∧
    (lab.homeWord (descriptorOf 0 + 96)).toNat / 2 ^ 32 = (lab.homeWord (descriptorOf 0 + 96)).toNat % 2 ^ 32 ∧
    (let s := { lab with mem := [(0, 1), (96, 1)] };
      (s.homeWord (descriptorOf 0 + 96)).toNat / 2 ^ 32 ≠ (s.homeWord (descriptorOf 0 + 96)).toNat % 2 ^ 32 ∧ s.known[(0 : Fin 64).val] = 0 ∧
      s.descState 0 = 1 ∧ s.descLost 0 = false ∧ s.boot.started = true) ∧
    (stalled.stores.any fun e => decide (e.ctx = 0) && stalled.entryStalls e) = true ∧
    lab.known[(0 : Fin 64).val] = lab.descState 0 := by decide +kernel

/-- The thread in this status with these events waiting. -/
def waiting (st : Status) (l : List (BitVec 8 × Word)) (ystat : BitVec 4) : State := atThread { thread0 with status := st, pending := l, ystat := ystat }

theorem test_premises_threads_wake :
    (((waiting .wfe [] 1).thr 0).ystat.getLsbD 0 = true ∧ ((waiting .wfe [] 0).thr 0).ystat.getLsbD 0 = false ∧
    ((waiting .wfe [] 0).thr 0).change = false) ∧
    (lab.thr 0).debugStop = none := by decide

theorem test_premises_pending_traps :
    ((waiting .running [(0x15, 3), (0x16, 4)] 0).thr 0).arch.atBoundary = true ∧ (∀ p ∈ [((0x15 : BitVec 8), (3 : Word))], p.1 ≠ 0x16) ∧
    (∀ p ∈ ([] : List (BitVec 8 × Word)), p.1 ≠ 0x16) ∧ (waiting .running [(0x15, 3)] 0).CanEnter 0 frameKeys0 ∧
    (waiting .running [] 0).CanEnter 0 frameKeys0 :=
  ⟨by decide, by simp, by simp, ⟨by decide, by decide, by decide, by decide⟩, ⟨by decide, by decide, by decide, by decide⟩⟩

/-- A bwait (bwait.hart x1, x5, x2) waits for the word at x5 to leave generation 0. -/
def waitsFor (gen : Byte) : State :=
  let s := withX (waiting .bwait [] 0) 2 0;
  { s with mem := [(0x100_0000, 0x40), (0x100_0001, 0x10), (0x100_0002, 0x25), (0x100_0003, 0xA0)] ++ if gen = 0 then [] else [(0x100_0106, gen)] }

theorem test_premises_barrier_waits :
    (waitsFor 0).fetch 0 = .ok 0xA025_1040 ∧ decode 0xA025_1040 = .ok (.bwait .hart 1 5 2) ∧
    (match State.bwaitRead { waitsFor 0 with cur := 0 } 0 ((waitsFor 0).x 5) (((waitsFor 0).x 2).extractLsb' 0 16) with | .ok (_, none) => true | _ => false) = true ∧
    (match State.bwaitRead { waitsFor 1 with cur := 0 } 0 ((waitsFor 1).x 5) (((waitsFor 1).x 2).extractLsb' 0 16) with
      | .ok (_, some _) => true | _ => false) = true := by decide +kernel

def launch (id : Nat) (q : Fin 8) (w : Word) : Launch := ⟨id, 0, q, 0, (Vector.replicate 8 0).set 1 w, 0, 0, Vector.replicate 8 0, 0, 0, 0, 0⟩

/-- Field 0 alone, of one quad, whose four harts run; hart 0 runs launch 1 of priority 0, and launch 2 of priority 3 waits at the head of its queue.
Launch 1 has promised its lanes to reclaim, or not. -/
def contended (promised : Bool) : State :=
  let s := atThread { whole with launch := some 1 };
  let t : Thread := { Thread.zero with status := .running };
  let z : Field := { Field.zero 0 with
    sites := 0 };
  let u := { s with
    threads := ((s.threads.set 8 t).set 16 t).set 24 t
    fields := (Vector.replicate 8 z).set 0 { z with up := true, sites := 1 }
    launches := [launch 1 0 (if promised then 0x80_0001 else 1), launch 2 3 1], known := s.known.set 0 1, mem := [(0, 1)] }
  (u.setHrt 0 oneGroup).setQueue 0 3 ⟨true, .ready 2⟩

theorem contended_unasked (p : Bool) (t : Tid) : ((contended p).thr t).ystat = 0 := by
  simp only [contended, State.thr, State.setQueue, State.setHrt, atThread, State.reset, Vector.getElem_set, Vector.getElem_replicate]
  split_ifs <;> rfl

theorem contended_requested (p : Bool) (h : HartId) : (contended p).requested h = false := by
  simp [State.requested, contended_unasked]

/-- The kernel of hart 0. -/
def victim (p : Bool) : Running := ⟨0, false, launch 1 0 (if p then 0x80_0001 else 1), 0⟩

theorem test_premises_victim (p : Bool) : (contended p).nextVictim (.record (launch 2 3 1)) = some (victim p) := by
  have hf : allHarts.any (contended p).freeHart = false := by cases p <;> decide +kernel
  have hr : (allHarts.flatMap fun h => [(contended p).runningOn h false, (contended p).runningOn h true].filterMap id).map
      (fun r => (r.hart, r.upper, r.launch, r.since)) = [(0, false, launch 1 0 (if p then 0x80_0001 else 1), 0)] := by
    cases p <;> decide +kernel
  have hr' : (allHarts.flatMap fun h => [(contended p).runningOn h false, (contended p).runningOn h true].filterMap id) = [victim p] := by
    rcases hl : (allHarts.flatMap fun h => [(contended p).runningOn h false, (contended p).runningOn h true].filterMap id) with _ | ⟨r, _ | ⟨q, l⟩⟩
    · rw [hl] at hr; simp at hr
    · rw [hl] at hr
      obtain ⟨a, b, c, d⟩ := r
      simp only [List.map_cons, List.map_nil, List.cons.injEq, Prod.mk.injEq, and_true] at hr
      obtain ⟨rfl, rfl, rfl, rfl⟩ := hr
      rfl
    · rw [hl] at hr; simp at hr
  have hn : (contended p).needOver 0 = 1 := by cases p <;> decide +kernel
  have hq : allHarts.filter (contended p).requested = [] := List.filter_eq_nil_iff.2 fun h _ => by simp [contended_requested]
  simp only [State.nextVictim, contended_requested, hq, hf, List.length_nil, Bool.false_eq_true, if_false, hr', firstBest, List.foldl_nil, victim]
  simp only [launch, State.effective, Fin.val_zero, hn]
  exact if_pos ⟨by decide, by decide⟩

theorem test_premises_candidate (p : Bool) :
    (match (contended p).candidates with | [.record l] => decide (l = launch 2 3 1) | _ => false) = true ∧
    ((contended p).launches.filter (contended p).atHead).find? (fun l => l.ctx == 0 && l.queue == 3) = some (launch 2 3 1) ∧
    ((contended p).hrt 0).groups = 1 ∧ ((contended p).hrt 0).reclaim = .none ∧ recReclaim (victim true).launch.image = true ∧
    recReclaim (victim false).launch.image = false ∧ recHelpers (launch 2 3 1).image = 0 ∧ (contended p).kernelThreads 0 false ≠ [] := by
  cases p <;> decide +kernel

/-- User mode with a checkpoint, a yield overdue. -/
def overdueThread : Thread := { thread0 with
  arch := { thread0.arch with mode := .user }, ydead := 1, ystat := 1
  ckpt := some ⟨.implicit, { thread0.arch with mode := .user, pc := 0x100_0200 }, { thread0.arch with mode := .user, pc := 0x100_0200 }⟩ }

/-- Its package 4,000 cycles on. -/
def overdueAs (th : Thread) : State :=
  { atThread th with
    fields := Vector.replicate 8 { Field.zero 0 with
      up := true, cycle := 4000 } }

/-- What a pre-emption leaves for the entry of trap 0x17. -/
def preempting (s : State) : State :=
  (s.preemptPoint 0).setThr 0 { (s.preemptPoint 0).thr 0 with ystat := ((s.thr 0).ystat &&& 8) ||| 4, ydead := 0, preemptDue := false }

/-- What a pre-emption leaves for the entry of a pending trap. -/
def takingFirst (s : State) (l : List (BitVec 8 × Word)) : State :=
  (s.preemptPoint 0).setThr 0 { (s.preemptPoint 0).thr 0 with preemptDue := true, pending := l }

theorem test_premises_preemption :
    (((overdueAs overdueThread).thr 0).ystat.getLsbD 0 = true ∧ ((overdueAs overdueThread).thr 0).ydead ≠ 0 ∧
      ((overdueAs overdueThread).thr 0).ydead ≤ (overdueAs overdueThread).cycleOf 0) ∧
    (overdueAs overdueThread).trapWaits 0 = false ∧ (thread0.arch.mode = .supervisor ∧ thread0.preemptDue = false) ∧
    ({ stalled with threads := stalled.threads.set 0 { overdueThread with tscratch := localWindow + 0x10_1000 } } : State).trapWaits 0 = true := by
  decide +kernel

theorem test_premises_preemption_enters :
    (preempting (overdueAs overdueThread)).CanEnter 0 userFrame ∧
    (takingFirst (overdueAs { overdueThread with pending := [(0x15, 3)] }) []).CanEnter 0 userFrame ∧
    (preempting (overdueAs { overdueThread with status := .wfe })).CanEnter 0 userFrame ∧
    (preempting (overdueAs { overdueThread with lanes := none, ckpt := none })).CanEnter 0 userFrame :=
  ⟨⟨by decide +kernel, by decide +kernel, by decide +kernel, by decide +kernel⟩, ⟨by decide +kernel, by decide +kernel, by decide +kernel,
    by decide +kernel⟩,
    ⟨by decide +kernel, by decide +kernel, by decide +kernel, by decide +kernel⟩, ⟨by decide +kernel, by decide +kernel, by decide +kernel,
      by decide +kernel⟩⟩

/-- A convoy of one member under way. -/
def midConvoy : State := atThread { thread0 with arch := { thread0.arch with convoy := some ⟨0x100_0000, 1, noProgress, true⟩ } }

/-- The number of members that a breakpoint can stand on at the thread's pc. -/
def memberCount (s : State) : Nat := max 1 (s.breakMembers 0 (s.arch 0) 4 (s.pc))

theorem test_premises_debugger :
    ¬ ((midConvoy.thr 0).arch.atBoundary = true ∨ (midConvoy.thr 0).debugAsk = .instruction ∧ (midConvoy.thr 0).arch.memberBegun = false) ∧
    (midConvoy.thr 0).debugPass ≠ .fresh ∧ (lab.thr 0).arch.atBoundary = true ∧
    ((List.range (memberCount lab)).find? fun k =>
      ({ lab with breaks := [(0, 0x100_0000)] } : State).breaks.contains ((lab.thr 0).ctx, 0x100_0000 + BitVec.ofNat 64 (4 * k))).isSome = true ∧
    ((List.range (memberCount lab)).find? fun k => lab.breaks.contains ((lab.thr 0).ctx, 0x100_0000 + BitVec.ofNat 64 (4 * k))) = none ∧
    (lab.thr 0).debugAsk = .no ∧ (lab.thr 0).debugPass = .no ∧ (lab.thr 0).status = .running ∧ (lab.arch 0).convoy = none ∧
    ((atThread { thread0 with debugPass := .fresh }).thr 0).debugPass = .fresh ∧
    (let th := (atThread { thread0 with debugPass := .asleep, debugAsk := .launch }).thr 0; th.debugPass = .asleep ∧ th.debugAsk = .launch) ∧
    ((atThread { thread0 with debugAsk := .boundary }).thr 0).debugAsk ≠ .no := by decide +kernel

/-- Thread 0 of launch 1 stands at a stop at the entry of a trap that a page made absent has raised, and the page. -/
def meeting : State :=
  { atThread { thread0 with launch := some 1, debugStop := some 5 } with absent := [⟨0, 0x80_4065_0000, 0x1_0000, 0x10_4028, 0x1_2345_002F, some 0⟩] }

theorem test_premises_debugger_resumes :
    (meeting.thr 0).debugStop = some 5 ∧ (meeting.thr 0).launch.isSome = true ∧ (∃ p, meeting.absent = [p] ∧ p.met = some 0) ∧
    ((atThread { thread0 with launch := some 1, debugStop := some 5 }).absent.all fun p => p.met.isNone) = true ∧
    (keysFrom 0x10_4028 8).Nodup ∧ meeting.Plain (keysFrom 0x10_4028 8) :=
  ⟨by decide, by decide, ⟨_, rfl, rfl⟩, by decide, by decide, ⟨⟨by decide, by decide⟩, by decide⟩⟩

/-! ## Events of transfers, errors and the launch unit -/

/-- One transfer in flight. -/
def inFlight (tr : Transfer) : State := lab.setHrt 0 { lab.hrt 0 with transfers := [tr] }

def copying : Transfer := { transfer with len := 8 }
def reducing : Transfer := { transfer with kind := .coll, len := 8, fmt := 3 }
def folding : Transfer := { transfer with kind := .fold, rcd := 0x8000_0000_0000_0000, dst := 0x100_0120, src := 0x100_0100, htbase := 0x100_1000, op := 0 }

/-- The handle of `layered`, handed to the press with the target at 0x100_0120. -/
def pressed (tr : Transfer) : State :=
  { (layered 0).setHrt 0 { (layered 0).hrt 0 with transfers := [tr] } with
    mem := (layered 0).mem.filter (fun q => q.1 < 0x100_1000) ++
      place 0x100_1000 ((⟨1, 0, true, 0, 0x100_0100, 7, 0x100_0120, List.replicate 8 0, false⟩ : Handle).bytes) }

theorem test_premises_engine_chunks :
    ((inFlight copying).hrt 0).transfers[0]? = some copying ∧ (0 : Nat) < copying.count ∧ 0 ∉ copying.done ∧
    (inFlight copying).chunkPlaces copying 0 = .ok (keysFrom 0x100_2000 8, keysFrom 0x100_4000 8) ∧
    (inFlight reducing).chunkPlaces reducing 0 = .ok (keysFrom 0x100_2000 8, keysFrom 0x100_4000 8) ∧ collBytes 3 = some 4 ∧
    (keysFrom 0x100_4000 8).Nodup ∧ (∀ a ∈ keysFrom 0x100_2000 8, a ∉ keysFrom 0x100_4000 8) ∧ (inFlight reducing).stores = [] ∧
    (∀ b ∈ keysFrom 0x100_4000 8, (inFlight reducing).sharesSource reducing b = false) ∧
    (match (inFlight { copying with mode := .user }).chunkPlaces { copying with mode := .user } 0 with | .error _ => true | _ => false) = true ∧
    (match (inFlight copying).engineWrite copying (copying.rcd + 56) 7 with
      | some s => (s.engineWrite copying (copying.rcd + 48) 2).isSome | none => false) = true := by decide +kernel

theorem test_premises_engine_completion :
    ({ copying with done := [0] }).count ≤ ({ copying with done := [0] }).done.length ∧
    (inFlight { copying with mode := .user }).engineRecord { copying with mode := .user } 1 0 = none ∧
    (match ((inFlight copying).engineWrite copying (copying.rcd + 56) 0).bind (fun q => q.engineWrite copying (copying.rcd + 48) 1) with
      | some s => decide (s.translate (copying.who s) .atomic false 0x100_0200 = .ok ⟨0x100_0200, false, false⟩) && !(s.hasBad 0 0x100_0200 8) &&
          (let d := (s.drain 0 .hart (fun e => e.tid == 0 && e.engine) []).drainAhead 0 (keysFrom 0x100_0200 8);
            Memory.wf d.mem && Sparse.wf (0 : BitVec 16) d.tags && (keysFrom 0x100_0200 8).all fun k => !(d.dead.contains (regionOf k)) && !(d.keyDown k))
      | none => false) = true := by decide +kernel

theorem test_premises_folds :
    ((pressed folding).hrt 0).transfers[0]? = some folding ∧ folding.kind = .fold ∧
    (match (pressed folding).foldFrame folding 0 with | .ok _ => true | _ => false) = true ∧
    (match (pressed { folding with done := [0] }).foldPlace { folding with done := [0] } with | .ok _ => true | _ => false) = true ∧
    ((pressed { folding with mode := .user }).foldFault { folding with mode := .user } 0).isSome = true ∧
    (match (pressed folding).locateStruct ((folding.press (pressed folding)).onRecords) .store (handleAddr 0x100_1000 0) 128 with
      | .ok l => decide (l = keysFrom 0x100_1000 128) | _ => false) = true := by decide +kernel

/-- User mode, a checkpoint to return to, and two restarts or none behind it. -/
def struck (n : Nat) : State :=
  atThread { thread0 with
    arch := { thread0.arch with mode := .user }, restarts := n
    ckpt := some ⟨.implicit, { thread0.arch with mode := .user }, { thread0.arch with mode := .user }⟩ }

theorem test_premises_restarts :
    ((struck 0).thr 0).ckpt ≠ none ∧ (struck 0).restartable 0 none = true ∧ (struck 0).restartable 0 (some 0) = true ∧
    (struck 0).trapWaits 0 = false ∧
    ((struck 1).thr 0).restarts < 2 ∧ 2 ≤ ((struck 2).thr 0).restarts := by decide

theorem test_premises_third_error : (((struck 2).rowMayFail 0 (some 0)).rollback 0 false).CanEnter 0 userFrame :=
  ⟨by decide, by decide, by decide, by decide⟩

theorem test_premises_lost_error :
    (({ (struck 0).dropHeld 0 with threads := (struck 0).threads.set (0 : Tid).val { (struck 0).thr 0 with due := none } } : State).scramble 0 false).CanEnter 0
      userFrame := ⟨by decide, by decide, by decide, by decide⟩

theorem test_premises_row_test :
    lab.enabledHart 0 = true ∧ lab.rowLeft 0 15 = true ∧ (lab.thr 0).lanes = some ⟨0, 1⟩ ∧
    ¬ ((0 : Nat) ≤ (15 : Fin 64).val / 4 ∧ (15 : Fin 64).val / 4 < 0 + 1) := by decide

theorem test_premises_hops :
    Memory.wf lab.mem = true ∧ lab.dead.contains 0 = false ∧ ((struck 0).thr 0).alive = true ∧ (fieldOf (hartOf 0)).val < 1 ∧
    (struck 0).restartable 0 none = true ∧ (struck 0).trapWaits 0 = false ∧ (struck 0).laneTrapWaits 0 none = false ∧
    (∀ k ∈ keysFrom (managementBase + 0x28) 8, lab.keyDown k = false ∧ (struck 0).keyDown k = false) := by decide

theorem test_premises_links :
    lab.ports[(0 : Fin 21).val].down = false ∧ 0 < lab.ports[(18 : Fin 21).val].spares ∧ (lab.thr 0).alive = true ∧
    (((0 : Tid), false) ∈ [((0 : Tid), false)] ∧ ((0 : Tid), true) ∉ [((0 : Tid), false)]) ∧
    (let s := { lab with ports := lab.ports.set 19 { lab.ports[19] with spares := 0, remapped := true, lanes := 1 } };
      s.ports[(19 : Fin 21).val].spares = 0 ∧ s.ports[(19 : Fin 21).val].lanes ≤ 1) ∧
    (let s := { lab with ports := lab.ports.set 18 { lab.ports[18] with spares := 0, remapped := true, lanes := 32 } };
      s.ports[(18 : Fin 21).val].remapped = true ∧ 2 ^ 4 ≤ s.ports[(18 : Fin 21).val].lanes - 1 ∧
      s.ports[(18 : Fin 21).val].lanes - 1 < 2 ^ (4 + 1)) ∧
    (let s := { lab with stores := [⟨0, 0, .quad, false, false, [⟨8 * stackBytes, 1, 0xFF⟩], [], 0, 0, ⟨none, none⟩⟩, ⟨0, 0, .quad, false, false, [⟨keyA, 1, 0xFF⟩], [], 0, 0, ⟨none, none⟩⟩] };
      (s.stores.map fun e => (e.released, e.crosses)) = [(true, true), (true, false)]) ∧
    ((15 : Fin 16), (31 : Fin 32)) ∉ lab.retired := by decide

/-- 15 corrected errors of row 0 of hart 0 at cycle 0. -/
def slipping (th : Thread) : State :=
  let s := atThread th;
  s.setHrt 0 { s.hrt 0 with slips := List.replicate 15 (0, 0) }

theorem test_premises_row_slips :
    (let s := slipping (struck 0 |>.thr 0);
      15 ≤ (((s.hrt 0).slips.filter fun x => decide ((s.fld 0).cycle.toNat - x.2.toNat < 2 ^ 24)).filter fun x => x.1 == (0 : Fin 64)).length ∧
      s.rowLeft 0 0 = true ∧ s.rowHolder 0 0 = some 0 ∧ s.restartable 0 (some 0) = true ∧ s.laneTrapWaits 0 (some 0) = false ∧ s.rowHolder 0 15 = none) ∧
    ¬ 15 ≤ ((lab.hrt 0).slips.filter fun x => x.1 == (0 : Fin 64)).length := by decide +kernel

theorem test_premises_temperatures_and_current :
    105 ≤ (105 : Byte).toNat ∧ (104 : Byte).toNat < 105 ∧ 115 ≤ (115 : Byte).toNat ∧ (114 : Byte).toNat < 115 ∧ (lab.fld 0).up = true ∧
    (lab.fld 0).fenced = false ∧ (11 : Byte) ∈ [(1 : Byte), 2, 11] := by decide

/-- A report waits; the error ring of 4 slots is at 0x100_1000, its next slot free or not. -/
def ring (busy : Nat) : State :=
  { lab with
    reports := [⟨0, 1, 0, 0, 1, 0, 0⟩]
    mem := place managementBase (bytesOf 0x100_0040 8 ++ bytesOf 0x100_1000 8 ++ bytesOf 4 4) ++ place 0x100_1000 (bytesOf 0 8 ++ bytesOf busy 8) }

theorem test_premises_error_ring :
    8 ≤ (ring 0).boot.step ∧ ((ring 0).homeWord (managementBase + 0x10)).toNat % 2 ^ 32 ≠ 0 ∧
    ((ring 0).homeWord (managementBase + 0x08)).toNat = 0x100_1000 ∧ (ring 0).homeByte (0x100_1000 + 8) = 0 ∧ (ring 1).homeByte (0x100_1000 + 8) ≠ 0 ∧
    Memory.wf (ring 0).mem = true ∧ (ring 0).unreadable managementBase = false ∧ (ring 0).unreadable (0x100_1000 + 8) = false ∧
    (∀ k ∈ keysFrom 0x100_1000 32 ++ keysFrom (managementBase + 0x14) 8, (ring 0).keyDown k = false) ∧
    ({ ring 0 with bad := [0x100_1000] } : State).unreadable (0x100_1000 + 8) = true := by
  decide +kernel

/-- Context 1, resident, whose queue 3 has its header at 0x100_0000: four slots at 0x100_1000, head 0; the record there has word 1 `w`, a map, a
dependence with the value 5 (0x100_2100 holds 5), and a completion counter. A leaf maps the 2 MiB at 0x100_0000 to themselves for user mode. -/
def queued (entry w map dep : Nat) (stage : RecordImage → QStage) : State :=
  let record := bytesOf entry 8 ++ bytesOf w 8 ++ bytesOf 0 8 ++ bytesOf map 8 ++ bytesOf dep 8 ++ bytesOf 5 8 ++ bytesOf 0x100_2200 8 ++ bytesOf 0x100_2300 8;
  ({ lab with
    known := lab.known.set 1 1
    mem := (256, 1) :: place 264 (bytesOf 0x8_0000 8) ++ place (256 + 56) (bytesOf 0x100_0000 8) ++
      place 0x8_0000 (bytesOf 0x8_1001 8) ++ place 0x8_1000 (bytesOf 0x8_2001 8) ++ place 0x8_2000 (bytesOf 0x8_3001 8) ++ place 0x8_3040 (bytesOf 0x100_002F 8) ++
      place 0x100_0000 (bytesOf 0x100_1000 8 ++ bytesOf 4 8 ++ bytesOf 1 8) ++
      place 0x100_1000 record ++ place 0x100_2000 (bytesOf (2 ^ 32) 8) ++ place 0x100_2100 (bytesOf 5 8) ++ place 0x100_2300 (bytesOf 0x100_3000 8) }).setQueue 1 3 ⟨true, stage (imageOfBytes record)⟩

def ready1 : Nat := 1 + 3 * 2 ^ 16 + 2 ^ 48
def idle : RecordImage → QStage := fun _ => .idle
def taken : RecordImage → QStage := .taken 0x100_1000

/-- What `launchRecordTake` meets: the first stage's refusal of the record that stands at the head. -/
def meets (s : State) : Option (Option Nat × Nat) :=
  match s.queueHeader 1 3 with
  | none => none
  | some hd =>
    match s.readHome (s.launchWho 1 false) (hd.base + BitVec.ofNat 64 (hd.head.toNat % hd.slots * 64)) 64 with
    | .ok b => some (s.firstStage 3 (imageOfBytes b), fieldAt b 14 1)
    | .error _ => none

/-- The state in which the record at the head has been read. -/
def noticed (s : State) : State := s.noteStruct (s.launchWho 1 false) 0x100_1000 64

theorem test_premises_record_take :
    (queued 0 ready1 0 0 idle).serves 1 = true ∧ ((queued 0 ready1 0 0 idle).queue 1 3).served = true ∧
    ((queued 0 ready1 0 0 idle).queue 1 3).stage = .idle ∧
    meets (queued 0 ready1 0 0 idle) = some (none, 1) ∧ meets (queued 0 (ready1 - 2 ^ 48) 0 0 idle) = some (none, 0) ∧
    meets (queued 1 ready1 0 0 idle) = some (some 1, 1) ∧ meets (queued 0 (ready1 + 600) 0 0 idle) = some (some 2, 1) ∧
    (noticed (queued 1 ready1 0 0 idle)).refuse 1 3 0x100_1000 1 ≠ none ∧
    (noticed (queued 0 (ready1 + 600) 0 0 idle)).refuse 1 3 0x100_1000 2 ≠ none ∧
    (∀ id, (((lab.setQueue 1 3 ⟨true, .ready id⟩).queue 1 3).stage = .ready id)) ∧
    (let q := (queued 0 ready1 0 0 idle).setQueue 1 3 ⟨true, .ready 5⟩; q.launchOf (some 5) = none ∧ q.advanceHead 1 3 ≠ none) :=
  ⟨by decide +kernel, by decide +kernel, by decide +kernel, by decide +kernel, by decide +kernel, by decide +kernel, by decide +kernel,
    by decide +kernel, by decide +kernel, fun _ => rfl, by decide +kernel⟩

/-- The states in which the dependence has been read, and the map and the operands. -/
def readFirst (q : State) : State :=
  match (q.queue 1 3).stage with
  | .taken _ r =>
    let w := q.launchWho 1 true;
    if recDepAddr r = 0 then q else (q.noteStruct w (recDepAddr r) 8).noteFault w (q.readHome w (recDepAddr r) 8)
  | _ => q

def readFor (q : State) : State :=
  match (q.queue 1 3).stage with
  | .taken _ r => (readFirst q).noteLaunch 1 r
  | _ => q

/-- What `dependenceMet` meets: the dependence, the map and the entry. -/
def meetsLater (q : State) : Nat × Nat × Nat :=
  match (q.queue 1 3).stage with
  | .taken _ r =>
    ((match q.dependence 1 r with | .waits => 0 | .unreadable => 1 | .met => 2),
      (match q.readMap 1 (recMap r) with | .ok none => 0 | .ok (some _) => 1 | .error _ => 2),
      (match q.launchEntry 1 r with | .ok none => 0 | .ok (some _) => 1 | .error _ => 2))
  | _ => (9, 9, 9)

theorem test_premises_dependence :
    meetsLater (queued 0x200_0000 ready1 0 0x100_2100 taken) = (2, 1, 1) ∧ meetsLater (queued 0x200_0000 ready1 0 0x100_2108 taken) = (0, 1, 1) ∧
    meetsLater (queued 0x200_0000 ready1 0 0x200_0000 taken) = (1, 1, 1) ∧ meetsLater (queued 0x200_0000 ready1 0x100_2000 0 taken) = (2, 0, 1) ∧
    (readFor (queued 0x200_0000 ready1 0 0 taken)).setStatus 1 0x100_1000 2 0 ≠ none ∧
    meetsLater (queued 0x200_0000 (ready1 + 2 ^ 24) 0 0 taken) = (2, 1, 0) ∧
    meetsLater (queued 0x200_0000 (ready1 + 2 ^ 24) 0x200_0000 0 taken) = (2, 2, 0) ∧
    (readFor (queued 0x200_0000 ready1 0x100_2000 0 taken)).refuse 1 3 0x100_1000 1 ≠ none ∧
    (readFirst (queued 0x200_0000 ready1 0 0x200_0000 taken)).refuse 1 3 0x100_1000 4 ≠ none := by decide +kernel

theorem test_premises_status :
    (match (queued 0 ready1 0 0 idle).locateStruct ((queued 0 ready1 0 0 idle).launchWho 1 false) .store (0x100_1000 + 8) 8 with
      | .ok l => decide (l = keysFrom 0x100_1008 8) | _ => false) = true ∧
    (match (queued 0 ready1 0 0 idle).setStatus 1 0x100_1000 4 255 with
      | some w => (match w.queueHeader 1 3 with
        | some hd => decide (w.locateStruct (w.launchWho 1 false) .store (hd.addr + 24) 8 = .ok (keysFrom 0x100_0018 8)) | none => false)
      | none => false) = true ∧
    Memory.wf (queued 0 ready1 0 0 idle).mem = true := by decide +kernel

/-- Launch 2 of `contended` at the head of its queue, with hart 3 free and, for `hartFreed`, the one offered. -/
def offered : State := (contended false).setThr 24 Thread.zero

/-- A saved hart of launch 1, and no record to place. -/
def savedHart : SavedHart :=
  { id := 0, frames := [], launch := 1, ctx := 0, hart := oneGroup, threads := (Vector.replicate 8 Thread.zero).set 0 { whole with launch := some 1 }, window := [], since := 0, aged := 0 }

def resuming : State := { offered with saved := [savedHart], launches := [launch 1 0 1] }

theorem test_premises_placement :
    (match offered.firstCandidate (fun _ => true) with | some (.record l, h) => decide (l = launch 2 3 1 ∧ h = 3) | _ => false) = true ∧
    (match offered.firstCandidate (fun x => x == 3) with | some (.record l, h) => decide (l = launch 2 3 1 ∧ h = 3) | _ => false) = true ∧
    offered.launchOf (some 2) = some (launch 2 3 1) ∧ (launch 2 3 1).placed < recCount (launch 2 3 1).image ∧
    offered.preempted 3 false = false ∧ offered.preempted 3 true = false ∧ offered.saved.length ≤ 512 := by decide +kernel

theorem test_premises_resuming :
    (match resuming.firstCandidate (fun x => x == 3) with | some (.saved n x, h) => decide (n = 0 ∧ x.launch = 1 ∧ h = 3) | _ => false) = true ∧
    resuming.preempted 3 false = false ∧ resuming.preempted 3 true = false ∧ resuming.freeHart 3 = true ∧
    (savedHart.threads[(0 : Fin 8).val]).status ≠ .off := by decide +kernel

/-- The lower half of hart 3 is free beside a kernel on its reclaimed lanes, and the saved kernel has promised its lanes. -/
def halfFree : State :=
  let s := (contended false).setThr 24 Thread.zero;
  { (s.setHrt 3 { s.hrt 3 with reclaim := .passed }).setThr 25 { Thread.zero with status := .running, lanes := some ⟨8, 8⟩ } with
    saved := [savedHart], launches := [launch 1 0 0x80_0001] }

theorem test_premises_resuming_on_a_half :
    (match halfFree.firstCandidate (fun x => x == 3) with | some (.saved n x, h) => decide (n = 0 ∧ x.launch = 1 ∧ h = 3) | _ => false) = true ∧
    halfFree.preempted 3 false = false ∧ halfFree.preempted 3 true = false ∧ halfFree.freeHart 3 = false := by decide +kernel

theorem test_premises_saving :
    (let s := lab.setThr 0 { lab.thr 0 with tcause := 0x17, launch := some 1 };
      s.preempted 0 false = true ∧ s.isReclaimed 0 = false ∧ s.enabledHart 0 = true ∧ (s.hrt 0).transfers = []) ∧
    (let s := (lab.setHrt 0 { lab.hrt 0 with reclaim := .passed }).setThr 1 { lab.thr 0 with tcause := 0x17, launch := some 2, lanes := some ⟨8, 8⟩ };
      s.preempted 0 true = true ∧ s.preempted 0 false = false ∧ s.isReclaimed 0 = true) := by decide +kernel

theorem test_premises_launch_done :
    (let s := { queued 0 ready1 0 0 idle with launches := [{ launch 1 3 1 with ctx := 1, rcd := 0x100_1000, counted := 1 }] };
      s.launchOf (some 1) = some { launch 1 3 1 with ctx := 1, rcd := 0x100_1000, counted := 1 } ∧ (s.queue 1 3).stage ≠ .ready 1 ∧
      recCount (launch 1 3 1).image = 1 ∧ s.setStatus 1 0x100_1000 3 0 ≠ none) := by decide +kernel

/-! ## Bring-up, commands and requests from outside -/

/-- Bring-up at this point. -/
def booting (step position retries failed : Nat) (awaiting : Bool) : State :=
  { State.reset with boot := { State.reset.boot with step := step, position := position, retries := retries, failed := failed, awaiting := awaiting } }

theorem test_premises_bring_up :
    (let s := { booting 3 3 0 0 false with fields := Vector.replicate 8 { Field.zero 0 with up := true } };
      (∀ k : Fin 6, (s.fld ⟨if k.val < 3 then k.val + 1 else k.val + 2, by split <;> omega⟩).up = true)) ∧
    ((3 : Fin 6) ∉ (booting 6 3 0 0 false).boot.crossed) ∧
    (∀ k ∈ [0, 1, 2, 3, 4, 5, 6, 7, 8], let b := (booting k 0 0 0 false).boot;
      b.powered = true ∧ b.stopped = false ∧ b.awaiting = false ∧ b.failed ≠ 3 ∧ b.started = false ∧ b.step = k) ∧
    max 1 (booting 3 3 0 0 false).boot.position ≤ 3 ∧ max 4 (booting 5 7 0 0 false).boot.position ≤ 7 ∧
    (∀ f, ((booting 3 0 0 0 false).fld f).fenced = false) ∧
    (booting 6 5 7 0 false).boot.position < 6 ∧ (7 : FieldId).val = 5 + 2 ∧ (3 : FieldId).val = 2 + 1 ∧ (booting 6 5 7 0 false).boot.retries < 8 ∧
    8 ≤ (booting 6 5 8 0 false).boot.retries ∧ (booting 1 0 0 2 true).boot.awaiting = true ∧ (booting 0 0 0 1 true).boot.step = 0 ∧
    (booting 1 0 0 2 true).boot.step ≠ 0 := by decide

/-- An image that the ROM accepts: its key, version and signature are those it compares with. -/
theorem test_premises_good_image :
    let g : SignedImage := ⟨Config.fusedKeyDigest, Config.fusedVersion, true, 0⟩;
    g.keyDigest = Config.fusedKeyDigest ∧ Config.fusedVersion.toNat ≤ g.version.toNat ∧ g.signed = true := ⟨rfl, Nat.le_refl _, rfl⟩

theorem test_premises_bad_image :
    let g : SignedImage := ⟨0, 0, false, 0⟩;
    ¬ (g.keyDigest = Config.fusedKeyDigest ∧ Config.fusedVersion.toNat ≤ g.version.toNat ∧ g.signed = true) := fun h => Bool.false_ne_true h.2.2

/-- A command waits in the ring. -/
def commanded (code : Nat) (args : List Nat) : State :=
  { lab with
    mem := place managementBase (bytesOf 0x100_0040 8) ++ place 0x100_0038 (bytesOf 1 8) ++
      place 0x100_0040 (bytesOf code 8 ++ args.flatMap fun a => bytesOf a 8) }

def meetsCommand (s : State) : Option (Nat × Bool × List Nat) := s.nextCommand.map fun c => (c.code, c.clean, (List.range 5).map fun k => (c.arg k).toNat)

theorem test_premises_commands :
    ([(1, [0, 13]), (2, [15, 31, 3, 4, 1]), (3, [15, 31]), (4, [20]), (5, [0x100_0200, 63, 0x100_0800]), (6, [0x100_0200]), (7, [])].all fun q =>
      decide (meetsCommand (commanded q.1 q.2) = some (q.1, true, (q.2 ++ List.replicate 5 0).take 5))) = true := by decide +kernel

theorem test_premises_command_slot :
    (∀ k ∈ keysFrom (0x100_0040 + 48) 8, (commanded 6 [0x100_0200]).keyDown k = false) ∧ ((commanded 6 [0x100_0200]).nextCommand.map fun c => c.slot) = some 0x100_0040 ∧
    (∀ j, j < 32 → (commanded 5 [0x100_0200, 63, 0x100_0800]).unreadable (0x100_0200 + j) = false) := by decide +kernel

theorem test_premises_unclean_command : ((meetsCommand (commanded (1 + 2 ^ 16) [])).map fun q => q.2.1) = some false := by decide +kernel

theorem test_premises_command_arguments :
    ((commanded 1 [0, 13]).fld 0).sites.getLsbD 13 = true ∧ (commanded 1 [0, 13]).quadHeld 0 13 = false ∧ (lab.fld 0).sites.getLsbD 14 = false ∧
    (lab.fld 0).broken.getLsbD 14 = false ∧ (atThread thread0).quadHeld 0 0 = true ∧ lab.vias.count (15, 31) < 5 ∧
    5 ≤ ({ lab with vias := List.replicate 5 (15, 31) }).vias.count (15, 31) ∧
    lab.ports[20].spares ≠ 0 ∧ ({ lab with ports := lab.ports.set 20 { lab.ports[20] with spares := 0 } }).ports[20].spares = 0 ∧
    lab.hbmRange 0x100_0200 32 = true ∧ lab.hbmRange 0x100_0800 1528 = true ∧ 0x100_0200 % 64 = 0 ∧
    (let f := { lab.fld 0 with sites := 0xFFFF };
      ∀ q, q < 16 → f.sites.getLsbD q = true ∨ f.broken.getLsbD q = true) := by decide +kernel

theorem test_premises_requests :
    lab.boot.step ≠ 0 ∧ 3 ≤ lab.boot.step ∧ lab.ports[18].down = false ∧ lab.ports[(2 : Fin 18).val].down = false ∧ lab.devid ≠ 5 ∧
    (0 < 64 ∧ lab.hbmRange 0x100_0100 64 = true) ∧ (∀ k ∈ keysFrom 0x100_0100 64, unitOf k ∉ lab.bad ∧ lab.isRetired k = false) ∧
    (let s := { lab with dead := [regionOf 0x200_0000], bad := [unitOf keyA] };
      isHbm 0x200_0000 = true ∧ s.dead.contains (regionOf 0x200_0000) = true ∧ unitOf keyA ∈ s.bad ∧ s.dead.contains (regionOf keyA) = false) := by
  decide +kernel

theorem test_premises_retired_channels :
    let s : State := { lab with retired := (List.finRange 32).map fun c => (0, c) };
    s.isRetired keyA = true := by
  simp only [State.isRetired, Bool.and_eq_true, List.any_eq_true, beq_iff_eq]
  exact ⟨by decide, (0, channelOf (frameOf keyA)), List.mem_map.2 ⟨_, List.mem_finRange _, rfl⟩, by decide, rfl⟩

/-! ## Steps -/

/-- Thread 0's turn, its word placed. -/
def turn (w : Nat) (th : Thread) : State := (atThread th).withFetchWord 32 w

theorem test_premises_steps :
    (∀ s ∈ [turn 0x0820_0007 thread0], s.boot.powered = true ∧ s.boot.stopped = false ∧ (s.thr 0).debugStop = none ∧ (s.thr 0).status = .running ∧
      (s.thr 0).pending = [] ∧ (s.thr 0).preemptDue = false ∧ s.deadlineMet 0 = false ∧ s.heldTooLong 0 = false ∧ s.debugDue 0 = false ∧
      (s.thr 0).debugPass = .no ∧ s.watches = [] ∧ s.dead = [] ∧ s.absent = [] ∧ s.awaitEret = []) ∧
    (turn 0x0820_0007 thread0).fetch 0 = .ok 0x0820_0007 ∧ decode 0x0820_0007 = .ok (.addi 1 0 7) ∧ decode 0 = .error .reservedMajor ∧
    (lab.fetch 0 = .ok 0) ∧ (match userLab.fetch 0 with | .error _ => true | _ => false) = true ∧
    (waiting .doubleFault [] 0 |>.thr 0).status ∉ [.running, .wfe, .bwait] ∧
    ((overdueAs overdueThread).deadlineMet 0 = true ∧ ((overdueAs overdueThread).thr 0).arch.mode = .user ∧
    (overdueAs overdueThread).yieldWins 0 = false) ∧
    ({ lab with breaks := [(0, 0x100_0000)] } : State).debugDue 0 = true ∧
    (let s := { atThread { thread0 with heldFrom := some 0 } with fields := (overdueAs thread0).fields }; s.heldTooLong 0 = true) ∧
    ({ lab with boot := { lab.boot with powered := false } }).boot.powered = false ∧ (Instr.powerOff).isEvent = true ∧ eventThread (.wfeWake 0) = some 0 ∧
    eventThread .powerOff = none := by decide +kernel

theorem test_premises_canonical :
    State.reset.Canonical ∧ (∃ t, step State.reset = .next t) ∧ Memory.wf ([(3, 1), (4, 2)] : Memory) = true ∧ Memory.wf ([(3, 0)] : Memory) = false ∧
    Memory.wf ([(4, 1), (3, 1)] : Memory) = false := ⟨⟨by decide, by decide⟩, ⟨_, rfl⟩, by decide, by decide, by decide⟩

end Sys2Proof.Tests
end

section
/-! PROOFS. Rounding (spec/03_number_formats.md R63 to R71): the nearest integer with ties to even, what a pattern stands for, and the one rounding of a
nonzero magnitude as a statement about real numbers; then exact sums and products, and O4. -/

namespace Sys2Proof.Machine

/-! ## The nearest integer, ties to even -/

/-- r is y rounded to an integer to nearest, ties to even (R67). -/
structure NearestEven (r : Nat) (y : ℝ) : Prop where
  near : |(r : ℝ) - y| ≤ 1 / 2
  tie  : |(r : ℝ) - y| = 1 / 2 → r % 2 = 0

/-- No integer lies nearer, and where another lies as near the rounded one is even. -/
theorem NearestEven.nearest {r : Nat} {y : ℝ} (h : NearestEven r y) (n : ℤ) :
    |(r : ℝ) - y| ≤ |n - y| ∧ (|(r : ℝ) - y| = |n - y| → (n : ℝ) ≠ r → r % 2 = 0) := by
  by_cases hn : n = (r : ℤ)
  · subst hn; simp
  · have h1 : (1 : ℝ) ≤ |(n : ℝ) - r| := by exact_mod_cast Int.one_le_abs (sub_ne_zero.2 hn)
    have h2 : |(n : ℝ) - r| ≤ |n - y| + |(r : ℝ) - y| := by
      rw [abs_sub_comm (r : ℝ) y]; exact abs_sub_le _ _ _
    have h3 := h.near
    exact ⟨by linarith, fun e _ => h.tie (by linarith)⟩

theorem NearestEven.le_of_le {r n : Nat} {y : ℝ} (h : NearestEven r y) (hy : y ≤ n) : r ≤ n := by
  by_contra hlt
  have h1 : (n : ℝ) + 1 ≤ r := by exact_mod_cast not_le.1 hlt
  linarith [(abs_le.1 h.near).2]

theorem NearestEven.ge_of_ge {r n : Nat} {y : ℝ} (h : NearestEven r y) (hy : n ≤ y) : n ≤ r := by
  by_contra hlt
  have h1 : (r : ℝ) + 1 ≤ n := by exact_mod_cast not_le.1 hlt
  linarith [(abs_le.1 h.near).1]

/-- Rounding reaches an even number from the middle below it on. -/
theorem NearestEven.even_le_iff {r n : Nat} {y : ℝ} (h : NearestEven r y) (hn : n % 2 = 0) : n ≤ r ↔ (n : ℝ) - 1 / 2 ≤ y := by
  obtain ⟨hlo, hhi⟩ := abs_le.1 h.near
  constructor
  · intro hr
    have : (n : ℝ) ≤ r := by exact_mod_cast hr
    linarith
  · intro hy
    by_contra hlt
    have h1 : (r : ℝ) + 1 ≤ n := by exact_mod_cast not_le.1 hlt
    have h0 : r % 2 = 0 := h.tie (by rw [abs_of_nonpos] <;> linarith)
    have : (r : ℝ) + 2 ≤ n := by exact_mod_cast (by omega : r + 2 ≤ n)
    linarith

/-- Rounding reaches an odd number from beyond the middle below it. -/
theorem NearestEven.odd_le_iff {r n : Nat} {y : ℝ} (h : NearestEven r y) (hn : n % 2 = 1) : n ≤ r ↔ (n : ℝ) - 1 / 2 < y := by
  obtain ⟨hlo, hhi⟩ := abs_le.1 h.near
  constructor
  · intro hr
    have h1 : (n : ℝ) ≤ r := by exact_mod_cast hr
    by_contra hy
    have h0 : r % 2 = 0 := h.tie (by rw [abs_of_nonneg] <;> linarith)
    have : (n : ℝ) + 1 ≤ r := by exact_mod_cast (by omega : n + 1 ≤ r)
    linarith
  · intro hy
    by_contra hlt
    have h1 : (r : ℝ) + 1 ≤ n := by exact_mod_cast not_le.1 hlt
    linarith

/-- A number given by its integer part, and whether something lies above that (the sticky bit). -/
structure Sticks (m : Nat) (sticky : Bool) (y : ℝ) : Prop where
  exact : sticky = false → y = m
  above : sticky = true → m < y ∧ y < m + 1

theorem Sticks.ge {m : Nat} {sticky : Bool} {y : ℝ} (h : Sticks m sticky y) : (m : ℝ) ≤ y := by
  cases sticky
  · exact (h.exact rfl).ge
  · exact (h.above rfl).1.le

theorem Sticks.lt {m : Nat} {sticky : Bool} {y : ℝ} (h : Sticks m sticky y) : y < m + 1 := by
  cases sticky
  · linarith [h.exact rfl]
  · exact (h.above rfl).2

theorem nearestEven_div {c : Nat} {p y : ℝ} (hp : 0 < p) (near : |c * p - y| ≤ p / 2) (tie : |c * p - y| = p / 2 → c % 2 = 0) :
    NearestEven c (y / p) := by
  have e : |(c : ℝ) - y / p| = |c * p - y| / p := by
    rw [show (c : ℝ) - y / p = (c * p - y) / p by field_simp, abs_div, abs_of_pos hp]
  refine ⟨?_, fun h => tie ?_⟩
  · rw [e, div_le_iff₀ hp]; linarith
  · rw [e, div_eq_iff hp.ne'] at h; linarith

theorem nearestEven_down {n : Nat} {p y : ℝ} (hp : 0 < p) (lo : n * p ≤ y) (hi : y ≤ n * p + p / 2) (tie : y = n * p + p / 2 → n % 2 = 0) :
    NearestEven n (y / p) := by
  have e : |n * p - y| = y - n * p := by rw [abs_of_nonpos (by linarith)]; ring
  exact nearestEven_div hp (by linarith) fun h => tie (by linarith)

theorem nearestEven_up {n : Nat} {p y : ℝ} (hp : 0 < p) (lo : n * p + p / 2 ≤ y) (hi : y ≤ n * p + p) (tie : y = n * p + p / 2 → n % 2 = 1) :
    NearestEven (n + 1) (y / p) := by
  have e : |((n + 1 : Nat) : ℝ) * p - y| = n * p + p - y := by
    rw [abs_of_nonneg (by push_cast; linarith)]; push_cast; ring
  refine nearestEven_div hp (by linarith) fun h => ?_
  have := tie (by linarith)
  omega

/-- The rounding by shifts is rounding to nearest, and it says whether anything was lost (R67). -/
theorem roundShift_nearestEven {m k : Nat} {sticky : Bool} {y : ℝ} (h : Sticks m sticky y) (hk : 0 < k) :
    NearestEven (roundShift m k sticky).1 (y / 2 ^ k) ∧ ((roundShift m k sticky).2 = true ↔ ((roundShift m k sticky).1 : ℝ) ≠ y / 2 ^ k) := by
  obtain ⟨j, rfl⟩ : ∃ j, k = j + 1 := ⟨k - 1, by omega⟩
  have hsplit := Nat.div_add_mod' m (2 ^ (j + 1))
  have hr := Nat.mod_lt m (Nat.two_pow_pos (j + 1))
  have hhalf : (2 : ℝ) ^ (j + 1) = 2 * (2 ^ j : Nat) := by push_cast; ring
  have hp : (0 : ℝ) < 2 ^ (j + 1) := by positivity
  simp only [roundShift, Nat.add_one_ne_zero, if_false, Nat.add_sub_cancel, ne_eq, eq_div_iff hp.ne']
  generalize m / 2 ^ (j + 1) = n at *
  generalize m % 2 ^ (j + 1) = r at *
  have hm : (m : ℝ) = n * 2 ^ (j + 1) + r := by exact_mod_cast hsplit.symm
  have hge := h.ge
  have hlt := h.lt
  have hr1 : (r : ℝ) + 1 ≤ 2 ^ (j + 1) := by exact_mod_cast hr
  have hr0 : (0 : ℝ) ≤ r := r.cast_nonneg
  generalize (2 : ℝ) ^ (j + 1) = p at *
  simp only [Bool.or_eq_true, Bool.and_eq_true, decide_eq_true_eq, beq_iff_eq]
  by_cases up : 2 ^ j < r ∨ r = 2 ^ j ∧ (sticky = true ∨ n % 2 = 1)
  · rw [if_pos up]
    have hrj : ((2 ^ j : Nat) : ℝ) ≤ r := by exact_mod_cast up.elim le_of_lt fun q => q.1.ge
    have hr' : r ≠ 0 := fun q => by have := Nat.two_pow_pos j; omega
    refine ⟨nearestEven_up hp (by linarith) (by linarith) fun hy => ?_, iff_of_true (.inl hr') ?_⟩
    · rcases up with hlt' | ⟨-, hs | hn⟩
      · have : ((2 ^ j : Nat) : ℝ) < r := by exact_mod_cast hlt'
        linarith
      · linarith [(h.above hs).1]
      · exact hn
    · push_cast; linarith
  · rw [if_neg up]
    obtain ⟨hle, heven⟩ := not_or.1 up
    rw [Nat.add_zero]
    refine ⟨?_, ?_⟩
    · rcases (not_lt.1 hle).lt_or_eq with hlt' | heq
      · have : (r : ℝ) + 1 ≤ (2 ^ j : Nat) := by exact_mod_cast hlt'
        exact nearestEven_down hp (by linarith) (by linarith) fun hy => by linarith
      · obtain ⟨hs, hn⟩ := not_or.1 (not_and.1 heven heq)
        have hy := h.exact (by simpa using hs)
        have : (r : ℝ) = (2 ^ j : Nat) := by exact_mod_cast heq
        exact nearestEven_down hp (by linarith) (by linarith) fun _ => by omega
    · constructor
      · rintro (hr' | hs)
        · have : (0 : ℝ) < r := by exact_mod_cast Nat.pos_of_ne_zero hr'
          linarith
        · linarith [(h.above hs).1]
      · intro hne
        by_contra hno
        obtain ⟨hr', hs⟩ := not_or.1 hno
        have hy := h.exact (by simpa using hs)
        rw [not_not.1 hr'] at hm
        exact hne (by push_cast at hm; linarith)

/-! ## Rounding at a place -/

/-- m * 2^e (and a little above it, with the sticky bit) rounded to a multiple of 2^q, as `roundFin` does it: the multiple, and whether anything was
lost. -/
def roundAt (m : Nat) (e q : Int) (sticky : Bool) : Nat × Bool :=
  if q ≤ e then (m * 2 ^ (e - q).toNat, sticky) else roundShift m (q - e).toNat sticky

theorem roundAt_nearestEven {m : Nat} {e q : Int} {sticky : Bool} {y : ℝ} (h : Sticks m sticky y) (hs : sticky = true → e < q) :
    NearestEven (roundAt m e q sticky).1 (y * 2 ^ e / 2 ^ q) ∧
      ((roundAt m e q sticky).2 = true ↔ ((roundAt m e q sticky).1 : ℝ) ≠ y * 2 ^ e / 2 ^ q) := by
  unfold roundAt
  split
  next hq =>
    have hs' : sticky = false := by
      cases sticky
      · rfl
      · exact absurd (hs rfl) (by omega)
    have e1 : y * 2 ^ e / 2 ^ q = ((m * 2 ^ (e - q).toNat : Nat) : ℝ) := by
      rw [h.exact hs', mul_div_assoc, ← zpow_sub₀ (by norm_num)]
      push_cast
      rw [← zpow_natCast, Int.toNat_of_nonneg (by omega)]
    rw [e1]
    exact ⟨⟨by simp, by simp⟩, by simp [hs']⟩
  next hq =>
    have e1 : y * 2 ^ e / 2 ^ q = y / 2 ^ (q - e).toNat := by
      rw [mul_div_assoc, ← zpow_sub₀ (by norm_num), ← zpow_natCast, Int.toNat_of_nonneg (by omega), ← neg_sub q e, zpow_neg, div_eq_mul_inv]
    rw [e1]
    exact roundShift_nearestEven h (by omega)

/-! ## What a pattern stands for (R63 to R65) -/

/-- The exponent of the unit in which the subnormal numbers of a format count. -/
def Fmt.unitExp (f : Fmt) : Int := 1 - (f.bias : Int) - f.frac

/-- By how many powers of two the unit of a magnitude lies above that of the subnormal numbers. -/
def Fmt.step (f : Fmt) (mag : Nat) : Nat := mag / 2 ^ f.frac - 1

/-- A magnitude in its own unit: the fraction, with the hidden bit of a normal number. -/
def Fmt.sig (f : Fmt) (mag : Nat) : Nat := mag - f.step mag * 2 ^ f.frac

theorem Fmt.sig_lt (f : Fmt) (mag : Nat) : f.sig mag < 2 ^ (f.frac + 1) := by
  have h := Nat.div_add_mod' mag (2 ^ f.frac)
  have hr := Nat.mod_lt mag (Nat.two_pow_pos f.frac)
  rw [Nat.pow_succ]
  unfold Fmt.sig Fmt.step
  generalize mag / 2 ^ f.frac = k at *
  rcases k with - | k
  · rw [Nat.zero_mul] at h; omega
  · rw [Nat.succ_mul] at h; rw [Nat.add_sub_cancel]; omega

/-- The pattern that counts r units of the j-th power stands for r times 2^j, the carry into the exponent included. -/
theorem Fmt.sig_mul_step (f : Fmt) {j r : Nat} (hr : r ≤ 2 ^ (f.frac + 1)) (hj : j = 0 ∨ 2 ^ f.frac ≤ r) :
    f.sig (j * 2 ^ f.frac + r) * 2 ^ f.step (j * 2 ^ f.frac + r) = r * 2 ^ j := by
  have hp := Nat.two_pow_pos f.frac
  rw [Nat.pow_succ] at hr
  have hdiv : (j * 2 ^ f.frac + r) / 2 ^ f.frac = j + r / 2 ^ f.frac := by
    rw [Nat.add_comm, Nat.add_mul_div_right _ _ hp, Nat.add_comm]
  unfold Fmt.sig Fmt.step
  rw [hdiv]
  rcases lt_or_ge r (2 ^ f.frac) with hlt | hge
  · obtain rfl : j = 0 := by omega
    rw [Nat.div_eq_of_lt hlt]
    simp
  · rcases hr.lt_or_eq with hlt | rfl
    · have : r / 2 ^ f.frac = 1 := by
        rw [Nat.div_eq_iff hp]; omega
      rw [this, Nat.add_sub_cancel, Nat.add_sub_cancel_left]
    · rw [Nat.mul_div_cancel_left _ hp, show j + 2 - 1 = j + 1 from rfl, Nat.succ_mul, Nat.pow_succ]
      rw [show j * 2 ^ f.frac + 2 ^ f.frac * 2 - (j * 2 ^ f.frac + 2 ^ f.frac) = 2 ^ f.frac by omega]
      ring

theorem Fmt.signBit_eq (f : Fmt) : f.signBit = (f.expMax + 1) * 2 ^ f.frac := by cases f <;> rfl
theorem Fmt.two_pow_width (f : Fmt) : 2 ^ f.width = 2 * f.signBit := by cases f <;> rfl
theorem Fmt.signBit_even (f : Fmt) : f.signBit % 2 = 0 := by cases f <;> rfl
theorem Fmt.maxFinite_lt (f : Fmt) : f.maxFinite < f.signBit := by cases f <;> decide
theorem Fmt.infBits_lt (f : Fmt) : f.infBits < f.signBit := by cases f <;> decide

/-- A magnitude of an IEEE format is finite when its exponent field is not full. -/
theorem Fmt.le_maxFinite_iff {f : Fmt} (hf : f ≠ .e4m3) (mag : Nat) : mag ≤ f.maxFinite ↔ mag / 2 ^ f.frac < f.expMax := by
  have h : 0 < f.expMax * 2 ^ f.frac := by cases f <;> decide
  rw [Nat.div_lt_iff_lt_mul (Nat.two_pow_pos _), Fmt.maxFinite, if_neg hf]
  omega

/-- Every pattern is a sign and a magnitude. -/
theorem Fmt.exists_withSign (f : Fmt) {y : Nat} (hy : y < 2 ^ f.width) : ∃ neg mag, mag < f.signBit ∧ y = withSign f neg mag := by
  rw [f.two_pow_width] at hy
  rcases lt_or_ge y f.signBit with h | h
  · exact ⟨false, y, h, rfl⟩
  · exact ⟨true, y - f.signBit, by omega, (Nat.add_sub_cancel' h).symm⟩

theorem withSign_lt {f : Fmt} {mag : Nat} (neg : Bool) (h : mag < f.signBit) : withSign f neg mag < 2 ^ f.width := by
  rw [f.two_pow_width]; cases neg <;> simp [withSign] <;> omega

@[simp] theorem withSign_mod {f : Fmt} {mag : Nat} (neg : Bool) (h : mag < f.signBit) : withSign f neg mag % f.signBit = mag := by
  cases neg <;> simp [withSign, Nat.mod_eq_of_lt h]

theorem withSign_mod_two (f : Fmt) (neg : Bool) (mag : Nat) : withSign f neg mag % 2 = mag % 2 := by
  have := f.signBit_even
  cases neg <;> simp [withSign] ; omega

theorem decide_signBit_le {f : Fmt} {mag : Nat} (neg : Bool) (h : mag < f.signBit) :
    decide (f.signBit ≤ withSign f neg mag % (2 * f.signBit)) = neg := by
  have h2 := withSign_lt neg h
  rw [f.two_pow_width] at h2
  rw [Nat.mod_eq_of_lt h2]
  cases neg <;> simp [withSign]; omega

/-- A finite pattern's value: its sign, its significand and its unit. -/
theorem unpack_finite {f : Fmt} {mag : Nat} (neg : Bool) (h : mag ≤ f.maxFinite) :
    unpack f (withSign f neg mag) = .fin neg (f.sig mag) (f.unitExp + f.step mag) := by
  have hlt := h.trans_lt f.maxFinite_lt
  have hmod := Nat.div_add_mod' mag (2 ^ f.frac)
  have h1 : ¬ (f = .e4m3 ∧ mag = 0x7F) := by
    rintro ⟨rfl, rfl⟩; revert h; decide
  have h2 : ¬ (f ≠ .e4m3 ∧ mag / 2 ^ f.frac = f.expMax) := fun q => by
    have := (Fmt.le_maxFinite_iff q.1 mag).1 h; omega
  unfold unpack
  simp only [decide_signBit_le neg hlt, withSign_mod neg hlt, if_neg h1, if_neg h2]
  unfold Fmt.sig Fmt.step Fmt.unitExp
  split
  next h0 => simp only [h0] at hmod ⊢; simp; omega
  next h0 =>
    obtain ⟨k, hk⟩ := Nat.exists_eq_succ_of_ne_zero h0
    rw [hk, Nat.succ_mul] at hmod
    rw [hk, Nat.succ_sub_one, FVal.fin.injEq]
    refine ⟨rfl, by omega, by push_cast; ring⟩

/-- A pattern above the largest finite magnitude is no number. -/
theorem isFin_unpack {f : Fmt} {mag : Nat} (neg : Bool) (h : mag < f.signBit) : (unpack f (withSign f neg mag)).isFin = true ↔ mag ≤ f.maxFinite := by
  refine ⟨fun hfin => ?_, fun hle => by rw [unpack_finite neg hle]; rfl⟩
  by_contra hgt
  revert hfin
  unfold unpack
  simp only [decide_signBit_le neg h, withSign_mod neg h]
  by_cases hf : f = .e4m3
  · subst hf
    have : mag = 0x7F := by
      have h1 : (Fmt.e4m3).signBit = 128 := rfl
      have h2 : (Fmt.e4m3).maxFinite = 126 := rfl
      omega
    simp [this, FVal.isFin]
  · rw [Fmt.le_maxFinite_iff hf, not_lt] at hgt
    rw [f.signBit_eq, ← Nat.div_lt_iff_lt_mul (Nat.two_pow_pos _)] at h
    have : mag / 2 ^ f.frac = f.expMax := by omega
    rw [if_neg (fun q => hf q.1), if_pos ⟨hf, this⟩]
    split <;> simp [FVal.isFin]

/-- The sign of a pattern that is no NaN. -/
theorem isNeg_unpack {f : Fmt} {mag : Nat} (neg : Bool) (h : mag ≤ f.maxFinite ∨ mag = f.infBits) :
    (unpack f (withSign f neg mag)).isNeg = neg := by
  by_cases hle : mag ≤ f.maxFinite
  · rw [unpack_finite neg hle]; rfl
  · obtain rfl := h.resolve_left hle
    have hf : f ≠ .e4m3 := by rintro rfl; exact hle (by decide)
    have hinf : f.infBits = f.expMax * 2 ^ f.frac := if_neg hf
    unfold unpack
    simp only [decide_signBit_le neg f.infBits_lt, withSign_mod neg f.infBits_lt]
    rw [if_neg (fun q => hf q.1), if_pos ⟨hf, by rw [hinf, Nat.mul_div_cancel _ (Nat.two_pow_pos _)]⟩, hinf, Nat.mul_mod_left, if_pos rfl]
    rfl

/-- The sign of a number as a factor. -/
def signOf (neg : Bool) : ℝ := if neg then -1 else 1

@[simp] theorem abs_signOf (neg : Bool) : |signOf neg| = 1 := by cases neg <;> simp [signOf]

theorem FVal.rat_fin (neg : Bool) (m : Nat) (e : Int) : ((FVal.fin neg m e).rat : ℝ) = signOf neg * (m * 2 ^ e) := by
  cases neg <;> simp [FVal.rat, signOf]

/-! ## The nearest pattern (R67) -/

theorem unpack_rat {f : Fmt} {mag : Nat} (neg : Bool) (h : mag ≤ f.maxFinite) :
    ((unpack f (withSign f neg mag)).rat : ℝ) = signOf neg * (f.sig mag * 2 ^ (f.unitExp + f.step mag)) := by
  rw [unpack_finite neg h, FVal.rat_fin]

/-- A finite number is a multiple of a power of two that the format reaches, or lies below the normal numbers that have it for their unit. -/
theorem rat_on_grid {f : Fmt} {mag : Nat} (neg : Bool) (h : mag ≤ f.maxFinite) (q : Int) :
    (∃ n : ℤ, ((unpack f (withSign f neg mag)).rat : ℝ) = n * 2 ^ q) ∨
      f.unitExp < q ∧ |((unpack f (withSign f neg mag)).rat : ℝ)| < 2 ^ (q + f.frac) := by
  rw [unpack_rat neg h]
  rcases le_or_gt q (f.unitExp + f.step mag) with hle | hlt
  · refine .inl ⟨(if neg then -1 else 1) * (f.sig mag * 2 ^ (f.unitExp + f.step mag - q).toNat), ?_⟩
    have e : (2 : ℝ) ^ (f.unitExp + f.step mag) = 2 ^ (f.unitExp + f.step mag - q).toNat * 2 ^ q := by
      rw [← zpow_natCast, Int.toNat_of_nonneg (by omega), ← zpow_add₀ (by norm_num), sub_add_cancel]
    rw [e]
    cases neg <;> simp [signOf] <;> ring
  · refine .inr ⟨by omega, ?_⟩
    have hs : (f.sig mag : ℝ) < 2 ^ (f.frac + 1) := by exact_mod_cast f.sig_lt mag
    rw [abs_mul, abs_signOf, one_mul, abs_of_nonneg (by positivity)]
    calc (f.sig mag : ℝ) * 2 ^ (f.unitExp + f.step mag)
        < 2 ^ (f.frac + 1) * 2 ^ (f.unitExp + f.step mag) := by gcongr
      _ = 2 ^ (f.frac + 1 + (f.unitExp + f.step mag)) := by rw [← zpow_natCast, ← zpow_add₀ (by norm_num)]; push_cast; rfl
      _ ≤ 2 ^ (q + f.frac) := zpow_le_zpow_right₀ (by norm_num) (by omega)

/-- No multiple of the unit lies nearer to a than the rounded one, nor does a number below the unit's normal numbers where a is one of them. -/
theorem NearestEven.nearest_value {r k : Nat} {q : Int} {a v : ℝ} (h : NearestEven r (a / 2 ^ q))
    (hv : (∃ n : ℤ, v = n * 2 ^ q) ∨ |v| < 2 ^ (q + k) ∧ 2 ^ (q + k) ≤ a) :
    |r * 2 ^ q - a| ≤ |v - a| ∧ (|r * 2 ^ q - a| = |v - a| → v ≠ r * 2 ^ q → r % 2 = 0) := by
  have hp : (0 : ℝ) < 2 ^ q := by positivity
  have scale : ∀ z : ℝ, |z * 2 ^ q - a| = |z - a / 2 ^ q| * 2 ^ q := fun z => by
    rw [← abs_of_pos hp, ← abs_mul, abs_of_pos hp, sub_mul, div_mul_cancel₀ _ hp.ne']
  rcases hv with ⟨n, rfl⟩ | ⟨hlt, hle⟩
  · obtain ⟨h1, h2⟩ := h.nearest n
    rw [scale, scale]
    refine ⟨by gcongr, fun e hne => h2 (mul_right_cancel₀ hp.ne' e) fun q => hne (by rw [q])⟩
  · have h1 := (h.nearest (2 ^ k : Nat)).1
    have h2 : |(r : ℝ) * 2 ^ q - a| ≤ a - 2 ^ (q + k) := by
      have e : (((2 ^ k : Nat) : ℤ) : ℝ) * 2 ^ q = 2 ^ (q + k) := by
        rw [zpow_add₀ (by norm_num), zpow_natCast]; push_cast; ring
      calc |(r : ℝ) * 2 ^ q - a| ≤ |(((2 ^ k : Nat) : ℤ) : ℝ) * 2 ^ q - a| := by rw [scale, scale]; gcongr
        _ = a - 2 ^ (q + k) := by rw [e, abs_of_nonpos (by linarith), neg_sub]
    have h3 : a - 2 ^ (q + k) < |v - a| := by
      have := neg_abs_le (v - a)
      have := le_abs_self v
      linarith
    exact ⟨by linarith, fun e => absurd e (by linarith)⟩

/-- a is rounded to r units of 2^q in a format: a power of two that the format reaches, and the subnormal unit or that of a normal number. -/
structure RoundedAt (f : Fmt) (a : ℝ) (q : Int) (r : Nat) : Prop where
  unit   : f.unitExp ≤ q
  near   : NearestEven r (a / 2 ^ q)
  upper  : r ≤ 2 ^ (f.frac + 1)
  normal : q = f.unitExp ∨ 2 ^ f.frac ≤ r ∧ 2 ^ (q + f.frac) ≤ a

/-- The magnitude that stands for r units of 2^q. -/
def Fmt.magAt (f : Fmt) (q : Int) (r : Nat) : Nat := (q - f.unitExp).toNat * 2 ^ f.frac + r

theorem Fmt.magAt_mod_two (f : Fmt) (q : Int) (r : Nat) : f.magAt q r % 2 = r % 2 := by
  have h : 2 ^ f.frac % 2 = 0 := by cases f <;> rfl
  simp [Fmt.magAt, Nat.add_mod, Nat.mul_mod, h]

theorem RoundedAt.carry {f : Fmt} {a : ℝ} {q : Int} {r : Nat} (h : RoundedAt f a q r) : (q - f.unitExp).toNat = 0 ∨ 2 ^ f.frac ≤ r :=
  h.normal.imp (by rintro rfl; simp) And.left

theorem RoundedAt.rat_eq {f : Fmt} {a : ℝ} {q : Int} {r : Nat} (h : RoundedAt f a q r) (neg : Bool) (hm : f.magAt q r ≤ f.maxFinite) :
    ((unpack f (withSign f neg (f.magAt q r))).rat : ℝ) = signOf neg * (r * 2 ^ q) := by
  have key : (f.sig (f.magAt q r) : ℝ) * 2 ^ f.step (f.magAt q r) = r * 2 ^ (q - f.unitExp).toNat := by
    exact_mod_cast f.sig_mul_step h.upper h.carry
  have hq := h.unit
  rw [unpack_rat neg hm, add_comm, zpow_add₀ (by norm_num), zpow_natCast, ← mul_assoc (f.sig _ : ℝ), key, mul_assoc (r : ℝ), ← zpow_natCast,
    Int.toNat_of_nonneg (by omega), ← zpow_add₀ (by norm_num), sub_add_cancel]

theorem signOf_mul_self (neg : Bool) : signOf neg * signOf neg = 1 := by cases neg <;> simp [signOf]

/-- A sign moves from one side of a distance to the other. -/
theorem abs_sub_signOf_mul (neg : Bool) (v a : ℝ) : |v - signOf neg * a| = |signOf neg * v - a| := by
  have e : v - signOf neg * a = signOf neg * (signOf neg * v - a) := by
    rw [mul_sub, ← mul_assoc, signOf_mul_self, one_mul]
  rw [e, abs_mul, abs_signOf, one_mul]

/-- No finite pattern lies nearer to the exact number than the rounded one, and where one lies as near the rounded one is even. -/
theorem RoundedAt.nearest {f : Fmt} {a : ℝ} {q : Int} {r : Nat} (h : RoundedAt f a q r) (neg : Bool) (hm : f.magAt q r ≤ f.maxFinite) {y : Nat}
    (hy : y < 2 ^ f.width) (hfin : (unpack f y).isFin = true) :
    |((unpack f (withSign f neg (f.magAt q r))).rat : ℝ) - signOf neg * a| ≤ |((unpack f y).rat : ℝ) - signOf neg * a| ∧
      (|((unpack f (withSign f neg (f.magAt q r))).rat : ℝ) - signOf neg * a| = |((unpack f y).rat : ℝ) - signOf neg * a| →
        (unpack f y).rat ≠ (unpack f (withSign f neg (f.magAt q r))).rat → withSign f neg (f.magAt q r) % 2 = 0) := by
  obtain ⟨neg', mag, hlt, rfl⟩ := f.exists_withSign hy
  have hgrid := rat_on_grid neg' ((isFin_unpack neg' hlt).1 hfin) q
  have hval := h.rat_eq neg hm
  have hcast : (unpack f (withSign f neg' mag)).rat ≠ (unpack f (withSign f neg (f.magAt q r))).rat →
      signOf neg * ((unpack f (withSign f neg' mag)).rat : ℝ) ≠ r * 2 ^ q := fun hne e => hne <| by
    have : ((unpack f (withSign f neg' mag)).rat : ℝ) = (unpack f (withSign f neg (f.magAt q r))).rat := by
      rw [hval, ← e, ← mul_assoc, signOf_mul_self, one_mul]
    exact_mod_cast this
  rw [withSign_mod_two, Fmt.magAt_mod_two, abs_sub_signOf_mul, abs_sub_signOf_mul, hval, ← mul_assoc, signOf_mul_self, one_mul]
  have hgrid' : (∃ n : ℤ, signOf neg * ((unpack f (withSign f neg' mag)).rat : ℝ) = n * 2 ^ q) ∨
      |signOf neg * ((unpack f (withSign f neg' mag)).rat : ℝ)| < 2 ^ (q + f.frac) ∧ 2 ^ (q + f.frac) ≤ a := by
    refine hgrid.imp ?_ fun ⟨hq, hv⟩ => ⟨by rwa [abs_mul, abs_signOf, one_mul], (h.normal.resolve_left hq.ne').2⟩
    rintro ⟨n, hn⟩
    refine ⟨(if neg then -1 else 1) * n, ?_⟩
    rw [hn]
    cases neg <;> simp [signOf]
  obtain ⟨h1, h2⟩ := h.near.nearest_value hgrid'
  exact ⟨h1, fun e hne => h2 e (hcast hne)⟩

/-! ## Overflow and tininess (R68, R69) -/

/-- The exponent of the unit of the largest finite number. -/
def Fmt.topExp (f : Fmt) : Int := f.unitExp + f.step f.maxFinite

theorem Fmt.sig_maxFinite (f : Fmt) : f.sig f.maxFinite = if f = .e4m3 then 14 else 2 ^ (f.frac + 1) - 1 := by cases f <;> rfl

theorem Fmt.maxFinite_eq (f : Fmt) : f.maxFinite = f.step f.maxFinite * 2 ^ f.frac + f.sig f.maxFinite := by cases f <;> rfl

theorem Fmt.sig_maxFinite_ge (f : Fmt) : 2 ^ f.frac ≤ f.sig f.maxFinite := by cases f <;> decide

/-- The middle above the largest number of k bits in units of 2^(n+1). -/
theorem middle_le_iff (k n : Nat) (y : ℝ) : 2 ^ (k + (n + 1)) - 2 ^ n ≤ y ↔ 2 ^ k - 1 / 2 ≤ y / 2 ^ ((n + 1 : Nat) : Int) := by
  rw [zpow_natCast, le_div_iff₀ (by positivity), pow_add, pow_succ (2 : ℝ) n]
  ring_nf

/-- Overflow in units of the largest finite number: it begins in the middle above that number, with the middle itself where the number is odd. -/
theorem overflows_iff (f : Fmt) (x : ℝ) :
    Overflows f x ↔ if f = .e4m3 then 29 / 2 < |x| / 2 ^ f.topExp else 2 ^ (f.frac + 1) - 1 / 2 ≤ |x| / 2 ^ f.topExp := by
  cases f with
  | fp64 => exact middle_le_iff 53 970 |x|
  | fp32 => exact middle_le_iff 24 103 |x|
  | fp16 =>
    have e : (65520 : ℝ) = 2 ^ (11 + (4 + 1)) - 2 ^ 4 := by norm_num
    rw [Overflows, e]
    exact middle_le_iff 11 4 |x|
  | bf16 => exact middle_le_iff 8 119 |x|
  | e4m3 =>
    rw [if_pos rfl, show Fmt.e4m3.topExp = ((5 : Nat) : Int) from rfl, zpow_natCast, lt_div_iff₀ (by norm_num)]
    norm_num [Overflows]
  | e5m2 =>
    have e : (61440 : ℝ) = 2 ^ (3 + (12 + 1)) - 2 ^ 12 := by norm_num
    rw [Overflows, e]
    exact middle_le_iff 3 12 |x|

theorem overflows_of_ge {f : Fmt} {a : ℝ} (h : 2 ^ (f.topExp + f.frac + 1) ≤ a) : Overflows f a := by
  have hu : (2 : ℝ) ^ (f.frac + 1) ≤ |a| / 2 ^ f.topExp := by
    rw [le_div_iff₀ (by positivity), ← zpow_natCast, ← zpow_add₀ (by norm_num)]
    refine le_trans (le_of_eq ?_) (h.trans (le_abs_self a))
    congr 1; push_cast; ring
  rw [overflows_iff]
  split
  next hf => subst hf; norm_num [Fmt.frac] at hu; linarith
  next => linarith

theorem not_overflows_of_lt {f : Fmt} {a : ℝ} (h0 : 0 ≤ a) (h : a < 2 ^ (f.topExp + f.frac)) : ¬ Overflows f a := by
  have hu : |a| / 2 ^ f.topExp < 2 ^ f.frac := by
    rw [div_lt_iff₀ (by positivity), ← zpow_natCast, ← zpow_add₀ (by norm_num), abs_of_nonneg h0, add_comm]
    exact h
  rw [overflows_iff]
  split
  next hf => subst hf; norm_num [Fmt.frac] at hu; linarith
  next =>
    have : (1 : ℝ) ≤ 2 ^ f.frac := one_le_pow₀ (by norm_num)
    rw [pow_succ]; linarith

/-- Rounded in the unit of the largest finite number, a number exceeds that number exactly if it overflows. -/
theorem sig_maxFinite_lt_iff {f : Fmt} {a : ℝ} {r : Nat} (h0 : 0 ≤ a) (h : NearestEven r (a / 2 ^ f.topExp)) :
    f.sig f.maxFinite < r ↔ Overflows f a := by
  rw [overflows_iff, f.sig_maxFinite, abs_of_nonneg h0]
  split
  next =>
    rw [← Nat.succ_le_iff, h.odd_le_iff rfl]
    norm_num
  next =>
    have hpos := Nat.two_pow_pos (f.frac + 1)
    rw [show 2 ^ (f.frac + 1) - 1 < r ↔ 2 ^ (f.frac + 1) ≤ r by omega, h.even_le_iff (by rw [pow_succ]; omega)]
    push_cast; rfl

/-- A rounded number exceeds the largest finite pattern exactly if it overflows. -/
theorem RoundedAt.maxFinite_lt_iff {f : Fmt} {a : ℝ} {q : Int} {r : Nat} (h : RoundedAt f a q r) (h0 : 0 ≤ a) (hlt : a < 2 ^ (q + f.frac + 1)) :
    f.maxFinite < f.magAt q r ↔ Overflows f a := by
  have hunit := h.unit
  have hupper := h.upper
  have hmax := f.maxFinite_eq
  have hge := f.sig_maxFinite_ge
  have hsig := f.sig_lt f.maxFinite
  rw [pow_succ] at hupper hsig
  have htop : f.topExp = f.unitExp + f.step f.maxFinite := rfl
  rcases lt_trichotomy q f.topExp with hq | rfl | hq
  · have hstep : ((q - f.unitExp).toNat + 1) * 2 ^ f.frac ≤ f.step f.maxFinite * 2 ^ f.frac := Nat.mul_le_mul_right _ (by omega)
    refine iff_of_false ?_ (not_overflows_of_lt h0 (hlt.trans_le (zpow_le_zpow_right₀ (by norm_num) (by omega))))
    unfold Fmt.magAt
    rw [Nat.succ_mul] at hstep
    omega
  · rw [← sig_maxFinite_lt_iff h0 h.near]
    unfold Fmt.magAt
    rw [show (f.topExp - f.unitExp).toNat = f.step f.maxFinite by omega]
    omega
  · have hstep : (f.step f.maxFinite + 1) * 2 ^ f.frac ≤ (q - f.unitExp).toNat * 2 ^ f.frac := Nat.mul_le_mul_right _ (by omega)
    obtain ⟨hr, ha⟩ := h.normal.resolve_left (by omega)
    refine iff_of_true ?_ (overflows_of_ge ((zpow_le_zpow_right₀ (by norm_num) (by omega)).trans ha))
    unfold Fmt.magAt
    rw [Nat.succ_mul] at hstep
    omega

/-- Tininess after rounding with an unbounded exponent: the number lies below the smallest normal one and is not rounded up to it. -/
theorem isTiny_iff {f : Fmt} {a : ℝ} {top : Int} {r : Nat} (hlo : 2 ^ top ≤ a) (hhi : a < 2 ^ (top + 1))
    (h : NearestEven r (a / 2 ^ (top - f.frac))) : IsTiny f a ↔ top < 1 - (f.bias : Int) ∧ ¬ (top = -(f.bias : Int) ∧ 2 ^ (f.frac + 1) ≤ r) := by
  have h0 : (0 : ℝ) < 2 ^ (1 - (f.bias : Int)) := by positivity
  have hmid : (0 : ℝ) < 2 ^ (-(f.frac : Int) - 2) := by positivity
  have hquarter : (2 : ℝ) ^ (-(f.frac : Int) - 2) ≤ 1 / 4 :=
    (zpow_le_zpow_right₀ (by norm_num) (by omega : -(f.frac : Int) - 2 ≤ -2)).trans (by norm_num)
  have hpos : (0 : ℝ) ≤ a := (by positivity : (0 : ℝ) ≤ 2 ^ top).trans hlo
  unfold IsTiny
  rw [abs_of_nonneg hpos]
  rcases lt_trichotomy top (-(f.bias : Int)) with ht | rfl | ht
  · refine iff_of_true ?_ ⟨by omega, fun q => ht.ne q.1⟩
    have h1 : (2 : ℝ) ^ (top + 1) ≤ 2 ^ (-(f.bias : Int)) := zpow_le_zpow_right₀ (by norm_num) (by omega)
    have h2 : (2 : ℝ) ^ (1 - (f.bias : Int)) = 2 * 2 ^ (-(f.bias : Int)) := by
      rw [sub_eq_add_neg, zpow_add₀ (by norm_num), zpow_one]
    nlinarith
  · have e : (2 : ℝ) ^ (1 - (f.bias : Int)) * (1 - 2 ^ (-(f.frac : Int) - 2)) =
        (((2 ^ (f.frac + 1) : Nat) : ℝ) - 1 / 2) * 2 ^ (-(f.bias : Int) - f.frac) := by
      rw [show (1 - (f.bias : Int)) = (-(f.bias : Int) - f.frac) + f.frac + 1 by ring, zpow_add_one₀ (by norm_num), zpow_add₀ (by norm_num),
        zpow_sub₀ (by norm_num), zpow_sub₀ (by norm_num) (-(f.frac : Int)), zpow_neg (2 : ℝ) (f.frac : Int), zpow_natCast]
      push_cast
      rw [pow_succ]
      field_simp
    rw [e, ← not_le, ← le_div_iff₀ (by positivity), ← h.even_le_iff (by rw [pow_succ]; omega)]
    exact ⟨fun q => ⟨by omega, fun q' => q q'.2⟩, fun q q' => q.2 ⟨rfl, q'⟩⟩
  · refine iff_of_false (not_lt.2 ?_) fun q => by omega
    have h1 : (2 : ℝ) ^ (1 - (f.bias : Int)) ≤ 2 ^ top := zpow_le_zpow_right₀ (by norm_num) (by omega)
    nlinarith

/-! ## One rounding (R67 to R69) -/

theorem signOf_mul_neg_iff (neg : Bool) {a : ℝ} (h : 0 < a) : neg = true ↔ signOf neg * a < 0 := by
  cases neg <;> simp [signOf, h, h.le]

theorem overflows_signOf_mul (f : Fmt) (neg : Bool) (a : ℝ) : Overflows f (signOf neg * a) ↔ Overflows f a := by
  simp only [overflows_iff, abs_mul, abs_signOf, one_mul]

theorem isTiny_signOf_mul (f : Fmt) (neg : Bool) (a : ℝ) : IsTiny f (signOf neg * a) ↔ IsTiny f a := by
  simp only [IsTiny, abs_mul, abs_signOf, one_mul]

/-- The flags of a rounding that does not overflow: none where it is exact, and UF beside NX where the number is tiny (R69). -/
structure FlagsOf (f : Fmt) (a v : ℝ) (fl : BitVec 5) : Prop where
  exact  : v = a → fl = 0
  tiny   : v ≠ a → IsTiny f a → fl = flUF ||| flNX
  normal : v ≠ a → ¬ IsTiny f a → fl = flNX

theorem RoundedAt.roundsTo {f : Fmt} {a : ℝ} {q : Int} {r : Nat} {fl : BitVec 5} (h : RoundedAt f a q r) (neg : Bool) (h0 : 0 < a)
    (hno : ¬ Overflows f a) (hm : f.magAt q r ≤ f.maxFinite) (hfl : FlagsOf f a (r * 2 ^ q) fl) :
    RoundsTo f (signOf neg * a) (withSign f neg (f.magAt q r), fl) := by
  have hval : ∀ v : ℝ, signOf neg * v = signOf neg * a ↔ v = a := fun v =>
    mul_right_inj' fun e => by have := signOf_mul_self neg; simp [e] at this
  exact {
    width := withSign_lt neg (hm.trans_lt f.maxFinite_lt)
    sign := by rw [isNeg_unpack neg (.inl hm), signOf_mul_neg_iff neg h0]
    overflow := fun ho => absurd ((overflows_signOf_mul f neg a).1 ho) hno
    finite := fun _ => (isFin_unpack neg (hm.trans_lt f.maxFinite_lt)).2 hm
    nearest := fun _ y hy hfin => h.nearest neg hm hy hfin
    exact := fun _ e => hfl.exact ((hval _).1 (by rw [← h.rat_eq neg hm]; exact e))
    inexact := fun _ hne => by
      have hne' : (r : ℝ) * 2 ^ q ≠ a := fun e => hne (by rw [h.rat_eq neg hm, e])
      rw [isTiny_signOf_mul]
      exact ⟨hfl.tiny hne', hfl.normal hne'⟩ }

/-- What an overflow delivers (R68). -/
theorem overflowBits_cases (f : Fmt) : overflowBits f .standard ≤ f.maxFinite ∨ overflowBits f .standard = f.infBits := by
  unfold overflowBits; split
  · exact .inl le_rfl
  · exact .inr rfl

theorem roundsTo_of_overflows {f : Fmt} {a : ℝ} (neg : Bool) (h0 : 0 < a) (h : Overflows f a) :
    RoundsTo f (signOf neg * a) (withSign f neg (overflowBits f .standard), flOF ||| flNX) := by
  have hlt : overflowBits f .standard < f.signBit :=
    (overflowBits_cases f).elim (·.trans_lt f.maxFinite_lt) (·.trans_lt f.infBits_lt)
  have ho := (overflows_signOf_mul f neg a).2 h
  exact {
    width := withSign_lt neg hlt
    sign := by rw [isNeg_unpack neg (overflowBits_cases f), signOf_mul_neg_iff neg h0]
    overflow := fun _ => ⟨rfl, by rw [withSign_mod neg hlt]; simp [overflowBits]⟩
    finite := fun hno => absurd ho hno
    nearest := fun hno => absurd ho hno
    exact := fun hno => absurd ho hno
    inexact := fun hno => absurd ho hno }

theorem Fmt.topExp_le (f : Fmt) : f.topExp + f.frac ≤ f.expMax - f.bias := by cases f <;> decide

/-- `roundFin` in terms of `roundAt`: too large, too small, or rounded in the unit of its own exponent or of the subnormal numbers. -/
theorem roundFin_eq (f : Fmt) (o : Overflow) (neg : Bool) (m : Nat) (e : Int) (sticky : Bool) :
    roundFin f o neg m e sticky =
      let top : Int := (Nat.log2 m : Int) + e
      let q := max (top - f.frac) f.unitExp
      let r := roundAt m e q sticky
      if (f.expMax : Int) - f.bias + 1 < top then (withSign f neg (overflowBits f o), flOF ||| flNX)
      else if top < f.unitExp - 1 then (withSign f neg 0, flUF ||| flNX)
      else if f.maxFinite < f.magAt q r.1 then (withSign f neg (overflowBits f o), flOF ||| flNX)
      else (withSign f neg (f.magAt q r.1),
        if r.2 then
          if top < 1 - (f.bias : Int) ∧ ¬ (top = -(f.bias : Int) ∧ 2 ^ (f.frac + 1) ≤ (roundAt m e (top - f.frac) sticky).1) then flUF ||| flNX
          else flNX
        else 0) := by
  have hr : ∀ q : Int, (if q ≤ e then m * 2 ^ (e - q).toNat else (roundShift m (q - e).toNat sticky).1) = (roundAt m e q sticky).1 := fun q => by
    unfold roundAt; split <;> rfl
  have ht : ∀ a b c : Prop, [Decidable a] → [Decidable b] → [Decidable c] → ((decide a && !(decide b && decide c)) = true ↔ a ∧ ¬ (b ∧ c)) := by
    intros; simp [imp_iff_not_or]
  unfold roundFin
  simp only [hr, ht]
  rfl

theorem zpow_log2_le {m : Nat} {sticky : Bool} {y : ℝ} {e : Int} (hm : m ≠ 0) (h : Sticks m sticky y) :
    (2 : ℝ) ^ ((Nat.log2 m : Int) + e) ≤ y * 2 ^ e ∧ y * 2 ^ e < 2 ^ ((Nat.log2 m : Int) + e + 1) := by
  have h1 : ((2 ^ Nat.log2 m : Nat) : ℝ) ≤ m := by exact_mod_cast Nat.log2_self_le hm
  have h2 : (m : ℝ) + 1 ≤ (2 ^ (Nat.log2 m + 1) : Nat) := by exact_mod_cast Nat.lt_log2_self
  have hge := h.ge
  have hlt := h.lt
  push_cast at h1 h2
  constructor
  · rw [zpow_add₀ (by norm_num), zpow_natCast]
    gcongr; linarith
  · rw [add_right_comm, zpow_add₀ (by norm_num), ← Nat.cast_add_one, zpow_natCast]
    gcongr; linarith

/-- A number between two powers of two, rounded in the unit of its exponent or in that of the subnormal numbers. -/
theorem roundedAt_of_top {f : Fmt} {a : ℝ} {top : Int} {r : Nat} (hlo : 2 ^ top ≤ a) (hhi : a < 2 ^ (top + 1))
    (h : NearestEven r (a / 2 ^ max (top - f.frac) f.unitExp)) : RoundedAt f a (max (top - f.frac) f.unitExp) r where
  unit := le_max_right _ _
  near := h
  upper := h.le_of_le <| by
    rw [div_le_iff₀ (by positivity)]
    push_cast
    rw [← zpow_natCast, ← zpow_add₀ (by norm_num)]
    exact hhi.le.trans (zpow_le_zpow_right₀ (by norm_num) (by push_cast; omega))
  normal := by
    rcases le_total (top - f.frac) f.unitExp with hle | hge
    · exact .inl (max_eq_right hle)
    · rw [max_eq_left hge] at h ⊢
      have e : (2 : ℝ) ^ (top - f.frac + f.frac) ≤ a := by rwa [sub_add_cancel]
      refine .inr ⟨h.ge_of_ge ?_, e⟩
      rw [le_div_iff₀ (by positivity)]
      push_cast
      rwa [← zpow_natCast, ← zpow_add₀ (by norm_num), add_comm]

/-- A number below half the smallest subnormal one is rounded to 0. -/
theorem roundedAt_zero {f : Fmt} {a : ℝ} (h0 : 0 < a) (h : a < 2 ^ (f.unitExp - 1)) : RoundedAt f a f.unitExp 0 where
  unit := le_rfl
  near := by
    have hhalf : a < 2 ^ f.unitExp / 2 := by rwa [zpow_sub_one₀ (by norm_num), ← div_eq_mul_inv] at h
    exact nearestEven_down (by positivity) (by simpa using h0.le) (by simpa using hhalf.le) fun _ => rfl
  upper := Nat.zero_le _
  normal := .inl rfl

/-- The one rounding of a nonzero number, which is m * 2^e or, with the sticky bit, lies above it: to nearest, ties to even, with the flags of R68 and
R69. The sticky bit needs an m of more bits than the format's. -/
theorem roundFin_roundsTo (f : Fmt) (neg : Bool) {m : Nat} (e : Int) {sticky : Bool} {y : ℝ} (hm : m ≠ 0) (hy : Sticks m sticky y)
    (hs : sticky = true → f.frac < Nat.log2 m) : RoundsTo f (signOf neg * (y * 2 ^ e)) (roundFin f .standard neg m e sticky) := by
  obtain ⟨hlo, hhi⟩ := zpow_log2_le (e := e) hm hy
  have near : ∀ q, (Nat.log2 m : Int) + e - f.frac ≤ q → _ := fun q hq => roundAt_nearestEven (e := e) (q := q) hy fun q' => by
    have := hs q'; omega
  rw [roundFin_eq]
  generalize htop : (Nat.log2 m : Int) + e = top at *
  generalize y * 2 ^ e = a at *
  have h0 : 0 < a := (by positivity : (0 : ℝ) < 2 ^ top).trans_le hlo
  dsimp only
  split
  next hbig =>
    have hexp := f.topExp_le
    exact roundsTo_of_overflows neg h0 (overflows_of_ge ((zpow_le_zpow_right₀ (by norm_num) (by omega)).trans hlo))
  next hbig =>
    obtain ⟨hr', -⟩ := near _ le_rfl
    have htiny := isTiny_iff hlo hhi hr'
    split
    next hsmall =>
      have hrd := roundedAt_zero (f := f) h0 (hhi.trans_le (zpow_le_zpow_right₀ (by norm_num) (by omega)))
      have hfits := hrd.maxFinite_lt_iff h0.le (hhi.trans_le (zpow_le_zpow_right₀ (by norm_num) (by omega)))
      have hmag : f.magAt f.unitExp 0 = 0 := by simp [Fmt.magAt]
      rw [hmag] at hfits
      have hfl : FlagsOf f a ((0 : Nat) * 2 ^ f.unitExp) (flUF ||| flNX) :=
        ⟨fun q => by simp [h0.ne] at q, fun _ _ => rfl, fun _ q => by unfold Fmt.unitExp at hsmall; exact absurd (htiny.2 (by omega)) q⟩
      have := hrd.roundsTo neg h0 (fun ho => absurd (hfits.2 ho) (Nat.not_lt_zero _)) (by rw [hmag]; exact Nat.zero_le _) hfl
      rwa [hmag] at this
    next hsmall =>
      obtain ⟨hr, hlost⟩ := near _ (le_max_left _ f.unitExp)
      have hrd := roundedAt_of_top hlo hhi hr
      have hfits := hrd.maxFinite_lt_iff h0.le (hhi.trans_le (zpow_le_zpow_right₀ (by norm_num) (by omega)))
      split
      next hov => exact roundsTo_of_overflows neg h0 (hfits.1 hov)
      next hov =>
        refine hrd.roundsTo neg h0 (fun ho => hov (hfits.2 ho)) (not_lt.1 hov) ?_
        rw [ne_eq, eq_div_iff (by positivity)] at hlost
        split
        next hl =>
          exact ⟨fun q => absurd q (hlost.1 hl), fun _ q => if_pos (htiny.1 q), fun _ q => if_neg (mt htiny.2 q)⟩
        next hl =>
          have := not_not.1 (mt hlost.2 hl)
          exact ⟨fun _ => rfl, fun q => absurd this q, fun q => absurd this q⟩

/-! ## Exact sums and products (R8, R70, R71) -/

theorem FVal.rat_eq_zero_iff (neg : Bool) (m : Nat) (e : Int) : (FVal.fin neg m e).rat = 0 ↔ m = 0 := by
  cases neg <;> simp [FVal.rat, zpow_ne_zero]

theorem FVal.rat_fin_eq (neg : Bool) (m : Nat) (e : Int) : (FVal.fin neg m e).rat = signedNat neg m * 2 ^ e := by
  cases neg <;> simp [FVal.rat, signedNat]

theorem ofDyadic_rat (n e : Int) : (ofDyadic n e).rat = n * 2 ^ e := by
  rw [ofDyadic, FVal.rat_fin_eq]
  congr 2
  unfold signedNat
  split
  next h => simp only [decide_eq_true_eq] at h; omega
  next h => simp only [decide_eq_true_eq] at h; omega

/-- A signed number at a lower exponent. -/
theorem signedNat_shift (neg : Bool) (m : Nat) {e e' : Int} (h : e' ≤ e) :
    ((signedNat neg (m * 2 ^ (e - e').toNat) : ℤ) : ℚ) * 2 ^ e' = signedNat neg m * 2 ^ e := by
  have e1 : (2 : ℚ) ^ e = 2 ^ (e - e').toNat * 2 ^ e' := by
    rw [← zpow_natCast, Int.toNat_of_nonneg (by omega), ← zpow_add₀ (by norm_num), sub_add_cancel]
  rw [e1]
  cases neg <;> simp [signedNat] <;> ring

/-- The sum of finite numbers is exact, and a zero sum is -0 only of two numbers -0. -/
theorem addFin_spec (n1 : Bool) (m1 : Nat) (e1 : Int) (n2 : Bool) (m2 : Nat) (e2 : Int) :
    (addFin n1 m1 e1 n2 m2 e2).isFin = true ∧
    (addFin n1 m1 e1 n2 m2 e2).rat = (FVal.fin n1 m1 e1).rat + (FVal.fin n2 m2 e2).rat ∧
    ((addFin n1 m1 e1 n2 m2 e2).rat = 0 → ((addFin n1 m1 e1 n2 m2 e2).isNeg = true ↔ n1 = true ∧ n2 = true ∧ m1 = 0 ∧ m2 = 0)) := by
  have hsum : ((signedNat n1 (m1 * 2 ^ (e1 - min e1 e2).toNat) + signedNat n2 (m2 * 2 ^ (e2 - min e1 e2).toNat) : ℤ) : ℚ) * 2 ^ min e1 e2 =
      (FVal.fin n1 m1 e1).rat + (FVal.fin n2 m2 e2).rat := by
    rw [Int.cast_add, add_mul, signedNat_shift n1 m1 (min_le_left _ _), signedNat_shift n2 m2 (min_le_right _ _), FVal.rat_fin_eq, FVal.rat_fin_eq]
  unfold addFin
  dsimp only
  split
  next h0 =>
    rw [h0, Int.cast_zero, zero_mul] at hsum
    exact ⟨rfl, by rw [← hsum, FVal.rat_eq_zero_iff], fun _ => by simp [FVal.isNeg, and_assoc]⟩
  next h0 =>
    refine ⟨rfl, by rw [ofDyadic_rat, hsum], fun hz => ?_⟩
    rw [ofDyadic_rat, mul_eq_zero_iff_right (by positivity)] at hz
    exact absurd (Int.cast_eq_zero.1 hz) h0

theorem mulX_fin_rat (n1 : Bool) (m1 : Nat) (e1 : Int) (n2 : Bool) (m2 : Nat) (e2 : Int) :
    (mulX (.fin n1 m1 e1) (.fin n2 m2 e2)).rat = (FVal.fin n1 m1 e1).rat * (FVal.fin n2 m2 e2).rat := by
  simp only [mulX, FVal.rat_fin_eq, zpow_add₀ (two_ne_zero (α := ℚ))]
  cases n1 <;> cases n2 <;> simp [signedNat] <;> ring

theorem FVal.exists_nan {a : FVal} (h : a.isNaN = true) : ∃ q, a = .nan q := by
  cases a with
  | nan q => exact ⟨q, rfl⟩
  | inf _ => cases h
  | fin _ _ _ => cases h

/-- A NaN on the right decides the sum and the product as one on the left does. -/
theorem addX_mulX_nan_right (a : FVal) (q : Bool) : addX a (.nan q) = .nan (a.signals || q) ∧ mulX a (.nan q) = .nan (a.signals || q) := by
  cases a with
  | nan s => exact ⟨rfl, rfl⟩
  | inf _ => exact ⟨congrArg FVal.nan (Bool.or_comm q false), congrArg FVal.nan (Bool.or_comm q false)⟩
  | fin _ _ _ => exact ⟨congrArg FVal.nan (Bool.or_comm q false), congrArg FVal.nan (Bool.or_comm q false)⟩

theorem addX_mulX_nan {a b : FVal} (h : a.isNaN = true ∨ b.isNaN = true) :
    addX a b = .nan (a.signals || b.signals) ∧ mulX a b = .nan (a.signals || b.signals) := by
  rcases h with h | h
  · obtain ⟨q, rfl⟩ := FVal.exists_nan h
    exact ⟨rfl, rfl⟩
  · obtain ⟨q, rfl⟩ := FVal.exists_nan h
    exact addX_mulX_nan_right a q

theorem FVal.exists_fin {a : FVal} (h : a.isFin = true) : ∃ n m e, a = .fin n m e := by
  cases a with
  | fin n m e => exact ⟨n, m, e, rfl⟩
  | nan _ => cases h
  | inf _ => cases h

/-- Settles O4: the rounding is `roundFin_roundsTo` without a sticky bit, sums are `addFin_spec`, and the rest is the special cases of R66 and R71. -/
theorem exactResultsRoundOnceToNearestEven : Obligations.ExactResultsRoundOnceToNearestEven := by
  unfold Obligations.ExactResultsRoundOnceToNearestEven
  refine ⟨fun f neg m e hm => ?_, fun a b ha hb => ?_, fun a b h => addX_mulX_nan h, fun a n n' ha => ?_, fun f q n e => ?_, rfl, rfl⟩
  · rw [FVal.rat_fin, rne, pack, if_neg hm]
    exact roundFin_roundsTo f neg e hm ⟨fun _ => rfl, nofun⟩ nofun
  · obtain ⟨n1, m1, e1, rfl⟩ := FVal.exists_fin ha
    obtain ⟨n2, m2, e2, rfl⟩ := FVal.exists_fin hb
    obtain ⟨hfin, hrat, hneg⟩ := addFin_spec n1 m1 e1 n2 m2 e2
    refine ⟨hfin, hrat, rfl, mulX_fin_rat .., ?_, rfl⟩
    rw [FVal.rat_eq_zero_iff, FVal.rat_eq_zero_iff]
    exact hneg
  · obtain ⟨n1, m1, e1, rfl⟩ := FVal.exists_fin ha
    simp only [FVal.rat_eq_zero_iff]
    exact ⟨rfl, rfl, rfl, rfl, rfl, rfl⟩
  · exact ⟨rfl, rfl, rfl⟩

end Sys2Proof.Machine
end

section
/-! PROOFS. System registers (spec/01_machine.md R21, R22, spec/13_control_flow.md R290 to R292): rsys by who holds the register, what a write of each
register changes, and O21. -/

namespace Sys2Proof.Machine

/-! ## The register file as rsys sees it (R21) -/

/-- The registers of R21 that a lane group holds. -/
def Thread.laneReg (th : Thread) (n : Nat) : Word :=
  if n = 0x00 then BitVec.ofNat 64 th.arch.vl
  else if n = 0x01 then th.arch.vtype.setWidth 64
  else if n = 0x02 then BitVec.ofNat 64 th.arch.vlmax
  else if n = 0x03 then th.arch.ml
  else if n = 0x04 then BitVec.ofNat 64 th.arch.acc.length
  else if n = 0x06 then th.arch.ffst
  else if 0x10 ≤ n ∧ n ≤ 0x2F then ((th.arch.prog.toArray.toList)[n - 0x10]?.getD 0).setWidth 64
  else if 0xB0 ≤ n ∧ n ≤ 0xBF then ((th.rfloss.toArray.toList)[n - 0xB0]?.getD 0).setWidth 64
  else 0

/-- The registers of R21 that every thread holds. -/
def Thread.ownReg (th : Thread) (n : Nat) : Word :=
  if n = 0x05 then fflagsImage th.fflags
  else if n = 0x34 then BitVec.ofNat 64 th.ctx.val
  else if n = 0x41 then th.instret
  else if n = 0x50 then th.tcbase
  else if n = 0x51 then th.htbase
  else if n = 0x52 then th.farm
  else if n = 0x60 then th.tcause.setWidth 64
  else if n = 0x61 then th.tepc
  else if n = 0x62 then th.tval
  else if n = 0x63 then th.tstatus
  else if n = 0x64 then th.tvec
  else if n = 0x65 then th.tscratch
  else if n = 0x70 then th.ydead
  else if n = 0x71 then th.ystat.setWidth 64
  else if n = 0x80 then th.pgroot
  else if 0xA0 ≤ n ∧ n ≤ 0xA3 then th.arch.lpcAt (n - 0xA0)
  else if 0xA4 ≤ n ∧ n ≤ 0xA7 then th.arch.lcntAt (n - 0xA4)
  else 0

/-- The registers of R21 that tell the thread's place, or that its field or the package holds. -/
def State.placeReg (s : State) (n : Nat) : Word :=
  let f := s.fld (fieldOf (hartOf s.cur))
  if n = 0x30 then BitVec.ofNat 64 (hartOf s.cur).val
  else if n = 0x31 then BitVec.ofNat 64 (quadOf (hartOf s.cur)).val
  else if n = 0x32 then BitVec.ofNat 64 (fieldOf (hartOf s.cur)).val
  else if n = 0x33 then s.devid.setWidth 64
  else if n = 0x35 then BitVec.ofNat 64 (threadOf s.cur)
  else if n = 0x40 then f.cycle
  else if n = 0x90 then f.islim.setWidth 64
  else if n = 0x91 then f.iscur.setWidth 64
  else 0

/-- The numbers of a lane group's registers. -/
def isLaneReg (n : Nat) : Prop :=
  n = 0x00 ∨ n = 0x01 ∨ n = 0x02 ∨ n = 0x03 ∨ n = 0x04 ∨ n = 0x06 ∨ (0x10 ≤ n ∧ n ≤ 0x2F) ∨ (0xB0 ≤ n ∧ n ≤ 0xBF)

/-- The numbers of the registers of a place. -/
def isPlaceReg (n : Nat) : Prop :=
  n = 0x30 ∨ n = 0x31 ∨ n = 0x32 ∨ n = 0x33 ∨ n = 0x35 ∨ n = 0x40 ∨ n = 0x90 ∨ n = 0x91

theorem State.readSys_lane (s : State) {n : Nat} (h : isLaneReg n) : s.readSys n = (s.thr (s.laneOwner s.cur)).laneReg n := by
  rcases h with rfl | rfl | rfl | rfl | rfl | rfl | h | h
  iterate 6 rfl
  · simp (disch := omega) only [State.readSys, Thread.laneReg, if_neg]
  · simp (disch := omega) only [State.readSys, Thread.laneReg, if_neg]

theorem State.readSys_place (s : State) {n : Nat} (h : isPlaceReg n) : s.readSys n = s.placeReg n := by
  rcases h with rfl | rfl | rfl | rfl | rfl | rfl | rfl | rfl <;> rfl

theorem State.readSys_own (s : State) {n : Nat} (h : ¬ isLaneReg n) (h' : ¬ isPlaceReg n) : s.readSys n = (s.thr s.cur).ownReg n := by
  simp only [isLaneReg, isPlaceReg, not_or] at h h'
  simp only [State.readSys, Thread.ownReg, h, h', if_false]

/-- What decides a reading: the lane group's register, the place's or the thread's own. -/
theorem State.readSys_congr {s u : State} {n : Nat} (lane : (u.thr (u.laneOwner u.cur)).laneReg n = (s.thr (s.laneOwner s.cur)).laneReg n)
    (place : u.placeReg n = s.placeReg n) (own : (u.thr u.cur).ownReg n = (s.thr s.cur).ownReg n) : u.readSys n = s.readSys n := by
  by_cases h : isLaneReg n
  · rw [u.readSys_lane h, s.readSys_lane h, lane]
  · by_cases h' : isPlaceReg n
    · rw [u.readSys_place h', s.readSys_place h', place]
    · rw [u.readSys_own h h', s.readSys_own h h', own]

/-! ## A write of one system register -/

@[simp] theorem State.thr_modThr_same (s : State) (t : Tid) (f : Thread → Thread) : (s.modThr t f).thr t = f (s.thr t) := by
  simp [State.modThr]

theorem State.thr_modThr_ne (s : State) {t u : Tid} (f : Thread → Thread) (h : u ≠ t) : (s.modThr t f).thr u = s.thr u :=
  s.thr_setThr_ne _ h

/-- What an update keeps of every thread it keeps of the one that it changes. -/
theorem State.thr_modThr_eq {α : Type} (s : State) (t u : Tid) {f : Thread → Thread} (g : Thread → α) (h : ∀ th, g (f th) = g th) :
    g ((s.modThr t f).thr u) = g (s.thr u) := by
  by_cases e : u = t
  · subst e; rw [s.thr_modThr_same, h]
  · rw [s.thr_modThr_ne f e]

theorem State.laneOwner_modThr (s : State) (t u : Tid) {f : Thread → Thread} (h : ∀ th, (f th).lanes = th.lanes) :
    (s.modThr t f).laneOwner u = s.laneOwner u := by
  unfold State.laneOwner
  rw [s.thr_modThr_eq t u Thread.lanes h]

theorem State.laneOwner_cases (s : State) (t : Tid) : s.laneOwner t = t ∨ s.laneOwner t = tidOf (hartOf t) 0 := by
  unfold State.laneOwner; split
  · exact .inl rfl
  · exact .inr rfl

/-- An update of a thread that changes at most system register k of what rsys, the x registers and the pc show. -/
structure SetsReg (f : Thread → Thread) (k : Nat) : Prop where
  lanes : ∀ th, (f th).lanes = th.lanes := by intro th; rfl
  x     : ∀ th, (f th).arch.x = th.arch.x := by intro th; rfl
  pc    : ∀ th, (f th).arch.pc = th.arch.pc := by intro th; rfl
  lane  : ∀ th n, n ≠ k → (f th).laneReg n = th.laneReg n := by intro th n h; simp only [Thread.laneReg, h, if_false]
  own   : ∀ th n, n ≠ k → (f th).ownReg n = th.ownReg n := by intro th n h; simp only [Thread.ownReg, Arch.lpcAt, Arch.lcntAt, h, if_false]

/-- From s to u system register k has come to read v, every other reads as before, and neither the x registers nor the pc have changed; CF is cleared
with TCBASE (R187), and no thread but the one that writes and its hart's thread 0 is another (assumption 29). -/
structure SysWritten (s u : State) (k : Nat) (v : Word) : Prop where
  value   : u.readSys k = v
  others  : ∀ n, n ≠ k → u.readSys n = s.readSys n
  x       : ∀ r, u.x r = s.x r
  pc      : u.pc = s.pc
  cf      : (u.arch s.cur).cf = if k = 0x50 then false else (s.arch s.cur).cf
  threads : ∀ t, t ≠ s.cur → t ≠ tidOf (hartOf s.cur) 0 → u.thr t = s.thr t

/-- t shows every system register, the x registers, the pc and CF as s does. -/
structure SameSys (s t : State) : Prop where
  cur     : t.cur = s.cur
  reads   : ∀ n, t.readSys n = s.readSys n
  x       : ∀ r, t.x r = s.x r
  pc      : t.pc = s.pc
  cf      : (t.arch s.cur).cf = (s.arch s.cur).cf
  threads : ∀ u, u ≠ s.cur → t.thr u = s.thr u

theorem SameSys.trans {s t u : State} (h : SameSys s t) (h' : SameSys t u) : SameSys s u where
  cur := h'.cur.trans h.cur
  reads n := (h'.reads n).trans (h.reads n)
  x r := (h'.x r).trans (h.x r)
  pc := h'.pc.trans h.pc
  cf := by rw [← h.cf, ← h.cur]; exact h'.cf
  threads v hv := (h'.threads v (by rwa [h.cur])).trans (h.threads v hv)

theorem SysWritten.after {s t u : State} {k : Nat} {v : Word} (h : SameSys s t) (h' : SysWritten t u k v) : SysWritten s u k v where
  value := h'.value
  others n hn := (h'.others n hn).trans (h.reads n)
  x r := (h'.x r).trans (h.x r)
  pc := h'.pc.trans h.pc
  cf := by rw [← h.cf, ← h.cur]; exact h'.cf
  threads w hw hw' := (h'.threads w (by rwa [h.cur]) (by rwa [h.cur])).trans (h.threads w hw)

theorem SetsReg.readSys {f : Thread → Thread} {k n : Nat} (h : SetsReg f k) (hn : n ≠ k) (s : State) (t : Tid) :
    (s.modThr t f).readSys n = s.readSys n := by
  refine State.readSys_congr ?_ rfl (s.thr_modThr_eq t s.cur (·.ownReg n) fun th => h.own th n hn)
  rw [show (s.modThr t f).laneOwner (s.modThr t f).cur = s.laneOwner s.cur from s.laneOwner_modThr t s.cur h.lanes]
  exact s.thr_modThr_eq t _ (·.laneReg n) fun th => h.lane th n hn

theorem SetsReg.getX {f : Thread → Thread} {k : Nat} (h : SetsReg f k) (s : State) (t : Tid) (r : XReg) : (s.modThr t f).x r = s.x r :=
  s.thr_modThr_eq t s.cur (·.arch.getX r) fun th => by unfold Arch.getX; rw [h.x]

theorem SetsReg.sysWritten {f : Thread → Thread} {k : Nat} {v : Word} (h : SetsReg f k) (s : State) {t : Tid}
    (ht : t = s.cur ∨ t = tidOf (hartOf s.cur) 0) (value : (s.modThr t f).readSys k = v) (hk : k ≠ 0x50 := by decide)
    (cf : ∀ th, (f th).arch.cf = th.arch.cf := by intro th; rfl) : SysWritten s (s.modThr t f) k v where
  value := value
  others n hn := h.readSys hn s t
  x := h.getX s t
  pc := s.thr_modThr_eq t s.cur (·.arch.pc) h.pc
  cf := by rw [if_neg hk]; exact s.thr_modThr_eq t s.cur (·.arch.cf) cf
  threads u hu hu' := s.thr_modThr_ne f fun e => ht.elim (fun q => hu (e.trans q)) fun q => hu' (e.trans q)

theorem sameSys_modThr {f : Thread → Thread} {s : State} {t : Tid} (ht : t = s.cur) (h : ∀ k, SetsReg f k)
    (cf : ∀ th, (f th).arch.cf = th.arch.cf := by intro th; rfl) : SameSys s (s.modThr t f) where
  cur := rfl
  reads n := (h (n + 1)).readSys (by omega) s t
  x := (h 0).getX s t
  pc := s.thr_modThr_eq t s.cur (·.arch.pc) (h 0).pc
  cf := s.thr_modThr_eq t s.cur (·.arch.cf) cf
  threads u hu := s.thr_modThr_ne f (ht ▸ hu)

theorem sameSys_refl (s : State) : SameSys s s := ⟨rfl, fun _ => rfl, fun _ => rfl, rfl, rfl, fun _ _ => rfl⟩

theorem sameSys_setHrt (s : State) (h : HartId) (x : Hart) : SameSys s (s.setHrt h x) := ⟨rfl, fun _ => rfl, fun _ => rfl, rfl, rfl, fun _ _ => rfl⟩

theorem State.fld_setFld_eq {α : Type} (s : State) (f g : FieldId) {x : Field} (p : Field → α) (h : p x = p (s.fld f)) :
    p ((s.setFld f x).fld g) = p (s.fld g) := by
  by_cases e : g = f
  · subst e; rw [s.fld_setFld_same, h]
  · rw [s.fld_setFld_ne x e]

/-- A change of a field's caches. -/
theorem sameSys_setFld (s : State) (f : FieldId) (l : List PtrEntry) : SameSys s (s.setFld f { s.fld f with ptrs := l }) where
  cur := rfl
  reads n := State.readSys_congr rfl (by
    unfold State.placeReg
    have key := fun {α : Type} (p : Field → α) => s.fld_setFld_eq (x := { s.fld f with ptrs := l }) f (fieldOf (hartOf s.cur)) p
    simp only [State.setFld_cur, State.setFld_devid, key Field.cycle rfl, key Field.islim rfl, key Field.iscur rfl]) rfl
  x _ := rfl
  pc := rfl
  cf := rfl
  threads _ _ := rfl

theorem sameSys_dropAhead (s : State) : SameSys s (s.dropAhead s.cur) := by
  unfold State.dropAhead State.pruneAhead
  split
  · exact sameSys_refl s
  · exact sameSys_modThr rfl fun k => {}

theorem sameSys_releaseAt (s : State) (t : Tid) (p : Point → Bool) : SameSys s (s.releaseAt t p) := by
  unfold State.releaseAt
  dsimp only
  split
  · exact sameSys_refl s
  · exact ⟨rfl, fun _ => rfl, fun _ => rfl, rfl, rfl, fun _ _ => rfl⟩

/-- A checkpoint that takes effect shows in no register (R257). -/
theorem sameSys_settle (s : State) : SameSys s (s.settle s.cur) := by
  unfold State.settle
  split
  · exact sameSys_refl s
  next c _ =>
    have h := sameSys_releaseAt s s.cur fun p => p == .closing
    exact h.trans (sameSys_modThr (f := fun th => { th with ckpt := some c, due := none, restarts := 0, closingFrom := none, closingHistory := [] })
      h.cur.symm fun k => {})

/-! ## The write of each register -/

theorem setWidth_extractLsb'_eq_and (v : Word) {w : Nat} (hw : w ≤ 64) : (v.extractLsb' 0 w).setWidth 64 = v &&& BitVec.ofNat 64 (2 ^ w - 1) := by
  apply BitVec.eq_of_toNat_eq
  have hpow : 2 ^ w ≤ 2 ^ 64 := Nat.pow_le_pow_right (by norm_num) hw
  have h1 : v.toNat % 2 ^ w < 2 ^ w := Nat.mod_lt _ (Nat.two_pow_pos w)
  rw [BitVec.toNat_setWidth, BitVec.extractLsb'_toNat, BitVec.toNat_and, BitVec.toNat_ofNat, Nat.mod_eq_of_lt (a := 2 ^ w - 1) (by omega),
    Nat.and_two_pow_sub_one_eq_mod, Nat.shiftRight_zero, Nat.mod_eq_of_lt (by omega)]

theorem vector_getD_set_self {α : Type} {m : Nat} (v : Vector α m) {k : Nat} (hk : k < m) (x d : α) :
    ((v.set k x).toArray.toList)[k]?.getD d = x := by
  simp [hk]

theorem vector_getD_set_ne {α : Type} {m : Nat} (v : Vector α m) {k j : Nat} (hk : k < m) (x d : α) (h : j ≠ k) :
    ((v.set k x).toArray.toList)[j]?.getD d = (v.toArray.toList)[j]?.getD d := by
  simp [List.getElem?_set_ne h.symm]

/-- An update of the writing thread that sets one register of its own. -/
theorem SetsReg.sysWritten_own {f : Thread → Thread} {k : Nat} {v : Word} (h : SetsReg f k) {s : State} {t : Tid} (ht : t = s.cur)
    (value : ∀ th, (f th).ownReg k = v) (hl : ¬ isLaneReg k := by unfold isLaneReg; omega) (hp : ¬ isPlaceReg k := by unfold isPlaceReg; omega)
    (hk : k ≠ 0x50 := by omega) (cf : ∀ th, (f th).arch.cf = th.arch.cf := by intro th; rfl) : SysWritten s (s.modThr t f) k v :=
  h.sysWritten s (.inl ht) (by
    subst ht
    rw [State.readSys_own _ hl hp]
    exact (congrArg (·.ownReg k) (s.thr_modThr_same s.cur f)).trans (value _)) hk cf

/-- An update of the lane group's copy that sets one of its registers. -/
theorem SetsReg.sysWritten_lane {f : Thread → Thread} {k : Nat} {v : Word} (h : SetsReg f k) (s : State)
    (value : ∀ th, (f th).laneReg k = v) (hl : isLaneReg k := by unfold isLaneReg; omega)
    (cf : ∀ th, (f th).arch.cf = th.arch.cf := by intro th; rfl) : SysWritten s (s.modOwner f) k v :=
  h.sysWritten s (s.laneOwner_cases s.cur) (by
    rw [State.readSys_lane _ hl, show (s.modThr (s.laneOwner s.cur) f).laneOwner (s.modThr (s.laneOwner s.cur) f).cur = s.laneOwner s.cur from
      s.laneOwner_modThr _ _ h.lanes]
    exact (congrArg (·.laneReg k) (s.thr_modThr_same _ f)).trans (value _)) (by rintro rfl; unfold isLaneReg at hl; omega) cf

theorem sysWritten_ml (s : State) (v : Word) : SysWritten s (s.writeSys 0x03 v) 0x03 (v &&& 0xF_FFFF_FFFF) :=
  SetsReg.sysWritten_lane (f := fun th => { th with arch := { th.arch with ml := v &&& mlBits } }) {} s fun _ => rfl

theorem sysWritten_ffst (s : State) (v : Word) : SysWritten s (s.writeSys 0x06 v) 0x06 (v &&& 0xFF_FFFF_FFFF) :=
  SetsReg.sysWritten_lane (f := fun th => { th with arch := { th.arch with ffst := v &&& ffstBits } }) {} s fun _ => rfl

theorem sysWritten_fflags (s : State) (v : Word) : SysWritten s (s.writeSys 0x05 v) 0x05 (v &&& 0x1F) :=
  SetsReg.sysWritten_own (f := fun th => { th with fflags := v.extractLsb' 0 5 }) {} rfl fun _ => setWidth_extractLsb'_eq_and (w := 5) v (by decide)

theorem sysWritten_htbase (s : State) (v : Word) : SysWritten s (s.writeSys 0x51 v) 0x51 (v &&& 0x00FF_FFFF_FFFF_F000) :=
  SetsReg.sysWritten_own (f := fun th => { th with htbase := v &&& tableBits }) {} rfl fun _ => rfl

theorem sysWritten_farm (s : State) (v : Word) : SysWritten s (s.writeSys 0x52 v) 0x52 (v &&& BitVec.allOnes 64) :=
  SetsReg.sysWritten_own (f := fun th => { th with farm := v }) {} rfl fun _ => BitVec.and_allOnes.symm

theorem sysWritten_tcause (s : State) (v : Word) : SysWritten s (s.writeSys 0x60 v) 0x60 (v &&& 0xFF) :=
  SetsReg.sysWritten_own (f := fun th => { th with tcause := v.extractLsb' 0 8 }) {} rfl fun _ => setWidth_extractLsb'_eq_and (w := 8) v (by decide)

theorem sysWritten_tepc (s : State) (v : Word) : SysWritten s (s.writeSys 0x61 v) 0x61 (v &&& 0xFFFF_FFFF_FFFF_FFFC) :=
  SetsReg.sysWritten_own (f := fun th => { th with tepc := v &&& ~~~3#64 }) {} rfl fun _ => rfl

theorem sysWritten_tval (s : State) (v : Word) : SysWritten s (s.writeSys 0x62 v) 0x62 (v &&& BitVec.allOnes 64) :=
  SetsReg.sysWritten_own (f := fun th => { th with tval := v }) {} rfl fun _ => BitVec.and_allOnes.symm

theorem sysWritten_tstatus (s : State) (v : Word) : SysWritten s (s.writeSys 0x63 v) 0x63 (v &&& 0xFF_FFFF_03FF) :=
  SetsReg.sysWritten_own (f := fun th => { th with tstatus := v &&& tstatusBits }) {} rfl fun _ => rfl

theorem sysWritten_tvec (s : State) (v : Word) : SysWritten s (s.writeSys 0x64 v) 0x64 (v &&& 0x00FF_FFFF_FFFF_FFFC) :=
  SetsReg.sysWritten_own (f := fun th => { th with tvec := v &&& vectorBits }) {} rfl fun _ => rfl

theorem sysWritten_tscratch (s : State) (v : Word) : SysWritten s (s.writeSys 0x65 v) 0x65 (v &&& BitVec.allOnes 64) :=
  SetsReg.sysWritten_own (f := fun th => { th with tscratch := v }) {} rfl fun _ => BitVec.and_allOnes.symm

theorem sysWritten_ydead (s : State) (v : Word) : SysWritten s (s.writeSys 0x70 v) 0x70 (v &&& BitVec.allOnes 64) :=
  SetsReg.sysWritten_own (f := fun th => { th with ydead := v }) {} rfl fun _ => BitVec.and_allOnes.symm

theorem sysWritten_ystat (s : State) (v : Word) : SysWritten s (s.writeSys 0x71 v) 0x71 (v &&& 0xF) :=
  SetsReg.sysWritten_own (f := fun th => { th with ystat := v.extractLsb' 0 4 }) {} rfl fun _ => setWidth_extractLsb'_eq_and (w := 4) v (by decide)

/-- What a write of PGROOT drops first: cached translations, pointer entries and what was read ahead (R330; log entries 31 and 49). -/
def State.dropTables (s : State) : State :=
  let h := hartOf s.cur
  let ctx := (s.thr s.cur).ctx
  let s := s.setHrt h { s.hrt h with tlb := (s.hrt h).tlb.filter fun e => e.ctx != ctx }
  let f := fieldOf h
  let s := s.setFld f { s.fld f with ptrs := (s.fld f).ptrs.filter fun e => e.ctx != ctx }
  s.dropAhead s.cur

theorem State.writePgroot_eq (s : State) (v : Word) : s.writePgroot v = s.dropTables.modThr s.cur fun th => { th with pgroot := v &&& rootBits } := rfl

theorem sameSys_dropTables (s : State) : SameSys s s.dropTables :=
  ((sameSys_setHrt s _ _).trans (sameSys_setFld _ _ _)).trans (sameSys_dropAhead _)

theorem sysWritten_pgroot (s : State) (v : Word) : SysWritten s (s.writeSys 0x80 v) 0x80 (v &&& 0xFF_FFFF_F800) :=
  .after (sameSys_dropTables s) (SetsReg.sysWritten_own (f := fun th => { th with pgroot := v &&& rootBits }) {}
    (sameSys_dropTables s).cur.symm fun _ => rfl)

/-- A write of TCBASE clears CF beside it (R187). -/
theorem sysWritten_modThr_tcbase (s : State) (v : Word) :
    SysWritten s (s.modThr s.cur fun th => { th with tcbase := v, arch := { th.arch with cf := false } }) 0x50 v := by
  have h : SetsReg (fun th => { th with tcbase := v, arch := { th.arch with cf := false } }) 0x50 := {}
  exact {
    value := by
      rw [State.readSys_own _ (by unfold isLaneReg; omega) (by unfold isPlaceReg; omega)]
      exact congrArg (·.ownReg 0x50) (s.thr_modThr_same s.cur _)
    others := fun n hn => h.readSys hn s s.cur
    x := h.getX s s.cur
    pc := s.thr_modThr_eq s.cur s.cur (·.arch.pc) h.pc
    cf := congrArg (·.arch.cf) (s.thr_modThr_same s.cur _)
    threads := fun u hu _ => s.thr_modThr_ne _ hu }

theorem sysWritten_tcbase (s : State) (v : Word) : SysWritten s (s.writeSys 0x50 v) 0x50 (v &&& BitVec.allOnes 64) := by
  rw [BitVec.and_allOnes]
  exact .after (sameSys_setHrt s _ _) (sysWritten_modThr_tcbase _ v)

theorem State.writeSys_prog (s : State) (k : Fin 32) (v : Word) : s.writeSys (0x10 + k.val) v = s.writeProg k.val v := by
  have := k.isLt
  simp (disch := omega) only [State.writeSys, if_neg, if_pos, Nat.add_sub_cancel_left]

theorem sysWritten_prog (s : State) (k : Fin 32) (v : Word) : SysWritten s (s.writeSys (0x10 + k.val) v) (0x10 + k.val) (v &&& 0xF) := by
  rw [s.writeSys_prog, State.writeProg, dif_pos k.isLt]
  have hk := k.isLt
  refine SetsReg.sysWritten_lane (f := fun th => { th with arch := { th.arch with prog := th.arch.prog.set k.val (v.extractLsb' 0 4) } }) ?_ s fun th => ?_
  · refine { lane := fun th n hn => ?_ }
    by_cases hr : 0x10 ≤ n ∧ n ≤ 0x2F
    · simp only [Thread.laneReg, vector_getD_set_ne th.arch.prog hk _ _ (by omega : n - 0x10 ≠ k.val)]
    · simp only [Thread.laneReg, hr, if_false]
  · simp (disch := omega) only [Thread.laneReg, if_neg, if_pos, Nat.add_sub_cancel_left, vector_getD_set_self]
    exact setWidth_extractLsb'_eq_and (w := 4) v (by decide)

theorem State.writeSys_rfloss (s : State) (k : Fin 16) (v : Word) :
    s.writeSys (0xB0 + k.val) v = s.modOwner fun th => { th with rfloss := th.rfloss.set k.val (v.extractLsb' 0 32) } := by
  have := k.isLt
  simp (disch := omega) only [State.writeSys, if_neg, dif_pos, Nat.add_sub_cancel_left]

theorem sysWritten_rfloss (s : State) (k : Fin 16) (v : Word) :
    SysWritten s (s.writeSys (0xB0 + k.val) v) (0xB0 + k.val) (v &&& 0xFFFF_FFFF) := by
  rw [s.writeSys_rfloss]
  have hk := k.isLt
  refine SetsReg.sysWritten_lane (f := fun th => { th with rfloss := th.rfloss.set k.val (v.extractLsb' 0 32) }) ?_ s fun th => ?_
  · refine { lane := fun th n hn => ?_ }
    by_cases hr : 0xB0 ≤ n ∧ n ≤ 0xBF
    · simp only [Thread.laneReg, vector_getD_set_ne th.rfloss hk _ _ (by omega : n - 0xB0 ≠ k.val)]
    · simp only [Thread.laneReg, hr, if_false]
  · simp (disch := omega) only [Thread.laneReg, if_neg, if_pos, Nat.add_sub_cancel_left, vector_getD_set_self]
    exact setWidth_extractLsb'_eq_and (w := 32) v (by decide)

theorem State.writeSys_lpc (s : State) (k : Fin 4) (v : Word) :
    s.writeSys (0xA0 + k.val) v = s.modThr s.cur fun th => { th with arch := { th.arch with lpc := th.arch.lpc.set k.val (v &&& vectorBits) } } := by
  have := k.isLt
  simp (disch := omega) only [State.writeSys, State.writeLoop, if_neg, if_pos, dif_pos, Nat.add_sub_cancel_left]

theorem sysWritten_lpc (s : State) (k : Fin 4) (v : Word) :
    SysWritten s (s.writeSys (0xA0 + k.val) v) (0xA0 + k.val) (v &&& 0x00FF_FFFF_FFFF_FFFC) := by
  rw [s.writeSys_lpc]
  have hk := k.isLt
  refine SetsReg.sysWritten_own (f := fun th => { th with arch := { th.arch with lpc := th.arch.lpc.set k.val (v &&& vectorBits) } }) ?_ rfl fun th => ?_
  · refine { own := fun th n hn => ?_ }
    by_cases hr : 0xA0 ≤ n ∧ n ≤ 0xA3
    · simp only [Thread.ownReg, Arch.lpcAt, Arch.lcntAt, vector_getD_set_ne th.arch.lpc hk _ _ (by omega : n - 0xA0 ≠ k.val)]
    · simp only [Thread.ownReg, Arch.lcntAt, hr, if_false]
  · simp (disch := omega) only [Thread.ownReg, Arch.lpcAt, if_neg, if_pos, Nat.add_sub_cancel_left, vector_getD_set_self]
    rfl

theorem State.writeSys_lcnt (s : State) (k : Fin 4) (v : Word) :
    s.writeSys (0xA4 + k.val) v = s.modThr s.cur fun th => { th with arch := { th.arch with lcnt := th.arch.lcnt.set k.val (v &&& lcntBits) } } := by
  have := k.isLt
  simp (disch := omega) only [State.writeSys, State.writeLoop, if_neg, if_pos, dif_neg, dif_pos]
  simp only [show 0xA4 + k.val - 0xA0 - 4 = k.val by omega]

theorem sysWritten_lcnt (s : State) (k : Fin 4) (v : Word) :
    SysWritten s (s.writeSys (0xA4 + k.val) v) (0xA4 + k.val) (v &&& 0xFFFF_FFFF_FFFF) := by
  rw [s.writeSys_lcnt]
  have hk := k.isLt
  refine SetsReg.sysWritten_own (f := fun th => { th with arch := { th.arch with lcnt := th.arch.lcnt.set k.val (v &&& lcntBits) } }) ?_ rfl fun th => ?_
  · refine { own := fun th n hn => ?_ }
    by_cases hr : 0xA4 ≤ n ∧ n ≤ 0xA7
    · simp only [Thread.ownReg, Arch.lpcAt, Arch.lcntAt, vector_getD_set_ne th.arch.lcnt hk _ _ (by omega : n - 0xA4 ≠ k.val)]
    · simp only [Thread.ownReg, Arch.lpcAt, hr, if_false]
  · simp (disch := omega) only [Thread.ownReg, Arch.lcntAt, if_neg, if_pos, Nat.add_sub_cancel_left, vector_getD_set_self]
    rfl

theorem sysWritten_devid (s : State) (v : Word) : SysWritten s (s.writeSys 0x33 v) 0x33 (v &&& 0x3_FFFF) where
  value := setWidth_extractLsb'_eq_and (w := 18) v (by decide)
  others n hn := State.readSys_congr rfl (by
    show State.placeReg { s with devid := v.extractLsb' 0 18 } n = _
    simp only [State.placeReg, hn, if_false]; rfl) rfl
  x _ := rfl
  pc := rfl
  cf := rfl
  threads _ _ _ := rfl

/-- ISLIM as a write leaves it: its 16 bits, at most 0x0B40 (R402). -/
theorem islim_value (v : Word) : (if 0x0B40#16 < v.extractLsb' 0 16 then 0x0B40#16 else v.extractLsb' 0 16).setWidth 64 =
    if 0x0B40 < v.toNat % 2 ^ 16 then 0x0B40 else v &&& 0xFFFF := by
  have hlt : 0x0B40#16 < v.extractLsb' 0 16 ↔ 0x0B40 < v.toNat % 2 ^ 16 := by
    rw [BitVec.lt_def, BitVec.extractLsb'_toNat, Nat.shiftRight_zero]; rfl
  by_cases h : 0x0B40 < v.toNat % 2 ^ 16
  · rw [if_pos (hlt.2 h), if_pos h]; rfl
  · rw [if_neg (mt hlt.1 h), if_neg h]
    exact setWidth_extractLsb'_eq_and (w := 16) v (by decide)

theorem sysWritten_islim (s : State) (v : Word) :
    SysWritten s (s.writeSys 0x90 v) 0x90 (if 0x0B40 < v.toNat % 2 ^ 16 then 0x0B40 else v &&& 0xFFFF) where
  value := by
    rw [← islim_value]
    exact congrArg (fun x : Field => x.islim.setWidth 64) (s.fld_setFld_same _ _)
  others n hn := State.readSys_congr rfl (by
    show (s.writeIslim v).placeReg n = _
    have key := fun {α : Type} (p : Field → α) => s.fld_setFld_eq (x := { s.fld (fieldOf (hartOf s.cur)) with
      islim := if 0x0B40#16 < v.extractLsb' 0 16 then 0x0B40 else v.extractLsb' 0 16 }) (fieldOf (hartOf s.cur)) (fieldOf (hartOf s.cur)) p
    simp only [State.placeReg, State.writeIslim, hn, if_false, State.setFld_cur, State.setFld_devid, key Field.cycle rfl, key Field.iscur rfl]) rfl
  x _ := rfl
  pc := rfl
  cf := rfl
  threads _ _ _ := rfl

/-- From s to u at most threads, harts, fields and DEVID have changed. -/
def OnlyRegs (s u : State) : Prop := u = { s with threads := u.threads, harts := u.harts, fields := u.fields, devid := u.devid }

theorem onlyRegs_writeProg (s : State) (k : Nat) (v : Word) : OnlyRegs s (s.writeProg k v) := by
  unfold State.writeProg; split <;> rfl

theorem onlyRegs_writePgroot (s : State) (v : Word) : OnlyRegs s (s.writePgroot v) := by
  rw [State.writePgroot_eq]
  unfold State.dropTables State.dropAhead State.pruneAhead
  dsimp only
  split <;> rfl

theorem onlyRegs_ite {s a b : State} (c : Prop) [Decidable c] (ha : OnlyRegs s a) (hb : OnlyRegs s b) : OnlyRegs s (if c then a else b) := by
  split
  · exact ha
  · exact hb

/-- A write of a system register changes nothing else of the state: not memory, the stores on their way, or what other agents hold. -/
theorem onlyRegs_writeSys (s : State) (n : Nat) (v : Word) : OnlyRegs s (s.writeSys n v) := by
  unfold State.writeSys
  dsimp only
  iterate 3 refine onlyRegs_ite _ rfl ?_
  refine onlyRegs_ite _ (onlyRegs_writeProg s _ v) ?_
  iterate 12 refine onlyRegs_ite _ rfl ?_
  refine onlyRegs_ite _ (onlyRegs_writePgroot s v) ?_
  iterate 2 refine onlyRegs_ite _ rfl ?_
  split <;> rfl

/-! ## wsys -/

/-- The checks of R22 let a write of this register pass. -/
theorem State.sysCheck_write {s : State} {n : Nat} {acc : SysAccess} (word : Word) (h : sysAccess n = some acc) (hro : acc ≠ .ro)
    (hm : (s.arch s.cur).mode = .supervisor ∨ acc = .rw) : s.sysCheck word n true = .ok () := by
  unfold State.sysCheck
  rw [h]
  cases acc with
  | rw => rfl
  | ro => exact absurd rfl hro
  | sup => simp [hm.resolve_right (by decide)]
  | supWrites => simp [hm.resolve_right (by decide)]

/-- A wsys that passes the checks and need not wait. -/
theorem State.wsysOf_eq {s : State} {a : XReg} {n : Nat} (hcheck : s.sysCheck (wordOf (.wsys a (BitVec.ofNat 10 n))) n true = .ok ())
    (hready : isProg n = true → (s.arch (s.laneOwner s.cur)).atBoundary = true) :
    s.wsysOf a n = .next ((s.settle s.cur).writeSys n ((s.settle s.cur).x a)).retire := by
  unfold State.wsysOf
  rw [hcheck]
  by_cases hp : isProg n = true
  · simp [hp, hready hp]
  · simp [hp]

/-- The registers of R21 that stand alone and that wsys may write, each with the bits that it keeps. -/
def listedBits : List (BitVec 10 × Word) :=
  [(0x003#10, 0xF_FFFF_FFFF#64), (0x005#10, 0x1F#64), (0x006#10, 0xFF_FFFF_FFFF#64), (0x033#10, 0x3_FFFF#64),
    (0x050#10, BitVec.allOnes 64), (0x051#10, 0x00FF_FFFF_FFFF_F000#64), (0x052#10, BitVec.allOnes 64), (0x060#10, 0xFF#64),
    (0x061#10, 0xFFFF_FFFF_FFFF_FFFC#64), (0x062#10, BitVec.allOnes 64), (0x063#10, 0xFF_FFFF_03FF#64), (0x064#10, 0x00FF_FFFF_FFFF_FFFC#64),
    (0x065#10, BitVec.allOnes 64), (0x070#10, BitVec.allOnes 64), (0x071#10, 0xF#64), (0x080#10, 0xFF_FFFF_F800#64)]

/-- The registers of R21 that wsys may write, each with the bits that it keeps. -/
def WritableBits (num : BitVec 10) (bits : Word) : Prop :=
  (num, bits) ∈ listedBits ∨
    (∃ k : Fin 32, num = BitVec.ofNat 10 (0x010 + k.val) ∧ bits = 0xF) ∨ (∃ k : Fin 16, num = BitVec.ofNat 10 (0x0B0 + k.val) ∧ bits = 0xFFFF_FFFF) ∨
    (∃ k : Fin 4, num = BitVec.ofNat 10 (0x0A0 + k.val) ∧ bits = 0x00FF_FFFF_FFFF_FFFC) ∨
    (∃ k : Fin 4, num = BitVec.ofNat 10 (0x0A4 + k.val) ∧ bits = 0xFFFF_FFFF_FFFF) ∨ num = 0x090#10 ∧ bits = 0xFFFF

/-- What register num reads after v was written: the bits it keeps, ISLIM clamped (R402). -/
def sysValue (num : BitVec 10) (bits v : Word) : Word := if num = 0x090#10 ∧ 0x0B40 < v.toNat % 2 ^ 16 then 0x0B40 else v &&& bits

/-- wsys may write register num, in user mode too if it is ML, FFLAGS or FFST, and leaves in it the bits it keeps. -/
structure WritableReg (num : BitVec 10) (bits : Word) : Prop where
  access  : ∃ acc, sysAccess num.toNat = some acc ∧ acc ≠ .ro ∧ (num ∈ [0x003#10, 0x005#10, 0x006#10] → acc = .rw)
  written : ∀ s v, SysWritten s (s.writeSys num.toNat v) num.toNat (sysValue num bits v)

theorem writableReg_of_written {num : BitVec 10} {bits : Word} {acc : SysAccess} (h : ∀ s v, SysWritten s (s.writeSys num.toNat v) num.toNat (v &&& bits))
    (haccess : sysAccess num.toNat = some acc) (hro : acc ≠ .ro := by decide)
    (hrw : num ∈ [0x003#10, 0x005#10, 0x006#10] → acc = .rw := by decide) (hne : num ≠ 0x090#10 := by decide) : WritableReg num bits :=
  ⟨⟨acc, haccess, hro, hrw⟩, fun s v => by
    rw [sysValue, if_neg fun q => hne q.1]
    exact h s v⟩

theorem writableReg_listed : ∀ p ∈ listedBits, WritableReg p.1 p.2 := by
  simp only [listedBits, List.forall_mem_cons]
  exact ⟨writableReg_of_written sysWritten_ml rfl, writableReg_of_written sysWritten_fflags rfl, writableReg_of_written sysWritten_ffst rfl,
    writableReg_of_written sysWritten_devid rfl, writableReg_of_written sysWritten_tcbase rfl, writableReg_of_written sysWritten_htbase rfl,
    writableReg_of_written sysWritten_farm rfl, writableReg_of_written sysWritten_tcause rfl, writableReg_of_written sysWritten_tepc rfl,
    writableReg_of_written sysWritten_tval rfl, writableReg_of_written sysWritten_tstatus rfl, writableReg_of_written sysWritten_tvec rfl,
    writableReg_of_written sysWritten_tscratch rfl, writableReg_of_written sysWritten_ydead rfl, writableReg_of_written sysWritten_ystat rfl,
    writableReg_of_written sysWritten_pgroot rfl, nofun⟩

/-- A register of one of the families PROGn, RFLOSSn, LPCn and LCNTn. -/
theorem writableReg_of_family {n : Nat} {bits : Word} (hn : n < 2 ^ 10) (h : ∀ s v, SysWritten s (s.writeSys n v) n (v &&& bits))
    (hfam : (0x10 ≤ n ∧ n < 0x30) ∨ (0xA0 ≤ n ∧ n < 0xA8) ∨ (0xB0 ≤ n ∧ n < 0xC0)) : WritableReg (BitVec.ofNat 10 n) bits := by
  have e : (BitVec.ofNat 10 n).toNat = n := by rw [BitVec.toNat_ofNat, Nat.mod_eq_of_lt hn]
  have hne : ∀ m : BitVec 10, m.toNat ∈ [0x03, 0x05, 0x06, 0x90] → BitVec.ofNat 10 n ≠ m := by
    rintro m hm rfl
    simp only [e, List.mem_cons, List.not_mem_nil, or_false] at hm
    omega
  have hacc : sysAccess n = some .supWrites := by
    rcases hfam with h | h | h
    · simp (disch := omega) only [sysAccess, if_neg, if_pos]
    · simp (disch := omega) only [sysAccess, if_neg, if_pos]
    · simp (disch := omega) only [sysAccess, if_neg, if_pos]
  refine writableReg_of_written (fun s v => by rw [e]; exact h s v) (by rw [e]; exact hacc) (by decide) (fun hmem => ?_) (hne _ (by decide))
  simp only [List.mem_cons, List.not_mem_nil, or_false] at hmem
  rcases hmem with q | q | q
  · exact absurd q (hne _ (by decide))
  · exact absurd q (hne _ (by decide))
  · exact absurd q (hne _ (by decide))

theorem WritableBits.writableReg {num : BitVec 10} {bits : Word} (h : WritableBits num bits) : WritableReg num bits := by
  rcases h with h | ⟨k, rfl, rfl⟩ | ⟨k, rfl, rfl⟩ | ⟨k, rfl, rfl⟩ | ⟨k, rfl, rfl⟩ | ⟨rfl, rfl⟩
  · exact writableReg_listed _ h
  · exact writableReg_of_family (by omega) (fun s v => sysWritten_prog s k v) (by omega)
  · exact writableReg_of_family (by omega) (fun s v => sysWritten_rfloss s k v) (by omega)
  · exact writableReg_of_family (by omega) (fun s v => sysWritten_lpc s k v) (by omega)
  · exact writableReg_of_family (by omega) (fun s v => sysWritten_lcnt s k v) (by omega)
  · refine ⟨⟨.supWrites, rfl, by decide, by decide⟩, fun s v => ?_⟩
    rw [sysValue, if_congr (and_iff_right rfl) rfl rfl]
    exact sysWritten_islim s v

/-- wsys, and each special write by another name for it, is `wsysOf` of its register. -/
theorem exec_eq_wsysOf {s : State} {a : XReg} {num : BitVec 10} {i : Instr}
    (h : i = .wsys a num ∨ i = .fflagsWrite a ∧ num = 0x005#10 ∨ i = .tcbaseWrite a ∧ num = 0x050#10 ∨
      (∃ k : VReg, i = .progWrite k a ∧ num = BitVec.ofNat 10 (0x010 + k.toNat)) ∨
      (∃ k : BitVec 3, i = .loopStackWrite k a ∧ num = BitVec.ofNat 10 (0x0A0 + k.toNat)) ∨
      i = .pgrootWrite a ∧ num = 0x080#10 ∨ i = .islimWrite a ∧ num = 0x090#10) : exec i s = s.wsysOf a num.toNat := by
  rcases h with rfl | ⟨rfl, rfl⟩ | ⟨rfl, rfl⟩ | ⟨k, rfl, rfl⟩ | ⟨k, rfl, rfl⟩ | ⟨rfl, rfl⟩ | ⟨rfl, rfl⟩
  · rfl
  · rfl
  · rfl
  · rw [BitVec.toNat_ofNat, Nat.mod_eq_of_lt (by have := k.isLt; omega)]; rfl
  · rw [BitVec.toNat_ofNat, Nat.mod_eq_of_lt (by have := k.isLt; omega)]; rfl
  · rfl
  · rfl

/-- Settles O21: the write of each register is `SysWritten`, and the checkpoint that takes effect before it shows in none. -/
theorem systemWritesChangeOneRegister : Obligations.SystemWritesChangeOneRegister := by
  unfold Obligations.SystemWritesChangeOneRegister
  intro s a num bits i hnum hmode hi hready w
  have hreg : WritableReg num bits := WritableBits.writableReg hnum
  obtain ⟨acc, hacc, hro, hrw⟩ := hreg.access
  have hsame := sameSys_settle s
  have hw := SysWritten.after hsame (hreg.written w (w.x a))
  have hstep : exec i s = .next (w.writeSys num.toNat (w.x a)).retire := by
    rw [exec_eq_wsysOf hi]
    refine State.wsysOf_eq (State.sysCheck_write _ hacc hro (hmode.imp id hrw)) fun hp => hready ?_
    simp only [isProg, Bool.and_eq_true, decide_eq_true_eq] at hp
    rw [BitVec.le_def, BitVec.lt_def]
    exact ⟨hp.1, Nat.lt_succ_of_le hp.2⟩
  refine ⟨_, hstep, ?_, hw.others, hw.x, hw.pc, ?_, hw.threads, onlyRegs_writeSys w _ _⟩
  · rw [hw.value, hsame.x]; rfl
  · rw [hw.cf]
    exact if_congr (BitVec.toNat_inj (y := 0x050#10)) rfl rfl

end Sys2Proof.Machine
end

section
/-! PROOFS. The state right after reset (spec/01_machine.md R13 to R27, spec/24_package_links.md R396) and O59. -/

namespace Sys2Proof.Machine

/-! ## The state after reset -/

@[simp] theorem reset_thr (t : Tid) : State.reset.thr t = Thread.zero := Vector.getElem_replicate t.isLt

@[simp] theorem reset_hrt (h : HartId) : State.reset.hrt h = Hart.zero := Vector.getElem_replicate h.isLt

@[simp] theorem reset_fld (f : FieldId) : State.reset.fld f = Field.zero f := by
  match f with
  | 0 | 1 | 2 | 3 | 4 | 5 | 6 | 7 => rfl

/-- Whatever two sites the part spares, 14 of the 16 are enabled (R14). -/
theorem enabledSites_count (f : FieldId) : ((List.range 16).filter fun q => (enabledSites f).getLsbD q).length = 14 := by
  have key : ∀ (a : Fin 16) (d : Fin 15), ((List.range 16).filter fun q =>
      (~~~(BitVec.ofNat 16 (2 ^ a.val) ||| BitVec.ofNat 16 (2 ^ ((a.val + 1 + d.val) % 16)))).getLsbD q).length = 14 := by decide
  exact key _ _

theorem Thread.zero_getX (r : XReg) : Thread.zero.arch.getX r = 0 := by
  unfold Arch.getX
  split
  · rfl
  · exact Vector.getElem_replicate r.isLt

theorem reset_ports (p : Fin 21) : State.reset.ports[p.val] = Port.initial p.val := by
  revert p
  decide

/-- The first step of a package in which no thread runs changes no thread. -/
theorem step_reset (t : Tid) : ∃ e, step State.reset = .next e ∧ e.thr t = Thread.zero := by
  let e : State := { { State.reset with fresh := 1 }.tick (Config.stepCycles 0) with cur := 0 }
  refine ⟨e, ?_, reset_thr t⟩
  have hthr : e.thr 0 = Thread.zero := reset_thr 0
  have hidle : e.threadTurn 0 = none := by
    unfold State.threadTurn
    rw [hthr]
    rfl
  have hdead : e.noteDeadline 0 = e := if_neg fun h => by
    rw [State.arch, hthr] at h
    exact nomatch h.1
  calc step State.reset = (e.noteDeadline 0).turnOf 0 := step_on _ rfl rfl
    _ = .next e := by rw [hdead, State.turnOf, hidle]

/-- Settles O59: each field of the state after reset, read off its definition; the spare sites by their 240 places. -/
theorem resetIsAsStated : Obligations.ResetIsAsStated := by
  unfold Obligations.ResetIsAsStated
  refine ⟨rfl, reset_canonical, rfl, rfl, rfl, fun k => ?_, fun f => ?_, rfl, rfl, rfl, rfl, rfl, rfl, rfl, rfl, rfl, rfl, rfl, rfl, fun h => ?_,
    fun t => ?_, reset_ports, fun t => ?_⟩
  · unfold State.homeByte
    split <;> rfl
  · rw [reset_fld]
    exact ⟨rfl, rfl, rfl, enabledSites_count f⟩
  · rw [reset_hrt]
    exact ⟨rfl, rfl, rfl, rfl⟩
  · rw [State.arch, reset_thr]
    exact ⟨rfl, Thread.zero_getX⟩
  · obtain ⟨e, he, ht⟩ := step_reset t
    exact ⟨e, he, by rw [ht]; rfl⟩

end Sys2Proof.Machine
end

section
/-! PROOFS. A step (spec/21_traps_restart.md R367): what a thread's turn runs, when the turn's end leaves the instruction's own state, and O57. -/

namespace Sys2Proof.Machine

/-! ## What comes first in a turn (R220, R309, R312, R367) -/

/-- A forced pre-emption is due. -/
def State.Preempts (s : State) (t : Tid) : Prop :=
  (s.thr t).arch.mode = .user ∧ ((s.thr t).preemptDue = true ∨ s.deadlineMet t = true) ∧ s.yieldWins t = false

theorem State.dueFirst_preempts {s : State} {t : Tid} (h : s.Preempts t) : s.dueFirst t = some (.forcedPreemption t) := by
  obtain ⟨hm, hd, hy⟩ := h
  exact if_pos ⟨hm, by rwa [Bool.or_eq_true], by rw [hy]; rfl⟩

/-- Without a pre-emption the rest of the list decides. -/
theorem State.dueFirst_eq {s : State} {t : Tid} (h : ¬ s.Preempts t) : s.dueFirst t =
    if !(s.thr t).pending.isEmpty && (s.thr t).arch.atBoundary then some (.trapEntry t)
    else if s.heldTooLong t && (s.thr t).arch.atBoundary then some (.heldStoreCheckpoint t)
    else if s.debugDue t then some (.debuggerStop t) else none :=
  if_neg fun q => h ⟨q.1, by simpa only [Bool.or_eq_true] using q.2.1, by simpa using q.2.2⟩

theorem State.dueFirst_pending {s : State} {t : Tid} (h : ¬ s.Preempts t) (hb : (s.thr t).arch.atBoundary = true) (hp : (s.thr t).pending ≠ []) :
    s.dueFirst t = some (.trapEntry t) := by
  rw [State.dueFirst_eq h, if_pos (by simp [hb, hp])]

theorem State.dueFirst_held {s : State} {t : Tid} (h : ¬ s.Preempts t) (hb : (s.thr t).arch.atBoundary = true) (hp : (s.thr t).pending = [])
    (hh : s.heldTooLong t = true) : s.dueFirst t = some (.heldStoreCheckpoint t) := by
  rw [State.dueFirst_eq h, if_neg (by simp [hp]), if_pos (by simp [hh, hb])]

/-- With nothing to take at a boundary only the debugger's stop is left. -/
theorem State.dueFirst_debug {s : State} {t : Tid} (h : ¬ s.Preempts t)
    (hb : (s.thr t).arch.atBoundary = true → (s.thr t).pending = [] ∧ s.heldTooLong t = false) :
    s.dueFirst t = if s.debugDue t then some (.debuggerStop t) else none := by
  rw [State.dueFirst_eq h]
  by_cases hat : (s.thr t).arch.atBoundary = true
  · obtain ⟨hp, hh⟩ := hb hat
    simp [hp, hh]
  · simp [hat]

/-! ## The turn of a thread -/

/-- A thread that the debugger does not hold and that runs or sleeps does what is due first, or else `i`, which its status decides. -/
theorem State.threadTurn_due {s : State} {t : Tid} {i : Instr} (hstop : (s.thr t).debugStop = none)
    (hlive : (s.thr t).status ∈ [Status.running, .wfe, .bwait]) (h : s.dueFirst t = some i) : s.threadTurn t = some i := by
  unfold State.threadTurn
  simp only [List.mem_cons, List.not_mem_nil, or_false] at hlive
  rcases hlive with hs | hs | hs
  · simp [hstop, hs, h]
  · simp [hstop, hs, h]
  · simp [hstop, hs, h]

theorem State.threadTurn_running {s : State} {t : Tid} (hstop : (s.thr t).debugStop = none) (hs : (s.thr t).status = .running)
    (h : s.dueFirst t = none) : s.threadTurn t = some (s.nextInstr t) := by
  simp [State.threadTurn, hstop, hs, h]

theorem State.threadTurn_wfe {s : State} {t : Tid} (hstop : (s.thr t).debugStop = none) (hs : (s.thr t).status = .wfe)
    (h : s.dueFirst t = none) : s.threadTurn t = some (.wfeWake t) := by
  simp [State.threadTurn, hstop, hs, h]

theorem State.threadTurn_bwait {s : State} {t : Tid} (hstop : (s.thr t).debugStop = none) (hs : (s.thr t).status = .bwait)
    (h : s.dueFirst t = none) : s.threadTurn t = some (.bwaitWake t) := by
  simp [State.threadTurn, hstop, hs, h]

/-- A thread that is held, stopped or off has an empty turn. -/
theorem State.threadTurn_none {s : State} {t : Tid} (h : (s.thr t).debugStop ≠ none ∨ (s.thr t).status ∉ [Status.running, .wfe, .bwait]) :
    s.threadTurn t = none := by
  unfold State.threadTurn
  by_cases hd : (s.thr t).debugStop = none
  · have hs := h.resolve_left (not_not.2 hd)
    cases hst : (s.thr t).status
    case off | fused | doubleFault => simp [hd, hst]
    case running | wfe | bwait => simp [hst] at hs
  · simp [Option.isSome_iff_ne_none.2 hd]

theorem State.nextInstr_ok {s : State} {t : Tid} {w : IWord} {i : Instr} (hw : s.fetch t = .ok w) (hi : decode w = .ok i) : s.nextInstr t = i := by
  simp only [State.nextInstr, hw, hi]

theorem State.nextInstr_illegal {s : State} {t : Tid} {w : IWord} {e : DecodeErr} (hw : s.fetch t = .ok w) (he : decode w = .error e) :
    s.nextInstr t = .illegalInstruction w := by
  simp only [State.nextInstr, hw, he]

theorem State.nextInstr_fault {s : State} {t : Tid} {e : Stop} (h : s.fetch t = .error e) : s.nextInstr t = .instructionFetchFault := by
  simp only [State.nextInstr, h]

/-! ## The end of a turn -/

theorem State.endPass_of_no {s : State} {t : Tid} {before : Thread} {b : Bool} (h : before.debugPass = .no) : s.endPass t before b = s := by
  unfold State.endPass
  rw [h]
  rfl

/-- Where nothing is dead, watched, absent or awaited, and no pass is under way, the turn's end changes nothing. -/
theorem State.endTurn_of_quiet {v u : State} {t : Tid} {i : Instr} {fetched : Bool} (hpass : (u.thr t).debugPass = .no)
    (hd : v.dead = [] ∨ fetched = false) (hw : v.watches = [] ∨ fetched = false) (ha : v.absent = []) (he : v.awaitEret = []) :
    v.endTurn u t i fetched = v := by
  have hfetch : (if fetched then v.noteFetch u t else v) = v := by
    split
    next h => simp [State.noteFetch, hd.resolve_right (by simp [h]), hw.resolve_right (by simp [h])]
    next => rfl
  unfold State.endTurn
  rw [hfetch, State.endPass_of_no hpass]
  simp [State.meetAbsent, State.noteEret, ha, he]

/-- A step that is thread t's turn in u runs i: what follows it is the turn's end. -/
theorem step_of_threadTurn {s u : State} {t : Tid} {i : Instr} {fetched : Bool} (hstep : step s = u.turnOf t) (hi : u.threadTurn t = some i)
    (hf : ((u.thr t).status == .running && (u.dueFirst t).isNone) = fetched) :
    (step s = match exec i u with | .next v => .next (v.endTurn u t i fetched) | q => q) ∧
      ∀ v, exec i u = .next v → (u.thr t).debugPass = .no → v.dead = [] ∨ fetched = false → v.watches = [] ∨ fetched = false → v.absent = [] →
        v.awaitEret = [] → step s = .next v := by
  have hrun : step s = match exec i u with | .next v => .next (v.endTurn u t i fetched) | q => q := by
    rewrite [hstep, State.turnOf, hi, ← hf]
    rfl
  refine ⟨hrun, fun v hv hpass hd hw ha he => ?_⟩
  rw [hrun, hv]
  exact congrArg _ (State.endTurn_of_quiet hpass hd hw ha he)

/-- What is due before the instruction is not fetched. -/
theorem step_of_dueFirst {s u : State} {t : Tid} {i : Instr} (hstep : step s = u.turnOf t) (hstop : (u.thr t).debugStop = none)
    (hlive : (u.thr t).status ∈ [Status.running, .wfe, .bwait]) (h : u.dueFirst t = some i) :
    (step s = match exec i u with | .next v => .next (v.endTurn u t i false) | q => q) ∧
      ∀ v, exec i u = .next v → (u.thr t).debugPass = .no → v.dead = [] ∨ false = false → v.watches = [] ∨ false = false → v.absent = [] →
        v.awaitEret = [] → step s = .next v :=
  step_of_threadTurn hstep (State.threadTurn_due hstop hlive h) (by simp [h])

/-- A deadline is noted in supervisor mode only. -/
theorem State.noteDeadline_of_not {s : State} {t : Tid} (h : ¬ ((s.thr t).arch.mode = .supervisor ∧ s.deadlineMet t = true)) :
    s.noteDeadline t = s :=
  if_neg fun q => h ⟨q.1, q.2.1⟩

/-- An event's turn is its meaning, after which the debugger's pass over the stopped address of its thread may end. -/
theorem State.eventTurn_eq (s : State) (i : Instr) : (eventThread i = none → s.eventTurn i = exec i s) ∧
    ∀ t, eventThread i = some t →
      (s.eventTurn i = match exec i s with | .next v => .next (v.endPass t (s.thr t) false) | q => q) ∧
      ((s.thr t).debugPass = .no → s.eventTurn i = exec i s) := by
  unfold State.eventTurn
  refine ⟨fun h => ?_, fun t h => ?_⟩
  · rw [h]; cases exec i s <;> rfl
  · rw [h]
    cases exec i s with
    | next v => exact ⟨rfl, fun hp => congrArg _ (State.endPass_of_no hp)⟩
    | fault r => exact ⟨rfl, fun _ => rfl⟩
    | refused r => exact ⟨rfl, fun _ => rfl⟩

/-- Without power, or stopped, a step is the turn of a package that is off. -/
theorem step_off {s : State} (h : ¬ (s.boot.powered = true ∧ s.boot.stopped = false)) : step s = s.nextSlot.2.offTurn s.nextSlot.1.turn := by
  show State.stepOnce s = _
  unfold State.stepOnce
  rw [if_neg (by simpa using h)]

theorem State.offTurn_event (s : State) (i : Instr) : s.offTurn (.event i) = if revives i then exec i s else .fault .packageOff := rfl

theorem State.offTurn_of_no_event (s : State) {turn : Turn} (h : ∀ i, turn ≠ .event i) : s.offTurn turn = .fault .packageOff := by
  rcases s.offTurn_cases turn with e | ⟨i, hi, -⟩
  · exact e
  · exact absurd hi (h i)

theorem revives_iff (i : Instr) : revives i = true ↔ (∃ b, i = .bringUp b) ∨ i = .powerOff := by
  unfold revives
  split <;> simp_all

/-- Settles O57: the turn of `threadTurn`, whose order is that of R367, and the quiet end of a turn. -/
theorem stepRunsTheDecodedInstruction : Obligations.StepRunsTheDecodedInstruction := by
  unfold Obligations.StepRunsTheDecodedInstruction
  intro s slot rest hslot
  refine ⟨hslot.symm, ?_⟩
  intro on ticked r
  have hon : on → step s = (rest.tick slot.cycles).takeTurn slot.turn := fun h => by rw [step_on s h.1 h.2, hslot]
  have hoff : ¬ on → step s = rest.offTurn slot.turn := fun h => by rw [step_off h, hslot]
  refine ⟨fun hw => ?_, fun t h hturn => ?_, fun i h hturn hevent => ?_, fun h hturn => ?_, fun h i hturn => ?_⟩
  · show State.seeWatches _ = _
    rw [State.seeWatches, if_pos (by show rest.watches.isEmpty = true; rw [hw]; rfl)]
  · intro u th
    have hstep : ¬ ((u.thr t).arch.mode = .supervisor ∧ u.deadlineMet t = true) → step s = u.turnOf t := fun hquiet => by
      rw [hon h, hturn]
      show (State.noteDeadline u t).turnOf t = _
      rw [State.noteDeadline_of_not hquiet]
    refine ⟨fun hidle hquiet => ?_, ?_⟩
    · rw [hstep hquiet, State.turnOf, State.threadTurn_none hidle]
    intro Does Runs Comes preempts boundary hstop hlive hmode
    replace hstep := hstep fun q => hmode.elim (fun hm => nomatch hm.symm.trans q.1) fun hd => nomatch hd.symm.trans q.2
    have comes : ∀ i, u.dueFirst t = some i → Comes i := fun i => step_of_dueFirst hstep hstop hlive
    refine ⟨fun hp => comes _ (State.dueFirst_preempts hp), fun hp hb hq => comes _ (State.dueFirst_pending hp hb hq),
      fun hp hb hq hh => comes _ (State.dueFirst_held hp hb hq hh), fun hp hb => ?_⟩
    have hdue := State.dueFirst_debug hp hb
    refine ⟨fun hd => comes _ (by rw [hdue, if_pos hd]), fun hd => ?_⟩
    have hnone : u.dueFirst t = none := by rw [hdue, hd]; rfl
    refine ⟨fun hs => step_of_threadTurn hstep (State.threadTurn_wfe hstop hs hnone) (by rw [hs]; rfl),
      fun hs => step_of_threadTurn hstep (State.threadTurn_bwait hstop hs hnone) (by rw [hs]; rfl), fun hs => ?_⟩
    have runs : Runs (u.nextInstr t) :=
      step_of_threadTurn hstep (State.threadTurn_running hstop hs hnone) (by rw [show (u.thr t).status = .running from hs, hnone]; rfl)
    exact ⟨fun w i hw hi => State.nextInstr_ok hw hi ▸ runs, fun w e hw he => State.nextInstr_illegal hw he ▸ runs,
      fun e he => State.nextInstr_fault he ▸ runs⟩
  · have hstep : step s = r.eventTurn i := by
      rw [hon h, hturn]
      exact if_pos hevent
    rw [hstep]
    exact r.eventTurn_eq i
  · rw [hoff h, rest.offTurn_of_no_event hturn]
  · rw [hoff h, hturn, rest.offTurn_event, ← revives_iff]
    exact ⟨fun q => if_pos q, fun q => if_neg q⟩

end Sys2Proof.Machine
end

section
/-! PROOFS. The access table of R21, the checks of R22 in their order, and what rsys reads (spec/01_machine.md R21 to R24, spec/13_control_flow.md R290
to R292): O20 and O22. -/

namespace Sys2Proof.Machine

/-! ## The table of R21 -/

/-- The numbers of the table. -/
def SysListed (n : Nat) : Prop :=
  n ≤ 6 ∨ (0x10 ≤ n ∧ n ≤ 0x35) ∨ n ∈ [0x40, 0x41, 0x50, 0x51, 0x52] ∨ (0x60 ≤ n ∧ n ≤ 0x65) ∨ n ∈ [0x70, 0x71, 0x80, 0x90, 0x91] ∨
    (0xA0 ≤ n ∧ n ≤ 0xA7) ∨ (0xB0 ≤ n ∧ n ≤ 0xBF)

/-- The registers marked Sup. -/
def SysSup (n : Nat) : Prop := n ∈ [0x50, 0x51, 0x80] ∨ (0x60 ≤ n ∧ n ≤ 0x65)

/-- The registers that are read-only in supervisor mode as well. -/
def SysReadOnly (n : Nat) : Prop := n ∈ [0, 1, 2, 4, 0x30, 0x31, 0x32, 0x34, 0x35, 0x40, 0x41, 0x91]

theorem sysAccess_beyond {n : Nat} (h : 192 ≤ n) : sysAccess n = none := by
  simp (disch := omega) only [sysAccess, if_neg]

/-- The table ends below 192, so that it can be gone through in rows of 16. -/
theorem forall_of_sysRows {p : Nat → Prop} (rows : ∀ a < 12, ∀ b < 16, p (16 * a + b)) (rest : ∀ n, 192 ≤ n → p n) (n : Nat) : p n := by
  by_cases h : n < 192
  · rw [← Nat.div_add_mod n 16]
    exact rows _ (by omega) _ (by omega)
  · exact rest n (by omega)

theorem sysAccess_none_iff : ∀ n, sysAccess n = none ↔ ¬ SysListed n := by
  let _ : DecidablePred SysListed := fun _ => inferInstanceAs (Decidable (_ ∨ _))
  refine forall_of_sysRows (by decide) fun n h => iff_of_true (sysAccess_beyond h) ?_
  simp only [SysListed, List.mem_cons, List.not_mem_nil, or_false]
  omega

theorem sysAccess_sup_iff : ∀ n, sysAccess n = some .sup ↔ SysSup n := by
  refine forall_of_sysRows (by unfold SysSup; decide) fun n h => iff_of_false (by simp [sysAccess_beyond h]) ?_
  simp only [SysSup, List.mem_cons, List.not_mem_nil, or_false]
  omega

theorem sysAccess_rw_iff : ∀ n, sysAccess n = some .rw ↔ n ∈ [3, 5, 6] := by
  refine forall_of_sysRows (by decide) fun n h => iff_of_false (by simp [sysAccess_beyond h]) ?_
  simp only [List.mem_cons, List.not_mem_nil, or_false]
  omega

theorem sysAccess_ro_iff : ∀ n, sysAccess n = some .ro ↔ SysReadOnly n := by
  refine forall_of_sysRows (by unfold SysReadOnly; decide) fun n h => iff_of_false (by simp [sysAccess_beyond h]) ?_
  simp only [SysReadOnly, List.mem_cons, List.not_mem_nil, or_false]
  omega
/-! ## The checks of R22 -/

/-- A listed register is reached in one of the four ways. -/
theorem exists_sysAccess {n : Nat} (h : SysListed n) : ∃ acc, sysAccess n = some acc :=
  Option.ne_none_iff_exists'.1 fun q => (sysAccess_none_iff n).1 q h

theorem State.sysCheck_unlisted (s : State) (word : Word) {n : Nat} (write : Bool) (h : ¬ SysListed n) :
    s.sysCheck word n write = .error (.trap 0x01 word) := by
  simp only [State.sysCheck, (sysAccess_none_iff n).2 h]

theorem State.sysCheck_of_sup {s : State} (word : Word) {n : Nat} (write : Bool) (hu : (s.arch s.cur).mode = .user) (hs : SysSup n) :
    s.sysCheck word n write = .error (.trap 0x02 word) := by
  simp [State.sysCheck, (sysAccess_sup_iff n).2 hs, hu]

/-- A read passes unless user mode reads a register marked Sup. -/
theorem State.sysCheck_read {s : State} (word : Word) {n : Nat} (h : SysListed n) (hm : ¬ ((s.arch s.cur).mode = .user ∧ SysSup n)) :
    s.sysCheck word n false = .ok () := by
  obtain ⟨acc, ha⟩ := exists_sysAccess h
  unfold State.sysCheck
  rw [ha]
  cases acc with
  | sup =>
    have hu : (s.arch s.cur).mode ≠ .user := fun q => hm ⟨q, (sysAccess_sup_iff n).1 ha⟩
    simp [hu]
  | rw => rfl
  | supWrites => rfl
  | ro => rfl

/-- User mode writes ML, FFLAGS and FFST only. -/
theorem State.sysCheck_write_user {s : State} (word : Word) {n : Nat} (h : SysListed n) (hu : (s.arch s.cur).mode = .user) (hn : n ∉ [3, 5, 6]) :
    s.sysCheck word n true = .error (.trap 0x02 word) := by
  obtain ⟨acc, ha⟩ := exists_sysAccess h
  unfold State.sysCheck
  rw [ha, hu]
  cases acc with
  | sup => rfl
  | rw => exact absurd ((sysAccess_rw_iff n).1 ha) hn
  | supWrites => rfl
  | ro => rfl

theorem State.sysCheck_write_readOnly {s : State} (word : Word) {n : Nat} (hu : (s.arch s.cur).mode ≠ .user) (hr : SysReadOnly n) :
    s.sysCheck word n true = .error (.trap 0x01 word) := by
  simp [State.sysCheck, (sysAccess_ro_iff n).2 hr, hu]

/-- A write passes where the register may be written in the mode. -/
theorem State.sysCheck_write_of_listed {s : State} (word : Word) {n : Nat} (h : SysListed n) (hr : ¬ SysReadOnly n)
    (hm : (s.arch s.cur).mode = .user → n ∈ [3, 5, 6]) : s.sysCheck word n true = .ok () := by
  obtain ⟨acc, ha⟩ := exists_sysAccess h
  refine State.sysCheck_write word ha (fun q => hr ((sysAccess_ro_iff n).1 (q ▸ ha))) ?_
  cases hu : (s.arch s.cur).mode with
  | user => exact .inr (Option.some.inj (ha.symm.trans ((sysAccess_rw_iff n).2 (hm hu))))
  | supervisor => exact .inl rfl

/-! ## rsys and wsys by the outcome of the checks -/

theorem traps_rsys {s : State} {d : XReg} {num : BitVec 10} {c : BitVec 8}
    (h : s.sysCheck (wordOf (.rsys d num)) num.toNat false = .error (.trap c (wordOf (.rsys d num)))) :
    Traps s (.rsys d num) c (wordOf (.rsys d num)) := by
  show execRsys d num s = _
  rw [execRsys, h]
  rfl

theorem traps_wsys {s : State} {a : XReg} {num : BitVec 10} {c : BitVec 8}
    (h : s.sysCheck (wordOf (.wsys a num)) num.toNat true = .error (.trap c (wordOf (.wsys a num)))) :
    Traps s (.wsys a num) c (wordOf (.wsys a num)) := by
  show s.wsysOf a num.toNat = _
  rw [State.wsysOf, BitVec.ofNat_toNat, BitVec.setWidth_eq, h]
  rfl

/-- An rsys that passes reads the register, once a checkpoint that is due has taken effect where the register waits for it. -/
theorem rsys_completes {s : State} {d : XReg} {num : BitVec 10} (h : SysListed num.toNat)
    (hm : ¬ ((s.arch s.cur).mode = .user ∧ SysSup num.toNat)) {w : State} (hw : w = if waitsRetired num.toNat then s.settle s.cur else s) :
    ∃ t, exec (.rsys d num) s = .next t ∧ Retires w t (s.pc + 4) 0 ∧ WritesX w t d (s.readSys num.toNat) := by
  have hsame : SameSys s w := by
    rw [hw]
    split
    · exact sameSys_settle s
    · exact sameSys_refl s
  have hexec : exec (.rsys d num) s = .next ((w.setX d (w.readSys num.toNat)).retireTo (w.pc + 4)) := by
    show execRsys d num s = _
    rw [execRsys, State.sysCheck_read _ h hm, ← State.setX_pc w d (w.readSys num.toNat), hw]
    rfl
  refine ⟨_, hexec, ?_⟩
  rw [← hsame.pc, ← hsame.reads]
  exact w.complete_x_spec d _ _

theorem wsys_waits {s : State} {a : XReg} {num : BitVec 10} (h : s.sysCheck (wordOf (.wsys a num)) num.toNat true = .ok ())
    (hp : isProg num.toNat = true) (hb : (s.arch (s.laneOwner s.cur)).atBoundary = false) : exec (.wsys a num) s = .next s := by
  show s.wsysOf a num.toNat = _
  rw [State.wsysOf, BitVec.ofNat_toNat, BitVec.setWidth_eq, h, hp, hb]
  rfl

/-- Settles O22: each outcome of `sysCheck`, and the write or the wait after it. -/
theorem systemAccessChecksInOrder : Obligations.SystemAccessChecksInOrder := by
  unfold Obligations.SystemAccessChecksInOrder
  intro s x num n user listed sup readOnly
  refine ⟨fun h => ⟨traps_rsys (s.sysCheck_unlisted _ false h), traps_wsys (s.sysCheck_unlisted _ true h)⟩,
    fun h hu hs => traps_rsys (State.sysCheck_of_sup _ false hu hs), fun h hu hn => traps_wsys (State.sysCheck_write_user _ h hu hn),
    fun h hu hr => traps_wsys (State.sysCheck_write_readOnly _ hu hr), fun h hm => ?_, fun h hr hm => ?_⟩
  · exact rsys_completes h hm (by simp [waitsRetired, n])
  · have hcheck := fun word => State.sysCheck_write_of_listed (s := s) word h hr hm
    have hprog : isProg n = true ↔ 0x10 ≤ n ∧ n < 0x30 := by
      simp only [isProg, Bool.and_eq_true, decide_eq_true_eq]
      omega
    refine ⟨fun hready => ?_, fun h1 h2 hbusy => ?_⟩
    · rw [← (sameSys_settle s).x x]
      exact State.wsysOf_eq (hcheck _) fun hp => (hready.resolve_left (by have := hprog.1 hp; omega)).resolve_left (by have := hprog.1 hp; omega)
    · exact wsys_waits (hcheck _) (hprog.2 ⟨h1, h2⟩) (Bool.not_eq_true _ ▸ hbusy)

/-! ## What each register reads (R21, R23) -/

/-- The registers that stand alone, each with its value. -/
def State.sysValues (s : State) : List (BitVec 10 × Word) :=
  let th := s.thr s.cur
  let own := s.thr (if th.lanes.isSome then s.cur else tidOf (hartOf s.cur) 0)
  let f := s.fields[s.cur.val / 512]'(by omega)
  [(0x000#10, BitVec.ofNat 64 own.arch.vl), (0x001#10, own.arch.vtype.setWidth 64), (0x002#10, BitVec.ofNat 64 own.arch.vlmax),
    (0x003#10, own.arch.ml), (0x004#10, BitVec.ofNat 64 own.arch.acc.length), (0x005#10, th.fflags.setWidth 64), (0x006#10, own.arch.ffst),
    (0x030#10, BitVec.ofNat 64 (s.cur.val / 8)), (0x031#10, BitVec.ofNat 64 (s.cur.val / 32)), (0x032#10, BitVec.ofNat 64 (s.cur.val / 512)),
    (0x033#10, s.devid.setWidth 64), (0x034#10, BitVec.ofNat 64 th.ctx.val), (0x035#10, BitVec.ofNat 64 (s.cur.val % 8)),
    (0x040#10, f.cycle), (0x041#10, th.instret), (0x050#10, th.tcbase), (0x051#10, th.htbase), (0x052#10, th.farm),
    (0x060#10, th.tcause.setWidth 64), (0x061#10, th.tepc), (0x062#10, th.tval), (0x063#10, th.tstatus), (0x064#10, th.tvec),
    (0x065#10, th.tscratch), (0x070#10, th.ydead), (0x071#10, th.ystat.setWidth 64), (0x080#10, th.pgroot),
    (0x090#10, f.islim.setWidth 64), (0x091#10, f.iscur.setWidth 64)]

theorem quadOf_hartOf_val (t : Tid) : (quadOf (hartOf t)).val = t.val / 32 := Nat.div_div_eq_div_mul t.val 8 4

theorem fieldOf_hartOf_val (t : Tid) : (fieldOf (hartOf t)).val = t.val / 512 := Nat.div_div_eq_div_mul t.val 8 64

theorem State.fld_fieldOf_hartOf (s : State) (t : Tid) : s.fld (fieldOf (hartOf t)) = s.fields[t.val / 512]'(by omega) := by
  simp only [State.fld, fieldOf_hartOf_val]

theorem State.readSys_sysValues (s : State) : ∀ p ∈ s.sysValues, s.readSys p.1.toNat = p.2 := by
  have hq := quadOf_hartOf_val s.cur
  have hf := fieldOf_hartOf_val s.cur
  simp only [State.sysValues, List.forall_mem_cons]
  refine ⟨rfl, rfl, rfl, rfl, rfl, rfl, rfl, rfl, ?_, ?_, rfl, rfl, rfl, ?_, rfl, rfl, rfl, rfl, rfl, rfl, rfl, rfl, rfl, rfl, rfl, rfl, rfl, ?_, ?_,
    nofun⟩
  · exact congrArg (BitVec.ofNat 64) hq
  · exact congrArg (BitVec.ofNat 64) hf
  · exact congrArg Field.cycle (s.fld_fieldOf_hartOf s.cur)
  · exact congrArg (fun f : Field => f.islim.setWidth 64) (s.fld_fieldOf_hartOf s.cur)
  · exact congrArg (fun f : Field => f.iscur.setWidth 64) (s.fld_fieldOf_hartOf s.cur)

theorem sysListed_sysValues (s : State) : ∀ p ∈ s.sysValues, SysListed p.1.toNat := by
  have key : (s.sysValues.map Prod.fst).all (fun m => (sysAccess m.toNat).isSome) = true := rfl
  refine fun p hp => not_not.1 fun h => ?_
  simpa [(sysAccess_none_iff _).2 h] using List.all_eq_true.1 key _ (List.mem_map_of_mem hp)

theorem vector_getElem?_toList {α : Type} {m : Nat} (v : Vector α m) (k : Fin m) (d : α) : ((v.toArray.toList)[k.val]?).getD d = v[k.val] := by
  simp

/-- Settles O20: the value of each register of the table, and a read that passes the checks. -/
theorem systemReadsComplete : Obligations.SystemReadsComplete := by
  unfold Obligations.SystemReadsComplete
  intro s d num v th own f hmode hreg w
  have hfam : ∀ n, n < 2 ^ 10 → (BitVec.ofNat 10 n).toNat = n := fun n hn => by rw [BitVec.toNat_ofNat, Nat.mod_eq_of_lt hn]
  have hread : SysListed num.toNat ∧ s.readSys num.toNat = v := by
    rcases hreg with h | ⟨k, rfl, rfl⟩ | ⟨k, rfl, rfl⟩ | ⟨k, rfl, rfl⟩ | ⟨k, rfl, rfl⟩
    · exact ⟨sysListed_sysValues s _ h, s.readSys_sysValues _ h⟩
    · rw [hfam _ (by omega), State.readSys_lane s (by unfold isLaneReg; omega)]
      refine ⟨by unfold SysListed; omega, ?_⟩
      simp (disch := omega) only [Thread.laneReg, if_neg, if_pos, Nat.add_sub_cancel_left, vector_getElem?_toList]
      rfl
    · rw [hfam _ (by omega), State.readSys_lane s (by unfold isLaneReg; omega)]
      refine ⟨by unfold SysListed; omega, ?_⟩
      simp (disch := omega) only [Thread.laneReg, if_neg, if_pos, Nat.add_sub_cancel_left, vector_getElem?_toList]
      rfl
    · rw [hfam _ (by omega), State.readSys_own s (by unfold isLaneReg; omega) (by unfold isPlaceReg; omega)]
      refine ⟨by unfold SysListed; omega, ?_⟩
      simp (disch := omega) only [Thread.ownReg, Arch.lpcAt, if_neg, if_pos, Nat.add_sub_cancel_left, vector_getElem?_toList]
      rfl
    · rw [hfam _ (by omega), State.readSys_own s (by unfold isLaneReg; omega) (by unfold isPlaceReg; omega)]
      refine ⟨by unfold SysListed; omega, ?_⟩
      simp (disch := omega) only [Thread.ownReg, Arch.lcntAt, if_neg, if_pos, Nat.add_sub_cancel_left, vector_getElem?_toList]
      rfl
  have hsup : SysSup num.toNat → num ∈ [0x050#10, 0x051#10, 0x060#10, 0x061#10, 0x062#10, 0x063#10, 0x064#10, 0x065#10, 0x080#10] := by
    simp only [SysSup, List.mem_cons, List.not_mem_nil, or_false, ← BitVec.toNat_inj, BitVec.toNat_ofNat]
    omega
  rw [← hread.2]
  refine rsys_completes hread.1 (fun q => ?_) ?_
  · rcases hmode with h | h
    · exact nomatch h.symm.trans q.1
    · exact h (hsup q.2)
  · refine if_congr ?_ rfl rfl
    simp only [waitsRetired, Bool.or_eq_true, beq_iff_eq, List.mem_cons, List.not_mem_nil, or_false, ← BitVec.toNat_inj, BitVec.toNat_ofNat]

end Sys2Proof.Machine
end

section
/-! PROOFS. What the operations that perform a write at its home change, and what a drain leaves on the way (spec/10_ordering_rules.md R217 to R232,
spec/12_strips_convoys.md R257): the layer under the proofs of O26 and O40. -/

namespace Sys2Proof.Machine

/-! ## The frame of a write at its home -/

/-- From s to u writes have been performed at their homes: homes, maps, reports and change bits may differ, and nothing else does. -/
structure Performs (s u : State) : Prop where
  rest : u = { s with
    threads := u.threads, mem := u.mem, tags := u.tags, bad := u.bad, covers := u.covers, dead := u.dead, elided := u.elided, routes := u.routes
    known := u.known, reports := u.reports, errCounts := u.errCounts, debugLog := u.debugLog }
  thr : ∀ v, u.thr v = { s.thr v with change := (u.thr v).change }

theorem Performs.refl (s : State) : Performs s s := ⟨rfl, fun _ => rfl⟩

theorem Performs.trans {s u w : State} (h : Performs s u) (h' : Performs u w) : Performs s w where
  rest := by
    refine h'.rest.trans ?_
    rw [h.rest]
  thr v := by
    rw [h'.thr, h.thr]

/-- An operation that leaves the threads alone and changes only what a write at a home may change. -/
theorem Performs.of_threads {s u : State} (ht : u.threads = s.threads) (h : u = { s with
    threads := u.threads, mem := u.mem, tags := u.tags, bad := u.bad, covers := u.covers, dead := u.dead, elided := u.elided, routes := u.routes
    known := u.known, reports := u.reports, errCounts := u.errCounts, debugLog := u.debugLog }) : Performs s u :=
  ⟨h, fun v => by unfold State.thr; rw [ht]⟩

theorem Performs.foldl {β : Type} {f : State → β → State} (hf : ∀ s b, Performs s (f s b)) (l : List β) (s : State) : Performs s (l.foldl f s) := by
  induction l generalizing s with
  | nil => exact .refl s
  | cons b l ih => exact (hf s b).trans (ih _)

theorem Performs.ite {s a b : State} (c : Prop) [Decidable c] (ha : Performs s a) (hb : Performs s b) : Performs s (if c then a else b) := by
  split
  · exact ha
  · exact hb

section
variable {s u : State} (h : Performs s u)
include h

theorem Performs.harts : u.harts = s.harts := by rw [h.rest]
theorem Performs.fields : u.fields = s.fields := by rw [h.rest]
theorem Performs.stores : u.stores = s.stores := by rw [h.rest]
theorem Performs.launches : u.launches = s.launches := by rw [h.rest]
theorem Performs.cur : u.cur = s.cur := by rw [h.rest]
theorem Performs.hrt (x : HartId) : u.hrt x = s.hrt x := by unfold State.hrt; rw [h.harts]

theorem Performs.withStores (l : List StoreEntry) : Performs { s with stores := l } { u with stores := l } where
  rest := by
    conv_lhs => rw [h.rest]
  thr := h.thr

end

theorem vmap_getElem {α : Type} {n : Nat} (f : α → α) (v : Vector α n) (k : Nat) (hk : k < n) : (vmap f v)[k] = f v[k] := by
  simp [vmap]

theorem State.noticeThreads_performs (s : State) (f : Nat → Bool) : Performs s (s.noticeThreads f) where
  rest := rfl
  thr v := by
    have e : (s.noticeThreads f).thr v = if f (s.thr v).watchLine then { s.thr v with change := true } else s.thr v :=
      vmap_getElem _ s.threads v.val v.isLt
    rw [e]
    split <;> rfl

theorem State.noticeWrite_performs (s : State) (l : List Nat) : Performs s (s.noticeWrite l) :=
  Performs.ite _ (.refl s) (s.noticeThreads_performs _)

theorem State.noticeRange_performs (s : State) (lo hi : Nat) : Performs s (s.noticeRange lo hi) := s.noticeThreads_performs _

theorem State.reviveAt_performs (s : State) (k : Nat) : Performs s (s.reviveAt k) := by
  unfold State.reviveAt State.revive
  exact Performs.ite _
    ((Performs.of_threads (by rfl) (by rfl)).trans ((State.noticeRange_performs _ _ _).trans (State.noticeWrite_performs _ _))) (.refl s)

theorem State.performByte_performs (s : State) (b : SByte) : Performs s (s.performByte b) :=
  (s.reviveAt_performs b.key).trans (.of_threads rfl rfl)

theorem State.performTag_performs (s : State) (p : Nat × TagWrite) : Performs s (s.performTag p) :=
  Performs.ite _ ((s.reviveAt_performs p.1).trans (.of_threads rfl rfl)) (.refl s)

theorem State.noticeDescriptor_performs (s : State) (k : Nat) : Performs s (s.noticeDescriptor k) := by
  unfold State.noticeDescriptor
  split
  · exact Performs.ite _ (.refl s) (.of_threads rfl rfl)
  · exact .refl s

theorem State.perform_performs (s : State) (bytes : List SByte) (tags : List (Nat × TagWrite)) : Performs s (s.perform bytes tags) := by
  have hb := Performs.foldl State.performByte_performs bytes s
  have ht := Performs.foldl State.performTag_performs tags (bytes.foldl State.performByte s)
  refine hb.trans (ht.trans ?_)
  unfold State.perform
  dsimp only
  refine Performs.trans ?_ ((Performs.foldl State.noticeDescriptor_performs _ _).trans (State.noticeWrite_performs _ _))
  exact .of_threads rfl rfl

theorem State.coverBad_performs (s : State) (e : StoreEntry) : Performs s (s.coverBad e) :=
  Performs.ite _ (.refl s) (.of_threads rfl rfl)

theorem State.reportHits_performs (s : State) (w : Bool) (m : Option (Tid × Word × Nat)) (l : List (Option Nat × Nat)) :
    Performs s (s.reportHits w m l) :=
  Performs.ite _ (.refl s) (.of_threads rfl rfl)

theorem State.reportLost_performs (s : State) (c : CtxId) (k : Nat) : Performs s (s.reportLost c k) := by
  unfold State.reportLost State.reportLoss
  exact Performs.ite _ (Performs.ite _ (.of_threads rfl rfl) (.of_threads rfl rfl)) (.of_threads rfl rfl)

theorem State.performEntry_performs (s : State) (e : StoreEntry) : Performs s (s.performEntry e) := by
  unfold State.performEntry
  dsimp only
  split
  · exact (s.perform_performs _ _).trans ((State.coverBad_performs _ _).trans (State.reportHits_performs _ _ _ _))
  · exact (s.perform_performs _ _).trans ((State.reportHits_performs _ _ _ _).trans (State.reportLost_performs _ _ _))

theorem State.countEvent_performs (s : State) (k : Byte) (f : FieldId) (l : BitVec 16) (pa : Word) (c : BitVec 16) :
    Performs s (s.countEvent k f l pa c) :=
  Performs.ite _ (.of_threads rfl rfl) (.of_threads rfl rfl)

theorem State.noteElided_performs (s : State) (k : Nat) : Performs s (s.noteElided k) := by
  unfold State.noteElided
  dsimp only
  refine Performs.ite _ (Performs.trans ?_ (State.countEvent_performs _ _ _ _ _ _)) (.refl s)
  exact .of_threads rfl rfl

theorem State.noteLines_performs (s : State) (keys : List Nat) : Performs s (s.noteLines keys) :=
  Performs.ite _ (.refl s) (Performs.foldl State.noteElided_performs _ _)

/-! ## What goes and what stays on the way home -/

/-- One point's share of `going`. -/
def goingStep (rank : Nat) (t : Tid) (sel : StoreEntry → Bool) (acc : List StoreEntry × List StoreEntry × Gone) (p : Point) :
    List StoreEntry × List StoreEntry × Gone :=
  if p.rank < rank then
    let g := goingAt p t sel acc.2.2 acc.1
    (g.1, g.2.1 ++ acc.2.1, g.2.2)
  else acc

/-- The points between a hart and the homes, from the hart out. -/
def pathPoints : List Point := [.queue, .hart, .quad, .field, .pkg]

theorem going_eq (rank : Nat) (t : Tid) (sel : StoreEntry → Bool) (keys : List Nat) (es : List StoreEntry) :
    going rank t sel keys es = (((pathPoints.foldl (goingStep rank t sel) (es, [], goneOf keys)).1),
      (pathPoints.foldl (goingStep rank t sel) (es, [], goneOf keys)).2.1) := rfl

theorem goingAt_cons (p : Point) (t : Tid) (sel : StoreEntry → Bool) (gone : Gone) (e : StoreEntry) (es : List StoreEntry) :
    goingAt p t sel gone (e :: es) =
      if e.point == p && e.visibleTo t && (sel e || e.mustGo (goingAt p t sel gone es).2.2) then
        ((goingAt p t sel gone es).1, e :: (goingAt p t sel gone es).2.1, (goingAt p t sel gone es).2.2.add e)
      else (e :: (goingAt p t sel gone es).1, (goingAt p t sel gone es).2.1, (goingAt p t sel gone es).2.2) := rfl

theorem goingAt_sublist (p : Point) (t : Tid) (sel : StoreEntry → Bool) (gone : Gone) (es : List StoreEntry) :
    (goingAt p t sel gone es).1.Sublist es := by
  induction es with
  | nil => exact List.Sublist.refl _
  | cons e es ih =>
    rw [goingAt_cons]
    split
    · exact ih.cons e
    · exact ih.cons_cons e

/-- Where nothing goes, everything stays. -/
theorem goingAt_eq_of_none (p : Point) (t : Tid) (sel : StoreEntry → Bool) (gone : Gone) (es : List StoreEntry)
    (h : (goingAt p t sel gone es).2.1 = []) : (goingAt p t sel gone es).1 = es := by
  induction es with
  | nil => rfl
  | cons e es ih =>
    rw [goingAt_cons] at h ⊢
    split at h
    · cases h
    next hc => rw [if_neg hc, ih h]

/-- What is selected at the point does not stay. -/
theorem not_selected_of_mem_goingAt {p : Point} {t : Tid} {sel : StoreEntry → Bool} {gone : Gone} {es : List StoreEntry} {e : StoreEntry}
    (h : e ∈ (goingAt p t sel gone es).1) (hp : e.point = p) (hv : e.visibleTo t = true) : sel e = false := by
  induction es with
  | nil => cases h
  | cons x es ih =>
    rw [goingAt_cons] at h
    split at h
    · exact ih h
    next hc =>
      rcases List.mem_cons.1 h with rfl | h
      · simp only [hp, hv, beq_self_eq_true, Bool.true_and, Bool.or_eq_true, not_or, Bool.not_eq_true] at hc
        exact hc.1
      · exact ih h

theorem goingStep_sublist (rank : Nat) (t : Tid) (sel : StoreEntry → Bool) (acc : List StoreEntry × List StoreEntry × Gone) (p : Point) :
    (goingStep rank t sel acc p).1.Sublist acc.1 := by
  unfold goingStep
  split
  · exact goingAt_sublist _ _ _ _ _
  · exact List.Sublist.refl _

theorem goingStep_foldl_sublist (rank : Nat) (t : Tid) (sel : StoreEntry → Bool) (l : List Point) (acc : List StoreEntry × List StoreEntry × Gone) :
    (l.foldl (goingStep rank t sel) acc).1.Sublist acc.1 := by
  induction l generalizing acc with
  | nil => exact List.Sublist.refl _
  | cons p l ih => exact (ih _).trans (goingStep_sublist rank t sel acc p)

theorem goingStep_foldl_eq_of_none (rank : Nat) (t : Tid) (sel : StoreEntry → Bool) (l : List Point) (acc : List StoreEntry × List StoreEntry × Gone)
    (h : (l.foldl (goingStep rank t sel) acc).2.1 = []) : acc.2.1 = [] ∧ (l.foldl (goingStep rank t sel) acc).1 = acc.1 := by
  induction l generalizing acc with
  | nil => exact ⟨h, rfl⟩
  | cons p l ih =>
    obtain ⟨h1, h2⟩ := ih _ h
    rw [List.foldl_cons, h2]
    unfold goingStep at h1 ⊢
    split at h1
    next hp =>
      rw [if_pos hp]
      obtain ⟨ha, hb⟩ := List.append_eq_nil_iff.1 h1
      exact ⟨hb, goingAt_eq_of_none _ _ _ _ _ ha⟩
    next hp => rw [if_neg hp]; exact ⟨h1, rfl⟩

theorem going_sublist (rank : Nat) (t : Tid) (sel : StoreEntry → Bool) (keys : List Nat) (es : List StoreEntry) :
    (going rank t sel keys es).1.Sublist es := goingStep_foldl_sublist rank t sel pathPoints _

theorem going_eq_of_none {rank : Nat} {t : Tid} {sel : StoreEntry → Bool} {keys : List Nat} {es : List StoreEntry}
    (h : (going rank t sel keys es).2 = []) : (going rank t sel keys es).1 = es :=
  (goingStep_foldl_eq_of_none rank t sel pathPoints _ h).2

/-- No selected store that the thread sees past its own hart's gate stays. -/
theorem not_selected_of_mem_going {rank : Nat} {t : Tid} {sel : StoreEntry → Bool} {keys : List Nat} {es : List StoreEntry} {e : StoreEntry}
    (h : e ∈ (going rank t sel keys es).1) (hlo : 2 ≤ e.point.rank) (hhi : e.point.rank < rank) (hv : e.visibleTo t = true) : sel e = false := by
  have hp : e.point ∈ pathPoints := by
    cases hpt : e.point <;> simp [hpt, Point.rank, pathPoints] at hlo ⊢
  obtain ⟨before, after, hsplit⟩ := List.append_of_mem hp
  rw [going_eq, hsplit, List.foldl_append, List.foldl_cons] at h
  have hmem := (goingStep_foldl_sublist rank t sel after _).subset h
  rw [goingStep, if_pos hhi] at hmem
  exact not_selected_of_mem_goingAt hmem rfl hv

/-! ## Drains -/

theorem State.drainHome_performs (s : State) (t : Tid) (sel : StoreEntry → Bool) (keys : List Nat) :
    Performs { s with stores := (going 6 t sel keys s.stores).1 } (s.drainHome t sel keys) := by
  unfold State.drainHome
  dsimp only
  split
  next h =>
    rw [going_eq_of_none (List.isEmpty_iff.1 h)]
    exact .refl s
  · exact Performs.foldl State.performEntry_performs _ _

theorem State.drainHome_stores (s : State) (t : Tid) (sel : StoreEntry → Bool) (keys : List Nat) :
    (s.drainHome t sel keys).stores = (going 6 t sel keys s.stores).1 := (s.drainHome_performs t sel keys).stores

theorem State.drainAhead_eq (s : State) (t : Tid) (keys : List Nat) : s.drainAhead t keys = s.drainHome t (fun _ => false) keys := rfl

/-- Writes performed at their homes, of which stores on their way may have been some. -/
def Drains (s u : State) : Prop := u.stores.Sublist s.stores ∧ Performs { s with stores := u.stores } u

theorem Drains.refl (s : State) : Drains s s := ⟨List.Sublist.refl _, .refl s⟩

theorem Drains.trans {s u w : State} (h : Drains s u) (h' : Drains u w) : Drains s w :=
  ⟨h'.1.trans h.1, (h.2.withStores w.stores).trans h'.2⟩

theorem Drains.foldl {β : Type} {f : State → β → State} (hf : ∀ s b, Drains s (f s b)) (l : List β) (s : State) : Drains s (l.foldl f s) := by
  induction l generalizing s with
  | nil => exact .refl s
  | cons b l ih => exact (hf s b).trans (ih _)

theorem Performs.drains {s u : State} (h : Performs s u) : Drains s u := by
  refine ⟨by rw [h.stores], ?_⟩
  rw [h.stores]
  exact h

theorem State.drainHome_drains (s : State) (t : Tid) (sel : StoreEntry → Bool) (keys : List Nat) : Drains s (s.drainHome t sel keys) := by
  unfold Drains
  rw [s.drainHome_stores]
  exact ⟨going_sublist _ _ _ _ _, s.drainHome_performs t sel keys⟩

theorem State.drainAhead_drains (s : State) (t : Tid) (keys : List Nat) : Drains s (s.drainAhead t keys) := s.drainHome_drains t _ keys

theorem State.drainHart_drains (s : State) (h : HartId) (sel : StoreEntry → Bool) : Drains s (s.drainHart h sel) :=
  Drains.foldl (fun s t => s.drainHome_drains t _ []) _ _

/-- A store is seen by its own thread wherever it is. -/
theorem StoreEntry.visibleTo_own (e : StoreEntry) : e.visibleTo e.tid = true := by
  unfold StoreEntry.visibleTo
  split <;> simp

theorem mem_hartThreads (t : Tid) : t ∈ hartThreads (hartOf t) := by
  have h := t.isLt
  have e : t = tidOf (hartOf t) ⟨t.val % 8 % 8, Nat.mod_lt _ (by decide)⟩ := Fin.ext (by simp only [tidOf, hartOf]; omega)
  exact List.mem_map.2 ⟨t.val % 8, List.mem_range.2 (Nat.mod_lt _ (by decide)), e.symm⟩

/-- After a drain of a hart no selected store that it has released is on its way. -/
theorem not_selected_of_mem_drainHart {s : State} {h : HartId} {sel : StoreEntry → Bool} {e : StoreEntry}
    (he : e ∈ (s.drainHart h sel).stores) (hh : hartOf e.tid = h) (hp : 2 ≤ e.point.rank) : sel e = false := by
  have key : ∀ l : List Tid, e.tid ∈ l → ∀ s : State,
      e ∈ (l.foldl (fun s t => s.drainHome t (fun e => e.tid == t && sel e) []) s).stores → sel e = false := by
    intro l
    induction l with
    | nil => intro h; cases h
    | cons t l ih =>
      intro hm s hs
      by_cases ht : e.tid = t
      · have hsub := (Drains.foldl (fun s t => s.drainHome_drains t (fun e => e.tid == t && sel e) []) l _).1.subset hs
        rw [State.drainHome_stores] at hsub
        have hlt : e.point.rank < 6 := by cases e.point <;> decide
        simpa [ht] using not_selected_of_mem_going hsub hp hlt (ht ▸ e.visibleTo_own)
      · exact ih ((List.mem_cons.1 hm).resolve_left ht) _ hs
  exact key _ (hh ▸ mem_hartThreads e.tid) s he

/-! ## A strip's stores enter the release queue -/

theorem mem_enqueue_foldl {l m : List StoreEntry} {e : StoreEntry} (h : e ∈ m.foldl enqueue l) :
    e ∈ l ∨ (∃ x ∈ m, e.tid = x.tid) ∧ 2 ≤ e.point.rank := by
  induction m generalizing l with
  | nil => exact .inl h
  | cons x m ih =>
    rcases ih h with h | ⟨⟨y, hy, ht⟩, hp⟩
    · rcases List.mem_append.1 h with h | h
      · exact .inl h
      · rw [List.mem_singleton.1 h]
        refine .inr ⟨⟨x, List.mem_cons_self, rfl⟩, ?_⟩
        dsimp only
        split <;> decide
    · exact .inr ⟨⟨y, List.mem_cons_of_mem _ hy, ht⟩, hp⟩

/-- A store at a point from which the release has taken the thread's own is another thread's. -/
theorem tid_ne_of_mem_release {s : State} {t : Tid} {e : StoreEntry} (h : e ∈ (s.release t).stores) (hp : e.point.rank < 2) : e.tid ≠ t := by
  intro ht
  have hheld : (e.point == .held || e.point == .closing) = true := by cases hpt : e.point <;> simp [hpt, Point.rank] at hp ⊢
  unfold State.release State.releaseAt at h
  dsimp only at h
  split at h
  next hnone =>
    rw [List.isEmpty_iff, List.filter_eq_nil_iff] at hnone
    exact hnone e h (by simp [ht, hheld])
  · rcases mem_enqueue_foldl h with h | ⟨-, hp'⟩
    · simpa [ht, hheld] using (List.mem_filter.1 h).2
    · omega

theorem State.holdsStore_release (s : State) (t : Tid) : (s.release t).holdsStore t = false := by
  unfold State.holdsStore
  rw [List.any_eq_false]
  intro e he hc
  simp only [Bool.and_eq_true, beq_iff_eq] at hc
  refine tid_ne_of_mem_release he ?_ hc.1
  cases hpt : e.point <;> simp [hpt, Point.rank] at hc ⊢

/-- With no store held, a release does nothing. -/
theorem State.release_of_not_holds {s : State} {t : Tid} (h : s.holdsStore t = false) : s.release t = s := by
  unfold State.holdsStore at h
  rw [List.any_eq_false] at h
  unfold State.release State.releaseAt
  dsimp only
  rw [if_pos]
  rw [List.isEmpty_iff, List.filter_eq_nil_iff]
  exact h

/-- A release changes nothing but the stores on their way. -/
theorem State.releaseAt_eq (s : State) (t : Tid) (p : Point → Bool) : s.releaseAt t p = { s with stores := (s.releaseAt t p).stores } := by
  unfold State.releaseAt
  dsimp only
  split <;> rfl

theorem State.releaseAt_thr (s : State) (t : Tid) (p : Point → Bool) (v : Tid) : (s.releaseAt t p).thr v = s.thr v := by
  rw [s.releaseAt_eq]; rfl

theorem State.release_thr (s : State) (t v : Tid) : (s.release t).thr v = s.thr v := s.releaseAt_thr t _ v

end Sys2Proof.Machine
end

section
/-! PROOFS. svc 0: the end of a helper, of a later lane group and of a kernel (spec/02_clocks_memory.md R31, spec/13_control_flow.md R277, R286): O26. -/

namespace Sys2Proof.Machine

/-! ## The closed strip -/

theorem State.releaseAt_stores_congr {s u : State} (h : u.stores = s.stores) (t : Tid) (p : Point → Bool) :
    (u.releaseAt t p).stores = (s.releaseAt t p).stores := by
  unfold State.releaseAt
  dsimp only
  rw [h]
  split
  · exact h
  · rfl

theorem State.settle_eq (s : State) (t : Tid) : s.settle t = { s with threads := (s.settle t).threads, stores := (s.settle t).stores } := by
  unfold State.settle
  split
  · rfl
  · rw [State.releaseClosing, s.releaseAt_eq]; rfl

theorem State.settle_thr_ne (s : State) {t v : Tid} (h : v ≠ t) : (s.settle t).thr v = s.thr v := by
  unfold State.settle
  split
  · rfl
  · rw [State.thr_setThr_ne _ _ h]
    exact s.releaseAt_thr t _ v

theorem State.settle_due (s : State) (t : Tid) : ((s.settle t).thr t).due = none := by
  unfold State.settle
  split
  next h => exact h
  · simp

/-- With no checkpoint due, settling does nothing. -/
theorem State.settle_of_no_due {s : State} {t : Tid} (h : (s.thr t).due = none) : s.settle t = s := by
  unfold State.settle
  rw [h]

/-- What a checkpoint that takes effect leaves of its thread. -/
theorem State.settle_thr (s : State) (t : Tid) : (s.settle t).thr t = { s.thr t with
    ckpt := ((s.settle t).thr t).ckpt, due := none, restarts := ((s.settle t).thr t).restarts, closingFrom := ((s.settle t).thr t).closingFrom
    closingHistory := ((s.settle t).thr t).closingHistory } := by
  unfold State.settle
  split
  next h => rw [← h]
  · simp only [State.thr_setThr_same, State.releaseClosing, s.releaseAt_thr]

theorem State.settle_stores_congr {s u : State} {t : Tid} (h : u.stores = s.stores) (hd : (u.thr t).due = (s.thr t).due) :
    (u.settle t).stores = (s.settle t).stores := by
  unfold State.settle
  rw [hd]
  split
  · exact h
  · exact State.releaseAt_stores_congr h t _

theorem State.closed_stores_congr {s u : State} {t : Tid} (h : u.stores = s.stores) (hd : (u.thr t).due = (s.thr t).due) :
    (u.closed t).stores = (s.closed t).stores := State.releaseAt_stores_congr (State.settle_stores_congr h hd) t _

theorem State.closed_eq (s : State) (t : Tid) : s.closed t = { s with threads := (s.closed t).threads, stores := (s.closed t).stores } := by
  unfold State.closed State.release
  rw [State.releaseAt_eq, s.settle_eq]

theorem State.closed_thr (s : State) (t v : Tid) : (s.closed t).thr v = (s.settle t).thr v := State.release_thr _ t v

theorem State.closed_thr_ne (s : State) {t v : Tid} (h : v ≠ t) : (s.closed t).thr v = s.thr v := (s.closed_thr t v).trans (s.settle_thr_ne h)

theorem State.holdsStore_closed (s : State) (t : Tid) : (s.closed t).holdsStore t = false := State.holdsStore_release _ t

theorem State.holdsStore_congr {s u : State} (h : u.stores = s.stores) (t : Tid) : u.holdsStore t = s.holdsStore t := by
  unfold State.holdsStore
  rw [h]

/-- A state whose strip is closed stays so. -/
theorem State.closed_of_closed {s : State} {t : Tid} (hd : (s.thr t).due = none) (hh : s.holdsStore t = false) : (s.settle t).release t = s := by
  rw [State.settle_of_no_due hd, State.release_of_not_holds hh]

/-! ## The end of a helper, and of a later group -/

/-- From s, thread t has retired one instruction and closed its strip; no other thread, home or map has changed. -/
structure EndsClosed (s : State) (t : Tid) (u : State) : Prop where
  held : u.holdsStore t = false
  stores : u.stores = (s.closed t).stores
  mem : u.mem = s.mem
  tags : u.tags = s.tags
  bad : u.bad = s.bad
  instret : (u.thr t).instret = (s.thr t).instret + 1
  others : ∀ v, v ≠ t → u.thr v = s.thr v

theorem State.retire_thr_ne (s : State) {v : Tid} (h : v ≠ s.cur) : s.retire.thr v = s.thr v := State.thr_setThr_ne _ _ h

theorem State.retire_due (s : State) : (s.retire.thr s.cur).due = (s.thr s.cur).due := by
  simp [State.retire, State.retireTo]

theorem endsClosed_retire (s : State) : EndsClosed s s.cur (s.retire.closed s.cur) where
  held := State.holdsStore_closed _ _
  stores := State.closed_stores_congr rfl s.retire_due
  mem := by rw [State.closed_eq]; rfl
  tags := by rw [State.closed_eq]; rfl
  bad := by rw [State.closed_eq]; rfl
  instret := by
    rw [State.closed_thr, State.settle_thr]
    simp [State.retire, State.retireTo]
  others v h := by rw [State.closed_thr_ne _ h, s.retire_thr_ne h]

/-- The thread's own state may change further, but for INSTRET, and rows may be served. -/
theorem EndsClosed.setThr {s u w : State} {t : Tid} (h : EndsClosed s t u) {th : Thread} (hw : w = { u with harts := w.harts, reports := w.reports })
    (hi : th.instret = (w.thr t).instret) : EndsClosed s t (w.setThr t th) where
  held := by rw [← h.held, hw]; rfl
  stores := by rw [← h.stores, hw]; rfl
  mem := by rw [← h.mem, hw]; rfl
  tags := by rw [← h.tags, hw]; rfl
  bad := by rw [← h.bad, hw]; rfl
  instret := by
    rw [State.thr_setThr_same, hi, ← h.instret, hw]; rfl
  others v hv := by
    rw [State.thr_setThr_ne _ _ hv, ← h.others v hv, hw]; rfl

theorem State.serveRows_eq (s : State) (h : HartId) (l : Lanes) :
    s.serveRows h l = { s with harts := (s.serveRows h l).harts, reports := (s.serveRows h l).reports } := by
  unfold State.serveRows
  generalize ((s.hrt h).failed.filter _) = rows
  induction rows using List.reverseRecOn generalizing s with
  | nil => rfl
  | append_singleton rows row ih =>
    rw [List.foldl_append, List.foldl_cons, List.foldl_nil, ih s]
    unfold State.serveRow
    dsimp only
    split <;> rfl

theorem endsClosed_stopThread (s : State) : EndsClosed s s.cur (s.retire.stopThread s.cur) :=
  (endsClosed_retire s).setThr (w := s.retire.closed s.cur) rfl rfl

theorem endsClosed_fuseGroup (s : State) : EndsClosed s s.cur (s.retire.fuseGroup s.cur) := by
  unfold State.fuseGroup
  dsimp only
  split
  next l _ =>
    have hw := (s.retire.closed s.cur).serveRows_eq (hartOf s.cur) l
    exact (endsClosed_retire s).setThr hw rfl
  · exact (endsClosed_retire s).setThr rfl rfl

theorem State.stopThread_status (s : State) (t : Tid) : ((s.stopThread t).thr t).status = .off := by
  unfold State.stopThread
  rw [State.thr_setThr_same]

theorem State.fuseGroup_status (s : State) (t : Tid) : ((s.fuseGroup t).thr t).status = .fused ∧ ((s.fuseGroup t).arch t).acc = [] := by
  unfold State.fuseGroup State.arch
  rw [State.thr_setThr_same]
  exact ⟨rfl, rfl⟩

/-! ## A write at plain homes -/

/-- The same bytes at every home. -/
structure SameHomes (s u : State) : Prop where
  mem : u.mem = s.mem
  dead : u.dead = s.dead

theorem SameHomes.refl (s : State) : SameHomes s s := ⟨rfl, rfl⟩

theorem SameHomes.trans {s u w : State} (h : SameHomes s u) (h' : SameHomes u w) : SameHomes s w := ⟨h'.mem.trans h.mem, h'.dead.trans h.dead⟩

theorem SameHomes.ite {s a b : State} (c : Prop) [Decidable c] (ha : SameHomes s a) (hb : SameHomes s b) : SameHomes s (if c then a else b) := by
  split
  · exact ha
  · exact hb

theorem SameHomes.foldl {β : Type} {f : State → β → State} (l : List β) (hf : ∀ s, ∀ b ∈ l, SameHomes s (f s b)) (s : State) :
    SameHomes s (l.foldl f s) := by
  induction l generalizing s with
  | nil => exact .refl s
  | cons b l ih => exact (hf s b List.mem_cons_self).trans (ih (fun s b hb => hf s b (List.mem_cons_of_mem _ hb)) _)

theorem State.isDead_congr {s u : State} (h : u.dead = s.dead) (k : Nat) : u.isDead k = s.isDead k := by
  unfold State.isDead
  rw [h]

theorem SameHomes.isDead {s u : State} (h : SameHomes s u) (k : Nat) : u.isDead k = s.isDead k := State.isDead_congr h.dead k

theorem SameHomes.homeByte {s u : State} (h : SameHomes s u) (k : Nat) : u.homeByte k = s.homeByte k := by
  unfold State.homeByte
  rw [h.isDead, h.mem]

theorem SameHomes.homeWord {s u : State} (h : SameHomes s u) (k : Nat) : u.homeWord k = s.homeWord k := by
  unfold State.homeWord
  simp only [h.homeByte]

theorem State.noticeWrite_sameHomes (s : State) (l : List Nat) : SameHomes s (s.noticeWrite l) := .ite _ (.refl s) ⟨rfl, rfl⟩

theorem State.noticeDescriptor_sameHomes (s : State) (k : Nat) : SameHomes s (s.noticeDescriptor k) := by
  unfold State.noticeDescriptor
  split
  · exact .ite _ (.refl s) ⟨rfl, rfl⟩
  · exact .refl s

theorem State.reportHits_sameHomes (s : State) (w : Bool) (m : Option (Tid × Word × Nat)) (l : List (Option Nat × Nat)) :
    SameHomes s (s.reportHits w m l) := .ite _ (.refl s) ⟨rfl, rfl⟩

theorem State.noteElided_sameHomes (s : State) (k : Nat) : SameHomes s (s.noteElided k) := by
  unfold State.noteElided State.countEvent
  exact .ite _ (.ite _ ⟨rfl, rfl⟩ ⟨rfl, rfl⟩) (.refl s)

theorem State.noteLines_sameHomes (s : State) (keys : List Nat) : SameHomes s (s.noteLines keys) :=
  .ite _ (.refl s) (.foldl _ (fun s k _ => s.noteElided_sameHomes k) _)

theorem State.pruneAhead_sameHomes (s : State) (t : Tid) (f : Ahead → Bool) : SameHomes s (s.pruneAhead t f) := .ite _ (.refl s) ⟨rfl, rfl⟩

/-- What makes a key plain, but for its port: its region is live, and no table, routing word or reserved byte lies there. -/
def State.PlainHome (s : State) (k : Nat) : Prop :=
  s.isDead k = false ∧ (k < livenessBase ∨ routingWord + 8 ≤ k) ∧ reservedByte k = false

theorem State.Plain.home {s : State} {keys : List Nat} (h : s.Plain keys) : ∀ k ∈ keys, s.PlainHome k := by
  intro k hk
  obtain ⟨hd, hb, hr, -⟩ := h.2 k hk
  refine ⟨?_, hb, hr⟩
  unfold State.isDead
  cases hh : isHbm k
  · rfl
  · exact hd hh

theorem State.PlainHome.congr {s u : State} (hd : u.dead = s.dead) {k : Nat} (h : s.PlainHome k) : u.PlainHome k := by
  unfold State.PlainHome State.isDead
  rw [hd]
  exact h

theorem mergeByte_whole (old : Byte) {b : SByte} (hm : b.mask = 0xFF) : mergeByte old b = b.val := by
  unfold mergeByte
  rw [hm]
  change (old &&& 0#8) ||| (b.val &&& BitVec.allOnes 8) = b.val
  rw [BitVec.and_allOnes, BitVec.and_zero, BitVec.zero_or]

/-- A whole byte written at a plain home is a write of memory and nothing else. -/
theorem State.performByte_plain {s : State} {b : SByte} (h : s.PlainHome b.key) (hm : b.mask = 0xFF) :
    s.performByte b = { s with mem := Memory.write s.mem b.key b.val } := by
  obtain ⟨hd, hb, hr⟩ := h
  have hrevive : s.reviveAt b.key = s := by unfold State.reviveAt; simp [hd]
  have hlive : ¬ (livenessBase ≤ b.key ∧ b.key < livenessEnd) := by
    simp only [livenessBase, livenessEnd, routingWord, managementBase] at hb ⊢; omega
  have hroute : ¬ (routingWord ≤ b.key ∧ b.key < routingWord + 8) := by
    simp only [livenessBase, routingWord, managementBase] at hb ⊢; omega
  unfold State.performByte
  simp only [hrevive, hr, hlive, hroute, mergeByte_whole _ hm, if_false, Bool.false_eq_true]

/-- Memory after whole bytes have been written one after the other. -/
def writeAll (m : Memory) (bytes : List SByte) : Memory := bytes.foldl (fun m b => m.write b.key b.val) m

theorem State.foldl_performByte_plain {bytes : List SByte} (hm : ∀ b ∈ bytes, b.mask = 0xFF) {s : State} (h : ∀ b ∈ bytes, s.PlainHome b.key) :
    bytes.foldl State.performByte s = { s with mem := writeAll s.mem bytes } := by
  induction bytes generalizing s with
  | nil => rfl
  | cons b l ih =>
    rw [List.foldl_cons, State.performByte_plain (h b List.mem_cons_self) (hm b List.mem_cons_self)]
    exact ih (fun x hx => hm x (List.mem_cons_of_mem _ hx)) fun x hx => (h x (List.mem_cons_of_mem _ hx)).congr rfl

theorem writeAll_wf {m : Memory} (h : m.wf = true) (bytes : List SByte) : (writeAll m bytes).wf = true :=
  Memory.foldl_write_wf bytes SByte.key SByte.val h

theorem read_writeAll_ne {m : Memory} (h : m.wf = true) {bytes : List SByte} {k : Nat} (hk : k ∉ bytes.map SByte.key) :
    (writeAll m bytes).read k = m.read k := by
  induction bytes generalizing m with
  | nil => rfl
  | cons b l ih =>
    rw [List.map_cons, List.mem_cons, not_or] at hk
    change (writeAll (m.write b.key b.val) l).read k = _
    rw [ih (Memory.write_wf h _ _) hk.2, Memory.read_write h, if_neg hk.1]

theorem read_writeAll_mem {m : Memory} (h : m.wf = true) {bytes : List SByte} (hn : (bytes.map SByte.key).Nodup) {b : SByte} (hb : b ∈ bytes) :
    (writeAll m bytes).read b.key = b.val := by
  induction bytes generalizing m with
  | nil => cases hb
  | cons x l ih =>
    rw [List.map_cons, List.nodup_cons] at hn
    change (writeAll (m.write x.key x.val) l).read b.key = _
    rcases List.mem_cons.1 hb with rfl | hb
    · rw [read_writeAll_ne (Memory.write_wf h _ _) hn.1, Memory.read_write h, if_pos rfl]
    · exact ih (Memory.write_wf h _ _) hn.2 hb

theorem State.isDead_frameOf (s : State) (k : Nat) : s.isDead (frameOf k) = s.isDead k := by
  have hh : isHbm (frameOf k) = isHbm k := by
    unfold isHbm frameOf
    exact decide_eq_decide.2 (by omega)
  have hr : regionOf (frameOf k) = regionOf k := by unfold regionOf frameOf; omega
  unfold State.isDead
  rw [hh, hr]

/-- A tag change in a live region changes no byte. -/
theorem State.performTag_sameHomes {s : State} {p : Nat × TagWrite} (h : s.isDead p.1 = false) : SameHomes s (s.performTag p) := by
  have hrevive : s.reviveAt p.1 = s := by unfold State.reviveAt; simp [h]
  unfold State.performTag
  rw [hrevive]
  exact .ite _ ⟨rfl, rfl⟩ (.refl s)

theorem State.foldl_performTag_sameHomes {tags : List (Nat × TagWrite)} {s : State} (h : ∀ p ∈ tags, s.isDead p.1 = false) :
    SameHomes s (tags.foldl State.performTag s) := by
  induction tags generalizing s with
  | nil => exact .refl s
  | cons p l ih =>
    have hp := State.performTag_sameHomes (h p List.mem_cons_self)
    exact hp.trans (ih fun q hq => (hp.isDead q.1).trans (h q (List.mem_cons_of_mem _ hq)))

theorem frame_of_mem_rawTags {bytes : List SByte} {p : Nat × TagWrite} (h : p ∈ rawTags bytes) : ∃ b ∈ bytes, p.1 = frameOf b.key := by
  obtain ⟨f, hf, rfl⟩ := List.mem_map.1 h
  obtain ⟨b, hb, rfl⟩ := List.mem_map.1 (List.mem_dedup.1 hf)
  exact ⟨b, (List.mem_filter.1 hb).1, rfl⟩

/-- A plain write with its tags is a write of memory: the same bytes elsewhere, and the regions as they were. -/
theorem State.perform_plain {s : State} {bytes : List SByte} (hm : ∀ b ∈ bytes, b.mask = 0xFF) (h : ∀ b ∈ bytes, s.PlainHome b.key) :
    SameHomes { s with mem := writeAll s.mem bytes } (s.perform bytes (rawTags bytes)) := by
  have hw := State.foldl_performByte_plain hm h
  have ht : SameHomes (bytes.foldl State.performByte s) ((rawTags bytes).foldl State.performTag (bytes.foldl State.performByte s)) := by
    refine State.foldl_performTag_sameHomes fun p hp => ?_
    obtain ⟨b, hb, hf⟩ := frame_of_mem_rawTags hp
    rw [hf, State.isDead_frameOf, hw]
    exact (h b hb).1
  rw [hw] at ht
  unfold State.perform
  dsimp only
  rw [hw]
  refine ht.trans (SameHomes.trans ?_
    ((SameHomes.foldl _ (fun s k _ => s.noticeDescriptor_sameHomes k) _).trans (State.noticeWrite_sameHomes _ _)))
  exact ⟨rfl, rfl⟩

theorem State.performNow_plain {s : State} {t : Tid} {bytes : List SByte} (hm : ∀ b ∈ bytes, b.mask = 0xFF) (h : ∀ b ∈ bytes, s.PlainHome b.key) :
    (s.performNow t bytes).mem = writeAll s.mem bytes ∧ (s.performNow t bytes).dead = s.dead := by
  have ha := s.pruneAhead_sameHomes t fun x => x.overlaps (bytes.map SByte.key)
  have hp := State.perform_plain (s := s.accessNow t (bytes.map SByte.key)) hm fun b hb => (h b hb).congr ha.dead
  have hr := State.reportHits_sameHomes ((s.accessNow t (bytes.map SByte.key)).perform bytes (rawTags bytes)) true (s.who t).maker
    (bytes.map fun b => (none, b.key))
  exact ⟨(hr.mem.trans hp.mem).trans (congrArg (writeAll · bytes) ha.mem), (hr.dead.trans hp.dead).trans ha.dead⟩

section
variable {s : State} {t : Tid} {bytes : List SByte} (hc : s.Canonical) (hm : ∀ b ∈ bytes, b.mask = 0xFF) (h : ∀ b ∈ bytes, s.PlainHome b.key)
include hc hm h

theorem State.homeByte_performNow_mem (hn : (bytes.map SByte.key).Nodup) {b : SByte} (hb : b ∈ bytes) :
    (s.performNow t bytes).homeByte b.key = b.val := by
  obtain ⟨hmem, hdead⟩ := State.performNow_plain (t := t) hm h
  unfold State.homeByte
  rw [State.isDead_congr hdead, (h b hb).1, if_neg Bool.false_ne_true, hmem, read_writeAll_mem hc.1 hn hb]

theorem State.homeByte_performNow_ne {k : Nat} (hk : k ∉ bytes.map SByte.key) : (s.performNow t bytes).homeByte k = s.homeByte k := by
  obtain ⟨hmem, hdead⟩ := State.performNow_plain (t := t) hm h
  unfold State.homeByte
  rw [State.isDead_congr hdead, hmem, read_writeAll_ne hc.1 hk]

end

/-! ## Words at their homes -/

/-- Joining bytes as a word is joining them as a number. -/
theorem foldr_word_toNat (l : List Byte) (hl : l.length ≤ 8) :
    (l.foldr (fun (b : Byte) (acc : Word) => (acc <<< 8) ||| b.setWidth 64) 0).toNat = l.foldr (fun (b : Byte) (acc : Nat) => acc * 256 + b.toNat) 0 ∧
      l.foldr (fun (b : Byte) (acc : Nat) => acc * 256 + b.toNat) 0 < 256 ^ l.length := by
  induction l with
  | nil => exact ⟨rfl, by decide⟩
  | cons b l ih =>
    rw [List.length_cons] at hl
    obtain ⟨hv, hlt⟩ := ih (by omega)
    have hb := b.isLt
    have hpow : 256 ^ l.length ≤ 2 ^ 56 := by
      calc 256 ^ l.length ≤ 256 ^ 7 := Nat.pow_le_pow_right (by decide) (by omega)
        _ = 2 ^ 56 := by norm_num
    rw [List.foldr_cons, List.foldr_cons, List.length_cons, pow_succ]
    generalize l.foldr (fun (b : Byte) (acc : Word) => (acc <<< 8) ||| b.setWidth 64) 0 = w at hv ⊢
    generalize l.foldr (fun (b : Byte) (acc : Nat) => acc * 256 + b.toNat) 0 = n at hv hlt ⊢
    refine ⟨?_, by omega⟩
    rw [BitVec.toNat_or, BitVec.toNat_shiftLeft, hv, BitVec.toNat_setWidth, Nat.mod_eq_of_lt (by omega : b.toNat < 2 ^ 64), Nat.shiftLeft_eq,
      Nat.mod_eq_of_lt (by omega), ← Nat.shiftLeft_eq, ← Nat.shiftLeft_add_eq_or_of_lt hb, Nat.shiftLeft_eq]

theorem State.homeNum_eq (s : State) (k len : Nat) :
    s.homeNum k len = ((List.range len).map fun j => s.homeByte (k + j)).foldr (fun (b : Byte) (acc : Nat) => acc * 256 + b.toNat) 0 := by
  rw [List.foldr_map]
  rfl

theorem State.homeWord_toNat (s : State) (k : Nat) : (s.homeWord k).toNat = s.homeNum k 8 := by
  have h := (foldr_word_toNat ((List.range 8).map fun j => s.homeByte (k + j)) (by simp)).1
  rw [← State.homeNum_eq, List.foldr_map] at h
  exact h

theorem SameHomes.homeNum {s u : State} (h : SameHomes s u) (k len : Nat) : u.homeNum k len = s.homeNum k len := by
  unfold State.homeNum
  simp only [h.homeByte]

/-- The bytes of a number, read back. -/
theorem foldr_bytesOf_mod (v len : Nat) : (bytesOf v len).foldr (fun (b : Byte) (acc : Nat) => acc * 256 + b.toNat) 0 = v % 2 ^ (8 * len) := by
  induction len generalizing v with
  | zero => simp [bytesOf, Nat.mod_one]
  | succ n ih =>
    have htail : (List.range n).map (fun j => BitVec.ofNat 8 (v / 2 ^ (8 * (j + 1)))) = bytesOf (v / 2 ^ 8) n := by
      refine List.map_congr_left fun j _ => ?_
      rw [Nat.div_div_eq_div_mul, ← pow_add, show 8 + 8 * j = 8 * (j + 1) by omega]
    rw [bytesOf, List.range_succ_eq_map, List.map_cons, List.map_map, List.foldr_cons]
    change (List.foldr _ 0 ((List.range n).map fun j => BitVec.ofNat 8 (v / 2 ^ (8 * (j + 1))))) * 256 + _ = _
    rw [htail, ih, show 8 * (n + 1) = 8 + 8 * n by omega, pow_add, Nat.mod_mul, BitVec.toNat_ofNat, Nat.mul_zero, pow_zero, Nat.div_one]
    omega

theorem foldr_bytesOf (v : Nat) (hv : v < 2 ^ 64) : (bytesOf v 8).foldr (fun (b : Byte) (acc : Nat) => acc * 256 + b.toNat) 0 = v :=
  (foldr_bytesOf_mod v 8).trans (Nat.mod_eq_of_lt hv)

theorem storeBytes_keys (key : Nat) (l : List Byte) : (storeBytes key l).map SByte.key = keysFrom key l.length :=
  List.ext_getElem (by simp [storeBytes, keysFrom]) fun j h h' => by simp [storeBytes, keysFrom]

theorem mem_storeBytes {key : Nat} {l : List Byte} {j : Nat} (h : j < l.length) : (⟨key + j, l[j], 0xFF⟩ : SByte) ∈ storeBytes key l :=
  List.mem_iff_getElem.2 ⟨j, by simpa [storeBytes] using h, by simp [storeBytes]⟩

theorem mask_of_mem_storeBytes {key : Nat} {l : List Byte} {b : SByte} (h : b ∈ storeBytes key l) : b.mask = 0xFF := by
  obtain ⟨j, hj, rfl⟩ := List.mem_iff_getElem.1 h
  simp [storeBytes]

theorem nodup_keysFrom (key len : Nat) : (keysFrom key len).Nodup :=
  List.Nodup.map (fun _ _ h => Nat.add_left_cancel h) List.nodup_range

/-- Eight bytes written at plain homes: the word there, and every other byte. -/
theorem State.homeWord_performNow {s : State} {t : Tid} {key v : Nat} (hv : v < 2 ^ 64) (hc : s.Canonical)
    (h : ∀ k ∈ keysFrom key 8, s.PlainHome k) :
    ((s.performNow t (storeBytes key (bytesOf v 8))).homeWord key).toNat = v ∧
      ∀ k, k < key ∨ key + 8 ≤ k → (s.performNow t (storeBytes key (bytesOf v 8))).homeByte k = s.homeByte k := by
  have hlen : (bytesOf v 8).length = 8 := by simp [bytesOf]
  have hkeys : (storeBytes key (bytesOf v 8)).map SByte.key = keysFrom key 8 := by rw [storeBytes_keys, hlen]
  have hplain : ∀ b ∈ storeBytes key (bytesOf v 8), s.PlainHome b.key := fun b hb => h _ (hkeys ▸ List.mem_map_of_mem hb)
  have hmask : ∀ b ∈ storeBytes key (bytesOf v 8), b.mask = 0xFF := fun b hb => mask_of_mem_storeBytes hb
  constructor
  · have hread : (List.range 8).map (fun j => (s.performNow t (storeBytes key (bytesOf v 8))).homeByte (key + j)) = bytesOf v 8 := by
      refine List.ext_getElem (by simp [hlen]) fun j hj hj' => ?_
      rw [List.getElem_map, List.getElem_range]
      exact State.homeByte_performNow_mem hc hmask hplain (hkeys ▸ nodup_keysFrom key 8) (mem_storeBytes (key := key) hj')
    rw [State.homeWord_toNat, State.homeNum_eq, hread, foldr_bytesOf v hv]
  · intro k hk
    refine State.homeByte_performNow_ne hc hmask hplain ?_
    rw [hkeys]
    unfold keysFrom
    simp only [List.mem_map, List.mem_range, not_exists, not_and]
    omega

/-! ## The end of a kernel -/

/-- From s, thread t has had its strip closed and stores performed; its reads ahead may be fewer, and no other thread has changed but for its change
bit. -/
structure EndsDrained (s : State) (t : Tid) (u : State) : Prop where
  stores : u.stores.Sublist (s.closed t).stores
  harts : u.harts = s.harts
  launches : u.launches = s.launches
  due : (u.thr t).due = none
  instret : (u.thr t).instret = (s.thr t).instret
  others : ∀ v, v ≠ t → u.thr v = { s.thr v with change := (u.thr v).change }

theorem endsDrained_of_drains {s u : State} {t : Tid} (h : Drains (s.closed t) u) : EndsDrained s t u where
  stores := h.1
  harts := h.2.harts.trans (by rw [s.closed_eq])
  launches := h.2.launches.trans (by rw [s.closed_eq])
  due := by rw [h.2.thr]; exact (congrArg Thread.due (s.closed_thr t t)).trans (s.settle_due t)
  instret := by
    rw [h.2.thr]
    refine (congrArg Thread.instret (s.closed_thr t t)).trans ?_
    rw [s.settle_thr]
  others v hv := by
    rw [h.2.thr]
    exact congrArg (fun x : Thread => { x with change := (u.thr v).change }) (s.closed_thr_ne hv)

theorem EndsDrained.performs {s u w : State} {t : Tid} (h : EndsDrained s t u) (hw : Performs u w) : EndsDrained s t w where
  stores := hw.stores ▸ h.stores
  harts := hw.harts.trans h.harts
  launches := hw.launches.trans h.launches
  due := by rw [hw.thr]; exact h.due
  instret := by rw [hw.thr]; exact h.instret
  others v hv := by
    rw [hw.thr, h.others v hv]

theorem EndsDrained.pruneAhead {s u : State} {t : Tid} (h : EndsDrained s t u) (f : Ahead → Bool) : EndsDrained s t (u.pruneAhead t f) := by
  unfold State.pruneAhead
  split
  · exact h
  · exact ⟨h.stores, h.harts, h.launches, by rw [State.thr_modThr_same]; exact h.due, by rw [State.thr_modThr_same]; exact h.instret,
      fun v hv => by rw [State.thr_modThr_ne _ _ hv]; exact h.others v hv⟩

theorem EndsDrained.performNow {s u : State} {t : Tid} (h : EndsDrained s t u) (bytes : List SByte) : EndsDrained s t (u.performNow t bytes) :=
  ((h.pruneAhead _).performs (State.perform_performs _ _ _)).performs (State.reportHits_performs _ _ _ _)

/-- The state in which the write of an atomic is performed, once the stores ahead of it have been. -/
def State.beforeAtomic (s : State) (t : Tid) (key : Nat) : State := (s.accessNow t (keysFrom key 8)).noteLines [key]

theorem atomicNew_add_one (old : Nat) : atomicNew .add .w64 old 1 0 = (some ((old + 1) % 2 ^ 64), 0) := rfl

theorem State.atomicAt_add_one (s : State) (t : Tid) {loc : Loc} (hdev : loc.device = false) :
    (s.atomicAt t loc .add .w64 1 0).2.2 = ((s.drainAhead t (keysFrom loc.key 8)).beforeAtomic t loc.key).performNow t
      (storeBytes loc.key (bytesOf ((((s.drainAhead t (keysFrom loc.key 8)).accessNow t (keysFrom loc.key 8)).homeNum loc.key 8 + 1) % 2 ^ 64) 8)) := by
  unfold State.atomicAt State.beforeAtomic keysFrom State.noteAtomic
  simp only [hdev, Bool.false_eq_true, if_false, if_true, atomicNew_add_one, amoBytes]

theorem State.accessNow_sameHomes (s : State) (t : Tid) (keys : List Nat) : SameHomes s (s.accessNow t keys) := s.pruneAhead_sameHomes t _

theorem State.beforeAtomic_sameHomes (s : State) (t : Tid) (key : Nat) : SameHomes s (s.beforeAtomic t key) :=
  (s.accessNow_sameHomes t _).trans (State.noteLines_sameHomes _ _)

/-- The word of a completion counter gains 1, and no other home changes. -/
theorem State.homeWord_atomicAt_add_one {s E : State} {t : Tid} {loc : Loc} (hE : s.drainAhead t (keysFrom loc.key 8) = E)
    (hdev : loc.device = false) (hp : E.Plain (keysFrom loc.key 8)) :
    (s.atomicAt t loc .add .w64 1 0).2.2.homeWord loc.key = E.homeWord loc.key + 1 ∧
      ∀ k, k < loc.key ∨ loc.key + 8 ≤ k → (s.atomicAt t loc .add .w64 1 0).2.2.homeByte k = E.homeByte k := by
  have hb := E.beforeAtomic_sameHomes t loc.key
  have hcanon : (E.beforeAtomic t loc.key).Canonical := State.noteLines_canonical (State.accessNow_canonical hp.1 _ _) _
  have hplain : ∀ k ∈ keysFrom loc.key 8, (E.beforeAtomic t loc.key).PlainHome k := fun k hk => (hp.home k hk).congr hb.dead
  rw [s.atomicAt_add_one t hdev, hE]
  obtain ⟨hw, ho⟩ := State.homeWord_performNow (t := t) (v := ((E.accessNow t (keysFrom loc.key 8)).homeNum loc.key 8 + 1) % 2 ^ 64)
    (Nat.mod_lt _ (by decide)) hcanon hplain
  refine ⟨BitVec.eq_of_toNat_eq ?_, fun k hk => (ho k hk).trans (hb.homeByte k)⟩
  rw [hw, (E.accessNow_sameHomes t _).homeNum, ← State.homeWord_toNat]
  rfl

theorem State.accessNow_stores (s : State) (t : Tid) (keys : List Nat) : (s.accessNow t keys).stores = s.stores := by
  unfold State.accessNow State.pruneAhead
  split <;> rfl

theorem State.performNow_stores (s : State) (t : Tid) (bytes : List SByte) : (s.performNow t bytes).stores = s.stores :=
  (State.reportHits_performs _ _ _ _).stores.trans ((State.perform_performs _ _ _).stores.trans (s.accessNow_stores t _))

theorem EndsDrained.atomicAt_add_one {s u : State} {t : Tid} {loc : Loc} (h : Drains (s.closed t) u) (hdev : loc.device = false) :
    EndsDrained s t (u.atomicAt t loc .add .w64 1 0).2.2 ∧
      (u.atomicAt t loc .add .w64 1 0).2.2.stores = (u.drainAhead t (keysFrom loc.key 8)).stores := by
  rw [u.atomicAt_add_one t hdev]
  have hd := endsDrained_of_drains (h.trans (u.drainAhead_drains t (keysFrom loc.key 8)))
  exact ⟨((hd.pruneAhead _).performs (State.noteLines_performs _ _)).performNow _,
    (State.performNow_stores _ _ _).trans ((State.noteLines_performs _ _).stores.trans (State.accessNow_stores _ _ _))⟩

/-- The last steps of the end of a kernel: the launch counted, the thread stopped, the instruction retired. -/
def State.kernelOff (s : State) (t : Tid) (id : Option Nat) : State :=
  let s := (s.noteCounted id).stopThread t
  s.setThr t { s.thr t with instret := (s.thr t).instret + 1, arch := { (s.thr t).arch with pc := (s.thr t).arch.pc + 4, convoy := none } }

theorem State.laneAfterEnd_of_none {s : State} {t : Tid} (h : (s.hrt (hartOf t)).reclaim = .none) : s.laneAfterEnd t = s := by
  unfold State.laneAfterEnd
  simp only [h]

theorem State.noteCounted_eq (s : State) (id : Option Nat) : s.noteCounted id = { s with launches := (s.noteCounted id).launches } := by
  cases id <;> rfl

theorem State.noteCounted_launches (s : State) (id : Option Nat) : (s.noteCounted id).launches =
    if id.isSome then s.launches.map fun l => if some l.id = id then { l with counted := l.counted + 1 } else l else s.launches := by
  cases id with
  | none => rfl
  | some n => simp [State.noteCounted]

/-- Where the strip is closed, a thread that stops changes alone. -/
theorem State.stopThread_of_closed {s : State} {t : Tid} (hd : (s.thr t).due = none) (hh : s.holdsStore t = false) :
    s.stopThread t = s.setThr t { s.thr t with
      arch := { s.arch t with acc := [] }, status := .off, lanes := none, ckpt := none, due := none, heldFrom := none, closingFrom := none
      history := [], closingHistory := [], ahead := [], lost := none, pending := [], preemptDue := false, launch := none, ydead := 0
      ystat := (s.thr t).ystat &&& 0xE } := by
  unfold State.stopThread
  rw [State.closed_of_closed hd hh]
  rfl

/-- What the end of a kernel leaves: the thread off, its launch counted, and what the drain has left. -/
structure KernelEnds (s : State) (t : Tid) (id : Option Nat) (u w : State) : Prop where
  status : (w.thr t).status = .off
  lanes : (w.thr t).lanes = none
  acc : (w.arch t).acc = []
  launch : (w.thr t).launch = none
  instret : (w.thr t).instret = (s.thr t).instret + 1
  launches : w.launches =
    if id.isSome then s.launches.map fun l => if some l.id = id then { l with counted := l.counted + 1 } else l else s.launches
  others : ∀ v, v ≠ t → w.thr v = { s.thr v with change := (w.thr v).change }
  rest : w = { u with threads := w.threads, launches := w.launches }

section
variable {s u w : State} {t : Tid} {id : Option Nat} (h : KernelEnds s t id u w)
include h

theorem KernelEnds.sameHomes : SameHomes u w := ⟨by rw [h.rest], by rw [h.rest]⟩
theorem KernelEnds.tags : w.tags = u.tags := by rw [h.rest]
theorem KernelEnds.stores : w.stores = u.stores := by rw [h.rest]

end

theorem EndsDrained.holdsStore {s u : State} {t : Tid} (h : EndsDrained s t u) : u.holdsStore t = false := by
  have hc := s.holdsStore_closed t
  unfold State.holdsStore at hc ⊢
  rw [List.any_eq_false] at hc ⊢
  exact fun e he => hc e (h.stores.subset he)

theorem EndsDrained.kernelEnds {s u : State} {t : Tid} (h : EndsDrained s t u) (id : Option Nat) : KernelEnds s t id u (u.kernelOff t id) := by
  have hn := u.noteCounted_eq id
  have hthr : ∀ v, (u.noteCounted id).thr v = u.thr v := fun v => by rw [hn]; rfl
  have hstop := State.stopThread_of_closed (s := u.noteCounted id) (t := t) (by rw [hthr]; exact h.due)
    (by rw [hn]; exact (State.holdsStore_congr rfl t).trans h.holdsStore)
  unfold State.kernelOff
  rw [hstop]
  exact {
    status := by simp
    lanes := by simp
    acc := by simp [State.arch]
    launch := by simp
    instret := by simp [hthr, h.instret]
    launches := by simpa [h.launches] using u.noteCounted_launches id
    others := fun v hv => by
      simp only [State.thr_setThr_ne _ _ hv, hthr]
      exact h.others v hv
    rest := by rw [hn]; rfl }

/-- The completion counter of a launch (R31). -/
def counterOf (l : Option Launch) : Word := (l.map fun l => recCounter l.image).getD 0

/-- The hart's stores that the end of its kernel performs. -/
def State.hartDrained (s : State) (t : Tid) : State := (s.closed t).drainHart (hartOf t) fun e => e.ctx == (s.thr t).ctx

section
variable {s : State} {t : Tid} {l : Option Launch} (ht : (s.hrt (hartOf t)).transfers = []) (hh : s.helpersRun t = false)
  (hw : (s.hartWaits (hartOf t) fun e => e.ctx == (s.thr t).ctx) = false) (hl : s.launchOf (s.thr t).launch = l)
include ht hh hw hl

theorem State.endKernel_without_counter (hc : counterOf l = 0) :
    s.endKernel t = .ok (((s.hartDrained t).kernelOff t (if l.isSome then (s.thr t).launch else none)).laneAfterEnd t) := by
  unfold State.endKernel
  simp only [ht, List.any_nil, hh, hw, hl, Bool.false_eq_true, if_false]
  generalize (if l.isSome = true then (s.thr t).launch else none) = id
  cases l with
  | none =>
    rw [if_pos rfl]
    rfl
  | some l =>
    change recCounter l.image = 0 at hc
    simp only [hc, if_true]
    rfl

theorem State.endKernel_with_counter {loc : Loc} (hc : counterOf l ≠ 0) (hloc : s.atomicLoc t (counterOf l) 8 = .ok loc) :
    s.endKernel t = .ok ((((s.hartDrained t).atomicAt t loc .add .w64 1 0).2.2.kernelOff t (if l.isSome then (s.thr t).launch else none)).laneAfterEnd t) := by
  unfold State.endKernel
  simp only [ht, List.any_nil, hh, hw, hl, Bool.false_eq_true, if_false]
  cases l with
  | none => exact absurd rfl hc
  | some l =>
    change recCounter l.image ≠ 0 at hc
    change s.atomicLoc t (recCounter l.image) 8 = .ok loc at hloc
    simp only [hc, if_false, hloc]
    rfl

end

theorem EndsDrained.laneAfterEnd {s u : State} {t : Tid} {id : Option Nat} (h : EndsDrained s t u) (hr : (s.hrt (hartOf t)).reclaim = .none) :
    (u.kernelOff t id).laneAfterEnd t = u.kernelOff t id := by
  apply State.laneAfterEnd_of_none
  have e : (u.kernelOff t id).harts = u.harts := by rw [(h.kernelEnds id).rest]
  unfold State.hrt at hr ⊢
  rw [e, h.harts]
  exact hr

/-- Of the thread no store is on its way, and of the rest of the hart none that has been released. -/
theorem State.mem_hartDrained {s : State} {t : Tid} {e : StoreEntry} (he : e ∈ (s.hartDrained t).stores) (hh : hartOf e.tid = hartOf t)
    (hc : e.ctx = (s.thr t).ctx) : e.tid ≠ t ∧ e.point.rank < 2 := by
  have hlt : e.point.rank < 2 := by
    by_contra hge
    have hsel := not_selected_of_mem_drainHart he hh (by omega)
    simp [hc] at hsel
  exact ⟨tid_ne_of_mem_release (((s.closed t).drainHart_drains _ _).1.subset he) hlt, hlt⟩

/-! ## svc 0 -/

theorem launch_isSome_of_launchOf {s : State} {id : Option Nat} {l : Launch} (h : s.launchOf id = some l) : id.isSome = true := by
  cases id with
  | none => cases h
  | some n => rfl

theorem State.svcEnd_helper {s : State} (h : (s.thr s.cur).lanes = none) (ht : (s.hrt (hartOf s.cur)).transfers = []) :
    exec (.svc 0) s = .next (s.retire.stopThread s.cur) := by
  change s.svcEnd = _
  unfold State.svcEnd
  simp only [h, ht]
  rfl

theorem State.isReclaimed_of_none {s : State} {h : HartId} (hr : (s.hrt h).reclaim = .none) : s.isReclaimed h = false := by
  unfold State.isReclaimed
  simp only [hr]

theorem State.svcEnd_later {s : State} (h : (s.thr s.cur).lanes.isSome = true) (hg : (s.hrt (hartOf s.cur)).groups ≠ 1) (h0 : threadOf s.cur ≠ 0)
    (hr : (s.hrt (hartOf s.cur)).reclaim = .none) (ht : (s.hrt (hartOf s.cur)).transfers = []) :
    exec (.svc 0) s = .next (s.retire.fuseGroup s.cur) := by
  change s.svcEnd = _
  have hl : s.isLaterGroup s.cur = true := by simp [State.isLaterGroup, hg, h0]
  have hf : s.inFlight s.cur = false := by simp [State.inFlight, ht]
  unfold State.svcEnd
  simp only [Option.isNone_eq_false_iff.2 h, hl, State.isReclaimed_of_none hr, hf]
  rfl

theorem State.svcEnd_whole {s : State} (h : (s.thr s.cur).lanes.isSome = true) (hg : (s.hrt (hartOf s.cur)).groups = 1) :
    exec (.svc 0) s = finishOpen s (s.endKernel s.cur) := by
  change s.svcEnd = _
  have hl : s.isLaterGroup s.cur = false := by simp [State.isLaterGroup, hg]
  unfold State.svcEnd
  simp only [Option.isNone_eq_false_iff.2 h, hl, hg]
  rfl

theorem State.endKernel_of_helpers {s : State} {t : Tid} (hh : s.helpersRun t = true) : s.endKernel t = .error .wait := by
  unfold State.endKernel
  simp only [hh, if_true, ite_self]

theorem kernelEnds_svc {s : State} {id : Option Nat} {u : State} (h : (s.thr s.cur).lanes.isSome = true) (hg : (s.hrt (hartOf s.cur)).groups = 1)
    (hr : (s.hrt (hartOf s.cur)).reclaim = .none) (hu : EndsDrained s s.cur u) (he : s.endKernel s.cur = .ok ((u.kernelOff s.cur id).laneAfterEnd s.cur)) :
    ∃ w, exec (.svc 0) s = .next w ∧ KernelEnds s s.cur id u w := by
  refine ⟨_, ?_, hu.kernelEnds id⟩
  rw [State.svcEnd_whole h hg, he, hu.laneAfterEnd hr]
  rfl

/-- Settles O26: the three ends of svc 0, and the wait for helpers; the counter's word by one indivisible write at a plain home. -/
theorem kernelAndHelperThreadsEnd : Obligations.KernelAndHelperThreadsEnd := by
  unfold Obligations.KernelAndHelperThreadsEnd
  intro s h th c Closed
  have closed_of : ∀ {u}, EndsClosed s s.cur u → Closed u := fun e => ⟨e.held, e.stores, e.mem, e.tags, e.bad, e.instret, e.others⟩
  refine ⟨fun hl ht => ?_, fun hl hg h0 hr ht => ?_, fun hl hg hh => ?_, fun hl hg ht hh hr hw l hlaunch counter hcounter => ?_⟩
  · exact ⟨s.retire.stopThread s.cur, State.svcEnd_helper hl ht, State.stopThread_status _ _, closed_of (endsClosed_stopThread s)⟩
  · obtain ⟨hstatus, hacc⟩ := State.fuseGroup_status s.retire s.cur
    exact ⟨s.retire.fuseGroup s.cur, State.svcEnd_later hl hg h0 hr ht, hstatus, hacc, closed_of (endsClosed_fuseGroup s)⟩
  · rw [State.svcEnd_whole hl hg, State.endKernel_of_helpers hh]
    rfl
  · intro D hplain
    have hD : s.hartDrained s.cur = D := rfl
    clear_value D
    subst hD
    have hc : counter = counterOf l := by rw [hcounter]; cases l <;> rfl
    have hdrains : Drains (s.closed s.cur) (s.hartDrained s.cur) := State.drainHart_drains _ _ _
    have hlast : ∀ {u w : State} {id}, KernelEnds s s.cur id u w → u.stores.Sublist (s.hartDrained s.cur).stores →
        ∀ e ∈ w.stores, hartOf e.tid = h → e.ctx = th.ctx → e.tid ≠ s.cur ∧ e.point.rank < 2 := by
      intro u w id hk hs e he hh hctx
      rw [hk.stores] at he
      exact State.mem_hartDrained (hs.subset he) hh hctx
    have hlaunches : ∀ {L : List Launch},
        (L = if (if l.isSome then th.launch else none).isSome then
          s.launches.map fun x => if some x.id = (if l.isSome then th.launch else none) then { x with counted := x.counted + 1 } else x
        else s.launches) →
        L = if l.isSome then s.launches.map fun x => if some x.id = th.launch then { x with counted := x.counted + 1 } else x else s.launches := by
      rintro L rfl
      cases l with
      | none => rfl
      | some l => simp [launch_isSome_of_launchOf hlaunch]
    by_cases hzero : counter = 0
    · have hu := endsDrained_of_drains hdrains
      obtain ⟨w, hexec, hk⟩ := kernelEnds_svc hl hg hr hu (State.endKernel_without_counter ht hh hw hlaunch (hc.symm.trans hzero))
      refine ⟨w, hexec, hk.status, hk.lanes, hk.acc, hk.launch, hk.instret, hlast hk (List.Sublist.refl _), hlaunches hk.launches, fun _ => ?_,
        fun _ h => absurd hzero h, hk.others⟩
      exact ⟨hk.sameHomes.mem, hk.tags, hk.stores⟩
    · obtain ⟨loc, hloc, hdev, hp⟩ := hplain hzero
      obtain ⟨hu, hstores⟩ := EndsDrained.atomicAt_add_one hdrains hdev
      obtain ⟨w, hexec, hk⟩ := kernelEnds_svc hl hg hr hu (State.endKernel_with_counter ht hh hw hlaunch (fun h => hzero (hc.trans h)) (by rw [← hc]; exact hloc))
      refine ⟨w, hexec, hk.status, hk.lanes, hk.acc, hk.launch, hk.instret,
        hlast hk (by rw [hstores]; exact (State.drainAhead_drains _ _ _).1), hlaunches hk.launches, fun h => absurd h hzero, fun loc' _ hloc' => ?_, hk.others⟩
      obtain rfl : loc = loc' := Except.ok.inj (hloc.symm.trans hloc')
      obtain ⟨hword, hbytes⟩ := State.homeWord_atomicAt_add_one rfl hdev hp
      exact ⟨(hk.sameHomes.homeWord _).trans hword, hk.stores.trans hstores, fun k hk' => (hk.sameHomes.homeByte k).trans (hbytes k hk')⟩

end Sys2Proof.Machine
end

section
/-! PROOFS. The launch unit (spec/14_scheduling.md R293 to R302, spec/21_traps_restart.md R376): a save that O53 does not cover. -/

namespace Sys2Proof.Machine

/-! ## A thread that is off while its hart is saved -/

/-- Thread t is off, with this value in TSCRATCH. -/
def State.OffWith (s : State) (t : Tid) (scratch : Word) : Prop := (s.thr t).status = .off ∧ (s.thr t).tscratch = scratch

section
variable {s : State} {t : Tid} {c : Word} (h : s.OffWith t c)
include h

theorem State.OffWith.drains {u : State} (hu : Drains s u) : u.OffWith t c := by
  unfold State.OffWith
  rw [hu.2.thr]
  exact h

theorem State.OffWith.closed (v : Tid) : (s.closed v).OffWith t c := by
  unfold State.OffWith
  rw [State.closed_thr]
  by_cases hv : t = v
  · rw [← hv, State.settle_thr]
    exact h
  · rw [State.settle_thr_ne _ hv]
    exact h

theorem State.OffWith.setThr {v : Tid} {th : Thread} (hth : v = t → th.status = .off ∧ th.tscratch = c) : (s.setThr v th).OffWith t c := by
  unfold State.OffWith
  by_cases hv : v = t
  · rw [← hv, State.thr_setThr_same]
    exact hth hv
  · rw [State.thr_setThr_ne _ _ (Ne.symm hv)]
    exact h

theorem State.OffWith.clearLocal (x : HartId) (lo hi : Nat) : (s.clearLocal x lo hi).OffWith t c := by
  unfold State.OffWith State.clearLocal
  rw [(State.noticeRange_performs _ _ _).thr]
  exact h

theorem State.OffWith.laneAfterEnd (v : Tid) : (s.laneAfterEnd v).OffWith t c := by
  have hx : ∀ x, (s.setHrt (hartOf v) x).OffWith t c := fun _ => h
  have hc : ∀ x, ((s.setHrt (hartOf v) x).clearUpper (hartOf v)).OffWith t c := fun x => ((hx x).clearLocal _ _ _).clearLocal _ _ _
  have ite : ∀ {a b : State} (p : Prop) [Decidable p], a.OffWith t c → b.OffWith t c → (if p then a else b).OffWith t c := by
    intro a b p _ ha hb
    split
    · exact ha
    · exact hb
  unfold State.laneAfterEnd
  dsimp only
  generalize (if threadOf v = 0 then tidOf (hartOf v) 1 else tidOf (hartOf v) 0) = other
  split
  · exact hx _
  · exact ite _ (hc _) (ite _ (hx _) h)
  · exact ite _ (hc _) h
  · exact h

end

theorem State.OffWith.foldl {t : Tid} {c : Word} {β : Type} {f : State → β → State} (hf : ∀ s b, s.OffWith t c → (f s b).OffWith t c) (l : List β)
    {s : State} (h : s.OffWith t c) : (l.foldl f s).OffWith t c := by
  induction l generalizing s with
  | nil => exact h
  | cons b l ih => exact ih (hf s b h)

/-- A save leaves TSCRATCH of a thread that is off as it was. -/
theorem State.OffWith.saveHart {s : State} {t : Tid} {c : Word} (hs : s.OffWith t c) (h : HartId) (upper : Bool) : (s.saveHart h upper).OffWith t c := by
  have hclosed := State.OffWith.foldl (fun s v h => State.OffWith.closed (s := s) h v) (s.kernelThreads h upper) hs
  unfold State.saveHart
  dsimp only
  have hdrained := fun sel => hclosed.drains ((State.drainHart_drains _ h sel).trans (State.drainHome_drains _ (tidOf h 0) sel []))
  have hcleared : ∀ {u : State}, u.OffWith t c → ((s.kernelThreads h upper).foldl (fun (s : State) t => s.setThr t { Thread.zero with
      tvec := (s.thr t).tvec, tscratch := if (s.thr t).status == .running then (s.thr t).arch.getX 2 + 64 else (s.thr t).tscratch
      instret := (s.thr t).instret, tcause := (s.thr t).tcause, tepc := (s.thr t).tepc, tval := (s.thr t).tval, tstatus := (s.thr t).tstatus
      ctx := (s.thr t).ctx, rfloss := (s.thr t).rfloss, watchLine := (s.thr t).watchLine, change := (s.thr t).change }) u).OffWith t c := by
    refine fun hu => State.OffWith.foldl (fun w v hw => hw.setThr fun hv => ⟨rfl, ?_⟩) _ hu
    obtain ⟨hoff, hsame⟩ := hw
    simp [hv, hoff, hsame]
  have hlast : ∀ {u : State} {b : Bool} {v : Tid} {y : Hart}, u.OffWith t c → (if b then u.laneAfterEnd v else u.setHrt h y).OffWith t c := by
    intro u b v y hu
    split
    · exact hu.laneAfterEnd v
    · exact hu
  exact hlast (hcleared (hdrained _))

/-! ## A save of a hart whose thread 0 has stopped -/

/-- A thread that has trapped in user mode for a yield, and stands in its handler. -/
def yielded : Thread := { Thread.zero with status := .running, arch := { Arch.zero with mode := .supervisor }, tcause := 0x17, launch := some 0 }

/-- Hart 0 with thread 0 off and thread 1 in the handler. -/
def helperYielded : State := State.reset.setThr 1 yielded

theorem helperYielded_offWith : helperYielded.OffWith 0 0 := by
  unfold State.OffWith helperYielded
  rw [State.thr_setThr_ne _ _ (by decide), reset_thr]
  exact ⟨rfl, rfl⟩

theorem helperYielded_preempted : helperYielded.preempted 0 false = true := by
  have hh : helperYielded.hrt 0 = Hart.zero := reset_hrt 0
  have ht : hartThreads 0 = [0, 1, 2, 3, 4, 5, 6, 7] := by decide
  have h1 : helperYielded.thr 1 = yielded := State.thr_setThr_same _ _ _
  have h0 : ∀ v, v ≠ 1 → helperYielded.thr v = Thread.zero := fun v hv => (State.thr_setThr_ne _ _ hv).trans (reset_thr v)
  unfold State.preempted State.standsSaved State.kernelThreads State.isReclaimed
  rw [hh, ht]
  simp [h1, h0, Hart.zero, Thread.zero, yielded, Thread.inHandler]

/-- Refutes O53: where thread 0 of a hart is off and thread 1 stands in the handler of its yield, the save leaves TSCRATCH of thread 0 as it was (0), and
not at 64 above its x2 (64); the statement's clause for a save asks only that the hart is pre-empted, which this one is. -/
theorem not_launchUnitServesPlacesAndCounts : ¬ Obligations.LaunchUnitServesPlacesAndCounts := by
  unfold Obligations.LaunchUnitServesPlacesAndCounts
  rintro ⟨-, -, -, -, -, -, -, save, -⟩
  obtain ⟨u, x, hexec, -, -, -, hscratch, -⟩ := save helperYielded 0 false helperYielded_preempted (by simp)
  have hsave : exec (.hartFreed 0) helperYielded = .next (helperYielded.saveHart 0 false) := by
    change event _ _ = _
    rw [helperYielded_preempted]
    rfl
  obtain rfl : helperYielded.saveHart 0 false = u := by
    rw [hsave] at hexec
    injection hexec
  obtain ⟨-, hzero⟩ := helperYielded_offWith.saveHart 0 false
  have hx2 : (helperYielded.arch 0).getX 2 = 0 := by
    unfold State.arch helperYielded
    rw [State.thr_setThr_ne _ _ (by decide), reset_thr, Thread.zero_getX]
  have hbelow : (0 : Word) = (helperYielded.arch 0).getX 2 + 64 := hzero.symm.trans hscratch
  rw [hx2] at hbelow
  exact absurd hbelow (by decide)

end Sys2Proof.Machine
end

section
/-! PROOFS. What translation, the copy scoreboard and the place of a trap's frame depend on (spec/18_contexts_translation.md R324 to R331,
spec/10_ordering_rules.md R248, spec/21_traps_restart.md R365): the layer under the proof of O40. -/

namespace Sys2Proof.Machine

/-- Two states in which addresses lead to the same places: they differ in stores on their way and free values used, and in what of a thread no
translation reads. -/
structure SameWays (s u : State) : Prop where
  rest : u = { s with threads := u.threads, stores := u.stores, fresh := u.fresh }
  ctx : ∀ v, (u.thr v).ctx = (s.thr v).ctx
  launch : ∀ v, (u.thr v).launch = (s.thr v).launch
  lost : ∀ v, (u.thr v).lost = (s.thr v).lost

section
variable {s u : State} (h : SameWays s u)
include h

theorem SameWays.windowKey (t : Tid) (off : Nat) : u.windowKey t off = s.windowKey t off := by
  obtain ⟨hrest, hctx, hlaunch, -⟩ := h
  obtain ⟨x, y, n, rfl⟩ : ∃ x y n, u = { s with threads := x, stores := y, fresh := n } := ⟨_, _, _, hrest⟩
  unfold State.windowKey State.seesSibling
  simp only [hctx, hlaunch]
  rfl

/-- The address of the request's instruction plays no part in where it leads. -/
theorem SameWays.mapped (w : Who) (x : Option (Word × Nat)) (a : Access) (devOk : Bool) (va : Word) :
    u.mapped { w with site := x } a devOk va = s.mapped w a devOk va := by
  have hwin := h.windowKey w.tid (va.extractLsb' 0 48).toNat
  have hrest := h.rest
  have hwalk : u.walk { w with site := x } va = s.walk w va := by rw [hrest]; rfl
  have hhbm : ∀ k, u.hbmLoc k a = s.hbmLoc k a := fun k => by rw [hrest]; rfl
  have hfenced : ∀ l e, u.leafFenced va l e = s.leafFenced va l e := fun l e => by rw [hrest]; rfl
  have hleaf : ∀ l e, u.leafLoc a va l e = s.leafLoc a va l e := fun l e => by rw [hrest]; rfl
  unfold State.mapped
  simp only [hwin, hwalk, hhbm, hfenced, hleaf]
  rfl

theorem SameWays.losesTo (t : Tid) (fetch : Bool) (k : Nat) : u.losesTo t fetch k = s.losesTo t fetch k := by
  have hport : u.portOfKey k = s.portOfKey k := by rw [h.rest]; rfl
  unfold State.losesTo
  simp only [h.lost, hport]

theorem SameWays.unfenced : SameWays { s with fields := vmap (fun f => { f with fenced := false }) s.fields }
    { u with fields := vmap (fun f => { f with fenced := false }) u.fields } where
  rest := by
    have hf : u.fields = s.fields := by rw [h.rest]
    rw [hf]
    conv_lhs => rw [h.rest]
  ctx := h.ctx
  launch := h.launch
  lost := h.lost

theorem SameWays.losesLoad (w : Who) (x : Option (Word × Nat)) (a : Access) (k : Nat) : u.losesLoad { w with site := x } a k = s.losesLoad w a k := by
  unfold State.losesLoad
  rw [h.losesTo]

theorem SameWays.lostBeyond (w : Who) (x : Option (Word × Nat)) (a : Access) (devOk : Bool) (va : Word) :
    u.lostBeyond { w with site := x } a devOk va = s.lostBeyond w a devOk va := by
  unfold State.lostBeyond
  rw [h.unfenced.mapped w x a devOk va, h.lost]
  simp only [h.losesLoad]

theorem SameWays.translate (w : Who) (x : Option (Word × Nat)) (a : Access) (devOk : Bool) (va : Word) :
    u.translate { w with site := x } a devOk va = s.translate w a devOk va := by
  have hretired : ∀ k, u.isRetired k = s.isRetired k := fun k => by rw [h.rest]; rfl
  unfold State.translate State.placed
  rw [h.mapped w x a devOk va, h.lostBeyond w x a devOk va]
  simp only [hretired, h.losesLoad]

theorem SameWays.locateStruct (w : Who) (x : Option (Word × Nat)) (a : Access) (va : Word) (len : Nat) :
    u.locateStruct { w with site := x } a va len = s.locateStruct w a va len := by
  unfold State.locateStruct
  rw [show u.translate { w with site := x } a false = s.translate w a false from funext fun va => h.translate w x a false va]

theorem SameWays.copyStalls (t : Tid) (keys : List Nat) (store : Bool) (acquired : Transfer → Nat → Bool) :
    u.copyStalls t keys store acquired = s.copyStalls t keys store acquired := by
  have hh : ∀ x, u.hrt x = s.hrt x := fun x => by rw [h.rest]; rfl
  unfold State.copyStalls
  simp only [hh, h.windowKey]

end

/-- The thread's stack pointers and authority, by which its frame is placed, are the same. -/
structure SameFrame (s u : State) (t : Tid) : Prop extends SameWays s u where
  pgroot : (u.thr t).pgroot = (s.thr t).pgroot
  mode : (u.arch t).mode = (s.arch t).mode
  x : (u.arch t).x = (s.arch t).x
  tscratch : (u.thr t).tscratch = (s.thr t).tscratch

section
variable {s u : State} {t : Tid} (h : SameFrame s u t)
include h

theorem SameFrame.frameTop : u.frameTop t = s.frameTop t := by
  unfold State.frameTop Arch.getX
  simp only [h.mode, h.tscratch, h.x]

theorem SameFrame.framePlace : u.framePlace t = s.framePlace t := by
  have hwho : { u.who t with mode := .supervisor } = { { s.who t with mode := .supervisor } with site := (u.who t).site } := by
    unfold State.who
    simp only [h.ctx, h.pgroot]
  unfold State.framePlace
  rw [h.frameTop, hwho]
  exact h.locateStruct _ _ _ _ _

theorem SameFrame.trapWaits : u.trapWaits t = s.trapWaits t := by
  unfold State.trapWaits
  rw [h.framePlace]
  simp only [h.copyStalls]

end

end Sys2Proof.Machine
end

section
/-! PROOFS. The trap of a convoy whose members have done nothing (spec/21_traps_restart.md R364, R365, R368, R369, spec/12_strips_convoys.md R257,
R260): the stores of its closed strip, the pass over its later members, and the entry. -/

namespace Sys2Proof.Machine

/-! ## States that differ in a thread's strip -/

/-- Thread t stands in u as in s, but for its place in the convoy and what its strip has recorded. -/
structure Stands (s u : State) (t : Tid) : Prop where
  rest : u = { s with threads := u.threads, stores := u.stores, fresh := u.fresh }
  others : ∀ v, v ≠ t → u.thr v = s.thr v
  own : u.thr t = { s.thr t with
    arch := { s.arch t with prog := (u.arch t).prog, convoy := (u.arch t).convoy }
    rfloss := (u.thr t).rfloss, ckpt := (u.thr t).ckpt, due := (u.thr t).due, heldFrom := (u.thr t).heldFrom, closingFrom := (u.thr t).closingFrom
    history := (u.thr t).history, closingHistory := (u.thr t).closingHistory, restarts := (u.thr t).restarts }

theorem Stands.refl (s : State) (t : Tid) : Stands s s t := ⟨rfl, fun _ _ => rfl, rfl⟩

theorem Stands.trans {s u w : State} {t : Tid} (h : Stands s u t) (h' : Stands u w t) : Stands s w t where
  rest := by
    refine h'.rest.trans ?_
    rw [h.rest]
  others v hv := (h'.others v hv).trans (h.others v hv)
  own := by
    rw [h'.own]
    unfold State.arch
    rw [h.own]
    rfl

/-- The thread's own record changes in these fields alone. -/
theorem Stands.setThr (s : State) {t : Tid} {th : Thread} (h : th = { s.thr t with
    arch := { s.arch t with prog := th.arch.prog, convoy := th.arch.convoy }
    rfloss := th.rfloss, ckpt := th.ckpt, due := th.due, heldFrom := th.heldFrom, closingFrom := th.closingFrom
    history := th.history, closingHistory := th.closingHistory, restarts := th.restarts }) : Stands s (s.setThr t th) t where
  rest := rfl
  others v hv := State.thr_setThr_ne _ _ hv
  own := by
    unfold State.arch
    rw [State.thr_setThr_same]
    exact h

theorem State.releaseAt_stands (s : State) (t : Tid) (p : Point → Bool) : Stands s (s.releaseAt t p) t := by
  rw [s.releaseAt_eq]
  exact ⟨rfl, fun _ _ => rfl, rfl⟩

theorem State.settle_stands (s : State) (t : Tid) : Stands s (s.settle t) t := by
  unfold State.settle
  split
  · exact .refl s t
  · exact (s.releaseAt_stands t _).trans (.setThr _ rfl)

theorem State.closed_stands (s : State) (t : Tid) : Stands s (s.closed t) t := by
  unfold State.closed State.release
  exact (s.settle_stands t).trans ((s.settle t).releaseAt_stands t _)

theorem State.convoyCkpt_stands (s : State) (t : Tid) : Stands s (s.convoyCkpt t) t := by
  unfold State.convoyCkpt State.takeCkpt
  split
  · exact (s.releaseAt_stands t _).trans (.setThr _ rfl)
  · exact .refl s t

theorem State.record_stands (s : State) (t : Tid) (items : List (Nat × Nat)) : Stands s (s.record t items) t := by
  unfold State.record
  split
  · exact .refl s t
  · exact .setThr _ rfl

section
variable {s u : State} {t : Tid} (h : Stands s u t)
include h

theorem Stands.sameFrame : SameFrame s u t := by
  have hfields : ∀ {α : Type} (f : Thread → α), f (u.thr t) = f (s.thr t) → ∀ v, f (u.thr v) = f (s.thr v) := by
    intro α f ht v
    by_cases hv : v = t
    · rw [hv, ht]
    · rw [h.others v hv]
  exact {
    rest := h.rest
    ctx := hfields _ (by rw [h.own])
    launch := hfields _ (by rw [h.own])
    lost := hfields _ (by rw [h.own])
    pgroot := by rw [h.own]
    mode := by unfold State.arch; rw [h.own]; rfl
    x := by unfold State.arch; rw [h.own]; rfl
    tscratch := by rw [h.own] }

theorem Stands.arch : u.arch t = { s.arch t with prog := (u.arch t).prog, convoy := (u.arch t).convoy } := congrArg Thread.arch h.own

theorem Stands.lanes : (u.thr t).lanes = (s.thr t).lanes := by rw [h.own]

theorem Stands.cur : u.cur = s.cur := by rw [h.rest]

theorem Stands.rows : u.rows t = s.rows t := by
  have hh : u.hrt (hartOf t) = s.hrt (hartOf t) := by rw [h.rest]; rfl
  unfold State.rows
  rw [h.lanes, hh]

end

/-! ## Stores that enter the release queue together or one strip after the other -/

theorem State.releaseAt_stores (s : State) (t : Tid) (p : Point → Bool) : (s.releaseAt t p).stores =
    (s.stores.filter fun e => e.tid == t && p e.point).foldl enqueue (s.stores.filter fun e => !(e.tid == t && p e.point)) := by
  unfold State.releaseAt
  dsimp only
  split
  next h =>
    rw [List.isEmpty_iff] at h
    rw [h, List.foldl_nil, List.filter_eq_self.2]
    intro e he
    rw [List.filter_eq_nil_iff] at h
    rw [Bool.not_eq_true', ← Bool.not_eq_true]
    exact h e he
  · rfl

/-- A store stands in its thread's strip: no release has taken it. -/
def StoreEntry.InStrip (q : StoreEntry → Bool) : Prop := ∀ e, q e = true → e.point = .held ∨ e.point = .closing

/-- Stores that no release has taken play no part in where another one waits. -/
theorem enqueue_filter {q : StoreEntry → Bool} (hq : StoreEntry.InStrip q) (l : List StoreEntry) (e : StoreEntry) :
    (enqueue l e).filter (fun x => !q x) = enqueue (l.filter fun x => !q x) e ∧ (enqueue l e).filter q = l.filter q := by
  have hany : (l.filter fun x => !q x).any (fun x => (e.chain != 0 && x.chain == e.chain && x.point != .held && x.point != .closing) ||
      (x.tid == e.tid && x.point == .queue && x.mustGo (goneFor e))) =
      l.any (fun x => (e.chain != 0 && x.chain == e.chain && x.point != .held && x.point != .closing) ||
      (x.tid == e.tid && x.point == .queue && x.mustGo (goneFor e))) := by
    rw [List.any_filter]
    congr 1
    funext x
    cases hx : q x
    · simp
    · rcases hq x hx with hp | hp <;> simp [hp]
  unfold enqueue
  rw [hany]
  generalize l.any _ = behind
  have hnew : q { e with point := if behind then Point.queue else Point.hart } = false := by
    rw [← Bool.not_eq_true]
    intro hc
    cases behind
    · rcases hq _ hc with hp | hp <;> cases hp
    · rcases hq _ hc with hp | hp <;> cases hp
  constructor
  · rw [List.filter_append, List.filter_singleton, hnew]
    rfl
  · rw [List.filter_append, List.filter_singleton, hnew]
    exact List.append_nil _

theorem foldl_enqueue_filter {q : StoreEntry → Bool} (hq : StoreEntry.InStrip q) (m l : List StoreEntry) :
    (m.foldl enqueue l).filter (fun x => !q x) = m.foldl enqueue (l.filter fun x => !q x) ∧ (m.foldl enqueue l).filter q = l.filter q := by
  induction m generalizing l with
  | nil => exact ⟨rfl, rfl⟩
  | cons e m ih =>
    obtain ⟨h1, h2⟩ := ih (enqueue l e)
    obtain ⟨g1, g2⟩ := enqueue_filter hq l e
    rw [List.foldl_cons, List.foldl_cons, h1, h2, g1, g2]
    exact ⟨rfl, rfl⟩

/-- Stores that satisfy two conditions, those of the one before those of the other. -/
theorem filter_or_eq_append {p q : StoreEntry → Bool} {l : List StoreEntry} (h : l.Pairwise fun e f => p e = true → q f = false) :
    l.filter (fun e => p e || q e) = l.filter q ++ l.filter fun e => !q e && p e := by
  induction l with
  | nil => rfl
  | cons e l ih =>
    obtain ⟨he, hl⟩ := List.pairwise_cons.1 h
    cases hq : q e
    · cases hp : p e
      · simp [hp, hq, ih hl]
      · have hnone : l.filter q = [] := List.filter_eq_nil_iff.2 fun f hf => by simp [he f hf hp]
        have hsame : ∀ f ∈ l, (p f || q f) = (!q f && p f) := fun f hf => by simp [he f hf hp]
        simp [hp, hq, hnone, List.filter_congr hsame]
    · simp [hq, ih hl]

/-- Where stores of an earlier strip stand before those of a later one, a strip's stores enter the queue together as they do one strip after the other
(R257). -/
theorem State.release_stores_eq_closed {s : State} {t : Tid}
    (h : s.stores.Pairwise fun e f => e.tid = t → f.tid = t → e.point = .held → f.point ≠ .closing) : (s.release t).stores = (s.closed t).stores := by
  unfold State.closed State.settle
  split
  · rfl
  next c hdue =>
    have hstrip : StoreEntry.InStrip fun e => e.tid == t && (e.point == .held || e.point == .closing) := by
      intro e he
      simpa using (Bool.and_eq_true_iff.1 he).2
    have hsplit := filter_or_eq_append (p := fun e => e.tid == t && e.point == .held) (q := fun e => e.tid == t && e.point == .closing)
      (h.imp fun {e f} hef hp => by
        simp only [Bool.and_eq_true, beq_iff_eq] at hp
        by_contra hc
        simp only [Bool.not_eq_false, Bool.and_eq_true, beq_iff_eq] at hc
        exact hef hp.1 hc.1 hp.2 hc.2)
    have hor : ∀ e : StoreEntry, (e.tid == t && (e.point == .held || e.point == .closing)) =
        (e.tid == t && e.point == .held || e.tid == t && e.point == .closing) := fun e => Bool.and_or_distrib_left _ _ _
    have hheld : ∀ e : StoreEntry, (!(e.tid == t && e.point == .closing) && (e.tid == t && e.point == .held)) =
        ((e.tid == t && (e.point == .held || e.point == .closing)) && !(e.tid == t && e.point == .closing)) := by
      intro e
      cases e.tid == t <;> cases e.point <;> rfl
    have hout : ∀ e : StoreEntry, (!(e.tid == t && (e.point == .held || e.point == .closing)) && !(e.tid == t && e.point == .closing)) =
        !(e.tid == t && (e.point == .held || e.point == .closing)) := by
      intro e
      cases e.tid == t <;> cases e.point <;> rfl
    have hclosing : (s.releaseClosing t).stores = _ := s.releaseAt_stores t _
    rw [State.release, State.release, State.releaseAt_stores, State.releaseAt_stores, State.setThr_stores, hclosing,
      (foldl_enqueue_filter hstrip _ _).1, (foldl_enqueue_filter hstrip _ _).2, List.filter_filter, List.filter_filter]
    simp only [hout]
    rw [← List.foldl_append]
    congr 1
    simp only [hor] at hheld ⊢
    rw [hsplit]
    simp only [hheld]

/-! ## Entry of the trap -/

theorem tstatusOf_member (a : Arch) (member strip : Nat) (async : Bool) (prog : Vector (BitVec 6) 4) :
    (tstatusOf a member strip async prog).toNat / 2 % 4 = member % 4 := by
  have h : (tstatusOf a member strip async prog).extractLsb' 1 2 = BitVec.ofNat 2 member := by
    unfold tstatusOf
    generalize (a.mode == Mode.supervisor) = b
    ext i hi
    simp only [BitVec.getElem_extractLsb', BitVec.getLsbD_append, BitVec.getLsbD_ofBool]
    rw [if_neg (by omega), if_pos (by omega)]
    simp [BitVec.getLsbD_eq_getElem, hi]
  have hn := congrArg BitVec.toNat h
  rw [BitVec.extractLsb'_toNat, BitVec.toNat_ofNat, Nat.shiftRight_eq_div_pow] at hn
  exact hn

/-- A thread's own write of a structure: performed at its homes, after the stores on their way to the same bytes. -/
theorem State.performStruct_stores (s : State) (t : Tid) (keys : List Nat) (bytes : List Byte) :
    (s.performStruct t keys bytes).stores = (going 6 t (fun _ => false) keys s.stores).1 := by
  unfold State.performStruct State.performFor
  dsimp only
  rw [(State.performEntry_performs _ _).stores, State.drainAhead_eq, State.drainHome_stores, State.accessNow_stores]

theorem State.accessNow_thr_ne (s : State) {t v : Tid} (keys : List Nat) (h : v ≠ t) : (s.accessNow t keys).thr v = s.thr v := by
  unfold State.accessNow State.pruneAhead
  split
  · rfl
  · exact State.thr_modThr_ne _ _ h

theorem State.accessNow_thr (s : State) (t : Tid) (keys : List Nat) :
    (s.accessNow t keys).thr t = { s.thr t with ahead := ((s.accessNow t keys).thr t).ahead } := by
  unfold State.accessNow State.pruneAhead
  split
  · rfl
  · rw [State.thr_modThr_same]

theorem State.performStruct_thr (s : State) (t : Tid) (keys : List Nat) (bytes : List Byte) (v : Tid) :
    (s.performStruct t keys bytes).thr v = { (s.accessNow t keys).thr v with change := ((s.performStruct t keys bytes).thr v).change } := by
  have hd : ∀ w : State, (w.drainAhead t keys).thr v = { w.thr v with change := ((w.drainAhead t keys).thr v).change } :=
    fun w => (w.drainAhead_drains t keys).2.thr v
  unfold State.performStruct State.performFor
  dsimp only
  rw [(State.performEntry_performs _ _).thr, hd]

/-- The thread's trap registers as a synchronous trap sets them. -/
def State.withTrap (s : State) (t : Tid) (cause : BitVec 8) (val : Word) (info : TrapInfo) : State :=
  s.setThr t { s.thr t with
    tcause := cause, tval := val, tepc := info.tepc &&& ~~~3#64
    tstatus := tstatusOf (s.arch t) info.member info.strip info.async info.prog }

theorem State.withTrap_sameFrame (s : State) (t : Tid) (cause : BitVec 8) (val : Word) (info : TrapInfo) :
    SameFrame s (s.withTrap t cause val info) t := by
  have hfields : ∀ {α : Type} (f : Thread → α), f ((s.withTrap t cause val info).thr t) = f (s.thr t) →
      ∀ v, f ((s.withTrap t cause val info).thr v) = f (s.thr v) := by
    intro α f ht v
    by_cases hv : v = t
    · rw [hv, ht]
    · unfold State.withTrap
      rw [State.thr_setThr_ne _ _ hv]
  have hown : (s.withTrap t cause val info).thr t = _ := State.thr_setThr_same _ _ _
  have harch : (s.withTrap t cause val info).arch t = s.arch t := by unfold State.arch; rw [hown]
  exact {
    rest := rfl
    ctx := hfields _ (by rw [hown])
    launch := hfields _ (by rw [hown])
    lost := hfields _ (by rw [hown])
    pgroot := by rw [hown]
    mode := by rw [harch]
    x := by rw [harch]
    tscratch := by rw [hown] }

/-- The state in which the frame of a trap has been written. -/
def State.framed (s : State) (t : Tid) (cause : BitVec 8) (val : Word) (info : TrapInfo) (keys : List Nat) : State :=
  ((s.closed t).withTrap t cause val info).performStruct t keys (nestFrame ((s.closed t).arch t))

/-- The thread at the entry of its handler, which runs with the registers `a` (R365). -/
def Thread.entering (th : Thread) (a : Arch) (scratch : Word) : Thread := { th with
  arch := a, status := .running, tscratch := scratch
  ckpt := if th.lanes.isSome then some ⟨.implicit, a, a⟩ else none, due := none, history := [], closingHistory := []
  heldFrom := none, closingFrom := none, restarts := 0, ahead := [], lost := none }

/-- The registers with which the handler begins: x2 lies below the frame (R365). -/
def State.handlerArch (s : State) (t : Tid) (pc : Word) : Arch :=
  { ((s.arch t).setX 2 (s.frameTop t - 64)) with mode := .supervisor, pc := pc, convoy := none }

theorem State.noteTrap_quiet (s : State) (t : Tid) {cause : BitVec 8} (hq : cause ≠ 0x16 ∧ cause ≠ 0x04 ∧ cause ≠ 0x05) (val : Word) :
    s.noteTrap t cause val = s := by
  obtain ⟨h16, h4, h5⟩ := hq
  unfold State.noteTrap
  dsimp only
  rw [if_neg h16, if_neg fun h => h.1.elim h4 h5]

theorem State.trapEntry_eq {s : State} {t : Tid} {cause : BitVec 8} {val : Word} {info : TrapInfo} {keys : List Nat}
    (hq : cause ≠ 0x16 ∧ cause ≠ 0x04 ∧ cause ≠ 0x05) (htvec : ((s.closed t).thr t).tvec ≠ 0) (hplace : (s.closed t).framePlace t = .ok keys) :
    ∃ scratch, s.trapEntry t cause val info = (s.framed t cause val info keys).setThr t
      (((s.framed t cause val info keys).thr t).entering ((s.closed t).handlerArch t ((s.framed t cause val info keys).thr t).tvec) scratch) := by
  refine ⟨if (((s.closed t).thr t).arch.mode == Mode.user) = true then ((s.closed t).thr t).arch.getX 2
    else ((s.framed t cause val info keys).thr t).tscratch, ?_⟩
  have hplace' : ((s.closed t).withTrap t cause val info).framePlace t = .ok keys :=
    (State.withTrap_sameFrame _ t cause val info).framePlace.trans hplace
  unfold State.trapEntry
  rw [State.noteTrap_quiet s t hq, ite_self]
  unfold State.withTrap at hplace'
  unfold State.closed State.arch at hplace'
  unfold State.closed at htvec
  dsimp only
  rw [hplace']
  dsimp only
  rw [if_neg htvec]
  rfl

section
variable (s : State) (t : Tid) (cause : BitVec 8) (val : Word) (info : TrapInfo) (keys : List Nat)

theorem State.framed_stores : (s.framed t cause val info keys).stores = ((s.closed t).drainAhead t keys).stores := by
  unfold State.framed
  rw [State.performStruct_stores, State.drainAhead_eq, State.drainHome_stores]
  rfl

theorem State.framed_thr_ne {v : Tid} (hv : v ≠ t) :
    (s.framed t cause val info keys).thr v = { s.thr v with change := ((s.framed t cause val info keys).thr v).change } := by
  unfold State.framed
  rw [State.performStruct_thr, State.accessNow_thr_ne _ _ hv, State.withTrap, State.thr_setThr_ne _ _ hv, State.closed_thr_ne _ hv]

theorem State.framed_thr : (s.framed t cause val info keys).thr t = { (s.closed t).thr t with
    tcause := cause, tval := val, tepc := info.tepc &&& ~~~3#64
    tstatus := tstatusOf ((s.closed t).arch t) info.member info.strip info.async info.prog
    ahead := ((s.framed t cause val info keys).thr t).ahead, change := ((s.framed t cause val info keys).thr t).change } := by
  unfold State.framed
  rw [State.performStruct_thr, State.accessNow_thr, State.withTrap, State.thr_setThr_same]

end

/-- Where the thread stands as it stood, with nothing done but in its strip, the entry of its trap is that of the convoy (R364, R365). -/
theorem convoyTraps_trapEntry {s w : State} {cause : BitVec 8} {val : Word} {info : TrapInfo} {keys : List Nat} (h : Stands s w s.cur)
    (henter : s.CanEnter s.cur keys) (hq : cause ≠ 0x16 ∧ cause ≠ 0x04 ∧ cause ≠ 0x05) (htepc : info.tepc = (s.arch s.cur).convoyHere.addr)
    (hmember : info.member = (s.arch s.cur).convoyHere.member)
    (hstores : (s.stores.Pairwise fun e f => e.tid = s.cur → f.tid = s.cur → e.point = .held → f.point ≠ .closing) →
      (w.closed s.cur).stores = (s.closed s.cur).stores) : ConvoyTraps s (w.trapEntry s.cur cause val info) cause val := by
  obtain ⟨htvec, -, -, hplace⟩ := henter
  have hall : Stands s (w.closed s.cur) s.cur := h.trans (w.closed_stands s.cur)
  have hplace' : (w.closed s.cur).framePlace s.cur = .ok keys :=
    hall.sameFrame.framePlace.trans ((s.closed_stands s.cur).sameFrame.framePlace.symm.trans hplace)
  have htvec' : ((w.closed s.cur).thr s.cur).tvec = (s.thr s.cur).tvec := by rw [hall.own]
  obtain ⟨scratch, hentry⟩ := State.trapEntry_eq (val := val) (info := info) hq (htvec' ▸ htvec) hplace'
  have harch : (w.trapEntry s.cur cause val info).arch s.cur = (w.closed s.cur).handlerArch s.cur (s.thr s.cur).tvec := by
    rw [hentry, State.arch_setThr_same, State.framed_thr, ← htvec']
    rfl
  have hthr := congrArg (fun u => u.thr s.cur) hentry
  rw [State.thr_setThr_same] at hthr
  have hframed := State.framed_thr w s.cur cause val info keys
  have hw : (w.closed s.cur).arch s.cur = _ := hall.arch
  have hx : (w.closed s.cur).handlerArch s.cur (s.thr s.cur).tvec = { s.arch s.cur with
      x := ((w.closed s.cur).handlerArch s.cur (s.thr s.cur).tvec).x
      prog := ((w.closed s.cur).handlerArch s.cur (s.thr s.cur).tvec).prog, mode := .supervisor
      pc := (s.thr s.cur).tvec, convoy := none } := by
    unfold State.handlerArch
    rw [hw, Arch.setX_eq_withX]
  refine ⟨by rw [hthr, Thread.entering, hframed], by rw [hthr, Thread.entering, hframed], by rw [hthr, Thread.entering, hframed, htepc], ?_, ?_,
    ?_, ?_, ?_, ?_⟩
  · rw [hthr, Thread.entering, hframed, ← hmember]
    exact tstatusOf_member _ _ _ _ _
  · rw [harch]
    exact hx
  · intro r hr
    rw [harch]
    show (((w.closed s.cur).arch s.cur).setX 2 _).getX r = (s.arch s.cur).getX r
    rw [Arch.getX_setX, if_neg hr, hw]
    split
    next h0 => rw [h0, Arch.getX_zero]
    · rfl
  · rw [hthr, Thread.entering, hframed, hall.own]
  · intro v hv
    rw [hentry, State.thr_setThr_ne _ _ hv, State.framed_thr_ne _ _ _ _ _ _ hv, h.others v hv]
  · intro hpair keys' hk
    obtain rfl : keys' = keys := by rw [hplace] at hk; exact (Except.ok.inj hk).symm
    rw [hentry, State.setThr_stores, State.framed_stores, State.drainAhead_eq, State.drainAhead_eq, State.drainHome_stores, State.drainHome_stores]
    have hstart : s.trapStart s.cur cause val false = s := s.noteTrap_quiet s.cur hq val
    rw [hstart, hstores hpair]

/-! ## Members at the precise point -/

/-- Putting progress changes progress alone. -/
theorem Arch.putProg_eq (a : Arch) (regs : List Nat) (done : Option Nat) : a.putProg regs done = { a with prog := (a.putProg regs done).prog } := by
  unfold Arch.putProg
  generalize regs.zipIdx = l
  induction l generalizing a with
  | nil => rfl
  | cons p l ih =>
    rw [List.foldl_cons, ih]
    have hstep : ∀ (r : Nat) (v : BitVec 4) (q : Vector (BitVec 4) 32), { (if h : r < 32 then (if a.prog[r] = v then a
        else { a with prog := a.prog.set r v }) else a) with prog := q } = { a with prog := q } := by
      intro r v q
      split
      · split <;> rfl
      · rfl
    exact hstep _ _ _

/-- From u to w the thread has moved in its convoy and marked its progress: nothing else has changed. -/
def Marked (u w : State) (t : Tid) : Prop := ∃ prog convoy, w = u.setArch t { u.arch t with prog := prog, convoy := convoy }

theorem Marked.refl (u : State) (t : Tid) : Marked u u t := ⟨(u.arch t).prog, (u.arch t).convoy, (State.setThr_thr u t).symm⟩

theorem Marked.trans {u v w : State} {t : Tid} (h : Marked u v t) (h' : Marked v w t) : Marked u w t := by
  obtain ⟨p, c, rfl⟩ := h
  obtain ⟨p', c', rfl⟩ := h'
  refine ⟨p', c', ?_⟩
  rw [State.arch_setArch_same]
  unfold State.setArch
  rw [State.setThr_setThr, State.thr_setThr_same]

theorem Marked.stands {u w : State} {t : Tid} (h : Marked u w t) : Stands u w t := by
  obtain ⟨p, c, rfl⟩ := h
  exact .setThr u rfl

theorem Marked.stores {u w : State} {t : Tid} (h : Marked u w t) : w.stores = u.stores := by
  obtain ⟨p, c, rfl⟩ := h
  rfl

theorem Marked.due {u w : State} {t : Tid} (h : Marked u w t) : (w.thr t).due = (u.thr t).due := by
  obtain ⟨p, c, rfl⟩ := h
  rw [State.thr_setArch_same]

theorem State.raise_zero (s : State) (t : Tid) : s.raise t 0 = s := if_pos rfl

/-- Where a fault is reported at group 0, no fault of a later member is reported before it (R368). -/
theorem Found.not_before {f : Found} {j : Nat} (hg : f.group = 0) (hj : f.member < j) (k : Nat) (c : BitVec 8) (v : Word) :
    (Found.mk k j c v).before f = false := by
  unfold Found.before
  rw [hg]
  simp only [Nat.not_lt_zero, decide_false, Bool.false_or, Bool.and_eq_false_iff, decide_eq_false_iff_not]
  exact .inr (by omega)

/-- Undone members commit nothing of a later member where the fault is at group 0; and what it meets is not reported before it (R368, R369). -/
theorem Stopping.member_still (x : Stopping) {t : Tid} {f : Found} {i : Instr} {m : Member} {j : Nat} (hg : f.group = 0) (hj : f.member < j)
    (hacc : ∀ u, m.accrue 0 u = 0) : (x.member t f i m j).1.st = x.st ∧ ∀ g, (x.member t f i m j).2 = some g → g.before f = false := by
  have hn : min (x.allows t i m) (if j < f.member then m.groups else f.group) = 0 := by
    rw [if_neg (by omega), hg, Nat.min_zero]
  unfold Stopping.member
  dsimp only
  rw [hn]
  generalize (if m.isWhole then 0 else (progressAt x.resume j).toNat) = start
  split
  next c v hissue =>
    refine ⟨rfl, fun g h => ?_⟩
    rw [← Option.some.inj h]
    exact Found.not_before hg hj _ _ _
  next hissue => exact ⟨rfl, fun g h => nomatch h⟩
  next hissue =>
    simp only [hacc, State.raise_zero, ite_self, Nat.lt_irrefl, decide_false, Bool.and_false, Bool.false_and, false_and, if_false,
      Nat.zero_le, if_true]
    split
    · split
      · exact ⟨rfl, fun g h => nomatch h⟩
      · split
        next k c v hfault =>
          refine ⟨rfl, fun g h => ?_⟩
          rw [← Option.some.inj h]
          exact Found.not_before hg hj _ _ _
        next hfault => exact ⟨rfl, fun g h => nomatch h⟩
    · exact ⟨rfl, fun g h => nomatch h⟩

/-! ## What every vector instruction's member has in common -/

/-- The member of the instruction: its traps at issue tell its word, and the groups below 0 have no flags. -/
structure MemberOf (i : Instr) (m : Member) : Prop where
  word : m.word = wordOf i
  accrue : ∀ u, m.accrue 0 u = 0

theorem flagsBelow_zero (rows w : Nat) (l : List (Nat × Nat × BitVec 5)) : flagsBelow rows w 0 l = 0 := by
  unfold flagsBelow
  rw [List.filter_eq_nil_iff.2 fun r _ => by simp]
  rfl

theorem accrueOf_zero (w : Nat) (f : State → Except Stop (List (Nat × Nat × BitVec 5))) (s : State) : accrueOf w f 0 s = 0 := by
  unfold accrueOf
  split
  · exact flagsBelow_zero _ _ _
  · rfl

section
variable (i : Instr) (s : State) (ok m ex fp : Bool) (d a : VReg) (n : NReg) (p : Depth) (w r lo : Nat) (op : RedOp)

theorem elemMember_accrue (srcs : List (Nat × Nat)) (f : Arch → Nat → Option (Nat × BitVec 5)) (word : Word) (u : State) :
    (elemMember s word ok m d w srcs ex f).accrue 0 u = 0 := by
  unfold elemMember
  dsimp only
  rw [Nat.zero_mul, Nat.min_zero]
  rfl

theorem elemMember_memberOf (srcs : List (Nat × Nat)) (f : Arch → Nat → Option (Nat × BitVec 5)) :
    MemberOf i (elemMember s (wordOf i) ok m d w srcs ex f) := ⟨rfl, elemMember_accrue s ok m ex d w srcs f _⟩

theorem maskMember_memberOf (srcs : List Nat) (f : Arch → Nat → Option (Bool × BitVec 5)) :
    MemberOf i (maskMember s (wordOf i) ok m d w srcs r ex f) := by
  refine ⟨rfl, fun u => ?_⟩
  unfold maskMember
  dsimp only
  rw [Nat.zero_mul, Nat.min_zero]
  rfl

theorem intMember_memberOf (hi : Nat) (b : VSrc) (f : Nat → Nat → Nat → Nat) : MemberOf i (intMember s (wordOf i) lo hi m d a b f) := by
  unfold intMember
  exact elemMember_memberOf _ _ _ _ _ _ _ _ _

theorem cmpMember_memberOf (b : VSrc) (rel : Nat → Fmt → Nat → Nat → Bool × BitVec 5) : MemberOf i (cmpMember s (wordOf i) lo m d a b rel) := by
  unfold cmpMember
  exact maskMember_memberOf _ _ _ _ _ _ _ _ _ _

theorem maskOpMember_memberOf (b : VReg) (f : Bool → Bool → Bool) : MemberOf i (maskOpMember s (wordOf i) m d a b f) := by
  unfold maskOpMember
  exact maskMember_memberOf _ _ _ _ _ _ _ _ _ _

theorem fpMember_memberOf (b : Option VReg) (f : Fmt → Nat → Nat → Nat → Nat × BitVec 5) : MemberOf i (fpMember s (wordOf i) m d a b ok f) := by
  unfold fpMember
  exact elemMember_memberOf _ _ _ _ _ _ _ _ _

theorem redMember_memberOf : MemberOf i (redMember s (wordOf i) lo op m p d a n) := by
  refine ⟨rfl, fun u => ?_⟩
  unfold redMember
  dsimp only
  rw [accrueOf_zero]

theorem scanMember_memberOf : MemberOf i (scanMember s (wordOf i) lo op m ex p d a n) := by
  refine ⟨rfl, fun u => ?_⟩
  unfold scanMember
  dsimp only
  rw [accrueOf_zero]

theorem indexMember_memberOf (h : BitVec 4) : MemberOf i (indexMember s (wordOf i) lo fp m p h a n) := by
  refine ⟨rfl, fun u => ?_⟩
  unfold indexMember
  dsimp only
  rw [accrueOf_zero]

end

/-- An instruction of the vector majors runs as a member of its convoy (R53, R58). -/
theorem exec_of_member {i : Instr} {s : State} (h : (memberOf i s).isSome = true) :
    ∃ f, exec i s = s.runVector i f ∧ ∀ u, memberOf i u = some (f u) := by
  unfold memberOf at h
  split at h
  case h_90 => cases h
  all_goals exact ⟨_, rfl, fun _ => rfl⟩

theorem memberOf_spec {i : Instr} {s : State} {m : Member} (h : memberOf i s = some m) : MemberOf i m := by
  cases i with
  | vadd | vsub | vmul | vand | vor | vxor | vsll | vsrl | vsra | vmin | vmax | vsadd | vssub =>
    cases h
    exact intMember_memberOf _ _ _ _ _ _ _ _ _
  | vcmpeq | vcmpne | vcmplt | vcmpltu | vcmple | vcmpleu | vfcmpeq | vfcmplt | vfcmple =>
    cases h
    exact cmpMember_memberOf _ _ _ _ _ _ _ _
  | vfadd | vfsub | vfmul | vfma | vfdiv | vfmin | vfmax | vfscale | vfcvtfi | vfcvtif | vflogt =>
    cases h
    exact fpMember_memberOf _ _ _ _ _ _ _ _
  | vmand | vmor | vmxor =>
    cases h
    exact maskOpMember_memberOf _ _ _ _ _ _ _
  | vpopc | vmerge | vmv | vmvScalar | vid | vwiden | vnarrow | vfwiden | vfnarrow | vdec4 =>
    cases h
    refine ⟨rfl, fun u => ?_⟩
    simp only [memberVpopc, memberVmerge, memberVmv, memberVmvScalar, memberVid, memberVwiden, memberVnarrow, memberVfwiden, memberVfnarrow,
      memberVdec4, elemMember_accrue]
  | vredsum | vredmin | vredmax | vredand | vredor | vredxor | vfredsum | vfredmin | vfredmax =>
    cases h
    exact redMember_memberOf _ _ _ _ _ _ _ _ _
  | vredminx | vfredmaxx =>
    cases h
    exact indexMember_memberOf _ _ _ _ _ _ _ _ _
  | vscansum | vscanmax | vfscansum | vfscanmax =>
    cases h
    exact scanMember_memberOf _ _ _ _ _ _ _ _ _ _
  | venc4 | vbsum =>
    cases h
    refine ⟨rfl, fun u => ?_⟩
    simp only [memberVenc4, memberVbsum, accrueOf_zero]
  | vdist | vsegid | vslideup | vslidedn | vrgather | vmpopc | vmfirst | vmvxs | vpack | vcompress | vseglen | vtree | nset | npush | npop
  | vld | vlds | vldx | vldxo | vldff | vfill | vst | vsts | vstx | vstxo | vspill =>
    cases h
    exact ⟨rfl, fun _ => rfl⟩
  | _ => cases h

/-! ## The convoy traps -/

theorem State.memberAt_spec {s : State} {t : Tid} {pc : Word} {i : Instr} {m : Member} (h : s.memberAt t pc = some (i, m)) : MemberOf i m := by
  unfold State.memberAt at h
  split at h
  · cases h
  · split at h
    · cases h
    · obtain ⟨m', hm', heq⟩ := Option.map_eq_some_iff.1 h
      cases heq
      exact memberOf_spec hm'

/-- Later members stand where they stood where the fault is at group 0, but for the place of the thread in its convoy and its marks of progress. -/
theorem Stopping.pass_still {t : Tid} {f : Found} (addr : Word) (hg : f.group = 0) (js : List Nat) (hj : ∀ j ∈ js, f.member < j) (a : Arch)
    (x : Stopping) : Marked x.st (Stopping.pass t addr f js a x).1.st t ∧ (Stopping.pass t addr f js a x).2 = none := by
  induction js generalizing a x with
  | nil => exact ⟨.refl _ _, rfl⟩
  | cons j js ih =>
    have ih := ih fun k hk => hj k (List.mem_cons_of_mem _ hk)
    have hhere : Marked x.st (x.st.setArch t { x.st.arch t with convoy := some ⟨addr, j, x.resume, true⟩ }) t := ⟨(x.st.arch t).prog, _, rfl⟩
    have hnext : ∀ b (y : Stopping), y.st = x.st.setArch t { x.st.arch t with convoy := some ⟨addr, j, x.resume, true⟩ } →
        Marked x.st (Stopping.pass t addr f js b y).1.st t ∧ (Stopping.pass t addr f js b y).2 = none := by
      intro b y hy
      rw [← hy] at hhere
      exact ⟨hhere.trans (ih b y).1, (ih b y).2⟩
    unfold Stopping.pass
    dsimp only
    split
    · exact ⟨.refl _ _, rfl⟩
    · split
      · exact ih _ _
      · split
        · exact ⟨hhere, rfl⟩
        next i m hat =>
          have hstill := Stopping.member_still (t := t) (i := i) (m := m)
            { x with st := x.st.setArch t { x.st.arch t with convoy := some ⟨addr, j, x.resume, true⟩ } } hg (hj j List.mem_cons_self)
            (State.memberAt_spec hat).accrue
          split
          next x' g hres =>
            rw [hres] at hstill
            rw [if_neg (by rw [hstill.2 g rfl]; exact Bool.false_ne_true)]
            exact hnext _ x' hstill.1
          next x' hres =>
            rw [hres] at hstill
            exact hnext _ x' hstill.1

theorem Stopping.settle_still {t : Tid} {f : Found} (addr : Word) (hg : f.group = 0) (js : List Nat) (hj : ∀ j ∈ js, f.member < j) (x : Stopping)
    (n : Nat) : Marked x.st (Stopping.settle t addr js x n f).1.st t ∧ (Stopping.settle t addr js x n f).2 = f := by
  have hpass := Stopping.pass_still (t := t) addr hg js hj (x.st.arch t) x
  cases n with
  | zero => exact ⟨hpass.1, rfl⟩
  | succ n =>
    unfold Stopping.settle
    split
    next x' h => rw [h] at hpass; exact ⟨hpass.1, rfl⟩
    next g h => rw [h] at hpass; cases hpass.2

theorem foldr_putProg_eq (l : List Undone) (a : Arch) :
    l.foldr (fun e (a : Arch) => a.putProg e.mem.writes (some e.done)) a =
      { a with prog := (l.foldr (fun e (a : Arch) => a.putProg e.mem.writes (some e.done)) a).prog } := by
  induction l with
  | nil => rfl
  | cons e l ih =>
    rw [List.foldr_cons, Arch.putProg_eq, ih]

/-- A trap found at group 0 of a member that has done nothing, in a state u that its strip's bookkeeping has reached (R364, R368). -/
theorem convoyTraps_convoyTrap {s u w : State} {i : Instr} {m : Member} {cause : BitVec 8} {val : Word} {keys : List Nat} (h : Stands s u s.cur)
    (henter : s.CanEnter s.cur keys) (hq : cause ≠ 0x16 ∧ cause ≠ 0x04 ∧ cause ≠ 0x05) (hw : (if m.isWhole then u.keepNotes w else w) = u)
    (hstores : (s.stores.Pairwise fun e f => e.tid = s.cur → f.tid = s.cur → e.point = .held → f.point ≠ .closing) →
      (u.closed s.cur).stores = (s.closed s.cur).stores) :
    ConvoyTraps s (u.convoyTrap w s.cur (s.arch s.cur).convoyHere i m 0 cause val) cause val := by
  have hwaits : u.trapWaits s.cur = false := by rw [h.sameFrame.trapWaits]; exact henter.2.2.1
  have hlater : ∀ j ∈ rangeList ((s.arch s.cur).convoyHere.member + 1) 4, (s.arch s.cur).convoyHere.member < j := by
    intro j hj
    obtain ⟨k, -, rfl⟩ := List.mem_map.1 hj
    omega
  unfold State.convoyTrap
  rw [hwaits, if_neg Bool.false_ne_true, hw]
  dsimp only
  generalize (if m.isWhole = true then 0 else max 0 (progressAt (s.arch s.cur).convoyHere.resume (s.arch s.cur).convoyHere.member).toNat) = done
  generalize hx : Stopping.stop _ u i m _ done = x
  have hxst : x.st = u := by rw [← hx]; rfl
  obtain ⟨hmarked, hfound⟩ := Stopping.settle_still (t := s.cur) (f := ⟨0, (s.arch s.cur).convoyHere.member, cause, val⟩)
    (s.arch s.cur).convoyHere.addr rfl _ hlater x 4
  rw [hxst] at hmarked
  rw [hfound]
  generalize Stopping.settle s.cur _ _ x 4 _ = r at hmarked ⊢
  have hput : Marked r.1.st (r.1.st.setArch s.cur (r.1.undone.foldr (fun e (a : Arch) => a.putProg e.mem.writes (some e.done)) (r.1.st.arch s.cur)))
      s.cur := ⟨_, _, congrArg _ (foldr_putProg_eq _ _)⟩
  have hall := hmarked.trans hput
  refine convoyTraps_trapEntry (h.trans hall.stands) henter hq rfl rfl fun hpair => ?_
  rw [← hstores hpair]
  exact State.closed_stores_congr hall.stores hall.due

end Sys2Proof.Machine
end

section
/-! PROOFS. Traps of a vector instruction before it writes (O40): its checks at issue and those of its run, each as the entry of the convoy's trap
(spec/05_vector_arithmetic.md R116, spec/06_nested_vectors.md R129, R134, R143, R147, spec/21_traps_restart.md R364). -/

namespace Sys2Proof.Machine

/-! ## Reservations before a member (R200, R257, R260) -/

/-- The thread's held stores of an earlier strip stand before those of a later one (R257). -/
def State.StripsInOrder (s : State) (t : Tid) : Prop :=
  s.stores.Pairwise fun e f => e.tid = t → f.tid = t → e.point = .held → f.point ≠ .closing

/-- From s to u thread t has reserved room: its registers stand, and its strip closes with the same stores. -/
structure Reserves (s u : State) (t : Tid) : Prop where
  stands : Stands s u t
  arch : u.arch t = s.arch t
  order : s.StripsInOrder t → u.StripsInOrder t
  stores : s.StripsInOrder t → (u.closed t).stores = (s.closed t).stores

theorem Reserves.refl (s : State) (t : Tid) : Reserves s s t := ⟨.refl s t, rfl, id, fun _ => rfl⟩

theorem Reserves.trans {s u w : State} {t : Tid} (h : Reserves s u t) (h' : Reserves u w t) : Reserves s w t :=
  ⟨h.stands.trans h'.stands, h'.arch.trans h.arch, fun ho => h'.order (h.order ho), fun ho => (h'.stores (h.order ho)).trans (h.stores ho)⟩

theorem State.record_reserves (s : State) (t : Tid) (items : List (Nat × Nat)) : Reserves s (s.record t items) t := by
  have hstores : (s.record t items).stores = s.stores := by unfold State.record; split <;> rfl
  have hthr : ((s.record t items).thr t).due = (s.thr t).due ∧ (s.record t items).arch t = s.arch t := by
    unfold State.record
    split
    · exact ⟨rfl, rfl⟩
    · rw [State.thr_setThr_same, State.arch_setThr_same]
      exact ⟨rfl, rfl⟩
  refine ⟨s.record_stands t items, hthr.2, ?_, fun _ => State.closed_stores_congr hstores hthr.1⟩
  unfold State.StripsInOrder
  rw [hstores]
  exact id

/-- Once a strip's stores have been released none is held. -/
theorem State.release_stripsInOrder (s : State) (t : Tid) : (s.release t).StripsInOrder t :=
  List.pairwise_of_forall_mem_list fun e he _ _ ht _ hp => absurd ht (tid_ne_of_mem_release he (by rw [hp]; decide))

theorem State.convoyCkpt_reserves (s : State) (t : Tid) : Reserves s (s.convoyCkpt t) t := by
  refine ⟨s.convoyCkpt_stands t, ?_, ?_, ?_⟩
  all_goals unfold State.convoyCkpt
  all_goals split
  · unfold State.takeCkpt State.arch
    rw [State.thr_setThr_same, State.release_thr]
  · rfl
  · exact fun _ => s.release_stripsInOrder t
  · exact id
  · intro ho
    unfold State.takeCkpt
    dsimp only
    generalize hw : (s.release t).setThr t _ = w
    have hstores : w.stores = (s.release t).stores := by rw [← hw]; rfl
    have hdue : (w.thr t).due = none := by rw [← hw, State.thr_setThr_same]
    have hclosed : w.closed t = w := State.closed_of_closed hdue ((State.holdsStore_congr hstores t).trans (s.holdsStore_release t))
    rw [hclosed, hstores]
    exact State.release_stores_eq_closed ho
  · exact fun _ => rfl

theorem State.reserved_reserves (s : State) (i : Instr) (m : Member) : Reserves s (s.reserved i m) s.cur := by
  have hite : ∀ (w : State) (b : Bool), Reserves w (if b then w else w.convoyCkpt s.cur) s.cur := by
    intro w b
    split
    · exact .refl w _
    · exact w.convoyCkpt_reserves _
  have hconvoy : Reserves s (if (s.arch s.cur).convoyHere.member = 0 then s.reserveConvoy s.cur (s.arch s.cur).convoyHere
      ((i, m) :: s.membersAfter s.cur (s.arch s.cur) 3 (s.arch s.cur).convoyHere.addr) else s) s.cur := by
    split
    · exact hite s _
    · exact .refl s _
  exact hconvoy.trans ((hite _ _).trans (State.record_reserves _ _ _))

/-! ## A member stops at issue, or in its run -/

/-- The instruction traps precisely, before anything has been written. -/
def StopsAt (s : State) (i : Instr) (cause : BitVec 8) (val : Word) : Prop := ∃ t, exec i s = .next t ∧ ConvoyTraps s t cause val

section
variable {s : State} {i : Instr} {m : Member} {cause : BitVec 8} {val : Word} {keys : List Nat}

theorem stopsAt_of_issue (henter : s.CanEnter s.cur keys)
    (hprog : progressAt (s.arch s.cur).convoyHere.resume (s.arch s.cur).convoyHere.member = 0) (hq : cause ≠ 0x16 ∧ cause ≠ 0x04 ∧ cause ≠ 0x05)
    (hm : memberOf i s = some m) (hissue : s.memberIssue m = .error (.trap cause val)) : StopsAt s i cause val := by
  obtain ⟨f, hexec, hf⟩ := exec_of_member (i := i) (s := s) (by rw [hm]; rfl)
  obtain rfl : f s = m := Option.some.inj ((hf s).symm.trans hm)
  refine ⟨_, ?_, convoyTraps_convoyTrap (u := s) (w := s) (i := i) (m := f s) (.refl s s.cur) henter hq (ite_self _) fun _ => rfl⟩
  rw [hexec]
  unfold State.runVector
  dsimp only
  rw [hprog, if_neg (by decide), hissue]

/-- A member that reads across groups meets a trap and has done nothing (R263). -/
structure TrapsWhole (m : Member) (u : State) (cause : BitVec 8) (val : Word) : Prop where
  cross : m.cross = true
  groups : m.groups ≠ 0
  run : ∀ lo hi, hi ≠ 0 → m.run lo hi u = ⟨u, 0, some (0, cause, val), false, false⟩

theorem State.keepNotes_countBanks (s : State) (t : Tid) (m : Member) (older : List Nat) (lo hi : Nat) :
    s.keepNotes (s.countBanks t m older lo hi) = s := by
  unfold State.keepNotes State.countBanks
  dsimp only
  split <;> rfl

theorem stopsAt_of_run (henter : s.CanEnter s.cur keys)
    (hprog : progressAt (s.arch s.cur).convoyHere.resume (s.arch s.cur).convoyHere.member = 0) (hq : cause ≠ 0x16 ∧ cause ≠ 0x04 ∧ cause ≠ 0x05)
    (hlanes : (s.thr s.cur).lanes.isSome = true) (hm : memberOf i s = some m) (hissue : m.issue = .ok ()) (hfree : s.Writable m.writes)
    (hwhole : ∀ u m', Reserves s u s.cur → memberOf i u = some m' → TrapsWhole m' u cause val) :
    StopsAt s i cause val := by
  obtain ⟨f, hexec, hf⟩ := exec_of_member (i := i) (s := s) (by rw [hm]; rfl)
  obtain rfl : f s = m := Option.some.inj ((hf s).symm.trans hm)
  have hres := s.reserved_reserves i (f s)
  have hw := hwhole _ _ hres (hf (s.reserved i (f s)))
  have hrun := fun lo => hw.run lo _ hw.groups
  have hissue' : s.memberIssue (f s) = .ok () := by
    unfold State.memberIssue State.needLanes
    rw [if_pos hlanes, hissue]
    rfl
  unfold State.Writable at hfree
  have hstate : exec i s = .next ((s.reserved i (f s)).runMember s.cur (s.arch s.cur).convoyHere i (f (s.reserved i (f s)))) := by
    rw [hexec]
    unfold State.runVector
    dsimp only
    rw [hprog, if_neg (by decide), hissue']
    dsimp only
    rw [hfree, if_neg Bool.false_ne_true]
    rfl
  refine ⟨_, hstate, ?_⟩
  unfold State.runMember
  dsimp only
  rw [hrun]
  dsimp only
  refine convoyTraps_convoyTrap hres.stands henter hq ?_ hres.stores
  rw [if_pos (by unfold Member.isWhole; rw [hw.cross]; rfl)]
  exact State.keepNotes_countBanks _ _ _ _ _ _

end

/-! ## Checks at issue: the element width and the group fields (R19, R116) -/

/-- The instruction's check at issue asks for the least element width and for these fields to be groups. -/
def ChecksFields (s : State) (i : Instr) (lo : Nat) (fields : List VReg) : Prop :=
  ∃ m ok, memberOf i s = some m ∧ m.issue = issueCheck ok (wordOf i) ∧
    (ok = true → lo ≤ ewOf (s.arch s.cur).vtype ∧ ∀ v ∈ fields, groupOk v.toNat (multOf (s.arch s.cur).vtype) = true)

theorem ChecksFields.stopsAt {s : State} {i : Instr} {lo : Nat} {fields : List VReg} {keys : List Nat} (h : ChecksFields s i lo fields)
    (henter : s.CanEnter s.cur keys) (hprog : progressAt (s.arch s.cur).convoyHere.resume (s.arch s.cur).convoyHere.member = 0)
    (hlanes : (s.thr s.cur).lanes.isSome = true)
    (hbad : ewOf (s.arch s.cur).vtype < lo ∨ ∃ v ∈ fields, v.toNat % multOf (s.arch s.cur).vtype ≠ 0) : StopsAt s i 0x01 (wordOf i) := by
  obtain ⟨m, ok, hm, hissue, hok⟩ := h
  have hfalse : ok = false := by
    rw [← Bool.not_eq_true]
    intro ht
    obtain ⟨hlo, hfields⟩ := hok ht
    rcases hbad with hlt | ⟨v, hv, hmod⟩
    · omega
    · have hgroup := hfields v hv
      unfold groupOk at hgroup
      exact hmod (by simpa using (Bool.and_eq_true_iff.1 hgroup).1)
  refine stopsAt_of_issue henter hprog (by decide) hm ?_
  unfold State.memberIssue State.needLanes
  rw [if_pos hlanes, hissue, hfalse]
  rfl

theorem stopsAt_of_no_lanes {s : State} {i : Instr} {keys : List Nat} (henter : s.CanEnter s.cur keys)
    (hprog : progressAt (s.arch s.cur).convoyHere.resume (s.arch s.cur).convoyHere.member = 0) (hi : (memberOf i s).isSome = true)
    (hlanes : (s.thr s.cur).lanes = none) : StopsAt s i 0x01 (wordOf i) := by
  obtain ⟨m, hm⟩ := Option.isSome_iff_exists.1 hi
  refine stopsAt_of_issue henter hprog (by decide) hm ?_
  unfold State.memberIssue State.needLanes
  rw [hlanes, (memberOf_spec hm).word]
  rfl

theorem srcGroupOk_mem {c : VSrc} {cs : List VReg} {mult : Nat} (hcs : ∀ v ∈ cs, c = .vec v) (h : srcGroupOk c mult = true) :
    ∀ v ∈ cs, groupOk v.toNat mult = true := by
  intro v hv
  rw [hcs v hv] at h
  exact h

section
variable {s : State} {i : Instr} {lo hi : Nat} {m ex : Bool} {p : Depth} {d a : VReg} {c : VSrc} {n : NReg} {cs : List VReg}

theorem intMember_checks {f : Nat → Nat → Nat → Nat} (h : memberOf i s = some (intMember s (wordOf i) lo hi m d a c f))
    (hcs : ∀ v ∈ cs, c = .vec v) : ChecksFields s i lo ([d, a] ++ cs) := by
  refine ⟨_, _, h, rfl, fun hok => ?_⟩
  simp only [Bool.and_eq_true, decide_eq_true_eq] at hok
  obtain ⟨⟨⟨⟨hlo, -⟩, ha⟩, hc⟩, hd⟩ := hok
  exact ⟨hlo, by simp only [List.cons_append, List.nil_append, List.forall_mem_cons]; exact ⟨hd, ha, srcGroupOk_mem hcs hc⟩⟩

theorem cmpMember_checks {rel : Nat → Fmt → Nat → Nat → Bool × BitVec 5} (h : memberOf i s = some (cmpMember s (wordOf i) lo m d a c rel))
    (hcs : ∀ v ∈ cs, c = .vec v) : ChecksFields s i lo (a :: cs) := by
  refine ⟨_, _, h, rfl, fun hok => ?_⟩
  simp only [Bool.and_eq_true, decide_eq_true_eq] at hok
  obtain ⟨⟨⟨hlo, ha⟩, hc⟩, -⟩ := hok
  exact ⟨hlo, List.forall_mem_cons.2 ⟨ha, srcGroupOk_mem hcs hc⟩⟩

theorem fpMember_checks {b : VReg} {f : Fmt → Nat → Nat → Nat → Nat × BitVec 5}
    (h : memberOf i s = some (fpMember s (wordOf i) m d a (some b) ex f)) : ChecksFields s i 2 [d, a, b] := by
  refine ⟨_, _, h, rfl, fun hok => ?_⟩
  simp only [Bool.and_eq_true, decide_eq_true_eq, List.all_cons, List.all_nil, and_true] at hok
  obtain ⟨⟨⟨hlo, ha⟩, hb⟩, hd⟩ := hok
  exact ⟨hlo, by simp only [List.forall_mem_cons]; exact ⟨hd, ha, hb, by simp⟩⟩

theorem redMember_checks {op : RedOp} (h : memberOf i s = some (redMember s (wordOf i) lo op m p d a n)) : ChecksFields s i lo [d, a] := by
  refine ⟨_, _, h, rfl, fun hok => ?_⟩
  simp only [Bool.and_eq_true, decide_eq_true_eq] at hok
  obtain ⟨⟨hlo, ha⟩, hd⟩ := hok
  exact ⟨hlo, by simp only [List.forall_mem_cons]; exact ⟨hd, ha, by simp⟩⟩

theorem scanMember_checks {op : RedOp} (h : memberOf i s = some (scanMember s (wordOf i) lo op m ex p d a n)) : ChecksFields s i lo [d, a] := by
  refine ⟨_, _, h, rfl, fun hok => ?_⟩
  simp only [Bool.and_eq_true, decide_eq_true_eq] at hok
  obtain ⟨⟨hlo, ha⟩, hd⟩ := hok
  exact ⟨hlo, by simp only [List.forall_mem_cons]; exact ⟨hd, ha, by simp⟩⟩

/-- A member with the skeleton of a shape instruction. -/
theorem shapeMember_checks {mb : Member} {srcs : List VReg} (h : memberOf i s = some mb) (hissue : mb.issue = issueCheck
      (decide (lo ≤ ewOf (s.arch s.cur).vtype) && (srcs.all fun v => groupOk v.toNat (multOf (s.arch s.cur).vtype)) &&
        groupOk d.toNat (multOf (s.arch s.cur).vtype)) (wordOf i)) : ChecksFields s i lo (d :: srcs) := by
  refine ⟨_, _, h, hissue, fun hok => ?_⟩
  simp only [Bool.and_eq_true, decide_eq_true_eq, List.all_eq_true] at hok
  obtain ⟨⟨hlo, hsrcs⟩, hd⟩ := hok
  exact ⟨hlo, List.forall_mem_cons.2 ⟨hd, hsrcs⟩⟩

/-- An element-wise member whose width and sources are checked by `ok`. -/
theorem elemMember_checks {mb : Member} {ok : Bool} {fields : List VReg} (h : memberOf i s = some mb)
    (hissue : mb.issue = issueCheck (ok && groupOk d.toNat (multOf (s.arch s.cur).vtype)) (wordOf i))
    (hok : ok = true → lo ≤ ewOf (s.arch s.cur).vtype ∧ ∀ v ∈ fields, groupOk v.toNat (multOf (s.arch s.cur).vtype) = true) :
    ChecksFields s i lo (d :: fields) := by
  refine ⟨_, _, h, hissue, fun hall => ?_⟩
  obtain ⟨h1, hd⟩ := Bool.and_eq_true_iff.1 hall
  obtain ⟨hlo, hfields⟩ := hok h1
  exact ⟨hlo, List.forall_mem_cons.2 ⟨hd, hfields⟩⟩

theorem groupOk_singleton {mult : Nat} (h : groupOk a.toNat mult = true) : ∀ v ∈ [a], groupOk v.toNat mult = true := by
  simpa using h

theorem vmerge_checks (hcs : ∀ v ∈ cs, c = .vec v) : ChecksFields s (.vmerge d a c) 0 (d :: a :: cs) :=
  elemMember_checks rfl rfl fun hok => by
    obtain ⟨ha, hc⟩ := Bool.and_eq_true_iff.1 hok
    exact ⟨Nat.zero_le _, List.forall_mem_cons.2 ⟨ha, srcGroupOk_mem hcs hc⟩⟩

theorem vpopc_checks : ChecksFields s (.vpopc m d a) 1 [d, a] :=
  elemMember_checks rfl rfl fun hok => by
    obtain ⟨hlo, ha⟩ := Bool.and_eq_true_iff.1 hok
    exact ⟨of_decide_eq_true hlo, groupOk_singleton ha⟩

theorem vmv_checks : ChecksFields s (.vmv m d a) 0 [d, a] :=
  elemMember_checks rfl rfl fun hok => ⟨Nat.zero_le _, groupOk_singleton hok⟩

theorem vmvScalar_checks {x : XReg} : ChecksFields s (.vmvScalar m d x) 0 [d] :=
  elemMember_checks rfl rfl fun _ => ⟨Nat.zero_le _, List.forall_mem_nil _⟩

theorem vid_checks : ChecksFields s (.vid m d) 1 [d] :=
  elemMember_checks rfl rfl fun hok => ⟨of_decide_eq_true hok, List.forall_mem_nil _⟩

/-- Both conversions between widths check the same. -/
theorem widthChange_checks {mb : Member} (h : memberOf i s = some mb) (hissue : mb.issue = issueCheck
      (decide (2 ≤ ewOf (s.arch s.cur).vtype) && groupOk a.toNat (multOf (s.arch s.cur).vtype) && srcGroupOk c (multOf (s.arch s.cur).vtype) &&
        groupOk d.toNat (multOf (s.arch s.cur).vtype)) (wordOf i)) (hcs : ∀ v ∈ cs, c = .vec v) : ChecksFields s i 2 (d :: a :: cs) :=
  elemMember_checks h hissue fun hok => by
    simp only [Bool.and_eq_true, decide_eq_true_eq] at hok
    obtain ⟨⟨hlo, ha⟩, hc⟩ := hok
    exact ⟨hlo, List.forall_mem_cons.2 ⟨ha, srcGroupOk_mem hcs hc⟩⟩

theorem vseglen_checks : ChecksFields s (.vseglen p d n) 3 [d] := by
  refine ⟨_, _, rfl, rfl, fun hok => ?_⟩
  obtain ⟨hlo, hd⟩ := Bool.and_eq_true_iff.1 hok
  exact ⟨of_decide_eq_true hlo, groupOk_singleton hd⟩

end

/-- What holds for each row of a table holds for its first row and the others. -/
theorem forall_row_cons {α β : Type} {P : Instr → α → β → Prop} {i : Instr} {x : α} {y : β} {l : List (Instr × α × β)} :
    (∀ j u v, (j, u, v) ∈ (i, x, y) :: l → P j u v) ↔ P i x y ∧ ∀ j u v, (j, u, v) ∈ l → P j u v := by
  constructor
  · exact fun h => ⟨h i x y List.mem_cons_self, fun j u v hm => h j u v (List.mem_cons_of_mem _ hm)⟩
  · rintro ⟨h, hl⟩ j u v hm
    rcases List.mem_cons.1 hm with heq | hm
    · cases heq
      exact h
    · exact hl j u v hm

theorem forall_row_nil {α β : Type} {P : Instr → α → β → Prop} : ∀ j u v, (j, u, v) ∈ ([] : List (Instr × α × β)) → P j u v :=
  fun _ _ _ h => nomatch h

/-- Each row's instruction stops where its element width or a field of a group is not accepted. -/
theorem stopsAt_of_checksFields {s : State} {keys : List Nat} {l : List (Instr × Nat × List VReg)} (henter : s.CanEnter s.cur keys)
    (hprog : progressAt (s.arch s.cur).convoyHere.resume (s.arch s.cur).convoyHere.member = 0) (hlanes : (s.thr s.cur).lanes.isSome = true)
    (h : ∀ i lo fields, (i, lo, fields) ∈ l → ChecksFields s i lo fields) : ∀ i lo fields, (i, lo, fields) ∈ l →
      (ewOf (s.arch s.cur).vtype < lo ∨ ∃ v ∈ fields, v.toNat % multOf (s.arch s.cur).vtype ≠ 0) → StopsAt s i 0x01 (wordOf i) :=
  fun i lo fields hmem hbad => (h i lo fields hmem).stopsAt henter hprog hlanes hbad

/-! ## Checks in the run: the levels of a nest (R129, R143, R147) -/

/-- The run of a member that commits whole: all that f does, or its trap with nothing done (R263). -/
def wholeRun (f : State → Except Stop State) (_lo hi : Nat) (s : State) : Part :=
  if hi = 0 then okPart s 0
  else
    match f s with
    | .ok s' => okPart s' hi
    | .error (.trap c val) => ⟨s, 0, some (0, c, val), false, false⟩
    | .error .wait => ⟨s, 0, none, true, false⟩

theorem trapsWhole_of_run {m : Member} {u : State} {f : State → Except Stop State} {cause : BitVec 8} {val : Word} {n : Nat} (hcross : m.cross = true)
    (hgroups : m.groups = max 1 n) (hrun : m.run = wholeRun f) (h : f u = .error (.trap cause val)) : TrapsWhole m u cause val where
  cross := hcross
  groups := by rw [hgroups]; exact (Nat.lt_of_lt_of_le Nat.one_pos (Nat.le_max_left _ _)).ne'
  run lo hi hhi := by
    rw [hrun]
    unfold wholeRun
    rw [if_neg hhi, h]

/-- From s to u the thread's registers and rows stand. -/
structure SameRegs (s u : State) : Prop where
  cur : u.cur = s.cur
  arch : u.arch s.cur = s.arch s.cur
  rows : u.rows s.cur = s.rows s.cur

theorem Reserves.sameRegs {s u : State} (h : Reserves s u s.cur) : SameRegs s u := ⟨h.stands.cur, h.arch, h.stands.rows⟩

/-- The instruction reads the nest k at depth p and writes the group at d. At issue it checks its least element width and its groups at d and at a;
in its run, before it writes anything, the levels of the nest (R129). -/
structure ChecksDepth (s : State) (p : Depth) (d a : VReg) (i : Instr) (lo : Nat) (k : NReg) : Prop where
  issue : ∃ m, memberOf i s = some m ∧ m.writes = groupRegs s d ∧ (lo ≤ ewOf (s.arch s.cur).vtype →
    groupOk d.toNat (multOf (s.arch s.cur).vtype) = true → groupOk a.toNat (multOf (s.arch s.cur).vtype) = true → m.issue = .ok ())
  run : ∀ u m cause val, SameRegs s u → (s.arch s.cur).checkDepth (s.rows s.cur) (s.nest k) p.val = .error (.trap cause val) →
    memberOf i u = some m → TrapsWhole m u cause val

/-- The levels' checks come before everything that reads them. -/
theorem SameRegs.segments_error {s u : State} {k : NReg} {p : Nat} {e : Stop} (h : SameRegs s u)
    (hcheck : (s.arch s.cur).checkDepth (s.rows s.cur) (s.nest k) p = .error e) :
    (u.arch u.cur).segments (u.rows u.cur) ((u.arch u.cur).nest k) p = .error e := by
  rw [h.cur, h.arch, h.rows]
  unfold Arch.segments
  rw [show (s.arch s.cur).nest k = s.nest k from rfl, hcheck]
  rfl

/-- What the levels' checks find is an invalid nest (R129). -/
def NestTraps {α : Type} (r : Except Stop α) : Prop := ∀ c v, r = .error (.trap c v) → c = 0x08

/-- One level's check after those further in (R127, R129). -/
def levelStep (a : Arch) (rows : Nat) (n : Nest) (r : Except Stop Unit) (l : Nat) : Except Stop Unit :=
  match r with
  | .error e => .error e
  | .ok () =>
    match a.levelBreak rows n l (if l = n.d.val then a.vl else n.count (l + 1)) with
    | some k => .error (nestTrap l k)
    | none => .ok ()

theorem levelStep_foldl_nestTraps (a : Arch) (rows : Nat) (n : Nest) (l : List Nat) {r : Except Stop Unit} (h : NestTraps r) :
    NestTraps (l.foldl (levelStep a rows n) r) := by
  induction l generalizing r with
  | nil => exact h
  | cons x l ih =>
    refine ih ?_
    unfold levelStep
    split
    · exact fun c v heq => h c v heq
    · split
      · intro c v heq
        cases heq
        rfl
      · exact fun c v heq => nomatch heq

theorem checkLevels_nestTraps (a : Arch) (rows : Nat) (n : Nest) (lo : Nat) (written : Option (Nat × Nat)) :
    NestTraps (a.checkLevels rows n lo written) := by
  unfold Arch.checkLevels
  dsimp only
  split
  · intro c v heq
    cases heq
    rfl
  · split
    · intro c v heq
      cases heq
      rfl
    · exact levelStep_foldl_nestTraps a rows n _ (r := .ok ()) fun c v heq => nomatch heq

theorem checkDepth_nestTraps (a : Arch) (rows : Nat) (n : Nest) (p : Nat) : NestTraps (a.checkDepth rows n p) := by
  unfold Arch.checkDepth
  split
  · exact fun c v heq => nomatch heq
  · split
    · intro c v heq
      cases heq
      rfl
    · exact checkLevels_nestTraps _ _ _ _ _

/-- A depth above the nest's own is the first thing the checks find (R129). -/
theorem checkDepth_of_lt (a : Arch) (rows : Nat) {n : Nest} {p : Nat} (h : n.d.val < p) :
    a.checkDepth rows n p = .error (.trap 0x08 (BitVec.ofNat 64 (p * 2 ^ 32 + 0xFFFF_FFFF))) := by
  unfold Arch.checkDepth
  rw [if_neg (by omega), if_pos h]
  rfl

section
variable {s : State} {i : Instr} {lo : Nat} {m ex : Bool} {p : Depth} {d a : VReg} {k : NReg} {op : RedOp}

theorem issueCheck_of_true {ok : Bool} {w : Word} (h : ok = true) : issueCheck ok w = .ok () := by rw [h]; rfl

theorem redMember_checksDepth (h : ∀ u, memberOf i u = some (redMember u (wordOf i) lo op m p d a k)) : ChecksDepth s p d a i lo k where
  issue := ⟨_, h s, rfl, fun hlo hd ha => issueCheck_of_true (by simp [hlo, hd, ha])⟩
  run u mb cause val hu hcheck hmb := by
    obtain rfl := Option.some.inj ((h u).symm.trans hmb)
    have hF : u.reduceTo op m p d a k = .error (.trap cause val) := by
      unfold State.reduceTo State.reduceResults
      dsimp only
      rw [hu.segments_error hcheck]
      rfl
    exact trapsWhole_of_run (f := fun s => s.reduceTo op m p d a k) rfl rfl rfl hF

theorem scanMember_checksDepth (h : ∀ u, memberOf i u = some (scanMember u (wordOf i) lo op m ex p d a k)) : ChecksDepth s p d a i lo k where
  issue := ⟨_, h s, rfl, fun hlo hd ha => issueCheck_of_true (by simp [hlo, hd, ha])⟩
  run u mb cause val hu hcheck hmb := by
    obtain rfl := Option.some.inj ((h u).symm.trans hmb)
    have hF : u.scanTo op m ex p d a k = .error (.trap cause val) := by
      unfold State.scanTo State.scanResults
      dsimp only
      rw [hu.segments_error hcheck]
      rfl
    exact trapsWhole_of_run (f := fun s => s.scanTo op m ex p d a k) rfl rfl rfl hF

/-- A member over groups all of which stand among those at d and at a, with the skeleton of a shape instruction. -/
theorem shapeMember_checksDepth {srcs : List VReg} {f : State → Arch → Nat → Nat → Nat → Nat → Nat} {g : State → Member}
    (hsrcs : ∀ v ∈ srcs, v = a) (h : ∀ u, memberOf i u = some (g u))
    (hissue : ∀ u, (g u).issue = (shapeMember u (wordOf i) lo m p d srcs k (f u)).issue) (hwrites : ∀ u, (g u).writes = groupRegs u d)
    (hcross : ∀ u, (g u).cross = true) (hgroups : ∀ u, (g u).groups = max 1 ((groupRegs u d).length * 4))
    (hrun : ∀ u, (g u).run = wholeRun fun s => s.shapeTo m p d ((s.arch s.cur).nest k) (f u)) : ChecksDepth s p d a i lo k where
  issue := by
    refine ⟨_, h s, hwrites s, fun hlo hd ha => (hissue s).trans (issueCheck_of_true ?_)⟩
    have hall : (srcs.all fun v => groupOk v.toNat (multOf (s.arch s.cur).vtype)) = true :=
      List.all_eq_true.2 fun v hv => by rw [hsrcs v hv]; exact ha
    simp [hlo, hd, hall]
  run u mb cause val hu hcheck hmb := by
    obtain rfl := Option.some.inj ((h u).symm.trans hmb)
    have hF : u.shapeTo m p d ((u.arch u.cur).nest k) (f u) = .error (.trap cause val) := by
      unfold State.shapeTo
      dsimp only
      rw [hu.segments_error hcheck]
      rfl
    exact trapsWhole_of_run (hcross u) (hgroups u) (hrun u) hF

theorem vdist_checksDepth : ChecksDepth s p d a (.vdist m p d a k) 0 k :=
  shapeMember_checksDepth (srcs := [a]) (g := memberVdist m p d a k) (fun _ => List.mem_singleton.1) (fun _ => rfl) (fun _ => rfl) (fun _ => rfl)
    (fun _ => rfl) (fun _ => rfl) fun _ => rfl

theorem vsegid_checksDepth : ChecksDepth s p d a (.vsegid m p d k) 3 k :=
  shapeMember_checksDepth (srcs := []) (g := memberVsegid m p d k) (fun _ h => nomatch h) (fun _ => rfl) (fun _ => rfl) (fun _ => rfl)
    (fun _ => rfl) (fun _ => rfl) fun _ => rfl

theorem vslideup_checksDepth {x : XReg} : ChecksDepth s p d a (.vslideup m p d a x) 0 0 :=
  shapeMember_checksDepth (srcs := [a]) (g := memberVslideup m p d a x) (fun _ => List.mem_singleton.1) (fun _ => rfl) (fun _ => rfl) (fun _ => rfl)
    (fun _ => rfl) (fun _ => rfl) fun _ => rfl

theorem vslidedn_checksDepth {x : XReg} : ChecksDepth s p d a (.vslidedn m p d a x) 0 0 :=
  shapeMember_checksDepth (srcs := [a]) (g := memberVslidedn m p d a x) (fun _ => List.mem_singleton.1) (fun _ => rfl) (fun _ => rfl) (fun _ => rfl)
    (fun _ => rfl) (fun _ => rfl) fun _ => rfl

theorem vseglen_checksDepth : ChecksDepth s p d a (.vseglen p d k) 3 k where
  issue := ⟨_, rfl, rfl, fun hlo hd _ => issueCheck_of_true (by simp [hlo, hd])⟩
  run u mb cause val hu hcheck hmb := by
    obtain rfl := Option.some.inj hmb
    have hF : u.seglenTo p d k = .error (.trap cause val) := by
      unfold State.seglenTo
      dsimp only
      rw [hu.segments_error hcheck]
      rfl
    exact trapsWhole_of_run (f := fun s => s.seglenTo p d k) rfl rfl rfl hF

end

section
variable {s : State} {keys : List Nat}

theorem ChecksDepth.stopsAt {p : Depth} {d a : VReg} {i : Instr} {lo : Nat} {k : NReg} {cause : BitVec 8} {val : Word}
    (h : ChecksDepth s p d a i lo k) (henter : s.CanEnter s.cur keys)
    (hprog : progressAt (s.arch s.cur).convoyHere.resume (s.arch s.cur).convoyHere.member = 0) (hlanes : (s.thr s.cur).lanes.isSome = true)
    (hlo : lo ≤ ewOf (s.arch s.cur).vtype) (hd : groupOk d.toNat (multOf (s.arch s.cur).vtype) = true)
    (ha : groupOk a.toNat (multOf (s.arch s.cur).vtype) = true) (hfree : s.Writable (groupRegs s d))
    (hcheck : (s.arch s.cur).checkDepth (s.rows s.cur) (s.nest k) p.val = .error (.trap cause val)) : StopsAt s i cause val := by
  obtain ⟨m, hm, hwrites, hissue⟩ := h.issue
  have hcause : cause = 0x08 := checkDepth_nestTraps _ _ _ _ _ _ hcheck
  exact stopsAt_of_run henter hprog (by rw [hcause]; decide) hlanes hm (hissue hlo hd ha) (by rw [hwrites]; exact hfree)
    fun u m' hres hm' => h.run u m' cause val hres.sameRegs hcheck hm'

/-- Each row's instruction stops where the levels of its nest fail, and first where its depth is above the nest's own. -/
theorem stopsAt_of_checksDepth {p : Depth} {d a : VReg} {l : List (Instr × Nat × NReg)} (henter : s.CanEnter s.cur keys)
    (hprog : progressAt (s.arch s.cur).convoyHere.resume (s.arch s.cur).convoyHere.member = 0) (hlanes : (s.thr s.cur).lanes.isSome = true)
    (h : ∀ i lo k, (i, lo, k) ∈ l → ChecksDepth s p d a i lo k) : ∀ i lo k, (i, lo, k) ∈ l → lo ≤ ewOf (s.arch s.cur).vtype →
      ewOf (s.arch s.cur).vtype ≤ 4 → groupOk d.toNat (multOf (s.arch s.cur).vtype) = true →
      groupOk a.toNat (multOf (s.arch s.cur).vtype) = true → s.Writable (groupRegs s d) →
      ((s.nest k).d < p → StopsAt s i 0x08 (BitVec.ofNat 64 (p.val * 2 ^ 32 + 0xFFFF_FFFF))) ∧
      ∀ cause v, (s.arch s.cur).checkDepth (s.rows s.cur) (s.nest k) p.val = .error (.trap cause v) → StopsAt s i cause v := by
  intro i lo k hmem hlo _ hd ha hfree
  have hstops := fun {cause v} => (h i lo k hmem).stopsAt (cause := cause) (val := v) henter hprog hlanes hlo hd ha hfree
  exact ⟨fun hlt => hstops (checkDepth_of_lt _ _ hlt), fun cause v => hstops⟩

/-- A nest that is full takes no further level (R143). -/
theorem npush_stopsAt {n : NReg} {x : XReg} (henter : s.CanEnter s.cur keys)
    (hprog : progressAt (s.arch s.cur).convoyHere.resume (s.arch s.cur).convoyHere.member = 0) (hlanes : (s.thr s.cur).lanes.isSome = true)
    (hfull : (s.nest n).d = 4) (hx : (s.x x).toNat < 2 ^ 32) : StopsAt s (.npush n x) 0x09 0 := by
  refine stopsAt_of_run henter hprog (by decide) hlanes (m := memberNpush n x s) rfl rfl ?_ fun u m' hres hm' => ?_
  · exact List.any_eq_false.2 fun t _ => by simp [memberNpush, crossMember]
  · obtain rfl := Option.some.inj hm'
    have hux : u.x x = s.x x := by
      unfold State.x
      rw [hres.sameRegs.cur, hres.arch]
    have hhigh : (s.x x).extractLsb' 32 32 = 0#32 := by
      apply BitVec.eq_of_toNat_eq
      rw [BitVec.extractLsb'_toNat, Nat.shiftRight_eq_div_pow, Nat.div_eq_of_lt hx]
      rfl
    have hd : ((u.arch u.cur).nest n).d = 4 := by
      rw [hres.sameRegs.cur, hres.arch]
      exact hfull
    have hF : u.npushTo n (u.x x) = .error (.trap 0x09 0) := by
      unfold State.npushTo
      dsimp only
      rw [hux, hhigh, if_neg (fun h => h rfl), hd]
      rfl
    exact trapsWhole_of_run (f := fun s => s.npushTo n (s.x x)) (n := 0) rfl rfl rfl hF

/-- The first parent that is no node before its own stops the tree (R147). -/
theorem vtree_stopsAt {d a : VReg} {k : Nat} (henter : s.CanEnter s.cur keys)
    (hprog : progressAt (s.arch s.cur).convoyHere.resume (s.arch s.cur).convoyHere.member = 0) (hlanes : (s.thr s.cur).lanes.isSome = true)
    (hew : ewOf (s.arch s.cur).vtype = 3) (hd : groupOk d.toNat (multOf (s.arch s.cur).vtype) = true)
    (ha : groupOk a.toNat (multOf (s.arch s.cur).vtype) = true) (hfree : s.Writable (groupRegs s d)) (hk : k < (s.arch s.cur).vl)
    (hbad : sext 32 (s.el a.toNat 32 k) < -1 ∨ (k : Int) ≤ sext 32 (s.el a.toNat 32 k))
    (hgood : ∀ j : Nat, j < k → -1 ≤ sext 32 (s.el a.toNat 32 j) ∧ sext 32 (s.el a.toNat 32 j) < j) :
    StopsAt s (.vtree d a) 0x0A (BitVec.ofNat 64 k) := by
  refine stopsAt_of_run henter hprog (by decide) hlanes (m := memberVtree d a s) rfl (issueCheck_of_true (by simp [hew, hd, ha])) hfree
    fun u m' hres hm' => ?_
  obtain rfl := Option.some.inj hm'
  have hfind : ((List.range (s.arch s.cur).vl).find? fun i =>
      decide (sext 32 (s.el a.toNat 32 i) < -1) || decide ((i : Int) ≤ sext 32 (s.el a.toNat 32 i))) = some k := by
    rw [List.find?_range_eq_some]
    refine ⟨by simpa using hbad, List.mem_range.2 hk, fun j hj => ?_⟩
    have := hgood j hj
    simp only [Bool.not_eq_true', Bool.or_eq_false_iff, decide_eq_false_iff_not]
    omega
  have hF : u.treeTo d a = .error (.trap 0x0A (BitVec.ofNat 64 k)) := by
    unfold State.el at hfind
    unfold State.treeTo
    dsimp only
    rw [hres.sameRegs.cur, hres.arch, hres.sameRegs.rows, hfind]
  exact trapsWhole_of_run (f := fun s => s.treeTo d a) rfl rfl rfl hF

end

/-- Settles O40: a convoy whose members have done nothing traps where it stands, for its later members commit nothing before group 0; issue finds a
missing lane group, width or group, and a member's run finds the invalid levels before it writes. -/
theorem vectorFaultsTrapBeforeAnythingIsWritten : Obligations.VectorFaultsTrapBeforeAnythingIsWritten := by
  unfold Obligations.VectorFaultsTrapBeforeAnythingIsWritten
  intro s m ex p d a b c n x keys img cs Stops henter hprog
  have hcs : ∀ v ∈ cs, c = .vec v := by
    intro v hv
    cases c with
    | vec w => rw [List.mem_singleton.1 hv]
    | scal y => exact (List.not_mem_nil hv).elim
  refine ⟨fun i hi hlanes => stopsAt_of_no_lanes henter hprog hi hlanes, fun hlanes => ⟨stopsAt_of_checksFields henter hprog hlanes ?_, ?_, ?_, ?_⟩⟩
  · simp only [forall_row_cons]
    exact ⟨intMember_checks rfl hcs, intMember_checks rfl hcs, intMember_checks rfl hcs, intMember_checks rfl hcs, intMember_checks rfl hcs,
      intMember_checks rfl hcs, intMember_checks rfl hcs, intMember_checks rfl hcs, intMember_checks rfl hcs, intMember_checks rfl hcs,
      intMember_checks rfl hcs, intMember_checks rfl hcs, intMember_checks rfl hcs, vpopc_checks, vmerge_checks hcs, vmv_checks, vmvScalar_checks,
      vid_checks, widthChange_checks rfl rfl hcs, widthChange_checks rfl rfl hcs, cmpMember_checks rfl hcs, cmpMember_checks rfl hcs,
      cmpMember_checks rfl hcs, cmpMember_checks rfl hcs, cmpMember_checks rfl hcs, cmpMember_checks rfl hcs, cmpMember_checks rfl hcs,
      cmpMember_checks rfl hcs, cmpMember_checks rfl hcs, fpMember_checks rfl, fpMember_checks rfl, fpMember_checks rfl, fpMember_checks rfl,
      fpMember_checks rfl, fpMember_checks rfl, fpMember_checks rfl, fpMember_checks rfl, fpMember_checks rfl, redMember_checks rfl,
      redMember_checks rfl, redMember_checks rfl, redMember_checks rfl, redMember_checks rfl, redMember_checks rfl, redMember_checks rfl,
      redMember_checks rfl, redMember_checks rfl, scanMember_checks rfl, scanMember_checks rfl, scanMember_checks rfl, scanMember_checks rfl,
      shapeMember_checks rfl rfl, shapeMember_checks rfl rfl, vseglen_checks, shapeMember_checks rfl rfl, shapeMember_checks rfl rfl,
      shapeMember_checks rfl rfl, forall_row_nil⟩
  · refine stopsAt_of_checksDepth henter hprog hlanes ?_
    simp only [forall_row_cons]
    exact ⟨redMember_checksDepth fun _ => rfl, redMember_checksDepth fun _ => rfl, redMember_checksDepth fun _ => rfl,
      redMember_checksDepth fun _ => rfl, redMember_checksDepth fun _ => rfl, redMember_checksDepth fun _ => rfl, redMember_checksDepth fun _ => rfl,
      redMember_checksDepth fun _ => rfl, redMember_checksDepth fun _ => rfl, scanMember_checksDepth fun _ => rfl,
      scanMember_checksDepth fun _ => rfl, scanMember_checksDepth fun _ => rfl, scanMember_checksDepth fun _ => rfl,
      vdist_checksDepth, vsegid_checksDepth, vseglen_checksDepth, vslideup_checksDepth, vslidedn_checksDepth, forall_row_nil⟩
  · exact npush_stopsAt henter hprog hlanes
  · exact fun k hew hd ha hfree hk hbad hgood => vtree_stopsAt henter hprog hlanes hew hd ha hfree hk hbad hgood

end Sys2Proof.Machine
end

section
/-! PROOFS. Instruction words (spec/02_instruction_words.md R42 to R56): the fields of a word, the decoder of each major, the decoder against the
encoder in both directions, and O56 and O58. -/

namespace Sys2Proof

/-! ## Field values: each decoder of a field inverts its encoder -/

@[simp] theorem encPrec_decPrec (b : BitVec 1) : encPrec (decPrec b) = b := by revert b; decide
@[simp] theorem decPrec_encPrec (p : Prec) : decPrec (encPrec p) = p := by cases p <;> rfl
@[simp] theorem encBit_bitB (b : BitVec 1) : encBit (bitB b) = b := by revert b; decide
@[simp] theorem bitB_encBit (b : Bool) : bitB (encBit b) = b := by cases b <;> rfl
@[simp] theorem encRMode_decRMode (b : BitVec 2) : encRMode (decRMode b) = b := by revert b; decide
@[simp] theorem decRMode_encRMode (r : RMode) : decRMode (encRMode r) = r := by cases r <;> rfl
@[simp] theorem encNarrow_decNarrow (b : BitVec 2) : encNarrow (decNarrow b) = b := by revert b; decide
@[simp] theorem decNarrow_encNarrow (n : Narrow) : decNarrow (encNarrow n) = n := by cases n <;> rfl
@[simp] theorem encCodeType_decCodeType (b : BitVec 2) : encCodeType (decCodeType b) = b := by revert b; decide
@[simp] theorem decCodeType_encCodeType (t : CodeType) : decCodeType (encCodeType t) = t := by cases t <;> rfl
@[simp] theorem encWidth_decWidth (b : BitVec 1) : encWidth (decWidth b) = b := by revert b; decide
@[simp] theorem decWidth_encWidth (w : AWidth) : decWidth (encWidth w) = w := by cases w <;> rfl

@[simp] theorem srcReg_decSrc (s : Bool) (b : BitVec 5) : srcReg (decSrc s b) = b := by cases s <;> rfl

@[simp] theorem srcBit_decSrc (c : BitVec 1) (b : BitVec 5) : srcBit (decSrc (bitB c) b) = c := by
  obtain rfl | rfl : c = 0#1 ∨ c = 1#1 := by revert c; decide
  all_goals rfl

@[simp] theorem decSrc_srcBit_srcReg (b : VSrc) : decSrc (bitB (srcBit b)) (srcReg b) = b := by cases b <;> rfl

theorem decScope_eq_ok_iff (b : BitVec 3) (s : Scope) : decScope b = .ok s ↔ encScope s = b := by revert b; cases s <;> decide
theorem decDepth_eq_ok_iff (b : BitVec 3) (p : Depth) : decDepth b = .ok p ↔ encDepth p = b := by revert b p; decide
theorem decCache_eq_ok_iff (b : BitVec 2) (c : Cache) : decCache b = .ok c ↔ encCache c = b := by revert b; cases c <;> decide
theorem decSplit_eq_ok_iff (b : BitVec 2) (n : SplitCount) : decSplit b = .ok n ↔ encSplit n = b := by revert b; cases n <;> decide
theorem decTiles_eq_ok_iff (b : BitVec 2) (n : TileCount) : decTiles b = .ok n ↔ encTiles n = b := by revert b; cases n <;> decide

@[simp] theorem decScope_encScope (s : Scope) : decScope (encScope s) = .ok s := (decScope_eq_ok_iff _ _).2 rfl
@[simp] theorem decDepth_encDepth (p : Depth) : decDepth (encDepth p) = .ok p := (decDepth_eq_ok_iff _ _).2 rfl
@[simp] theorem decCache_encCache (c : Cache) : decCache (encCache c) = .ok c := (decCache_eq_ok_iff _ _).2 rfl
@[simp] theorem decSplit_encSplit (n : SplitCount) : decSplit (encSplit n) = .ok n := (decSplit_eq_ok_iff _ _).2 rfl
@[simp] theorem decTiles_encTiles (n : TileCount) : decTiles (encTiles n) = .ok n := (decTiles_eq_ok_iff _ _).2 rfl

/-- A nest field is what encodes its number exactly where its high bits are zero (R45). -/
theorem encNest_eq_iff (b : BitVec 5) (n : NReg) : encNest n = b ↔ b.extractLsb' 3 2 = 0#2 ∧ b.extractLsb' 0 3 = n := by revert b n; decide

@[simp] theorem zero_zero {n : Nat} (r : Except DecodeErr Instr) : zero 0#n r = r := by simp [zero]

@[simp] theorem nest_encNest (n : NReg) (r : NReg → Except DecodeErr Instr) : nest (encNest n) r = r n := by
  obtain ⟨hz, hn⟩ := (encNest_eq_iff _ n).1 rfl
  simp [nest, hz, hn]

@[simp] theorem ok_bind {α : Type} (a : α) (r : α → Except DecodeErr Instr) : (Except.ok a >>= r) = r a := rfl

@[simp] theorem withScope_encScope (s : Scope) (r : Scope → Except DecodeErr Instr) : withScope (encScope s) r = r s := by
  simp [withScope]

/-- The decoder and the well-formedness of a term agree on the images of R52. -/
@[simp] theorem imgMalformed_eq (img : BitVec 16) : imgMalformed img = !imageOk img := by
  rw [Bool.eq_iff_iff]
  simp [imgMalformed, imageOk, ← BitVec.toNat_inj, Nat.shiftRight_eq_div_pow]
  omega

/-- The decoder and the well-formedness of a term agree on where a loop may end (R282). -/
@[simp] theorem ahead_eq (off : BitVec 16) (r : Except DecodeErr Instr) :
    ahead off r = bif loopAhead off then r else .error .loopEndNotAhead := by
  have h : 0 < off.toInt ↔ 0 < off.toNat ∧ off.toNat < 32768 := by rw [BitVec.toInt_eq_toNat_cond]; split <;> omega
  simp [ahead, loopAhead, h]

/-! ## The parts of a field, put together again -/

theorem append_4_1_of_zero : ∀ c : BitVec 5, c.extractLsb' 1 4 = 0#4 → 0#4 ++ c.extractLsb' 0 1 = c := by decide
theorem append_2_2_1_of_zero : ∀ c : BitVec 5, c.extractLsb' 3 2 = 0#2 → 0#2 ++ c.extractLsb' 1 2 ++ c.extractLsb' 0 1 = c := by decide
theorem append_3_1_1 : ∀ c : BitVec 5, c.extractLsb' 2 3 ++ c.extractLsb' 1 1 ++ c.extractLsb' 0 1 = c := by decide
theorem append_3_1_1_of_zero : ∀ c : BitVec 5, c.extractLsb' 2 3 = 0#3 → 0#3 ++ c.extractLsb' 1 1 ++ c.extractLsb' 0 1 = c := by decide
theorem append_3_1_1_of_zeros :
    ∀ c : BitVec 5, c.extractLsb' 2 3 = 0#3 → c.extractLsb' 0 1 = 0#1 → 0#3 ++ c.extractLsb' 1 1 ++ 0#1 = c := by decide
theorem append_3_2_of_zero : ∀ c : BitVec 5, c.extractLsb' 2 3 = 0#3 → 0#3 ++ c.extractLsb' 0 2 = c := by decide
theorem append_3_2_of_low_zero : ∀ c : BitVec 5, c.extractLsb' 0 2 = 0#2 → c.extractLsb' 2 3 ++ 0#2 = c := by decide
theorem append_4_1_of_low_zero : ∀ d : BitVec 5, d.extractLsb' 0 1 = 0#1 → d.extractLsb' 1 4 ++ 0#1 = d := by decide
theorem append_1_1 : ∀ v : BitVec 2, v.extractLsb' 1 1 ++ v.extractLsb' 0 1 = v := by decide
theorem append_1_1_of_zero : ∀ v : BitVec 2, v.extractLsb' 1 1 = 0#1 → 0#1 ++ v.extractLsb' 0 1 = v := by decide

theorem high_of_append_5_5 (x y : BitVec 5) : (x ++ y).extractLsb' 5 5 = x := BitVec.extractLsb'_append_eq_left
theorem low_of_append_5_5 (x y : BitVec 5) : (x ++ y).extractLsb' 0 5 = y := BitVec.extractLsb'_append_eq_right

/-- The scalar flag of a vector operand is var itself where var's high bit is 0 (R48). -/
theorem eq_zero_or_one_of_high_zero : ∀ v : BitVec 2, v.extractLsb' 1 1 = 0#1 → v = 0#2 ∨ v = 1#2 := by decide

/-! ## The fields of a word (R43) -/

section
open BitVec (extractLsb'_append_eq_of_le extractLsb'_append_eq_of_add_le extractLsb'_append_extractLsb'_eq_extractLsb' extractLsb'_eq_self)

@[simp] theorem majorOf_mkReg (m : BitVec 6) (f : RegF) : majorOf (mkReg m f) = m := by
  simp (disch := decide) only [majorOf, mkReg, extractLsb'_append_eq_of_le, Nat.sub_self, extractLsb'_eq_self]

@[simp] theorem majorOf_mkImm (m : BitVec 6) (f : ImmF) : majorOf (mkImm m f) = m := by
  simp (disch := decide) only [majorOf, mkImm, extractLsb'_append_eq_of_le, Nat.sub_self, extractLsb'_eq_self]

@[simp] theorem majorOf_mkVec (m : BitVec 6) (f : VecF) : majorOf (mkVec m f) = m := by
  simp (disch := decide) only [majorOf, mkVec, extractLsb'_append_eq_of_le, Nat.sub_self, extractLsb'_eq_self]

@[simp] theorem majorOf_mkJmp (m : BitVec 6) (k : BitVec 26) : majorOf (mkJmp m k) = m := by
  simp (disch := decide) only [majorOf, mkJmp, extractLsb'_append_eq_of_le, Nat.sub_self, extractLsb'_eq_self]

@[simp] theorem regF_mkReg (m : BitVec 6) (f : RegF) : regF (mkReg m f) = f := by
  simp (disch := decide) only [regF, mkReg, extractLsb'_append_eq_of_le, extractLsb'_append_eq_of_add_le, Nat.reduceSub, extractLsb'_eq_self]

@[simp] theorem immF_mkImm (m : BitVec 6) (f : ImmF) : immF (mkImm m f) = f := by
  simp (disch := decide) only [immF, mkImm, extractLsb'_append_eq_of_le, extractLsb'_append_eq_of_add_le, Nat.reduceSub, extractLsb'_eq_self]

@[simp] theorem vecF_mkVec (m : BitVec 6) (f : VecF) : vecF (mkVec m f) = f := by
  simp (disch := decide) only [vecF, mkVec, extractLsb'_append_eq_of_le, extractLsb'_append_eq_of_add_le, Nat.reduceSub, extractLsb'_eq_self]

@[simp] theorem jmpF_mkJmp (m : BitVec 6) (k : BitVec 26) : jmpF (mkJmp m k) = k := by
  simp (disch := decide) only [jmpF, mkJmp, extractLsb'_append_eq_of_add_le, extractLsb'_eq_self]

theorem mkReg_regF (w : IWord) : mkReg (majorOf w) (regF w) = w := by
  simp (disch := decide) only [majorOf, mkReg, regF, extractLsb'_append_extractLsb'_eq_extractLsb', extractLsb'_eq_self]

theorem mkImm_immF (w : IWord) : mkImm (majorOf w) (immF w) = w := by
  simp (disch := decide) only [majorOf, mkImm, immF, extractLsb'_append_extractLsb'_eq_extractLsb', extractLsb'_eq_self]

theorem mkVec_vecF (w : IWord) : mkVec (majorOf w) (vecF w) = w := by
  simp (disch := decide) only [majorOf, mkVec, vecF, extractLsb'_append_extractLsb'_eq_extractLsb', extractLsb'_eq_self]

theorem mkJmp_jmpF (w : IWord) : mkJmp (majorOf w) (jmpF w) = w := by
  simp (disch := decide) only [majorOf, mkJmp, jmpF, extractLsb'_append_extractLsb'_eq_extractLsb', extractLsb'_eq_self]

end

theorem eq_ofNat_of_toNat_eq {n k : Nat} {b : BitVec n} (h : b.toNat = k) : b = .ofNat n k := (BitVec.toNat_eq_nat.1 h).2

section
variable {w : IWord} {k : Nat} (h : (majorOf w).toNat = k)
include h

theorem exists_mkReg : ∃ d a b fn ctl, w = mkReg (.ofNat 6 k) ⟨d, a, b, fn, ctl⟩ :=
  ⟨_, _, _, _, _, eq_ofNat_of_toNat_eq h ▸ (mkReg_regF w).symm⟩

theorem exists_mkImm : ∃ d a n, w = mkImm (.ofNat 6 k) ⟨d, a, n⟩ :=
  ⟨_, _, _, eq_ofNat_of_toNat_eq h ▸ (mkImm_immF w).symm⟩

theorem exists_mkVec : ∃ d a b fn m dep var, w = mkVec (.ofNat 6 k) ⟨d, a, b, fn, m, dep, var⟩ :=
  ⟨_, _, _, _, _, _, _, eq_ofNat_of_toNat_eq h ▸ (mkVec_vecF w).symm⟩

theorem exists_mkJmp : ∃ off, w = mkJmp (.ofNat 6 k) off :=
  ⟨_, eq_ofNat_of_toNat_eq h ▸ (mkJmp_jmpF w).symm⟩

end

/-! ## The decoder of each major (R53) -/

section
variable (f : ImmF)

@[simp] theorem decode_addi : decode (mkImm 2#6 f) = .ok (.addi f.d f.a f.k) := by rw [decode, majorOf_mkImm, immF_mkImm]; rfl
@[simp] theorem decode_andi : decode (mkImm 3#6 f) = .ok (.andi f.d f.a f.k) := by rw [decode, majorOf_mkImm, immF_mkImm]; rfl
@[simp] theorem decode_ori : decode (mkImm 4#6 f) = .ok (.ori f.d f.a f.k) := by rw [decode, majorOf_mkImm, immF_mkImm]; rfl
@[simp] theorem decode_xori : decode (mkImm 5#6 f) = .ok (.xori f.d f.a f.k) := by rw [decode, majorOf_mkImm, immF_mkImm]; rfl
@[simp] theorem decode_shift : decode (mkImm 6#6 f) = decodeShift f := by rw [decode, majorOf_mkImm, immF_mkImm]; rfl
@[simp] theorem decode_lui : decode (mkImm 7#6 f) = zero f.a (.ok (.lui f.d f.k)) := by rw [decode, majorOf_mkImm, immF_mkImm]; rfl
@[simp] theorem decode_adr : decode (mkImm 8#6 f) = zero f.a (.ok (.adr f.d f.k)) := by rw [decode, majorOf_mkImm, immF_mkImm]; rfl
@[simp] theorem decode_ld : decode (mkImm 10#6 f) = decodeLd f := by rw [decode, majorOf_mkImm, immF_mkImm]; rfl
@[simp] theorem decode_st : decode (mkImm 11#6 f) = decodeSt f := by rw [decode, majorOf_mkImm, immF_mkImm]; rfl
@[simp] theorem decode_beq : decode (mkImm 13#6 f) = .ok (.beq f.d f.a f.k) := by rw [decode, majorOf_mkImm, immF_mkImm]; rfl
@[simp] theorem decode_bne : decode (mkImm 14#6 f) = .ok (.bne f.d f.a f.k) := by rw [decode, majorOf_mkImm, immF_mkImm]; rfl
@[simp] theorem decode_blt : decode (mkImm 15#6 f) = .ok (.blt f.d f.a f.k) := by rw [decode, majorOf_mkImm, immF_mkImm]; rfl
@[simp] theorem decode_bge : decode (mkImm 16#6 f) = .ok (.bge f.d f.a f.k) := by rw [decode, majorOf_mkImm, immF_mkImm]; rfl
@[simp] theorem decode_bltu : decode (mkImm 17#6 f) = .ok (.bltu f.d f.a f.k) := by rw [decode, majorOf_mkImm, immF_mkImm]; rfl
@[simp] theorem decode_bgeu : decode (mkImm 18#6 f) = .ok (.bgeu f.d f.a f.k) := by rw [decode, majorOf_mkImm, immF_mkImm]; rfl
@[simp] theorem decode_jalr : decode (mkImm 20#6 f) = .ok (.jalr f.d f.a f.k) := by rw [decode, majorOf_mkImm, immF_mkImm]; rfl
@[simp] theorem decode_loop : decode (mkImm 21#6 f) = zero f.a (ahead f.k (.ok (.loop f.d f.k))) := by rw [decode, majorOf_mkImm, immF_mkImm]; rfl
@[simp] theorem decode_loopi : decode (mkImm 22#6 f) = ahead f.k (.ok (.loopi (f.d ++ f.a) f.k)) := by rw [decode, majorOf_mkImm, immF_mkImm]; rfl
@[simp] theorem decode_setvl : decode (mkImm 24#6 f) = bif imgMalformed f.k then .error .malformedImage else .ok (.setvl f.d f.a f.k) := by
  rw [decode, majorOf_mkImm, immF_mkImm]; rfl

end

@[simp] theorem decode_jal (k : BitVec 26) : decode (mkJmp 19#6 k) = .ok (.jal k) := by rw [decode, majorOf_mkJmp, jmpF_mkJmp]; rfl

section
variable (f : RegF)

@[simp] theorem decode_salu : decode (mkReg 1#6 f) = decodeSalu f := by rw [decode, majorOf_mkReg, regF_mkReg]; rfl
@[simp] theorem decode_sfpu : decode (mkReg 9#6 f) = decodeSfpu f := by rw [decode, majorOf_mkReg, regF_mkReg]; rfl
@[simp] theorem decode_amo : decode (mkReg 12#6 f) = decodeAmo f := by rw [decode, majorOf_mkReg, regF_mkReg]; rfl
@[simp] theorem decode_sys : decode (mkReg 23#6 f) = decodeSys f := by rw [decode, majorOf_mkReg, regF_mkReg]; rfl
@[simp] theorem decode_vcfg : decode (mkReg 25#6 f) = decodeVcfg f := by rw [decode, majorOf_mkReg, regF_mkReg]; rfl
@[simp] theorem decode_tile : decode (mkReg 36#6 f) = decodeTile f := by rw [decode, majorOf_mkReg, regF_mkReg]; rfl
@[simp] theorem decode_layer : decode (mkReg 37#6 f) = decodeLayer f := by rw [decode, majorOf_mkReg, regF_mkReg]; rfl
@[simp] theorem decode_mat : decode (mkReg 38#6 f) = decodeMat f := by rw [decode, majorOf_mkReg, regF_mkReg]; rfl
@[simp] theorem decode_eng : decode (mkReg 39#6 f) = decodeEng f := by rw [decode, majorOf_mkReg, regF_mkReg]; rfl
@[simp] theorem decode_sync : decode (mkReg 40#6 f) = decodeSync f := by rw [decode, majorOf_mkReg, regF_mkReg]; rfl

end

section
variable (f : VecF)

@[simp] theorem decode_vialu : decode (mkVec 26#6 f) = decodeVialu f := by rw [decode, majorOf_mkVec, vecF_mkVec]; rfl
@[simp] theorem decode_vcmp : decode (mkVec 27#6 f) = decodeVcmp f := by rw [decode, majorOf_mkVec, vecF_mkVec]; rfl
@[simp] theorem decode_vfpu : decode (mkVec 28#6 f) = decodeVfpu f := by rw [decode, majorOf_mkVec, vecF_mkVec]; rfl
@[simp] theorem decode_vmask : decode (mkVec 29#6 f) = decodeVmask f := by rw [decode, majorOf_mkVec, vecF_mkVec]; rfl
@[simp] theorem decode_vred : decode (mkVec 30#6 f) = decodeVred f := by rw [decode, majorOf_mkVec, vecF_mkVec]; rfl
@[simp] theorem decode_vscan : decode (mkVec 31#6 f) = decodeVscan f := by rw [decode, majorOf_mkVec, vecF_mkVec]; rfl
@[simp] theorem decode_vshape : decode (mkVec 32#6 f) = decodeVshape f := by rw [decode, majorOf_mkVec, vecF_mkVec]; rfl
@[simp] theorem decode_vscl : decode (mkVec 33#6 f) = decodeVscl f := by rw [decode, majorOf_mkVec, vecF_mkVec]; rfl
@[simp] theorem decode_vld : decode (mkVec 34#6 f) = decodeVld f := by rw [decode, majorOf_mkVec, vecF_mkVec]; rfl
@[simp] theorem decode_vst : decode (mkVec 35#6 f) = decodeVst f := by rw [decode, majorOf_mkVec, vecF_mkVec]; rfl

end

/-! ## What a decoder names is well formed and is encoded as the word -/

/-- The instruction, if any, that a decoder's answer names is well formed, and the word is its encoding. -/
def Names (w : IWord) (r : Except DecodeErr Instr) : Prop := ∀ i, r = .ok i → i.wf = true ∧ encode i = some w

section
variable {w : IWord} {r r' : Except DecodeErr Instr}

@[simp] theorem names_error (e : DecodeErr) : Names w (.error e) := fun _ h => nomatch h

@[simp] theorem names_ok_iff (i : Instr) : Names w (.ok i) ↔ i.wf = true ∧ encode i = some w := by simp [Names]

@[simp] theorem names_zero_iff {n : Nat} (b : BitVec n) : Names w (zero b r) ↔ (b = 0#n → Names w r) := by
  by_cases h : b = 0#n <;> simp [zero, h, cond_eq_ite]

@[simp] theorem names_cond_iff (c : Bool) : Names w (bif c then r else r') ↔ (c = true → Names w r) ∧ (c = false → Names w r') := by
  cases c <;> simp

theorem names_bind_iff {α : Type} {x : Except DecodeErr α} {r : α → Except DecodeErr Instr} :
    Names w (x >>= r) ↔ ∀ a, x = .ok a → Names w (r a) := by
  cases x with
  | error e => exact ⟨fun _ _ h => (nomatch h), fun _ => names_error e⟩
  | ok a => exact ⟨fun h a' ha => Except.ok.inj ha ▸ h, fun h => h a rfl⟩

@[simp] theorem names_nest_iff (b : BitVec 5) (r : NReg → Except DecodeErr Instr) :
    Names w (nest b r) ↔ ∀ n, encNest n = b → Names w (r n) := by
  simp [nest, encNest_eq_iff]

@[simp] theorem names_scope_iff (b : BitVec 3) (r : Scope → Except DecodeErr Instr) :
    Names w (withScope b r) ↔ ∀ s, encScope s = b → Names w (r s) := by
  simp [withScope, names_bind_iff, decScope_eq_ok_iff]

@[simp] theorem names_depth_iff (b : BitVec 3) (r : Depth → Except DecodeErr Instr) :
    Names w (decDepth b >>= r) ↔ ∀ p, encDepth p = b → Names w (r p) := by
  simp [names_bind_iff, decDepth_eq_ok_iff]

@[simp] theorem names_cache_iff (b : BitVec 2) (r : Cache → Except DecodeErr Instr) :
    Names w (decCache b >>= r) ↔ ∀ c, encCache c = b → Names w (r c) := by
  simp [names_bind_iff, decCache_eq_ok_iff]

@[simp] theorem names_split_iff (b : BitVec 2) (r : SplitCount → Except DecodeErr Instr) :
    Names w (decSplit b >>= r) ↔ ∀ n, encSplit n = b → Names w (r n) := by
  simp [names_bind_iff, decSplit_eq_ok_iff]

@[simp] theorem names_tiles_iff (b : BitVec 2) (r : TileCount → Except DecodeErr Instr) :
    Names w (decTiles b >>= r) ↔ ∀ n, encTiles n = b → Names w (r n) := by
  simp [names_bind_iff, decTiles_eq_ok_iff]

end

/-! One lemma for each group of rows. The split is the group's selector; a selector fixed, the answer is a row whose fields the guards of the decoder
determine, and its encoding has these fields again. -/

section
variable (d a b ctl : BitVec 5) (fn : BitVec 6)

@[simp] theorem names_decodeSalu : Names (mkReg 1#6 ⟨d, a, b, fn, ctl⟩) (decodeSalu ⟨d, a, b, fn, ctl⟩) := by
  simp only [decodeSalu]
  split
  case h_19 => exact names_error _
  all_goals
    obtain rfl := eq_ofNat_of_toNat_eq ‹fn.toNat = _›
    simp +contextual [encode, Instr.wf]

@[simp] theorem names_decodeSfpu : Names (mkReg 9#6 ⟨d, a, b, fn, ctl⟩) (decodeSfpu ⟨d, a, b, fn, ctl⟩) := by
  simp only [decodeSfpu]
  split
  case h_14 => exact names_error _
  all_goals
    obtain rfl := eq_ofNat_of_toNat_eq ‹fn.toNat = _›
    simp +contextual [encode, Instr.wf, append_4_1_of_zero, append_2_2_1_of_zero]

@[simp] theorem names_decodeAmo : Names (mkReg 12#6 ⟨d, a, b, fn, ctl⟩) (decodeAmo ⟨d, a, b, fn, ctl⟩) := by
  simp only [decodeAmo]
  split
  case h_10 => exact names_error _
  all_goals
    obtain rfl := eq_ofNat_of_toNat_eq ‹fn.toNat = _›
    simp +contextual [encode, Instr.wf, append_3_1_1]

@[simp] theorem names_decodeSys : Names (mkReg 23#6 ⟨d, a, b, fn, ctl⟩) (decodeSys ⟨d, a, b, fn, ctl⟩) := by
  simp only [decodeSys]
  split
  case h_11 => exact names_error _
  all_goals
    obtain rfl := eq_ofNat_of_toNat_eq ‹fn.toNat = _›
    simp +contextual [encode, Instr.wf, high_of_append_5_5, low_of_append_5_5, append_3_2_of_low_zero]

@[simp] theorem names_decodeVcfg : Names (mkReg 25#6 ⟨d, a, b, fn, ctl⟩) (decodeVcfg ⟨d, a, b, fn, ctl⟩) := by
  simp only [decodeVcfg]
  split
  case h_4 => exact names_error _
  all_goals
    obtain rfl := eq_ofNat_of_toNat_eq ‹fn.toNat = _›
    simp +contextual [encode, Instr.wf]

@[simp] theorem names_decodeTile : Names (mkReg 36#6 ⟨d, a, b, fn, ctl⟩) (decodeTile ⟨d, a, b, fn, ctl⟩) := by
  simp only [decodeTile]
  split
  case h_6 => exact names_error _
  all_goals
    obtain rfl := eq_ofNat_of_toNat_eq ‹fn.toNat = _›
    simp +contextual [encode, Instr.wf, append_3_1_1_of_zero, append_3_1_1_of_zeros, append_3_2_of_zero]

@[simp] theorem names_decodeLayer : Names (mkReg 37#6 ⟨d, a, b, fn, ctl⟩) (decodeLayer ⟨d, a, b, fn, ctl⟩) := by
  simp only [decodeLayer]
  split
  case h_5 => exact names_error _
  all_goals
    obtain rfl := eq_ofNat_of_toNat_eq ‹fn.toNat = _›
    simp +contextual [encode, Instr.wf, append_3_2_of_low_zero]

@[simp] theorem names_decodeMat : Names (mkReg 38#6 ⟨d, a, b, fn, ctl⟩) (decodeMat ⟨d, a, b, fn, ctl⟩) := by
  simp only [decodeMat]
  split
  case h_8 => exact names_error _
  all_goals
    obtain rfl := eq_ofNat_of_toNat_eq ‹fn.toNat = _›
    simp +contextual [encode, Instr.wf]

@[simp] theorem names_decodeEng : Names (mkReg 39#6 ⟨d, a, b, fn, ctl⟩) (decodeEng ⟨d, a, b, fn, ctl⟩) := by
  simp only [decodeEng]
  split
  case h_3 => exact names_error _
  all_goals
    obtain rfl := eq_ofNat_of_toNat_eq ‹fn.toNat = _›
    simp +contextual [encode, Instr.wf, append_3_2_of_low_zero]

@[simp] theorem names_decodeSync : Names (mkReg 40#6 ⟨d, a, b, fn, ctl⟩) (decodeSync ⟨d, a, b, fn, ctl⟩) := by
  simp only [decodeSync]
  split
  case h_6 => exact names_error _
  all_goals
    obtain rfl := eq_ofNat_of_toNat_eq ‹fn.toNat = _›
    simp +contextual [encode, Instr.wf, append_3_2_of_low_zero, append_3_2_of_zero]

end

section
variable (d a b fn : BitVec 5) (m : BitVec 1) (dep : BitVec 3) (var : BitVec 2)

@[simp] theorem names_decodeVialu : Names (mkVec 26#6 ⟨d, a, b, fn, m, dep, var⟩) (decodeVialu ⟨d, a, b, fn, m, dep, var⟩) := by
  simp only [decodeVialu]
  split
  case h_20 => exact names_error _
  case h_16 =>
    obtain rfl := eq_ofNat_of_toNat_eq ‹fn.toNat = _›
    simp only [names_zero_iff]
    intro hdep hvar
    obtain rfl | rfl := eq_zero_or_one_of_high_zero var hvar <;> simp +contextual [hdep, encode, Instr.wf]
  all_goals
    obtain rfl := eq_ofNat_of_toNat_eq ‹fn.toNat = _›
    simp +contextual [encode, Instr.wf, append_1_1, append_1_1_of_zero]

@[simp] theorem names_decodeVcmp : Names (mkVec 27#6 ⟨d, a, b, fn, m, dep, var⟩) (decodeVcmp ⟨d, a, b, fn, m, dep, var⟩) := by
  simp only [decodeVcmp]
  split
  case h_10 => exact names_error _
  all_goals
    obtain rfl := eq_ofNat_of_toNat_eq ‹fn.toNat = _›
    simp +contextual [encode, Instr.wf, append_1_1_of_zero]

@[simp] theorem names_decodeVfpu : Names (mkVec 28#6 ⟨d, a, b, fn, m, dep, var⟩) (decodeVfpu ⟨d, a, b, fn, m, dep, var⟩) := by
  simp only [decodeVfpu]
  split
  case h_14 => exact names_error _
  all_goals
    obtain rfl := eq_ofNat_of_toNat_eq ‹fn.toNat = _›
    simp +contextual [encode, Instr.wf]

@[simp] theorem names_decodeVmask : Names (mkVec 29#6 ⟨d, a, b, fn, m, dep, var⟩) (decodeVmask ⟨d, a, b, fn, m, dep, var⟩) := by
  simp only [decodeVmask]
  split
  case h_6 => exact names_error _
  all_goals
    obtain rfl := eq_ofNat_of_toNat_eq ‹fn.toNat = _›
    simp +contextual [encode, Instr.wf]

@[simp] theorem names_decodeVred : Names (mkVec 30#6 ⟨d, a, b, fn, m, dep, var⟩) (decodeVred ⟨d, a, b, fn, m, dep, var⟩) := by
  simp only [decodeVred]
  split
  case h_12 => exact names_error _
  all_goals
    obtain rfl := eq_ofNat_of_toNat_eq ‹fn.toNat = _›
    simp +contextual [encode, Instr.wf, append_4_1_of_low_zero]

@[simp] theorem names_decodeVscan : Names (mkVec 31#6 ⟨d, a, b, fn, m, dep, var⟩) (decodeVscan ⟨d, a, b, fn, m, dep, var⟩) := by
  simp only [decodeVscan]
  split
  case h_5 => exact names_error _
  all_goals
    obtain rfl := eq_ofNat_of_toNat_eq ‹fn.toNat = _›
    simp +contextual [encode, Instr.wf, append_1_1_of_zero]

@[simp] theorem names_decodeVshape : Names (mkVec 32#6 ⟨d, a, b, fn, m, dep, var⟩) (decodeVshape ⟨d, a, b, fn, m, dep, var⟩) := by
  simp only [decodeVshape]
  split
  case h_14 => exact names_error _
  all_goals
    obtain rfl := eq_ofNat_of_toNat_eq ‹fn.toNat = _›
    simp +contextual [encode, Instr.wf, append_1_1_of_zero]

@[simp] theorem names_decodeVscl : Names (mkVec 33#6 ⟨d, a, b, fn, m, dep, var⟩) (decodeVscl ⟨d, a, b, fn, m, dep, var⟩) := by
  simp only [decodeVscl]
  split
  case h_4 => exact names_error _
  all_goals
    obtain rfl := eq_ofNat_of_toNat_eq ‹fn.toNat = _›
    simp +contextual [encode, Instr.wf]

@[simp] theorem names_decodeVld : Names (mkVec 34#6 ⟨d, a, b, fn, m, dep, var⟩) (decodeVld ⟨d, a, b, fn, m, dep, var⟩) := by
  simp only [decodeVld]
  split
  case h_7 => exact names_error _
  all_goals
    obtain rfl := eq_ofNat_of_toNat_eq ‹fn.toNat = _›
    simp +contextual [encode, Instr.wf]

@[simp] theorem names_decodeVst : Names (mkVec 35#6 ⟨d, a, b, fn, m, dep, var⟩) (decodeVst ⟨d, a, b, fn, m, dep, var⟩) := by
  simp only [decodeVst]
  split
  case h_6 => exact names_error _
  all_goals
    obtain rfl := eq_ofNat_of_toNat_eq ‹fn.toNat = _›
    simp +contextual [encode, Instr.wf]

end

section
variable (d a : BitVec 5) (n : BitVec 16)

theorem append_3_13 : n.extractLsb' 13 3 ++ n.extractLsb' 0 13 = n := BitVec.extractLsb'_append_extractLsb' (w := 3) (len := 13)

theorem append_2_8_6_of_zero (h : n.extractLsb' 6 8 = 0#8) : n.extractLsb' 14 2 ++ 0#8 ++ n.extractLsb' 0 6 = n := by
  simp (disch := decide) only [← h, BitVec.extractLsb'_append_extractLsb'_eq_extractLsb', BitVec.extractLsb'_eq_self]

@[simp] theorem names_decodeLd : Names (mkImm 10#6 ⟨d, a, n⟩) (decodeLd ⟨d, a, n⟩) := by
  have hn := append_3_13 n
  simp only [decodeLd]
  split
  case h_6 => exact names_error _
  all_goals
    rw [eq_ofNat_of_toNat_eq ‹(n.extractLsb' 13 3).toNat = _›] at hn
    simp [encode, Instr.wf, hn]

@[simp] theorem names_decodeSt : Names (mkImm 11#6 ⟨d, a, n⟩) (decodeSt ⟨d, a, n⟩) := by
  have hn := append_3_13 n
  simp only [decodeSt]
  split
  case h_4 => exact names_error _
  all_goals
    rw [eq_ofNat_of_toNat_eq ‹(n.extractLsb' 13 3).toNat = _›] at hn
    simp [encode, Instr.wf, hn]

@[simp] theorem names_decodeShift : Names (mkImm 6#6 ⟨d, a, n⟩) (decodeShift ⟨d, a, n⟩) := by
  have hn := append_2_8_6_of_zero n
  simp only [decodeShift]
  split
  case h_4 => exact names_error _
  all_goals
    rw [eq_ofNat_of_toNat_eq ‹(n.extractLsb' 14 2).toNat = _›] at hn
    rw [names_zero_iff, names_ok_iff]
    exact fun h => ⟨rfl, congrArg (fun k => some (mkImm 6#6 ⟨d, a, k⟩)) (hn h)⟩

end

/-- What the decoder accepts is well formed, and the word is its encoding: the major fixes the format, and each format's rows are above. -/
theorem names_decode (w : IWord) : Names w (decode w) := by
  unfold decode
  split
  case h_1 | h_2 | h_3 | h_4 | h_6 | h_7 | h_8 | h_10 | h_11 | h_13 | h_14 | h_15 | h_16 | h_17 | h_18 | h_20 | h_21 | h_22 | h_24 =>
    obtain ⟨d, a, n, rfl⟩ := exists_mkImm ‹_›
    simp +contextual [encode, Instr.wf, high_of_append_5_5, low_of_append_5_5]
  case h_5 | h_9 | h_12 | h_23 | h_25 | h_36 | h_37 | h_38 | h_39 | h_40 =>
    obtain ⟨d, a, b, fn, ctl, rfl⟩ := exists_mkReg ‹_›
    simp
  case h_26 | h_27 | h_28 | h_29 | h_30 | h_31 | h_32 | h_33 | h_34 | h_35 =>
    obtain ⟨d, a, b, fn, m, dep, var, rfl⟩ := exists_mkVec ‹_›
    simp
  case h_19 =>
    obtain ⟨off, rfl⟩ := exists_mkJmp ‹_›
    simp [encode, Instr.wf]
  case h_41 => exact names_error _

/-- The decoder takes the encoding of a well-formed term back to that term: each row's fields are read where its encoding writes them. -/
theorem decode_of_encode {i : Instr} {w : IWord} (hwf : i.wf = true) (h : encode i = some w) : decode w = .ok i := by
  cases i
  case setvl d a img => cases h; simp_all [Instr.wf]
  case loop a off => cases h; simp_all [Instr.wf]
  case loopi n off => cases h; simp_all [Instr.wf, -Nat.reduceAdd, BitVec.extractLsb'_append_extractLsb'_eq_extractLsb']
  all_goals cases h
  all_goals simp [-Nat.reduceAdd, -BitVec.toNat_append, BitVec.extractLsb'_append_eq_of_le, BitVec.extractLsb'_append_eq_of_add_le,
    decodeSalu, decodeSfpu, decodeAmo, decodeSys, decodeVcfg, decodeVialu, decodeVcmp, decodeVfpu, decodeVmask, decodeVred, decodeVscan, decodeVshape,
    decodeVscl, decodeVld, decodeVst, decodeTile, decodeLayer, decodeMat, decodeEng, decodeSync, decodeLd, decodeSt, decodeShift]

theorem decode_eq_ok_iff (w : IWord) (i : Instr) : decode w = .ok i ↔ i.wf = true ∧ encode i = some w :=
  ⟨names_decode w i, fun ⟨hwf, h⟩ => decode_of_encode hwf h⟩

/-! ## Which terms have a word -/

theorem encode_isSome (i : Instr) : Laws.Encoding.Statement i := by cases i <;> rfl

theorem encode_eq_none_of_isEvent {i : Instr} (h : i.isEvent = true) : encode i = none := by
  have hs := encode_isSome i
  rw [Laws.Encoding.Statement, h] at hs
  simpa using hs

theorem special_or_unreadable_of_encode_eq_none {i : Instr} (h : i.isEvent = false) (hn : encode i = none) :
    Laws.Encoding.special i = true ∨ Laws.Encoding.unreadable i = true := by
  have hs := encode_isSome i
  rw [Laws.Encoding.Statement, h, hn] at hs
  simpa [or_iff_not_imp_left] using hs

/-- Settles O58: a row's word is assembled from its fields, and the decoder's guards admit exactly the words so assembled. -/
theorem encodeAndDecodeAgree : Obligations.EncodeAndDecodeAgree := by
  unfold Obligations.EncodeAndDecodeAgree
  refine ⟨decode_eq_ok_iff, fun i => encode_eq_none_of_isEvent, fun i hi => ?_, fun i j w hi hj wi wj => ?_⟩
  · cases hw : encode i with
    | some w => exact .inl ⟨w, rfl⟩
    | none =>
      right
      obtain hs | hs := special_or_unreadable_of_encode_eq_none hi hw
      · clear hw hi
        cases i
        case fflagsWrite | tcbaseWrite | progWrite | loopStackWrite | pgrootWrite | islimWrite => trivial
        all_goals exact absurd hs Bool.false_ne_true
      · clear hw hi
        cases i
        case illegalInstruction | instructionFetchFault => trivial
        all_goals exact absurd hs Bool.false_ne_true
  · exact Except.ok.inj (((decode_eq_ok_iff w i).2 ⟨wi, hi⟩).symm.trans ((decode_eq_ok_iff w j).2 ⟨wj, hj⟩))

/-- Settles O56: each of these closed words is read by the decoder of its major. -/
theorem wordsOfTheMapDecode : Obligations.WordsOfTheMapDecode := by
  unfold Obligations.WordsOfTheMapDecode
  repeat' apply And.intro
  all_goals decide

end Sys2Proof
end

section
/-! PROOFS. What the entry of a trap rests on (spec/21_traps_restart.md R364, R365): the notes of the access that trapped, the store of the nest frame
at its homes, and TSTATUS. -/

namespace Sys2Proof.Machine

/-! ## What a trap notes of the access that met it (R171, R378, R385) -/

/-- From s to u poison, counts and reports of errors may differ, and nothing else does. -/
def Notes (s u : State) : Prop := u = { s with tags := u.tags, elided := u.elided, errCounts := u.errCounts, reports := u.reports }

theorem Notes.refl (s : State) : Notes s s := rfl

theorem Notes.trans {s u w : State} (h : Notes s u) (h' : Notes u w) : Notes s w := by
  refine Eq.trans h' ?_
  rw [h]

theorem Notes.ite {s a b : State} (c : Prop) [Decidable c] (ha : Notes s a) (hb : Notes s b) : Notes s (if c then a else b) := by
  split
  · exact ha
  · exact hb

theorem Notes.foldl {β : Type} {f : State → β → State} (hf : ∀ s b, Notes s (f s b)) (l : List β) (s : State) : Notes s (l.foldl f s) := by
  induction l generalizing s with
  | nil => exact .refl s
  | cons b l ih => exact (hf s b).trans (ih _)

theorem State.poison_notes (s : State) (k : Nat) : Notes s (s.poison k) := .ite _ rfl rfl

theorem State.findErrors_notes (s : State) (keys : List Nat) : Notes s (s.findErrors keys) := .foldl State.poison_notes _ s

theorem State.noteElided_notes (s : State) (k : Nat) : Notes s (s.noteElided k) := by
  unfold State.noteElided State.countEvent
  exact .ite _ (.ite _ rfl rfl) rfl

theorem State.noteLines_notes (s : State) (keys : List Nat) : Notes s (s.noteLines keys) := .ite _ rfl (.foldl State.noteElided_notes _ s)

theorem State.noteFound_notes (s : State) (w : Who) (va : Word) : Notes s (s.noteFound w va) := by
  unfold State.noteFound
  split
  · exact .ite _ (s.findErrors_notes _) (.ite _ (s.poison_notes _) rfl)
  · rfl

theorem State.noteTrap_notes (s : State) (t : Tid) (c : BitVec 8) (v : Word) : Notes s (s.noteTrap t c v) := by
  unfold State.noteTrap
  refine .ite _ (s.noteFound_notes _ _) (.ite _ ?_ rfl)
  split
  · exact s.noteLines_notes _
  · rfl

theorem State.trapStart_notes (s : State) (t : Tid) (c : BitVec 8) (v : Word) (async : Bool) : Notes s (s.trapStart t c v async) :=
  .ite _ rfl (s.noteTrap_notes t c v)

section
variable {s u : State} (h : Notes s u) (t : Tid)
include h

theorem Notes.thr (v : Tid) : u.thr v = s.thr v := by rw [h]; rfl

theorem Notes.framePlace : u.framePlace t = s.framePlace t := by
  rw [h]
  rfl

theorem Notes.releaseAt (p : Point → Bool) : Notes (s.releaseAt t p) (u.releaseAt t p) := by
  obtain ⟨a, b, c, d, rfl⟩ : ∃ a b c d, u = { s with tags := a, elided := b, errCounts := c, reports := d } := ⟨_, _, _, _, h⟩
  unfold State.releaseAt
  dsimp only
  split <;> rfl

theorem Notes.setThr (th : Thread) : Notes (s.setThr t th) (u.setThr t th) := by
  obtain ⟨a, b, c, d, rfl⟩ : ∃ a b c d, u = { s with tags := a, elided := b, errCounts := c, reports := d } := ⟨_, _, _, _, h⟩
  rfl

theorem Notes.settle : Notes (s.settle t) (u.settle t) := by
  unfold State.settle
  rw [h.thr]
  split
  · exact h
  · have hr := h.releaseAt t fun p => p == .closing
    have ht : (u.releaseClosing t).thr t = (s.releaseClosing t).thr t := hr.thr t
    dsimp only
    rw [ht]
    exact hr.setThr t _

theorem Notes.closed : Notes (s.closed t) (u.closed t) := by
  unfold State.closed State.release
  exact (h.settle t).releaseAt t _

end

/-! ## States that differ in their threads alone -/

/-- The two states differ in their threads at most. -/
def ButThreads (s u : State) : Prop := u = { s with threads := u.threads }

theorem ButThreads.refl (s : State) : ButThreads s s := rfl

theorem ButThreads.trans {s u w : State} (h : ButThreads s u) (h' : ButThreads u w) : ButThreads s w := by
  refine Eq.trans h' ?_
  rw [h]

theorem ButThreads.exists {s u : State} (h : ButThreads s u) : ∃ x, u = { s with threads := x } := ⟨_, h⟩

theorem ButThreads.foldl {β : Type} {f : State → β → State} (hf : ∀ s u b, ButThreads s u → ButThreads (f s b) (f u b)) (l : List β) {s u : State}
    (h : ButThreads s u) : ButThreads (l.foldl f s) (l.foldl f u) := by
  induction l generalizing s u with
  | nil => exact h
  | cons b l ih => exact ih (hf s u b h)

section
variable {s u : State} (h : ButThreads s u)
include h

theorem ButThreads.noticeThreads (f : Nat → Bool) : ButThreads (s.noticeThreads f) (u.noticeThreads f) := by
  obtain ⟨x, rfl⟩ := h.exists
  rfl

theorem ButThreads.noticeWrite (l : List Nat) : ButThreads (s.noticeWrite l) (u.noticeWrite l) := by
  unfold State.noticeWrite
  split
  · exact h
  · exact h.noticeThreads _

theorem ButThreads.revive (r : Nat) : ButThreads (s.revive r) (u.revive r) := by
  unfold State.revive State.noticeRange
  refine ButThreads.noticeWrite (ButThreads.noticeThreads ?_ _) _
  obtain ⟨x, rfl⟩ := h.exists
  rfl

theorem ButThreads.reviveAt (k : Nat) : ButThreads (s.reviveAt k) (u.reviveAt k) := by
  have hd : u.isDead k = s.isDead k := State.isDead_congr (by rw [h]) k
  unfold State.reviveAt
  rw [hd]
  split
  · exact h.revive _
  · exact h

theorem ButThreads.performByte (b : SByte) : ButThreads (s.performByte b) (u.performByte b) := by
  obtain ⟨x, hx⟩ := (h.reviveAt b.key).exists
  unfold State.performByte
  dsimp only
  rw [hx]
  rfl

theorem ButThreads.performTag (p : Nat × TagWrite) : ButThreads (s.performTag p) (u.performTag p) := by
  obtain ⟨x, hx⟩ := (h.reviveAt p.1).exists
  unfold State.performTag
  dsimp only
  split
  · rw [hx]
    rfl
  · exact h

theorem ButThreads.noticeDescriptor (k : Nat) : ButThreads (s.noticeDescriptor k) (u.noticeDescriptor k) := by
  obtain ⟨x, rfl⟩ := h.exists
  have hd : ∀ c, State.descState { s with threads := x } c = s.descState c := fun c => rfl
  unfold State.noticeDescriptor
  simp only [hd]
  split
  · split <;> rfl
  · rfl

theorem ButThreads.perform (bytes : List SByte) (tags : List (Nat × TagWrite)) : ButThreads (s.perform bytes tags) (u.perform bytes tags) := by
  have hb := ButThreads.foldl (fun s u b h => ButThreads.performByte (s := s) h b) bytes h
  have ht := ButThreads.foldl (fun s u p h => ButThreads.performTag (s := s) h p) tags hb
  unfold State.perform
  dsimp only
  refine ButThreads.noticeWrite (ButThreads.foldl (fun s u k h => ButThreads.noticeDescriptor (s := s) h k) _ ?_) _
  obtain ⟨x, hx⟩ := ht.exists
  rw [hx]
  rfl

theorem ButThreads.coverBad (e : StoreEntry) : ButThreads (s.coverBad e) (u.coverBad e) := by
  obtain ⟨x, rfl⟩ := h.exists
  unfold State.coverBad
  dsimp only
  split <;> rfl

theorem ButThreads.reportHits (w : Bool) (m : Option (Tid × Word × Nat)) (l : List (Option Nat × Nat)) :
    ButThreads (s.reportHits w m l) (u.reportHits w m l) := by
  obtain ⟨x, rfl⟩ := h.exists
  unfold State.reportHits
  dsimp only
  split <;> rfl

theorem ButThreads.keyDown (k : Nat) : u.keyDown k = s.keyDown k := by
  rw [h]
  rfl

theorem ButThreads.reportLost (c : CtxId) (k : Nat) : ButThreads (s.reportLost c k) (u.reportLost c k) := by
  have hr : u.isRetired k = s.isRetired k := by rw [h]; rfl
  have hp : u.portOfKey k = s.portOfKey k := by rw [h]; rfl
  obtain ⟨x, rfl⟩ := h.exists
  unfold State.reportLost State.reportLoss
  rw [hr, hp]
  split
  · split <;> rfl
  · rfl

theorem ButThreads.performEntry (e : StoreEntry) : ButThreads (s.performEntry e) (u.performEntry e) := by
  have hd : u.keyDown = s.keyDown := funext h.keyDown
  unfold State.performEntry
  rw [hd]
  dsimp only
  split
  · exact ((h.perform _ _).coverBad e).reportHits _ _ _
  · exact ((h.perform _ _).reportHits _ _ _).reportLost _ _

theorem ButThreads.drainHome (t : Tid) (sel : StoreEntry → Bool) (keys : List Nat) :
    ButThreads (s.drainHome t sel keys) (u.drainHome t sel keys) := by
  have hs : u.stores = s.stores := by rw [h]
  unfold State.drainHome
  rw [hs]
  dsimp only
  split
  · exact h
  · refine ButThreads.foldl (fun s u e h => ButThreads.performEntry (s := s) h e) _ ?_
    obtain ⟨x, rfl⟩ := h.exists
    rfl

theorem ButThreads.plain {keys : List Nat} (hp : s.Plain keys) : u.Plain keys := by
  have hk := h.keyDown
  obtain ⟨x, rfl⟩ := h.exists
  exact ⟨hp.1, fun k hm => by rw [hk]; exact hp.2 k hm⟩

theorem ButThreads.sameHomes : SameHomes s u := ⟨by rw [h], by rw [h]⟩

end

/-! ## A structure written at plain homes -/

theorem frameOf_frameOf (k : Nat) : frameOf (frameOf k) = frameOf k := by unfold frameOf; omega

theorem State.keyDown_frameOf (s : State) (k : Nat) : s.keyDown (frameOf k) = s.keyDown k := by
  have hstack : stackOf (frameOf k) = stackOf k := by unfold stackOf frameOf stackBytes; omega
  have hhbm : isHbm (frameOf k) = isHbm k := by unfold isHbm frameOf; exact decide_eq_decide.2 (by omega)
  have hfar : isHost (frameOf k) = isHost k ∧ isRemote (frameOf k) = isRemote k ∧ (frameOf k < 2 ^ 60 ↔ k < 2 ^ 60) := by
    unfold isHost isRemote frameOf
    exact ⟨by congr 1 <;> exact decide_eq_decide.2 (by omega), decide_eq_decide.2 (by omega), by omega⟩
  have hdev : isRemote k = true → (frameOf k - 2 ^ 61) / 2 ^ 40 = (k - 2 ^ 61) / 2 ^ 40 := by
    intro hr
    have := of_decide_eq_true hr
    unfold frameOf
    omega
  have hport : s.portOfKey (frameOf k) = s.portOfKey k := by
    unfold State.portOfKey
    rw [hfar.1, hfar.2.1]
    split
    · rfl
    · split
      next hr => rw [hdev hr]
      · rfl
  unfold State.keyDown State.isRetired fieldOfKey
  simp only [hhbm, hstack, frameOf_frameOf, hport, hfar.2.2]

/-- A structure that is located has a key for each of its bytes. -/
theorem locateBy_length {place : Word → Except (BitVec 8) Loc} {fuel len : Nat} {va : Word} {keys : List Nat}
    (h : locateBy place va fuel len = .ok keys) (hfuel : va.toNat % 4096 + len ≤ 4096 * fuel) : keys.length = len := by
  have hnone : ∀ fuel va, locateBy place va fuel 0 = .ok [] := by
    intro fuel va
    cases fuel <;> rfl
  induction fuel generalizing va len keys with
  | zero =>
    cases h
    simp at hfuel ⊢
    omega
  | succ fuel ih =>
    unfold locateBy at h
    split at h
    next h0 => cases h; exact h0.symm
    next h0 =>
      split at h
      · cases h
      · dsimp only at h
        split at h
        · cases h
        next rest hrest =>
          cases h
          rw [List.length_append, List.length_map, List.length_range]
          by_cases hin : len ≤ 4096 - va.toNat % 4096
          · rw [Nat.min_eq_left hin, Nat.sub_self, hnone] at hrest
            cases hrest
            simp [Nat.min_eq_left hin]
          · rw [Nat.min_eq_right (by omega)] at hrest ⊢
            rw [ih hrest]
            · omega
            · rw [BitVec.toNat_add, BitVec.toNat_ofNat]
              omega

theorem State.framePlace_length {s : State} {t : Tid} {keys : List Nat} (h : s.framePlace t = .ok keys) : keys.length = 64 :=
  locateBy_length h (by have := Nat.mod_lt (s.frameTop t - 64).toNat (by decide : 0 < 4096); omega)

theorem nestFrame_length (a : Arch) : (nestFrame a).length = 64 := by
  have hb : ∀ n : Nest, (wordBytes64 n.image).length = 8 := fun n => by simp [wordBytes64, bytesOf]
  unfold nestFrame
  rw [List.length_flatMap, List.map_congr_left fun n _ => hb n]
  simp

/-- Whole bytes with the tags of a plain write, for a store of the given thread. -/
theorem State.performEntry_plain {s : State} {e : StoreEntry} (hp : s.Plain e.keys) (hm : ∀ b ∈ e.bytes, b.mask = 0xFF)
    (ht : e.tags = rawTags e.bytes) : (s.performEntry e).mem = writeAll s.mem e.bytes ∧ (s.performEntry e).dead = s.dead := by
  have hkey : ∀ b ∈ e.bytes, s.keyDown b.key = false := fun b hb => (hp.2 b.key (List.mem_map_of_mem hb)).2.2.2
  have hlost : (e.keys ++ e.frames).filter s.keyDown = [] := by
    rw [List.filter_eq_nil_iff]
    intro k hk
    rw [Bool.not_eq_true]
    rcases List.mem_append.1 hk with hk | hk
    · exact (hp.2 k hk).2.2.2
    · unfold StoreEntry.frames at hk
      rw [ht] at hk
      unfold rawTags at hk
      simp only [List.map_map, List.mem_map, List.mem_dedup, List.mem_filter] at hk
      obtain ⟨f, ⟨b, ⟨hb, -⟩, rfl⟩, rfl⟩ := hk
      exact (s.keyDown_frameOf b.key).trans (hkey b hb)
  have hw := State.perform_plain hm fun b hb => hp.home b.key (List.mem_map_of_mem hb)
  have hc : SameHomes (s.perform e.bytes e.tags) ((s.perform e.bytes e.tags).coverBad e) := .ite _ (.refl _) ⟨rfl, rfl⟩
  have hr := State.reportHits_sameHomes ((s.perform e.bytes e.tags).coverBad e) true (e.origin.site.map fun p => (e.tid, p))
    (e.bytes.map fun b => (e.origin.elem, b.key))
  unfold State.performEntry
  rw [hlost]
  dsimp only
  rw [← ht] at hw
  exact ⟨(hw.trans (hc.trans hr)).mem, (hw.trans (hc.trans hr)).dead⟩

/-- The bytes of a structure as one store writes them. -/
def structBytes (keys : List Nat) (bytes : List Byte) : List SByte := keys.zipWith (fun k b => (⟨k, b, 0xFF⟩ : SByte)) bytes

theorem structBytes_keys {keys : List Nat} {bytes : List Byte} (h : keys.length = bytes.length) :
    (structBytes keys bytes).map SByte.key = keys := by
  unfold structBytes
  induction keys generalizing bytes with
  | nil => rfl
  | cons k keys ih =>
    cases bytes with
    | nil => cases h
    | cons b bytes => exact congrArg (k :: ·) (ih (Nat.succ.inj h))

theorem structBytes_whole {keys : List Nat} {bytes : List Byte} {b : SByte} (hb : b ∈ structBytes keys bytes) : b.mask = 0xFF := by
  unfold structBytes at hb
  obtain ⟨i, hi, rfl⟩ := List.mem_iff_getElem.1 hb
  rw [List.getElem_zipWith]

/-- The byte of a structure at its place is among those that the store writes. -/
theorem mem_structBytes {keys : List Nat} {bytes : List Byte} {j k : Nat} {b : Byte} (hk : keys[j]? = some k) (hb : bytes[j]? = some b) :
    ⟨k, b, 0xFF⟩ ∈ structBytes keys bytes := by
  refine List.mem_of_getElem? (i := j) ?_
  unfold structBytes
  rw [List.getElem?_zipWith, hk, hb]

/-- A thread's own structure at plain homes, written after the stores on their way there: its bytes there, and no byte elsewhere (R365). -/
theorem State.performFor_plain {s : State} {t : Tid} {origin : Origin} {keys : List Nat} {bytes : List Byte} (hl : keys.length = bytes.length)
    (hn : keys.Nodup) (hp : (s.drainAhead t keys).Plain keys) :
    (∀ j k : Nat, keys[j]? = some k → (s.performFor t origin keys bytes).homeByte k = bytes[j]?.getD 0) ∧
      ∀ k, k ∉ keys → (s.performFor t origin keys bytes).homeByte k = (s.drainAhead t keys).homeByte k := by
  have hkeys := structBytes_keys hl
  have hentry : ∀ e : StoreEntry, e.bytes = structBytes keys bytes → e.tags = rawTags e.bytes →
      ((s.drainAhead t keys).performEntry e).mem = writeAll (s.drainAhead t keys).mem (structBytes keys bytes) ∧
        ((s.drainAhead t keys).performEntry e).dead = (s.drainAhead t keys).dead := by
    intro e he ht
    have hek : e.keys = keys := by rw [← hkeys, ← he]; rfl
    rw [← he]
    exact State.performEntry_plain (hek.symm ▸ hp) (fun b hb => structBytes_whole (he ▸ hb)) ht
  obtain ⟨hmem, hdead⟩ : (s.performFor t origin keys bytes).mem = _ ∧ (s.performFor t origin keys bytes).dead = _ := hentry _ rfl rfl
  refine ⟨fun j k hk => ?_, fun k hk => ?_⟩
  · obtain ⟨hj, -⟩ := List.getElem?_eq_some_iff.1 hk
    have hb : bytes[j]? = some bytes[j] := List.getElem?_eq_getElem (hl ▸ hj)
    have hmemk : k ∈ keys := List.mem_of_getElem? hk
    unfold State.homeByte
    rw [State.isDead_congr hdead, (hp.home k hmemk).1, if_neg Bool.false_ne_true, hmem, hb]
    exact read_writeAll_mem hp.1.1 (hkeys.symm ▸ hn) (mem_structBytes hk hb)
  · unfold State.homeByte
    rw [State.isDead_congr hdead, hmem, read_writeAll_ne hp.1.1 (hkeys.symm ▸ hk)]

/-! ## TSTATUS at a trap (R364) -/

/-- A field of a word, as a number. -/
theorem field_of_extractLsb' {w : Word} {i n : Nat} {x : BitVec n} (h : w.extractLsb' i n = x) : w.toNat / 2 ^ i % 2 ^ n = x.toNat := by
  rw [← h, BitVec.extractLsb'_toNat, Nat.shiftRight_eq_div_pow]

section
variable (a : Arch) (member strip : Nat) (async : Bool) (prog : Vector (BitVec 6) 4)

theorem tstatusOf_fields :
    (tstatusOf a member strip async prog).extractLsb' 0 1 = BitVec.ofBool (a.mode == .supervisor) ∧
    (tstatusOf a member strip async prog).extractLsb' 1 2 = BitVec.ofNat 2 member ∧
    (tstatusOf a member strip async prog).extractLsb' 3 2 = BitVec.ofNat 2 strip ∧
    (tstatusOf a member strip async prog).extractLsb' 5 3 = BitVec.ofNat 3 a.loopDepth ∧
    (tstatusOf a member strip async prog).extractLsb' 8 1 = BitVec.ofBool async ∧
    (tstatusOf a member strip async prog).extractLsb' 9 1 = BitVec.ofBool a.cf ∧
    (tstatusOf a member strip async prog).extractLsb' 10 6 = 0#6 ∧
    (∀ k : Fin 4, (tstatusOf a member strip async prog).extractLsb' (16 + 6 * k.val) 6 = prog[k.val]) ∧
    (tstatusOf a member strip async prog).extractLsb' 40 24 = 0#24 := by
  unfold tstatusOf
  generalize BitVec.ofBool (a.mode == .supervisor) = m
  generalize BitVec.ofNat 2 member = mb
  refine ⟨?_, ?_, ?_, ?_, ?_, ?_, ?_, ?_, ?_⟩
  on_goal 8 => intro k; fin_cases k
  all_goals
    simp (disch := decide) only [BitVec.extractLsb'_append_eq_of_le, BitVec.extractLsb'_append_eq_of_add_le, Nat.reduceSub, Nat.sub_self,
      BitVec.extractLsb'_eq_self]

end

/-- A word whose bits 10 to 15 and 40 to 63 are 0. -/
theorem and_reserved_eq_zero {w : Word} (hl : w.extractLsb' 10 6 = 0#6) (hh : w.extractLsb' 40 24 = 0#24) : w &&& 0xFFFF_FF00_0000_FC00 = 0 := by
  have hmask : (0xFFFF_FF00_0000_FC00 : Word) = BitVec.allOnes 24 ++ 0#24 ++ BitVec.allOnes 6 ++ 0#10 := by decide
  rw [hmask]
  refine BitVec.eq_of_getLsbD_eq fun i hi => ?_
  have hlow : ∀ j < 6, w.getLsbD (10 + j) = false := fun j hj => by
    have := congrArg (BitVec.getLsbD · j) hl
    simpa [hj] using this
  have hhigh : ∀ j < 24, w.getLsbD (40 + j) = false := fun j hj => by
    have := congrArg (BitVec.getLsbD · j) hh
    simpa [hj] using this
  simp only [BitVec.getLsbD_and, BitVec.getLsbD_append, BitVec.getLsbD_allOnes, BitVec.getLsbD_zero, BitVec.ofNat_eq_ofNat]
  split
  · exact Bool.and_false _
  · split
    next h10 h6 => rw [show i = 10 + (i - 10) by omega, hlow _ h6]; rfl
    next h10 h6 =>
      split
      · exact Bool.and_false _
      · rw [show i = 40 + (i - 40) by omega, hhigh _ (by omega)]; rfl

theorem toNat_ofBool_eq (b : Bool) : (BitVec.ofBool b).toNat = if b = true then 1 else 0 := by
  cases b <;> rfl

/-- The status that a trap outside a convoy saves. -/
theorem tstatusOf_statusIs {a : Arch} {strip : Nat} {async : Bool} {prog : Vector (BitVec 6) 4} (hs : strip < 4) (hd : a.loopDepth < 8) :
    StatusIs (tstatusOf a 0 strip async prog) a strip async prog := by
  obtain ⟨hpm, hmember, hstrip, hdepth, hasync, hcf, hlow, hprog, hhigh⟩ := tstatusOf_fields a 0 strip async prog
  refine ⟨?_, ?_, ?_, ?_, ?_, ?_, fun k => ?_, and_reserved_eq_zero hlow hhigh⟩
  · have := field_of_extractLsb' hpm
    rw [toNat_ofBool_eq] at this
    simpa using this
  · exact field_of_extractLsb' hmember
  · exact (field_of_extractLsb' hstrip).trans (by rw [BitVec.toNat_ofNat]; exact Nat.mod_eq_of_lt hs)
  · exact (field_of_extractLsb' hdepth).trans (by rw [BitVec.toNat_ofNat]; exact Nat.mod_eq_of_lt hd)
  · exact (field_of_extractLsb' hasync).trans (toNat_ofBool_eq async)
  · exact (field_of_extractLsb' hcf).trans (toNat_ofBool_eq a.cf)
  · exact field_of_extractLsb' (hprog k)

theorem State.stripState_lt (s : State) (t : Tid) (pc : Word) : s.stripState t pc < 4 := by
  unfold State.stripState
  split
  · decide
  · split
    · split <;> decide
    · decide

end Sys2Proof.Machine
end

section
/-! PROOFS. Synchronous traps enter the supervisor (spec/21_traps_restart.md R365, R370), and with them svc, brk, an illegal word and a fetch that
faults (spec/02_instruction_words.md R56, R279, R286, R373). -/

namespace Sys2Proof.Machine

/-! ## Entry of a trap (R365) -/

theorem Arch.loopDepth_lt (a : Arch) : a.loopDepth < 8 := by
  unfold Arch.loopDepth
  split_ifs <;> decide

theorem State.closed_arch (s : State) (t : Tid) : (s.closed t).arch t = s.arch t := by
  unfold State.arch
  rw [State.closed_thr, State.settle_thr]

/-- The value that TSCRATCH takes: a trap from user mode saves the stack pointer (R365). -/
def State.savedScratch (s : State) (t : Tid) : Word := if (s.arch t).mode = .user then (s.arch t).getX 2 else (s.thr t).tscratch

theorem State.savedScratch_beq (s : State) (t : Tid) :
    (if ((s.arch t).mode == Mode.user) = true then (s.arch t).getX 2 else (s.thr t).tscratch) = s.savedScratch t := by
  unfold State.savedScratch
  simp only [beq_iff_eq]

/-- A trap that can be entered: the frame is written with the strip closed, then the thread stands at its handler (R365). -/
theorem State.trapEntry_framed {s n : State} {t : Tid} {cause : BitVec 8} {val : Word} {info : TrapInfo} {keys : List Nat}
    (hn : s.trapStart t cause val info.async = n) (htvec : (n.thr t).tvec ≠ 0) (hplace : (n.closed t).framePlace t = .ok keys) :
    s.trapEntry t cause val info = (n.framed t cause val info keys).setThr t
      (((n.framed t cause val info keys).thr t).entering ((n.closed t).handlerArch t (n.thr t).tvec) (n.savedScratch t)) := by
  have hframed := State.framed_thr n t cause val info keys
  have hclosed : (n.closed t).thr t = _ := (n.closed_thr t t).trans (n.settle_thr t)
  have htvec' : ((n.framed t cause val info keys).thr t).tvec = (n.thr t).tvec := by rw [hframed, hclosed]
  have hscratch : ((n.framed t cause val info keys).thr t).tscratch = (n.thr t).tscratch := by rw [hframed, hclosed]
  have hplace' : ((n.closed t).withTrap t cause val info).framePlace t = .ok keys :=
    (State.withTrap_sameFrame _ t cause val info).framePlace.trans hplace
  have hentry : s.trapEntry t cause val info = match ((n.closed t).withTrap t cause val info).framePlace t with
      | .error _ => ((n.closed t).withTrap t cause val info).doubleFault t
      | .ok keys =>
        if ((n.closed t).thr t).tvec = 0 then (n.framed t cause val info keys).doubleFault t
        else (n.framed t cause val info keys).setThr t (((n.framed t cause val info keys).thr t).entering
          ((n.closed t).handlerArch t ((n.framed t cause val info keys).thr t).tvec)
          (if (((n.closed t).arch t).mode == .user) = true then ((n.closed t).arch t).getX 2
            else ((n.framed t cause val info keys).thr t).tscratch)) := by
    subst hn
    rfl
  rw [hentry, hplace']
  dsimp only
  rw [if_neg (by rw [hclosed]; exact htvec), htvec', hscratch, n.closed_arch, n.savedScratch_beq]

theorem State.accessNow_butThreads (s : State) (t : Tid) (keys : List Nat) : ButThreads s (s.accessNow t keys) := by
  unfold State.accessNow State.pruneAhead
  split
  · exact .refl s
  · rfl

/-- The state at which a trap's frame is written stands, but for the thread's own record, as the state with the strip closed and the stores on
their way to the frame performed. -/
theorem State.framed_eq (n : State) (t : Tid) (cause : BitVec 8) (val : Word) (info : TrapInfo) (keys : List Nat) :
    ∃ (p : State) (o : Origin), n.framed t cause val info keys = p.performFor t o keys (nestFrame (n.arch t)) ∧
      ButThreads ((n.closed t).drainAhead t keys) (p.drainAhead t keys) := by
  refine ⟨((n.closed t).withTrap t cause val info).accessNow t keys, ((n.closed t).withTrap t cause val info).originOf t none, ?_, ?_⟩
  · unfold State.framed State.performStruct
    rw [n.closed_arch]
  · rw [State.drainAhead_eq, State.drainAhead_eq]
    refine ButThreads.drainHome (ButThreads.trans (u := (n.closed t).withTrap t cause val info) rfl ?_) t _ keys
    exact State.accessNow_butThreads _ t keys

theorem State.trapEntry_enters {s : State} {t : Tid} {cause : BitVec 8} {val : Word} {info : TrapInfo} {keys : List Nat}
    (h : s.CanEnter t keys) (hmember : info.member = 0) (hstrip : info.strip < 4) (hprog : info.prog = s.boundaryProgress t) :
    Entered s (s.trapEntry t cause val info) t keys cause val info.tepc info.strip info.async := by
  obtain ⟨htvec, hnodup, -, hplace⟩ := h
  have hnotes := s.trapStart_notes t cause val info.async
  obtain ⟨n, hn⟩ : ∃ n, s.trapStart t cause val info.async = n := ⟨_, rfl⟩
  rw [hn] at hnotes
  have hthr := hnotes.thr
  have harch : n.arch t = s.arch t := congrArg Thread.arch (hthr t)
  have hentry := State.trapEntry_framed (val := val) (info := info) hn (by rw [hthr]; exact htvec) ((hnotes.closed t).framePlace t |>.trans hplace)
  have htop : (n.closed t).frameTop t = s.frameTop t := by
    rw [(n.closed_stands t).sameFrame.frameTop]
    unfold State.frameTop State.arch
    rw [hthr]
  have hscratch : n.savedScratch t = s.savedScratch t := by
    unfold State.savedScratch State.arch
    rw [hthr]
  have hhandler : (n.closed t).handlerArch t (n.thr t).tvec =
      { (s.arch t).setX 2 (s.frameTop t - 64) with mode := .supervisor, pc := (s.thr t).tvec, convoy := none } := by
    unfold State.handlerArch
    rw [n.closed_arch, harch, htop, hthr]
  have hframed := State.framed_thr n t cause val info keys
  rw [n.closed_arch, n.closed_thr, n.settle_thr, hthr, harch] at hframed
  have hown : (s.trapEntry t cause val info).thr t = _ := (congrArg (State.thr · t) hentry).trans (State.thr_setThr_same _ _ _)
  rw [hhandler, hscratch, hframed] at hown
  have howna := congrArg Thread.arch hown
  refine {
    tcause := by rw [hown]; rfl
    tval := by rw [hown]; rfl
    tepc := by rw [hown]; rfl
    status := ?_
    arch := howna
    rest := ?_
    others := fun u hu => ?_
    frame := fun hp => ?_ }
  · rw [hown, ← hprog]
    show StatusIs (tstatusOf (s.arch t) info.member info.strip info.async info.prog) _ _ _ _
    rw [hmember]
    exact tstatusOf_statusIs hstrip (s.arch t).loopDepth_lt
  · unfold State.arch
    rw [hown]
    rfl
  · rw [hentry, State.thr_setThr_ne _ _ hu, State.framed_thr_ne _ _ _ _ _ _ hu, hthr]
  · rw [hn] at hp ⊢
    obtain ⟨p, o, hp', hbut⟩ := n.framed_eq t cause val info keys
    have hmem := State.performFor_plain (origin := o) (bytes := nestFrame (n.arch t))
      ((State.framePlace_length hplace).trans (nestFrame_length _).symm) hnodup (hbut.plain hp)
    rw [← hp', harch] at hmem
    rw [hentry]
    refine ⟨fun j k hk => hmem.1 j k hk, fun k hk => (hmem.2 k hk).trans (hbut.sameHomes.homeByte k), ?_⟩
    rw [State.setThr_stores, State.framed_stores]

/-- A synchronous trap that can be entered, outside a convoy (R364, R365, R370). -/
theorem State.syncTrap_enters {s : State} {t : Tid} {keys : List Nat} (h : s.CanEnter t keys) (cause : BitVec 8) (val tepc : Word) :
    Entered s (s.syncTrap t cause val tepc) t keys cause val tepc (s.stripState t tepc) false := by
  obtain ⟨-, -, hwaits, -⟩ := id h
  unfold State.syncTrap
  rw [hwaits, if_neg Bool.false_ne_true]
  exact State.trapEntry_enters (info := ⟨tepc, false, s.stripState t tepc, 0, s.boundaryProgress t⟩) h rfl (s.stripState_lt t tepc) rfl

/-! ## The instructions that only trap -/

theorem State.fetchAt_error {s : State} {t : Tid} {pc v : Word} {c : BitVec 8} (h : s.fetchAt t pc = .error (.trap c v)) : v = pc := by
  unfold State.fetchAt at h
  split at h
  · cases h; rfl
  · split at h
    · cases h; rfl
    · unfold State.readLoc at h
      split at h <;> cases h
      rfl

theorem exec_svc {n : BitVec 10} (hn : n ≠ 0) (s : State) : exec (.svc n) s = .next (s.syncTrap s.cur 0x11 (n.setWidth 64) (s.pc + 4)) := if_neg hn

theorem exec_instructionFetchFault {s : State} {c : BitVec 8} {v : Word} (h : s.fetch s.cur = .error (.trap c v)) :
    exec .instructionFetchFault s = .next (s.syncTrap s.cur c v s.pc) := by
  show execInstructionFetchFault s = _
  unfold execInstructionFetchFault
  rw [h]
  rfl

/-- Settles O18: each of them is a synchronous trap, and a synchronous trap that can be entered enters. -/
theorem callsBreakpointsAndBadWordsEnterTheSupervisor : Obligations.CallsBreakpointsAndBadWordsEnterTheSupervisor := by
  refine ⟨fun s n keys h => ⟨fun hn => ⟨_, exec_svc hn s, ?_⟩, _, rfl, ?_⟩, fun s keys w h => ⟨fun c v hf => ?_, _, rfl, ?_⟩⟩
  · rw [BitVec.ofNat_toNat]
    exact State.syncTrap_enters h _ _ _
  · rw [BitVec.ofNat_toNat]
    exact State.syncTrap_enters h _ _ _
  · obtain rfl := State.fetchAt_error hf
    exact ⟨rfl, _, exec_instructionFetchFault hf, State.syncTrap_enters h _ _ _⟩
  · rw [BitVec.ofNat_toNat]
    exact State.syncTrap_enters h _ _ _

end Sys2Proof.Machine
end

section
/-! PROOFS. The strip-opening instructions and vlq (spec/02_instruction_words.md R51, R52, spec/05_vector_arithmetic.md R107 to R109). -/

namespace Sys2Proof.Machine

/-! ## Images as numbers (R51, R52) -/

theorem ewOf_eq (img : BitVec 16) : ewOf img = img.toNat % 8 := by
  unfold ewOf
  rw [BitVec.extractLsb'_toNat, Nat.shiftRight_zero]

theorem multOf_eq (img : BitVec 16) : multOf img = 2 ^ (img.toNat / 8 % 4) := by
  unfold multOf
  rw [BitVec.extractLsb'_toNat, Nat.shiftRight_eq_div_pow]

/-- VLMAX from the image's value. -/
def mostOf (rows v : Nat) : Nat := 2 ^ (v / 8 % 4) * rows * 2048 / (4 * 2 ^ (v % 8))

theorem vlmaxOf_eq (img : BitVec 16) (rows : Nat) : vlmaxOf img rows = mostOf rows img.toNat := by
  unfold vlmaxOf mostOf widthOf
  rw [multOf_eq, ewOf_eq]

/-- The value of an image, or of a register that holds one, is malformed. -/
def BadImage (v : Nat) : Prop := 4 < v % 8 ∨ (v / 64 % 2 = 1 ∧ v % 8 ≠ 2) ∨ 128 ≤ v

theorem imageBad_iff (img : BitVec 16) : imageBad img = true ↔ BadImage img.toNat := by
  have hbit : img.getLsbD 6 = decide (img.toNat / 64 % 2 = 1) := Nat.testBit_eq_decide_div_mod_eq
  have hhigh : img.extractLsb' 7 9 = 0#9 ↔ ¬ 128 ≤ img.toNat := by
    have hlt := img.isLt
    rw [← BitVec.toNat_inj, BitVec.extractLsb'_toNat, Nat.shiftRight_eq_div_pow, BitVec.toNat_ofNat]
    omega
  unfold imageBad BadImage
  rw [ewOf_eq, hbit, Bool.or_eq_true, Bool.or_eq_true, Bool.and_eq_true, bne_iff_ne, bne_iff_ne, decide_eq_true_iff, decide_eq_true_iff, Ne, Ne,
    hhigh, not_not, or_assoc]

theorem toNat_extractLsb'_low (v : Word) : (v.extractLsb' 0 16).toNat = v.toNat % 2 ^ 16 := by
  rw [BitVec.extractLsb'_toNat, Nat.shiftRight_zero]

/-- A register's bits [63:16] count among those that must be 0. -/
theorem imageOf_refuses_iff (v : Word) : (v.extractLsb' 16 48 ≠ 0#48 ∨ imageBad (v.extractLsb' 0 16) = true) ↔ BadImage v.toNat := by
  have hhigh : v.extractLsb' 16 48 = 0#48 ↔ v.toNat < 2 ^ 16 := by
    have hlt := v.isLt
    rw [← BitVec.toNat_inj, BitVec.extractLsb'_toNat, Nat.shiftRight_eq_div_pow, BitVec.toNat_ofNat]
    omega
  rw [Ne, hhigh, imageBad_iff, toNat_extractLsb'_low]
  by_cases hlt : v.toNat < 2 ^ 16
  · rw [Nat.mod_eq_of_lt hlt]
    exact or_iff_right (not_not_intro hlt)
  · exact iff_of_true (.inl hlt) (.inr (.inr (by omega)))

theorem imageOf_eq_none {v : Word} (h : BadImage v.toNat) : imageOf v = none := if_pos ((imageOf_refuses_iff v).2 h)

theorem imageOf_eq_some {v : Word} {img : BitVec 16} (he : img.toNat = v.toNat) (h : ¬ BadImage v.toNat) : imageOf v = some img := by
  have hlow : v.extractLsb' 0 16 = img := BitVec.eq_of_toNat_eq (by
    rw [toNat_extractLsb'_low, ← he]
    exact Nat.mod_eq_of_lt img.isLt)
  unfold imageOf
  rw [if_neg (mt (imageOf_refuses_iff v).1 h), hlow]

/-- A value that is no malformed image is an image. -/
theorem exists_image {v : Word} (h : ¬ BadImage v.toNat) : ∃ img : BitVec 16, img.toNat = v.toNat := by
  unfold BadImage at h
  exact ⟨v.setWidth 16, by rw [BitVec.toNat_setWidth]; omega⟩

/-! ## The registers that an opener writes (R108, R109) -/

/-- The registers when a strip has been opened at a request `want`, on these rows, with the length to X[d] and the remainder to X[rest]. -/
def Arch.stripOpened (a : Arch) (img : BitVec 16) (rows : Nat) (want : Word) (d : XReg) (rest : Option XReg) : Arch :=
  let n := min want.toNat (vlmaxOf img rows)
  let a1 := Arch.setX { a with vtype := img, vlmax := vlmaxOf img rows, vl := n } d (BitVec.ofNat 64 n)
  match rest with
  | some r => a1.setX r (want - BitVec.ofNat 64 n)
  | none => a1

section
variable (a : Arch) (img : BitVec 16) (rows : Nat) (want : Word) (d : XReg)

theorem Arch.stripOpened_eq (rest : Option XReg) : a.stripOpened img rows want d rest = { a with
    vtype := img, vlmax := vlmaxOf img rows, vl := min want.toNat (vlmaxOf img rows), x := (a.stripOpened img rows want d rest).x } := by
  unfold Arch.stripOpened
  cases rest with
  | none => exact Arch.setX_eq_withX _ _ _
  | some r =>
    dsimp only
    rw [Arch.setX_eq_withX, Arch.setX_eq_withX]

theorem Arch.getX_stripOpened_none (k : XReg) : (a.stripOpened img rows want d none).getX k =
    if k = 0 then 0 else if k = d then BitVec.ofNat 64 (min want.toNat (vlmaxOf img rows)) else a.getX k := by
  unfold Arch.stripOpened
  exact Arch.getX_setX _ _ _ _

theorem Arch.getX_stripOpened_some (r k : XReg) : (a.stripOpened img rows want d (some r)).getX k =
    if k = 0 then 0 else if k = r then BitVec.ofNat 64 (want.toNat - min want.toNat (vlmaxOf img rows))
    else if k = d then BitVec.ofNat 64 (min want.toNat (vlmaxOf img rows)) else a.getX k := by
  have hrest : want - BitVec.ofNat 64 (min want.toNat (vlmaxOf img rows)) =
      BitVec.ofNat 64 (want.toNat - min want.toNat (vlmaxOf img rows)) := by
    have hle : min want.toNat (vlmaxOf img rows) ≤ want.toNat := Nat.min_le_left _ _
    rw [← BitVec.ofNat_sub_ofNat_of_le _ _ (by have := want.isLt; omega) hle, BitVec.ofNat_toNat, BitVec.setWidth_eq]
  unfold Arch.stripOpened
  dsimp only
  rw [Arch.getX_setX, Arch.getX_setX, hrest]
  split_ifs <;> rfl

end

/-- The end of a pass reads and changes the loop stack only. -/
theorem Arch.endOfPass_withStrip (n : Nat) (a : Arch) (img : BitVec 16) (most vl : Nat) (next : Word) :
    Arch.endOfPass n { a with vtype := img, vlmax := most, vl := vl } next =
      ({ (Arch.endOfPass n a next).1 with vtype := img, vlmax := most, vl := vl }, (Arch.endOfPass n a next).2) := by
  have hset : ∀ (a : Arch) k e c, ({ a with vtype := img, vlmax := most, vl := vl } : Arch).setLoop k e c =
      { a.setLoop k e c with vtype := img, vlmax := most, vl := vl } := by
    intro a k e c
    unfold Arch.setLoop
    split <;> rfl
  induction n generalizing a with
  | zero => rfl
  | succ n ih =>
    unfold Arch.endOfPass
    dsimp only [Arch.loopDepth, Arch.lpcAt, Arch.lcntAt, Arch.loopStart]
    rw [hset, hset, ih]
    split_ifs <;> rfl

theorem Arch.advance_stripOpened (a : Arch) (img : BitVec 16) (rows : Nat) (want : Word) (d : XReg) (rest : Option XReg) (next : Word) :
    (a.stripOpened img rows want d rest).advance next = { a.advance next with
      vtype := img, vlmax := vlmaxOf img rows, vl := min want.toNat (vlmaxOf img rows), x := (a.stripOpened img rows want d rest).x } := by
  rw [Arch.stripOpened_eq]
  generalize (a.stripOpened img rows want d rest).x = y
  rw [Arch.advance_withX { a with vtype := img, vlmax := vlmaxOf img rows, vl := min want.toNat (vlmaxOf img rows) } y next]
  unfold Arch.advance
  rw [Arch.endOfPass_withStrip]

/-! ## A strip opens -/

/-- With no failed row and no reclaim under way the lanes stay as they are (R306, R307). -/
theorem State.openLanes_eq_self {s : State} {t : Tid} (hf : (s.hrt (hartOf t)).failed = []) (hr : (s.hrt (hartOf t)).reclaim = .none) :
    s.openLanes t = s := by
  unfold State.openLanes
  dsimp only
  rw [hr]
  dsimp only
  rw [ite_self]
  split
  · rfl
  next l _ =>
    have hrows : s.serveRows (hartOf t) l = s := by
      unfold State.serveRows
      rw [hf]
      rfl
    rw [hrows, if_pos rfl]

/-- The state after a strip-opening instruction on lanes that stay as they are. -/
def State.stripOpened (s : State) (img : BitVec 16) (want : Word) (d : XReg) (rest : Option XReg) : State :=
  let a := (s.arch s.cur).stripOpened img (s.rows s.cur) want d rest
  ((s.setArch s.cur a).retireTo (s.pc + 4)).openStrip s.cur (s.arch s.cur) (a.advance (s.pc + 4))

section
variable {s : State} (hf : (s.hrt (hartOf s.cur)).failed = []) (hr : (s.hrt (hartOf s.cur)).reclaim = .none)
include hf hr

theorem State.openWith_eq (img : BitVec 16) (want : Word) (d : XReg) (rest : Option XReg) :
    s.openWith img want d rest = s.stripOpened img want d rest := by
  have ha : ∀ b : Arch, ((s.setArch s.cur b).retireTo (s.pc + 4)).arch s.cur = b.advance (s.pc + 4) := fun b => by
    unfold State.retireTo
    simp
  have hpc : ((s.setArch s.cur ((s.arch s.cur).stripOpened img (s.rows s.cur) want d rest))).pc = s.pc := by
    unfold State.pc
    rw [State.setArch_cur, State.arch_setArch_same, Arch.stripOpened_eq]
  have h : s.openWith img want d rest =
      let u := (s.setArch s.cur ((s.arch s.cur).stripOpened img (s.rows s.cur) want d rest)).retire
      u.openStrip s.cur (s.arch s.cur) (u.arch s.cur) := by
    unfold State.openWith
    dsimp only
    rw [State.openLanes_eq_self hf hr, bne_self_eq_false, if_neg Bool.false_ne_true]
    cases rest <;> rfl
  rw [h]
  unfold State.retire State.stripOpened
  dsimp only
  rw [hpc, ha]

end

/-- What a strip-opening instruction leaves: VTYPE, VLMAX, VL and the scalar registers, a checkpoint that is due between the two copies, the strip
that ends with its history and its held stores, and nothing else (R108, R109, R257, R259). -/
structure OpensStrip (s t : State) (img : BitVec 16) (want : Word) (d : XReg) (rest : Option XReg) : Prop where
  arch : t.arch s.cur = ((s.arch s.cur).stripOpened img (s.rows s.cur) want d rest).advance (s.pc + 4)
  due : (t.thr s.cur).due = some ⟨.explicit, s.arch s.cur, t.arch s.cur⟩
  history : (t.thr s.cur).history = []
  heldFrom : (t.thr s.cur).heldFrom = none
  closingHistory : (t.thr s.cur).closingHistory = ((s.settle s.cur).thr s.cur).history
  closingFrom : (t.thr s.cur).closingFrom = ((s.settle s.cur).thr s.cur).heldFrom
  stores : t.stores = (s.settle s.cur).stores.map fun e => if e.tid = s.cur ∧ e.point = .held then { e with point := .closing } else e
  instret : (t.thr s.cur).instret = (s.thr s.cur).instret + 1
  fflags : (t.thr s.cur).fflags = (s.thr s.cur).fflags
  mem : t.mem = s.mem
  tags : t.tags = s.tags
  hrt : t.hrt (hartOf s.cur) = s.hrt (hartOf s.cur)
  others : ∀ u, u ≠ s.cur → t.thr u = s.thr u

theorem State.stripOpened_opens (s : State) (img : BitVec 16) (want : Word) (d : XReg) (rest : Option XReg) :
    OpensStrip s (s.stripOpened img want d rest) img want d rest := by
  obtain ⟨a, ha⟩ : ∃ a, (s.arch s.cur).stripOpened img (s.rows s.cur) want d rest = a := ⟨_, rfl⟩
  obtain ⟨u, hu⟩ : ∃ u, (s.setArch s.cur a).retireTo (s.pc + 4) = u := ⟨_, rfl⟩
  have hthr : u.thr s.cur = { s.thr s.cur with arch := a.advance (s.pc + 4), instret := (s.thr s.cur).instret + 1 } := by
    rw [← hu]
    unfold State.retireTo
    simp
  have hne : ∀ v, v ≠ s.cur → u.thr v = s.thr v := fun v hv => by
    rw [← hu]
    exact (State.thr_setThr_ne _ _ hv).trans (s.thr_setArch_ne _ hv)
  have hopened : s.stripOpened img want d rest = u.openStrip s.cur (s.arch s.cur) (a.advance (s.pc + 4)) := by
    unfold State.stripOpened
    dsimp only
    rw [ha, hu]
  have hown : (s.stripOpened img want d rest).thr s.cur = { (u.settle s.cur).thr s.cur with
      due := some ⟨.explicit, s.arch s.cur, a.advance (s.pc + 4)⟩, history := [], closingHistory := ((u.settle s.cur).thr s.cur).history
      heldFrom := none, closingFrom := ((u.settle s.cur).thr s.cur).heldFrom } := by
    rw [hopened]
    exact State.thr_setThr_same _ _ _
  have hkeep : s.stripOpened img want d rest = { s with
      threads := (s.stripOpened img want d rest).threads, stores := (s.stripOpened img want d rest).stores } := by
    have hs : u.settle s.cur = { s with threads := (u.settle s.cur).threads, stores := (u.settle s.cur).stores } := by
      rw [State.settle_eq, ← hu]
      rfl
    rw [hopened]
    unfold State.openStrip
    rw [hs]
    rfl
  have hlast : (s.stripOpened img want d rest).arch s.cur = a.advance (s.pc + 4) := by
    unfold State.arch
    rw [hown, u.settle_thr, hthr]
  refine {
    arch := hlast.trans (by rw [ha])
    due := by rw [hown, hlast]
    history := by rw [hown]
    heldFrom := by rw [hown]
    closingHistory := by rw [hown, u.settle_thr, s.settle_thr, hthr]
    closingFrom := by rw [hown, u.settle_thr, s.settle_thr, hthr]
    stores := ?_
    instret := by rw [hown, u.settle_thr, hthr]
    fflags := by rw [hown, u.settle_thr, hthr]
    mem := by rw [hkeep]
    tags := by rw [hkeep]
    hrt := by rw [hkeep]; rfl
    others := fun v hv => ?_ }
  · have hstores : u.stores = s.stores := by rw [← hu]; rfl
    rw [hopened, ← State.settle_stores_congr (u := u) hstores (by rw [hthr])]
    unfold State.openStrip
    simp
  · rw [hopened, ← hne v hv, ← u.settle_thr_ne hv]
    exact State.thr_setThr_ne _ _ hv

/-! ## The four instructions -/

theorem State.needLanes_none {s : State} (h : (s.thr s.cur).lanes = none) (w : Word) : s.needLanes w = .error (.trap 0x01 w) := by
  unfold State.needLanes
  rw [h]
  rfl

theorem State.needLanes_some {s : State} (h : (s.thr s.cur).lanes.isSome = true) (w : Word) : s.needLanes w = .ok () := if_pos h

section
variable {s : State} {d a b : XReg} {img : BitVec 16}

theorem exec_setvl_bad (h : BadImage img.toNat) : Traps s (.setvl d a img) 0x01 (wordOf (.setvl d a img)) := by
  show execSetvl d a img s = _
  unfold execSetvl
  dsimp only
  rw [if_pos ((imageBad_iff img).2 h)]
  rfl

theorem exec_setvl_of_not_bad (h : ¬ BadImage img.toNat) : exec (.setvl d a img) s =
    finish s (s.needLanes (wordOf (.setvl d a img)) >>= fun _ => pure (s.openWith img (s.x a) d none)) := by
  show execSetvl d a img s = _
  unfold execSetvl
  dsimp only
  rw [if_neg fun hb => h ((imageBad_iff img).1 hb)]

end

section
variable {s : State} (h : (s.thr s.cur).lanes = none) (d a b : XReg) (img : BitVec 16)
include h

theorem setvl_traps_of_no_lanes : Traps s (.setvl d a img) 0x01 (wordOf (.setvl d a img)) := by
  by_cases hb : BadImage img.toNat
  · exact exec_setvl_bad hb
  · unfold Traps
    rw [exec_setvl_of_not_bad hb, State.needLanes_none h]
    rfl

theorem setvlr_traps_of_no_lanes : Traps s (.setvlr d a b) 0x01 (wordOf (.setvlr d a b)) := by
  show execSetvlr d a b s = _
  unfold execSetvlr
  dsimp only
  rw [State.needLanes_none h]
  rfl

theorem setvlm_traps_of_no_lanes : Traps s (.setvlm d a) 0x01 (wordOf (.setvlm d a)) := by
  show execSetvlm d a s = _
  unfold execSetvlm
  rw [State.needLanes_none h]
  rfl

theorem vlq_traps_of_no_lanes : Traps s (.vlq d b) 0x01 (wordOf (.vlq d b)) := by
  show execVlq d b s = _
  unfold execVlq
  dsimp only
  rw [State.needLanes_none h]
  rfl

end

section
variable {s : State} (h : (s.thr s.cur).lanes.isSome = true) (d a b : XReg) (img : BitVec 16)
include h

theorem exec_setvlr_of_lanes {img : BitVec 16} (hi : imageOf (s.x b) = some img) :
    exec (.setvlr d a b) s = .next (s.openWith img (s.x a) d none) := by
  show execSetvlr d a b s = _
  unfold execSetvlr
  dsimp only
  rw [State.needLanes_some h, hi]
  rfl

theorem exec_vlq_of_lanes {img : BitVec 16} (hi : imageOf (s.x b) = some img) :
    exec (.vlq d b) s = s.completeX d (BitVec.ofNat 64 (vlmaxOf img (s.rows s.cur))) := by
  show execVlq d b s = _
  unfold execVlq
  dsimp only
  rw [State.needLanes_some h, hi]
  rfl

theorem exec_setvl_of_lanes (hb : ¬ BadImage img.toNat) : exec (.setvl d a img) s = .next (s.openWith img (s.x a) d none) := by
  rw [exec_setvl_of_not_bad hb, State.needLanes_some h]
  rfl

theorem exec_setvlm_of_lanes : exec (.setvlm d a) s = .next (s.openWith (s.arch s.cur).vtype (s.x a) d (some a)) := by
  show execSetvlm d a s = _
  unfold execSetvlm
  rw [State.needLanes_some h]
  rfl

theorem setvlr_traps_of_bad (hb : BadImage (s.x b).toNat) : Traps s (.setvlr d a b) 0x01 (wordOf (.setvlr d a b)) := by
  show execSetvlr d a b s = _
  unfold execSetvlr
  dsimp only
  rw [State.needLanes_some h, imageOf_eq_none hb]
  rfl

theorem vlq_traps_of_bad (hb : BadImage (s.x b).toNat) : Traps s (.vlq d b) 0x01 (wordOf (.vlq d b)) := by
  show execVlq d b s = _
  unfold execVlq
  dsimp only
  rw [State.needLanes_some h, imageOf_eq_none hb]
  rfl

theorem vlq_writes (hb : ¬ BadImage (s.x b).toNat) : Writes s (.vlq d b) d (BitVec.ofNat 64 (mostOf (s.rows s.cur) (s.x b).toNat)) := by
  obtain ⟨img, himg⟩ := exists_image hb
  refine writes_of_completeX ?_
  rw [exec_vlq_of_lanes h d b (imageOf_eq_some himg hb), vlmaxOf_eq, himg]

end

/-- Each opener opens a strip at its image with the request X[a], and writes X[d], setvlm X[a] also. -/
theorem exec_strip_opener {s : State} {i : Instr} {d a b : XReg} {img image : BitVec 16} (h : (s.thr s.cur).lanes.isSome = true)
    (hi : i = .setvl d a img ∧ image = img ∨ i = .setvlr d a b ∧ image.toNat = (s.x b).toNat ∨
      i = .setvlm d a ∧ image = (s.arch s.cur).vtype)
    (hgood : i ≠ .setvlm d a → ¬ BadImage image.toNat) :
    ∃ rest, exec i s = .next (s.openWith image (s.x a) d rest) ∧
      ∀ k : XReg, ((s.arch s.cur).stripOpened image (s.rows s.cur) (s.x a) d rest).getX k =
        if k = 0 then 0
        else if k = a ∧ i = .setvlm d a then BitVec.ofNat 64 ((s.x a).toNat - min (s.x a).toNat (vlmaxOf image (s.rows s.cur)))
        else if k = d then BitVec.ofNat 64 (min (s.x a).toNat (vlmaxOf image (s.rows s.cur))) else s.x k := by
  have hx : ∀ k, s.x k = (s.arch s.cur).getX k := fun _ => rfl
  obtain ⟨rfl, rfl⟩ | ⟨rfl, himg⟩ | ⟨rfl, rfl⟩ := hi
  · refine ⟨none, exec_setvl_of_lanes h d a image (hgood (by simp)), fun k => ?_⟩
    simpa [hx k] using Arch.getX_stripOpened_none _ _ _ _ _ k
  · refine ⟨none, exec_setvlr_of_lanes h d a b (imageOf_eq_some himg (himg ▸ hgood (by simp))), fun k => ?_⟩
    simpa [hx k] using Arch.getX_stripOpened_none _ _ _ _ _ k
  · refine ⟨some a, exec_setvlm_of_lanes h d a, fun k => ?_⟩
    simpa [hx k] using Arch.getX_stripOpened_some _ _ _ _ _ a k

/-- Settles O29: an image is malformed exactly when its value is; and the three openers leave the state after a strip has been opened, with the same
request and destination. -/
theorem stripOpenersSetTheVectorLength : Obligations.StripOpenersSetTheVectorLength := by
  intro s d a b img bad most r
  refine ⟨fun h => ⟨setvlr_traps_of_no_lanes h d a b, setvlm_traps_of_no_lanes h d a, vlq_traps_of_no_lanes h d b,
      setvl_traps_of_no_lanes h d a img⟩,
    exec_setvl_bad, fun hb h => ⟨setvlr_traps_of_bad h d a b hb, vlq_traps_of_bad h d b hb⟩, fun h hb => vlq_writes h d b hb, ?_⟩
  intro h hf hr i image hi hgood vl
  have hmost : most image.toNat = vlmaxOf image (s.rows s.cur) := (vlmaxOf_eq image _).symm
  have hvl : vl = min (s.x a).toNat (vlmaxOf image (s.rows s.cur)) := congrArg (min _) hmost
  obtain ⟨rest, hexec, hx⟩ := exec_strip_opener h hi hgood
  have ht := s.stripOpened_opens image (s.x a) d rest
  rw [← State.openWith_eq hf hr] at ht
  have hadvance := ht.arch.trans (Arch.advance_stripOpened _ _ _ _ _ _ _)
  refine ⟨_, hexec, ?_, fun k => ?_, ht.due, ht.history, ht.heldFrom, ht.closingHistory, ht.closingFrom, ht.stores, ht.instret, ht.fflags, ht.mem,
    ht.tags, ht.hrt, ht.others⟩
  · rw [hmost, hvl, hadvance]
  · rw [hvl, ← hx k, hadvance]
    rfl

end Sys2Proof.Machine
end

section
/-! PROOFS. The completion of a vector instruction as a member of its convoy (spec/02_instruction_words.md R58, spec/12_strips_convoys.md R261, R262):
what runs without a trap retires, for every member that changes registers of its thread alone. -/

namespace Sys2Proof.Machine

/-! ## Registers beside the loop stack -/

/-- The end of a pass reads and changes the loop stack only. -/
theorem Arch.endOfPass_withRegs (n : Nat) (a : Arch) (x : Vector Word 32) (v : Vector VWord 32) (nests : Vector Nest 8) (prog : Vector (BitVec 4) 32)
    (next : Word) : Arch.endOfPass n { a with x := x, v := v, nests := nests, prog := prog } next =
      ({ (Arch.endOfPass n a next).1 with x := x, v := v, nests := nests, prog := prog }, (Arch.endOfPass n a next).2) := by
  have hset : ∀ (a : Arch) k e c, ({ a with x := x, v := v, nests := nests, prog := prog } : Arch).setLoop k e c =
      { a.setLoop k e c with x := x, v := v, nests := nests, prog := prog } := by
    intro a k e c
    unfold Arch.setLoop
    split <;> rfl
  induction n generalizing a with
  | zero => rfl
  | succ n ih =>
    unfold Arch.endOfPass
    dsimp only [Arch.loopDepth, Arch.lpcAt, Arch.lcntAt, Arch.loopStart]
    rw [hset, hset, ih]
    split_ifs <;> rfl

theorem Arch.advance_withRegs (a : Arch) (x : Vector Word 32) (v : Vector VWord 32) (nests : Vector Nest 8) (prog : Vector (BitVec 4) 32)
    (next : Word) : ({ a with x := x, v := v, nests := nests, prog := prog } : Arch).advance next =
      { a.advance next with x := x, v := v, nests := nests, prog := prog } := by
  unfold Arch.advance
  rw [Arch.endOfPass_withRegs]

/-- Idle progress is 4 in every register of the group, and stays elsewhere (R262). -/
theorem Arch.putProg_idle (a : Arch) (regs : List Nat) (r : Fin 32) :
    (a.putProg regs none).prog[r.val] = if r.val ∈ regs then 4 else a.prog[r.val] := by
  unfold Arch.putProg
  have hmem : r.val ∈ regs ↔ ∃ p ∈ regs.zipIdx, p.1 = r.val := by
    rw [← List.mem_map, List.zipIdx_map_fst]
  rw [if_congr hmem rfl rfl]
  generalize regs.zipIdx = l
  induction l generalizing a with
  | nil => simp
  | cons p l ih =>
    rw [List.foldl_cons, ih]
    by_cases htail : ∃ q ∈ l, q.1 = r.val
    · obtain ⟨q, hq, hqr⟩ := htail
      rw [if_pos ⟨q, hq, hqr⟩, if_pos ⟨q, List.mem_cons_of_mem _ hq, hqr⟩]
    · rw [if_neg htail]
      by_cases hp : p.1 = r.val
      · rw [if_pos ⟨p, List.mem_cons_self, hp⟩]
        have hlt : p.1 < 32 := hp ▸ r.isLt
        dsimp only
        rw [dif_pos hlt]
        split
        next h => simp only [← hp]; exact h
        next h => simp only [← hp]; exact Vector.getElem_set_self hlt
      · rw [if_neg (by simpa [hp] using htail)]
        dsimp only
        split
        · split
          · rfl
          next hlt _ => exact Vector.getElem_set_ne hlt r.isLt hp
        · rfl

/-! ## A member completes -/

/-- A state in which the record of thread t and the number of the next free value are replaced. -/
def State.withThr (s : State) (t : Tid) (th : Thread) (fresh : Nat) : State := { s.setThr t th with fresh := fresh }

@[simp] theorem State.thr_withThr (s : State) (t : Tid) (th : Thread) (n : Nat) : (s.withThr t th n).thr t = th := s.thr_setThr_same t th

theorem State.thr_withThr_ne (s : State) {t u : Tid} (th : Thread) (n : Nat) (h : u ≠ t) : (s.withThr t th n).thr u = s.thr u := s.thr_setThr_ne th h

@[simp] theorem State.setThr_withThr (s : State) (t : Tid) (th th' : Thread) (n : Nat) : (s.withThr t th n).setThr t th' = s.withThr t th' n := by
  have h := s.setThr_setThr t th th'
  unfold State.withThr
  rw [← h]
  rfl

theorem State.countBanks_eq (s : State) (t : Tid) (m : Member) (older : List Nat) (lo hi : Nat) :
    ∃ losses fresh, s.countBanks t m older lo hi = s.withThr t { s.thr t with rfloss := losses } fresh := by
  unfold State.countBanks
  dsimp only
  split
  · exact ⟨_, s.fresh, rfl⟩
  · exact ⟨_, _, rfl⟩

/-- A member has run to its end: the registers of its thread are `a`, and it has raised `fl`. -/
def State.ran (u : State) (a : Arch) (fl : BitVec 5) : State := (u.setArch u.cur a).raise u.cur fl

theorem State.raise_eq (s : State) (t : Tid) (fl : BitVec 5) : s.raise t fl = s.setThr t { s.thr t with fflags := (s.thr t).fflags ||| fl } := by
  unfold State.raise
  split
  next h =>
    subst h
    have hor : (s.thr t).fflags ||| 0 = (s.thr t).fflags := BitVec.or_zero
    rw [hor]
    exact (s.setThr_thr t).symm
  next => rfl

theorem State.ran_eq (u : State) (a : Arch) (fl : BitVec 5) :
    u.ran a fl = u.setThr u.cur { u.thr u.cur with arch := a, fflags := (u.thr u.cur).fflags ||| fl } := by
  unfold State.ran State.setArch
  rw [State.raise_eq, State.setThr_setThr, State.thr_setThr_same]

/-- The thread's record after its instruction: member k of the convoy at addr has passed. -/
theorem State.passMember_eq (s : State) (t : Tid) (c : Convoy) (k : Nat) :
    ∃ convoy, s.passMember t c k true = s.setThr t { s.thr t with
      arch := { (s.arch t).advance ((s.arch t).pc + 4) with convoy := convoy }, instret := (s.thr t).instret + 1 } := ⟨_, rfl⟩

/-- The current thread's record after an instruction that left the registers `a` and raised `fl`, with idle progress in `regs`. -/
def Thread.retired (th : Thread) (a : Arch) (fl : BitVec 5) (regs : List Nat) (losses : Vector (BitVec 32) 16) (convoy : Option Convoy) : Thread :=
  { th with
    arch := { (a.putProg regs none).advance (a.pc + 4) with convoy := convoy }
    fflags := th.fflags ||| fl, instret := th.instret + 1, rfloss := losses }

/-- The member of instruction i commits all of its groups in one run, in every state that reserves room for it: it leaves the registers `a` and
raises `fl`. -/
structure Completes (s : State) (i : Instr) (regs : List Nat) (a : Arch) (fl : BitVec 5) : Prop where
  issue : ∃ m, memberOf i s = some m ∧ m.writes = regs ∧ m.issue = .ok ()
  run : ∀ u m, SameRegs s u → memberOf i u = some m →
    m.writes = regs ∧ m.deviceClass = false ∧ m.run 0 m.groups u = okPart (u.ran a fl) m.groups
  frame : a = { s.arch s.cur with x := a.x, v := a.v, nests := a.nests }

theorem State.runMember_eq {u : State} {c : Convoy} {i : Instr} {m : Member} {a : Arch} {fl : BitVec 5} (hstart : progressAt c.resume c.member = 0)
    (hdev : m.deviceClass = false) (hrun : m.run 0 m.groups u = okPart (u.ran a fl) m.groups) :
    ∃ losses convoy fresh, u.runMember u.cur c i m = u.withThr u.cur ((u.thr u.cur).retired a fl m.writes losses convoy) fresh := by
  have hzero : (progressAt c.resume c.member).toNat = 0 := by rw [hstart]; rfl
  obtain ⟨losses, fresh, hbanks⟩ := (u.ran a fl).countBanks_eq u.cur m (u.olderBanks u.cur c) 0 m.groups
  unfold State.runMember
  dsimp only
  rw [hzero, hrun]
  dsimp only [okPart]
  generalize (u.ran a fl).countBanks u.cur m (u.olderBanks u.cur c) 0 m.groups = w at hbanks ⊢
  simp only [hdev, Bool.false_eq_true, if_false]
  obtain ⟨convoy, hpass⟩ := (w.setArch u.cur ((w.arch u.cur).putProg m.writes none)).passMember_eq u.cur c c.member
  refine ⟨losses, convoy, fresh, hpass.trans ?_⟩
  have hpc : (a.putProg m.writes none).pc = a.pc := by rw [Arch.putProg_eq]
  rw [hbanks, State.ran_eq]
  unfold State.setArch State.arch Thread.retired
  simp only [State.thr_setThr_same, State.thr_withThr, State.setThr_withThr, hpc]
  unfold State.withThr
  rw [State.setThr_setThr]

/-- What runs to its end retires (R24, R261, R262). -/
theorem Completes.retires {s : State} {i : Instr} {regs : List Nat} {a : Arch} {fl : BitVec 5} (h : Completes s i regs a fl)
    (hready : VectorReady s) (hfree : s.Writable regs) :
    ∃ t, exec i s = .next t ∧ VectorRetires s t i regs fl ∧ (t.arch s.cur).x = a.x ∧ (t.arch s.cur).v = a.v ∧ (t.arch s.cur).nests = a.nests := by
  obtain ⟨m, hm, hwrites, hissue⟩ := h.issue
  obtain ⟨f, hexec, hf⟩ := exec_of_member (i := i) (s := s) (by rw [hm]; rfl)
  obtain rfl : f s = m := Option.some.inj ((hf s).symm.trans hm)
  have hres := s.reserved_reserves i (f s)
  generalize hu : s.reserved i (f s) = u at hres
  obtain ⟨hregs, hdev, hrun⟩ := h.run u (f u) hres.sameRegs (hf u)
  have hissue' : s.memberIssue (f s) = .ok () := by
    unfold State.memberIssue State.needLanes
    rw [if_pos hready.lanes, hissue]
    rfl
  have hbusy : s.pennantBusy s.cur (f s).writes = false := hwrites ▸ hfree
  have hstate : exec i s = .next (u.runMember s.cur (s.arch s.cur).convoyHere i (f u)) := by
    rw [hexec, ← hu]
    unfold State.runVector
    dsimp only
    rw [hready.fresh, if_neg (by decide), hissue']
    dsimp only
    rw [hbusy, if_neg Bool.false_ne_true]
    rfl
  obtain ⟨losses, convoy, fresh, hfin⟩ := State.runMember_eq (i := i) hready.fresh hdev hrun
  rw [hres.stands.cur, hregs] at hfin
  rw [hfin] at hstate
  have hadv : (a.putProg regs none).advance (a.pc + 4) = { (s.arch s.cur).advance (s.pc + 4) with
      x := a.x, v := a.v, nests := a.nests, prog := (a.putProg regs none).prog } := by
    have hpc : a.pc = s.pc := by rw [h.frame]; rfl
    have hput : a.putProg regs none = { s.arch s.cur with x := a.x, v := a.v, nests := a.nests, prog := (a.putProg regs none).prog } :=
      (Arch.putProg_eq ..).trans (congrArg (fun b : Arch => { b with prog := (a.putProg regs none).prog }) h.frame)
    rw [hpc]
    exact (congrArg (fun b : Arch => b.advance (s.pc + 4)) hput).trans (Arch.advance_withRegs ..)
  have harch : (u.withThr s.cur ((u.thr s.cur).retired a fl regs losses convoy) fresh).arch s.cur = { (s.arch s.cur).advance (s.pc + 4) with
      x := a.x, v := a.v, nests := a.nests, prog := (a.putProg regs none).prog, convoy := convoy } := by
    unfold State.arch
    rw [State.thr_withThr]
    unfold Thread.retired
    rw [hadv]
    rfl
  refine ⟨_, hstate, ⟨?_, ?_, ?_, ?_, ?_, ?_⟩, ?_⟩
  · unfold State.withThr
    rw [hres.stands.rest]
    rfl
  · intro m hm'
    obtain rfl := Option.some.inj (hm.symm.trans hm')
    rw [hu]
    rfl
  · intro v hv
    rw [State.thr_withThr_ne _ _ _ hv, hres.stands.others v hv]
  · rw [harch, State.thr_withThr]
    unfold Thread.retired
    rw [hres.stands.own, hadv]
  · rw [harch]
  · intro r
    rw [harch]
    dsimp only
    rw [Arch.putProg_idle]
    have : a.prog = (s.arch s.cur).prog := by rw [h.frame]
    rw [this]
  · rw [harch]
    exact ⟨rfl, rfl, rfl⟩

end Sys2Proof.Machine
end

section
/-! PROOFS. Groups of registers as elements (spec/05_vector_arithmetic.md R60, R106, R111, R113): where the elements of a group lie, what a group reads
after its elements and its tail have been written, and the element-wise and whole members that write them. -/

namespace Sys2Proof.Machine

/-! ## Where the elements of a group lie (R106, R111) -/

/-- n registers from d on hold elements of width w. -/
structure GroupFits (rows d w n : Nat) : Prop where
  rows_le : rows ≤ 64
  dvd : w ∣ regBits rows
  inside : d + n ≤ 32

theorem reg_lt_of_lt {rows w n i : Nat} (h : i < n * regBits rows / w) : i * w / regBits rows < n := by
  have hmul : i * w < n * regBits rows := by
    rcases Nat.eq_zero_or_pos w with rfl | hw
    · rw [Nat.div_zero] at h
      omega
    · calc i * w < (i + 1) * w := by rw [Nat.succ_mul]; omega
        _ ≤ n * regBits rows / w * w := Nat.mul_le_mul_right w h
        _ ≤ n * regBits rows := Nat.div_mul_le_self _ _
  exact Nat.div_lt_of_lt_mul (hmul.trans_eq (Nat.mul_comm _ _))

theorem rows_pos_of_lt {rows w n i : Nat} (h : i < n * regBits rows / w) : 0 < rows := by
  rcases Nat.eq_zero_or_pos rows with rfl | hr
  · simp [regBits] at h
  · exact hr

theorem GroupFits.reg_lt {rows d w n i : Nat} (h : GroupFits rows d w n) (hi : i < n * regBits rows / w) : d + i * w / regBits rows < 32 := by
  have := reg_lt_of_lt hi
  have := h.inside
  omega

theorem mem_regsFrom {v n r : Nat} : r ∈ regsFrom v n ↔ v ≤ r ∧ r < v + n := by
  unfold regsFrom
  rw [List.mem_map]
  constructor
  · rintro ⟨k, hk, rfl⟩
    rw [List.mem_range] at hk
    omega
  · intro h
    exact ⟨r - v, List.mem_range.2 (by omega), by omega⟩

theorem mem_rangeList {lo hi i : Nat} : i ∈ rangeList lo hi ↔ lo ≤ i ∧ i < hi := by
  have h : i ∈ rangeList lo hi ↔ i ∈ regsFrom lo (hi - lo) := Iff.rfl
  rw [h, mem_regsFrom]
  omega

theorem rangeList_nodup (lo hi : Nat) : (rangeList lo hi).Nodup :=
  List.nodup_range.map fun _ _ h => Nat.add_left_cancel h

theorem rangeList_zero (n : Nat) : rangeList 0 n = List.range n := by
  unfold rangeList
  simp

/-- A register outside the group holds none of its elements. -/
theorem ne_reg_of_not_mem {rows d w n i r : Nat} (hr : r ∉ regsFrom d n) (hi : i < n * regBits rows / w) : r ≠ d + i * w / regBits rows := by
  rintro rfl
  exact hr (mem_regsFrom.2 ⟨Nat.le_add_right _ _, Nat.add_lt_add_left (reg_lt_of_lt hi) d⟩)

theorem Arch.elem_congr {a b : Arch} (rows v w i : Nat) (h : b.vreg (v + i * w / regBits rows) = a.vreg (v + i * w / regBits rows)) :
    b.elem rows v w i = a.elem rows v w i := by
  unfold Arch.elem
  rw [h]

theorem Arch.vreg_congr {a b : Arch} (h : b.v = a.v) (r : Nat) : b.vreg r = a.vreg r := by
  unfold Arch.vreg
  rw [h]

/-! ## Elements and tail written (R113, R135) -/

/-- An element listed becomes its result, where it has one. -/
theorem writeElems_getD {rows d w : Nat} (f : Nat → Option (Nat × BitVec 5)) {idx : List Nat} (a : Arch) (j : Nat) (hr : 0 < rows) (hr' : rows ≤ 64)
    (hw : w ∣ regBits rows) (hidx : idx.Nodup) (hv : ∀ i ∈ idx, d + i * w / regBits rows < 32) :
    (writeElems a rows d w f idx).1.elem rows d w j =
      if j ∈ idx then ((f j).map fun r => r.1 % 2 ^ w).getD (a.elem rows d w j) else a.elem rows d w j := by
  rw [writeElems_elem rows d w f a j hr hr' hw hidx hv]
  cases f j <;> rfl

/-- Elements at the places listed, written with flags or without. -/
theorem putElems_eq_writeElems {rows d w : Nat} {f : Nat → Option (Nat × BitVec 5)} {g : Nat → Nat} {idx : List Nat} (a : Arch)
    (h : ∀ i ∈ idx, ∃ fl, f i = some (g i, fl)) : a.putElems rows d w (idx.map fun i => (i, g i)) = (writeElems a rows d w f idx).1 := by
  induction idx generalizing a with
  | nil => rfl
  | cons i t ih =>
    obtain ⟨fl, hf⟩ := h i List.mem_cons_self
    rw [writeElems_cons, hf]
    exact ih (a.setElem rows d w i (g i)) fun j hj => h j (List.mem_cons_of_mem _ hj)

theorem Arch.tailFrom_eq (a : Arch) (rows d w c : Nat) : a.tailFrom rows d w c =
    if tailZero a.vtype then (writeElems a rows d w (fun _ => some (0, 0)) (rangeList c (a.positions w))).1 else a := by
  unfold Arch.tailFrom
  rw [putElems_eq_writeElems (f := fun _ => some (0, 0)) a fun _ _ => ⟨0, rfl⟩]

theorem Arch.tailFrom_frame (a : Arch) (rows d w c : Nat) : a.tailFrom rows d w c = { a with v := (a.tailFrom rows d w c).v } := by
  rw [Arch.tailFrom_eq]
  split
  · exact writeElems_frame ..
  · rfl

section
variable {a : Arch} {rows d w n : Nat} (c : Nat) (hpos : a.positions w = n * regBits rows / w)
include hpos

theorem Arch.tailFrom_vreg {r : Nat} (hr : r ∉ regsFrom d n) : (a.tailFrom rows d w c).vreg r = a.vreg r := by
  rw [Arch.tailFrom_eq]
  split
  · exact writeElems_vreg _ _ _ _ _ _ fun i hi => ne_reg_of_not_mem hr ((mem_rangeList.1 hi).2.trans_eq hpos)
  · rfl

theorem Arch.tailFrom_elem (hfit : GroupFits rows d w n) {i : Nat} (hi : i < n * regBits rows / w) : (a.tailFrom rows d w c).elem rows d w i =
    if i < c then a.elem rows d w i else if tailZero a.vtype then 0 else a.elem rows d w i := by
  have htail := writeElems_getD (fun _ => some (0, 0)) a i (rows_pos_of_lt hi) hfit.rows_le hfit.dvd (rangeList_nodup c (a.positions w)) fun j hj =>
    hfit.reg_lt ((mem_rangeList.1 hj).2.trans_eq hpos)
  rw [Arch.tailFrom_eq]
  by_cases ht : tailZero a.vtype = true
  · rw [if_pos ht, if_pos ht, htail, if_congr mem_rangeList rfl rfl, hpos]
    by_cases hic : i < c
    · rw [if_neg (fun h => absurd h.1 (Nat.not_le.2 hic)), if_pos hic]
    · rw [if_pos ⟨Nat.not_lt.1 hic, hi⟩, if_neg hic]
      exact Nat.zero_mod _
  · rw [if_neg ht, if_neg ht, ite_self]

end

/-- The group at d after its elements below c have been written, and then its tail (R113). -/
def Arch.filled (a : Arch) (rows d w c : Nat) (f : Nat → Option (Nat × BitVec 5)) : Arch :=
  ((writeElems a rows d w f (List.range c)).1).tailFrom rows d w c

theorem Arch.filled_frame (a : Arch) (rows d w c : Nat) (f : Nat → Option (Nat × BitVec 5)) :
    a.filled rows d w c f = { a with v := (a.filled rows d w c f).v } := by
  have hbelow := writeElems_frame rows d w f (List.range c) a
  unfold Arch.filled
  generalize (writeElems a rows d w f (List.range c)).1 = b at hbelow ⊢
  have htail := b.tailFrom_frame rows d w c
  generalize b.tailFrom rows d w c = y at htail ⊢
  rw [htail, hbelow]

theorem Arch.filled_regs (a : Arch) (rows d w c : Nat) (f : Nat → Option (Nat × BitVec 5)) : a.filled rows d w c f =
    { a with x := (a.filled rows d w c f).x, v := (a.filled rows d w c f).v, nests := (a.filled rows d w c f).nests } := by
  rw [show (a.filled rows d w c f).x = a.x by rw [Arch.filled_frame], show (a.filled rows d w c f).nests = a.nests by rw [Arch.filled_frame]]
  exact Arch.filled_frame ..

section
variable {a : Arch} {rows d w n c : Nat} (f : Nat → Option (Nat × BitVec 5)) (hpos : a.positions w = n * regBits rows / w)
  (hc : c ≤ n * regBits rows / w)
include hpos hc

theorem Arch.filled_vreg {r : Nat} (hr : r ∉ regsFrom d n) : (a.filled rows d w c f).vreg r = a.vreg r := by
  unfold Arch.filled
  rw [Arch.tailFrom_vreg (n := n) c (by rw [writeElems_frame]; exact hpos) hr]
  exact writeElems_vreg _ _ _ _ _ _ fun i hi => ne_reg_of_not_mem hr ((List.mem_range.1 hi).trans_le hc)

theorem Arch.filled_elem (hfit : GroupFits rows d w n) {i : Nat} (hi : i < n * regBits rows / w) : (a.filled rows d w c f).elem rows d w i =
    if i < c then ((f i).map fun r => r.1 % 2 ^ w).getD (a.elem rows d w i)
    else if tailZero a.vtype then 0 else a.elem rows d w i := by
  have hbelow := writeElems_getD f a i (rows_pos_of_lt hi) hfit.rows_le hfit.dvd List.nodup_range fun j hj =>
    hfit.reg_lt ((List.mem_range.1 hj).trans_le hc)
  rw [if_congr List.mem_range rfl rfl] at hbelow
  have hframe := writeElems_frame rows d w f (List.range c) a
  unfold Arch.filled
  generalize (writeElems a rows d w f (List.range c)).1 = b at hbelow hframe ⊢
  rw [Arch.tailFrom_elem c (by rw [hframe]; exact hpos) hfit hi, hbelow, show b.vtype = a.vtype by rw [hframe]]
  by_cases hic : i < c
  · rw [if_pos hic, if_pos hic, if_pos hic]
  · rw [if_neg hic, if_neg hic, if_neg hic]

end

/-! ## The groups of a strip (R107) -/

theorem widthOf_pos (img : BitVec 16) : 0 < widthOf img := by unfold widthOf; positivity

theorem widthOf_dvd {img : BitVec 16} (h : ewOf img ≤ 4) : widthOf img ∣ 64 := by
  unfold widthOf
  exact Nat.mul_dvd_mul_left 4 (Nat.pow_dvd_pow 2 h)

theorem dvd_regBits {w : Nat} (h : w ∣ 64) (rows : Nat) : w ∣ regBits rows := h.trans ⟨32 * rows, by unfold regBits; ring⟩

theorem groupOk_le {v mult : Nat} (h : groupOk v mult = true) : v + mult ≤ 32 := by
  unfold groupOk at h
  rw [Bool.and_eq_true, decide_eq_true_eq] at h
  exact h.2

section
variable {s : State} (h : VectorReady s)
include h

theorem VectorReady.positions_eq (w : Nat) :
    (s.arch s.cur).positions w = multOf (s.arch s.cur).vtype * regBits (s.rows s.cur) / w := by
  have hdvd : widthOf (s.arch s.cur).vtype ∣ multOf (s.arch s.cur).vtype * s.rows s.cur * 2048 :=
    ((widthOf_dvd h.width).trans (by decide)).mul_left _
  unfold Arch.positions
  rw [h.vlmax, vlmaxOf, Nat.div_mul_cancel hdvd, regBits, Nat.mul_assoc]

omit h in
theorem State.groupFits (s : State) {d w : Nat} (hd : groupOk d (multOf (s.arch s.cur).vtype) = true) (hw : w ∣ 64) :
    GroupFits (s.rows s.cur) d w (multOf (s.arch s.cur).vtype) := ⟨s.rows_le s.cur, dvd_regBits hw _, groupOk_le hd⟩

theorem VectorReady.vl_le {w : Nat} (hw : 0 < w) (hle : w ≤ widthOf (s.arch s.cur).vtype) :
    (s.arch s.cur).vl ≤ multOf (s.arch s.cur).vtype * regBits (s.rows s.cur) / w := by
  rw [← h.positions_eq, Arch.positions, Nat.le_div_iff_mul_le hw]
  exact Nat.mul_le_mul h.vl hle

end

/-! ## What an instruction that fills a group leaves -/

/-- The flags of a list, gathered from its end or from its start. -/
theorem orFlags_eq_foldr (l : List (BitVec 5)) : orFlags l = l.foldr (· ||| ·) 0 := by
  unfold orFlags
  exact List.foldl_eq_foldr

section
variable {s : State} {i : Instr} {d : VReg} {w c : Nat} {f : Nat → Option (Nat × BitVec 5)} {fl : BitVec 5}

/-- An instruction that fills the group at d has written it, and nothing else. -/
theorem Completes.fills (h : Completes s i (groupRegs s d) ((s.arch s.cur).filled (s.rows s.cur) d.toNat w c f) fl) (hready : VectorReady s)
    (hd : groupOk d.toNat (multOf (s.arch s.cur).vtype) = true) (hw : w ∣ 64) (hc : c ≤ (s.arch s.cur).positions w)
    (hfree : s.Writable (groupRegs s d)) :
    ∃ t, exec i s = .next t ∧ VectorRetires s t i (groupRegs s d) fl ∧ (t.arch s.cur).x = (s.arch s.cur).x ∧
      (t.arch s.cur).nests = (s.arch s.cur).nests ∧ SameVregs s t (groupRegs s d) ∧ GroupHolds s t d.toNat w c fun k => (f k).map Prod.fst := by
  obtain ⟨t, hexec, hret, hx, hv, hnests⟩ := h.retires hready hfree
  have hpos := hready.positions_eq w
  rw [hpos] at hc
  refine ⟨t, hexec, hret, hx.trans ?_, hnests.trans ?_, fun r _ hr => ?_, fun k hk => ?_⟩
  · rw [Arch.filled_frame]
  · rw [Arch.filled_frame]
  · rw [Arch.vreg_congr hv, Arch.filled_vreg f hpos hc hr]
  · rw [Arch.elem_congr _ _ _ _ (Arch.vreg_congr hv _), Arch.filled_elem f hpos hc (s.groupFits hd hw) (hk.trans_eq hpos)]
    dsimp only
    cases f k <;> rfl

end

/-! ## Element-wise members (R117) -/

/-- Of the elements that a condition admits, what each of them gives. -/
theorem filterMap_ite_some {α β : Type} (p : α → Bool) (g : α → β) (l : List α) :
    (l.filterMap fun k => if p k = true then some (g k) else none) = (l.filter p).map g := by
  rw [← List.filterMap_filter, List.filterMap_eq_map']

theorem elementwiseRun_eq {u : State} {d w n : Nat} {f : Arch → Nat → Option (Nat × BitVec 5)} (hw : w ∣ 64)
    (hpos : (u.arch u.cur).positions w = n * regBits (u.rows u.cur) / w) (hvl : (u.arch u.cur).vl ≤ (u.arch u.cur).positions w) :
    elementwiseRun u.cur d w f 0 (n * 4) u =
      okPart (u.ran ((u.arch u.cur).filled (u.rows u.cur) d w (u.arch u.cur).vl (f (u.arch u.cur)))
        (writeElems (u.arch u.cur) (u.rows u.cur) d w (f (u.arch u.cur)) (List.range (u.arch u.cur).vl)).2) (n * 4) := by
  have hend : n * 4 * (u.rows u.cur * 512 / w) = (u.arch u.cur).positions w := by
    have h1 : w ∣ u.rows u.cur * 512 := hw.trans ⟨8 * u.rows u.cur, by ring⟩
    rw [hpos, ← Nat.mul_div_assoc _ h1, regBits, Nat.mul_assoc, ← Nat.mul_assoc 4, Nat.mul_comm 4, Nat.mul_assoc]
  unfold elementwiseRun
  dsimp only
  rw [hend, Nat.zero_mul, Nat.max_zero, Nat.min_self, Nat.min_eq_left hvl, rangeList_zero]
  unfold Arch.filled
  rw [Arch.tailFrom_eq, writeElems_frame (u.rows u.cur) d w _ (List.range _) (u.arch u.cur)]
  rfl

/-- Instruction i runs element by element over the group at d, and `f` says what each element becomes. -/
structure ElementMember (s : State) (i : Instr) (d : VReg) (w : Nat) (f : Nat → Option (Nat × BitVec 5)) : Prop where
  issue : ∃ m, memberOf i s = some m ∧ m.issue = .ok ()
  run : ∀ u m, SameRegs s u → memberOf i u = some m → m.writes = groupRegs u d ∧ m.deviceClass = false ∧
    m.groups = multOf (u.arch u.cur).vtype * 4 ∧
    ∃ g w', m.run = (fun lo hi s => elementwiseRun s.cur d.toNat w' g lo hi s) ∧ w' = w ∧ g (s.arch s.cur) = f

theorem SameRegs.refl (s : State) : SameRegs s s := ⟨rfl, rfl, rfl⟩

theorem SameRegs.groupRegs {s u : State} (h : SameRegs s u) (d : VReg) : groupRegs u d = Sys2Proof.Machine.groupRegs s d := by
  unfold Sys2Proof.Machine.groupRegs
  rw [h.cur, h.arch]

section
variable {s : State} {i : Instr} {m : Bool} {d : VReg} {w : Nat}

theorem ElementMember.completes {f : Nat → Option (Nat × BitVec 5)} (h : ElementMember s i d w f) (hready : VectorReady s) (hw : w ∣ 64)
    (hvl : (s.arch s.cur).vl ≤ (s.arch s.cur).positions w) :
    Completes s i (groupRegs s d) ((s.arch s.cur).filled (s.rows s.cur) d.toNat w (s.arch s.cur).vl f)
      (writeElems (s.arch s.cur) (s.rows s.cur) d.toNat w f (List.range (s.arch s.cur).vl)).2 where
  issue := by
    obtain ⟨mb, hmb, hissue⟩ := h.issue
    exact ⟨mb, hmb, (h.run s mb (.refl s) hmb).1, hissue⟩
  run u mb hu hmb := by
    obtain ⟨hwrites, hdev, hgroups, g, w, hrun, rfl, rfl⟩ := h.run u mb hu hmb
    refine ⟨hwrites.trans (hu.groupRegs d), hdev, ?_⟩
    rw [hrun, hgroups]
    dsimp only
    rw [elementwiseRun_eq hw (by rw [hu.cur, hu.arch, hu.rows]; exact hready.positions_eq w) (by rw [hu.cur, hu.arch]; exact hvl),
      hu.cur, hu.arch, hu.rows]
  frame := Arch.filled_regs ..

/-- An element-wise instruction completes (R113, R117). -/
theorem ElementMember.elementwise {f : Nat → Nat × BitVec 5} (h : ElementMember s i d w fun k => if s.on m k = true then some (f k) else none)
    (hready : VectorReady s) (hd : groupOk d.toNat (multOf (s.arch s.cur).vtype) = true) (hfree : s.Writable (groupRegs s d)) (hw : w ∣ 64)
    (hvl : (s.arch s.cur).vl ≤ (s.arch s.cur).positions w) : Elementwise s i m d w f := by
  obtain ⟨t, hexec, hret, hx, hnests, hsame, hholds⟩ := (h.completes hready hw hvl).fills hready hd hw hvl hfree
  rw [writeElems_flags, filterMap_ite_some, ← orFlags_eq_foldr] at hret
  rw [List.map_map] at hret
  refine ⟨t, hexec, hret, hx, hnests, hsame, ?_⟩
  have hf : (fun k => (if s.on m k = true then some (f k) else none).map Prod.fst) = fun k => if s.on m k = true then some (f k).1 else none := by
    funext k
    split <;> rfl
  rwa [hf] at hholds

end

/-! ## Members that write one result for each segment (R135, R136) -/

/-- A member that commits whole completes where what it does answers a state. -/
theorem Completes.of_whole {s : State} {i : Instr} {regs : List Nat} {a : Arch} {fl : BitVec 5} {g : State → State → Except Stop State}
    (hissue : ∃ m, memberOf i s = some m ∧ m.issue = .ok ())
    (hrun : ∀ u m, SameRegs s u → memberOf i u = some m →
      m.writes = regs ∧ m.deviceClass = false ∧ m.groups = max 1 (m.writes.length * 4) ∧ m.run = wholeRun (g u) ∧ g u u = .ok (u.ran a fl))
    (hframe : a = { s.arch s.cur with x := a.x, v := a.v, nests := a.nests }) : Completes s i regs a fl where
  issue := by
    obtain ⟨m, hm, hok⟩ := hissue
    exact ⟨m, hm, (hrun s m (.refl s) hm).1, hok⟩
  run u m hu hm := by
    obtain ⟨hwrites, hdev, hgroups, hwhole, hg⟩ := hrun u m hu hm
    refine ⟨hwrites, hdev, ?_⟩
    have hne : m.groups ≠ 0 := by
      rw [hgroups]
      exact (Nat.lt_of_lt_of_le Nat.one_pos (Nat.le_max_left _ _)).ne'
    rw [hwhole]
    unfold wholeRun
    rw [if_neg hne, hg]
  frame := hframe

/-- Results at the positions of the segments, in their order, and the tail after them. -/
theorem State.putResults_zipIdx {α : Type} (u : State) (d w : Nat) (l : List α) (g : α → Nat × BitVec 5) :
    u.putResults d w l.length (l.zipIdx.map fun q => (q.2, g q.1)) =
      u.ran ((u.arch u.cur).filled (u.rows u.cur) d w l.length fun k => (l[k]?).map g) (orFlags (l.map fun q => (g q).2)) := by
  have hput : (l.zipIdx.map fun q => (q.2, (g q.1).1)) = (List.range l.length).map fun k => (k, ((l.map fun q => (g q).1)[k]?).getD 0) := by
    refine List.ext_getElem (by simp) fun k h1 h2 => ?_
    have hk : k < l.length := by simpa using h1
    simp [hk]
  have hflags : (l.zipIdx.map fun q => (g q.1).2) = l.map fun q => (g q).2 := by
    conv_rhs => rw [← List.zipIdx_map_fst 0 l, List.map_map]
    rfl
  unfold State.putResults Arch.filled
  dsimp only
  rw [List.map_map, List.map_map]
  have hsome : ∀ k ∈ List.range l.length, ∃ fl, (l[k]?).map g = some (((l.map fun q => (g q).1)[k]?).getD 0, fl) := by
    intro k hk
    have hk := List.mem_range.1 hk
    exact ⟨(g l[k]).2, by simp [hk]⟩
  rw [← putElems_eq_writeElems (u.arch u.cur) hsome, ← hput, ← hflags]
  rfl

/-- An instruction that leaves one result for each segment completes (R135). -/
theorem Completes.perSegment {s : State} {i : Instr} {d : VReg} {w : Nat} {α : Type} {l : List α} {g : α → Nat × BitVec 5}
    (h : Completes s i (groupRegs s d) ((s.arch s.cur).filled (s.rows s.cur) d.toNat w l.length fun k => (l[k]?).map g)
      (orFlags (l.map fun q => (g q).2))) (hready : VectorReady s) (hd : groupOk d.toNat (multOf (s.arch s.cur).vtype) = true) (hw : w ∣ 64)
    (hlen : l.length ≤ (s.arch s.cur).positions w) (hfree : s.Writable (groupRegs s d)) : PerSegment s i d w (l.map g) := by
  obtain ⟨t, hexec, hret, hx, hnests, hsame, hholds⟩ := h.fills hready hd hw hlen hfree
  refine ⟨t, hexec, ?_, hx, hnests, hsame, ?_⟩
  · rw [List.map_map]
    exact hret
  · rw [List.length_map]
    simpa only [List.getElem?_map] using hholds

end Sys2Proof.Machine
end

section
/-! PROOFS. Element-wise floating point (spec/05_vector_arithmetic.md R121 to R123): the order of numbers, the rounded quotient (spec/03_number_formats.md
R70 to R73), scaling and logits as statements about numbers, and O32. -/

namespace Sys2Proof.Machine

/-! ## The order of numbers (R72, R73) -/

/-- Where a number lies: an infinity at an end, a finite value at its place. -/
noncomputable def FVal.level : FVal → EReal
  | .inf neg => if neg then ⊥ else ⊤
  | v => ((v.rat : ℝ) : EReal)

theorem FVal.level_fin (n : Bool) (m : Nat) (e : Int) : (FVal.fin n m e).level = (((FVal.fin n m e).rat : ℝ) : EReal) := rfl

/-- Finite values compare as their numerators at the lower exponent. -/
theorem signedNat_lt_iff (n1 : Bool) (m1 : Nat) (e1 : Int) (n2 : Bool) (m2 : Nat) (e2 : Int) :
    signedNat n1 (m1 * 2 ^ (e1 - min e1 e2).toNat) < signedNat n2 (m2 * 2 ^ (e2 - min e1 e2).toNat) ↔
      (FVal.fin n1 m1 e1).rat < (FVal.fin n2 m2 e2).rat := by
  have hpos : (0 : ℚ) < 2 ^ min e1 e2 := by positivity
  rw [FVal.rat_fin_eq, FVal.rat_fin_eq, ← signedNat_shift n1 m1 (min_le_left e1 e2), ← signedNat_shift n2 m2 (min_le_right e1 e2),
    mul_lt_mul_iff_left₀ hpos, Int.cast_lt]

/-- The comparison of two numbers is that of their places. -/
theorem cmpX_eq_compare {a b : FVal} (ha : a.isNaN = false) (hb : b.isNaN = false) : cmpX a b = compare a.level b.level := by
  have bot_top : compare (⊥ : EReal) ⊤ = .lt := compare_lt_iff_lt.2 bot_lt_top
  have top_bot : compare (⊤ : EReal) ⊥ = .gt := compare_gt_iff_gt.2 bot_lt_top
  cases a with
  | nan _ => cases ha
  | inf n1 =>
    cases b with
    | nan _ => cases hb
    | inf n2 =>
      cases n1 <;> cases n2
      · exact (compare_eq_iff_eq.2 rfl).symm
      · exact top_bot.symm
      · exact bot_top.symm
      · exact (compare_eq_iff_eq.2 rfl).symm
    | fin n2 m2 e2 =>
      cases n1
      · exact (compare_gt_iff_gt.2 (EReal.coe_lt_top _)).symm
      · exact (compare_lt_iff_lt.2 (EReal.bot_lt_coe _)).symm
  | fin n1 m1 e1 =>
    cases b with
    | nan _ => cases hb
    | inf n2 =>
      cases n2
      · exact (compare_lt_iff_lt.2 (EReal.coe_lt_top _)).symm
      · exact (compare_gt_iff_gt.2 (EReal.bot_lt_coe _)).symm
    | fin n2 m2 e2 =>
      have hlt := signedNat_lt_iff n1 m1 e1 n2 m2 e2
      have hgt := signedNat_lt_iff n2 m2 e2 n1 m1 e1
      rw [min_comm] at hgt
      have hcast : ∀ {p q : ℚ}, ((p : ℝ) : EReal) < ((q : ℝ) : EReal) ↔ p < q := by
        intro p q
        rw [EReal.coe_lt_coe_iff, Rat.cast_lt]
      rw [FVal.level_fin, FVal.level_fin]
      unfold cmpX
      dsimp only
      rcases lt_trichotomy (FVal.fin n1 m1 e1).rat (FVal.fin n2 m2 e2).rat with h | h | h
      · rw [compare_lt_iff_lt.2 (hlt.2 h), compare_lt_iff_lt.2 (hcast.2 h)]
      · rw [compare_eq_iff_eq.2 (congrArg (fun q : ℚ => ((q : ℝ) : EReal)) h), compare_eq_iff_eq.2]
        exact le_antisymm (not_lt.1 fun q => (hgt.1 q).ne' h) (not_lt.1 fun q => (hlt.1 q).ne h)
      · rw [compare_gt_iff_gt.2 (hgt.2 h), compare_gt_iff_gt.2 (hcast.2 h)]

/-- The order of R73 is that of the places. -/
theorem FVal.lt_iff_level_lt {a b : FVal} (ha : a.isNaN = false) (hb : b.isNaN = false) : a.lt b ↔ a.level < b.level := by
  cases a with
  | nan _ => cases ha
  | inf n1 =>
    cases b with
    | nan _ => cases hb
    | inf n2 => cases n1 <;> cases n2 <;> simp [FVal.lt, FVal.level]
    | fin n2 m2 e2 => cases n1 <;> simp [FVal.lt, FVal.level]
  | fin n1 m1 e1 =>
    cases b with
    | nan _ => cases hb
    | inf n2 => cases n2 <;> simp [FVal.lt, FVal.level]
    | fin n2 m2 e2 => rw [FVal.level_fin, FVal.level_fin, EReal.coe_lt_coe_iff, Rat.cast_lt]; rfl

theorem cmpX_eq_eq_iff {a b : FVal} (ha : a.isNaN = false) (hb : b.isNaN = false) : cmpX a b = .eq ↔ ¬ a.lt b ∧ ¬ b.lt a := by
  rw [cmpX_eq_compare ha hb, compare_eq_iff_eq, FVal.lt_iff_level_lt ha hb, FVal.lt_iff_level_lt hb ha, not_lt, not_lt]
  exact ⟨fun h => ⟨h.ge, h.le⟩, fun h => le_antisymm h.2 h.1⟩

/-! ## The rounded quotient (R70, R71) -/

/-- The quotient of two magnitudes, its integer part at k more bits, and whether something lies above that. -/
theorem sticks_div (m1 k : Nat) {m2 : Nat} (h2 : m2 ≠ 0) :
    Sticks (m1 * 2 ^ k / m2) (decide (m1 * 2 ^ k % m2 ≠ 0)) ((m1 * 2 ^ k : Nat) / m2 : ℝ) := by
  have hpos : (0 : ℝ) < m2 := by exact_mod_cast Nat.pos_of_ne_zero h2
  have hsplit := Nat.div_add_mod (m1 * 2 ^ k) m2
  have hmod := Nat.mod_lt (m1 * 2 ^ k) (Nat.pos_of_ne_zero h2)
  generalize m1 * 2 ^ k / m2 = q at *
  generalize m1 * 2 ^ k % m2 = r at *
  rw [← hsplit]
  push_cast
  constructor
  · intro h
    have hr : r = 0 := by simpa using h
    rw [hr, Nat.cast_zero, add_zero, mul_div_cancel_left₀ _ hpos.ne']
  · intro h
    have hr : r ≠ 0 := by simpa using h
    have hr0 : (0 : ℝ) < r := by exact_mod_cast Nat.pos_of_ne_zero hr
    have hr2 : (r : ℝ) < m2 := by exact_mod_cast hmod
    rw [lt_div_iff₀ hpos, div_lt_iff₀ hpos]
    constructor <;> linarith [mul_comm (m2 : ℝ) q]

/-- The quotient has more bits than the format. -/
theorem frac_lt_log2_divMag (f : Fmt) {m1 m2 : Nat} (e1 e2 : Int) (h1 : m1 ≠ 0) (h2 : m2 ≠ 0) :
    (divMag f m1 e1 m2 e2).1 ≠ 0 ∧ f.frac < Nat.log2 (divMag f m1 e1 m2 e2).1 := by
  have hle : 2 ^ (f.frac + 1) ≤ m1 * 2 ^ (f.frac + 4 + Nat.log2 m2) / m2 := by
    rw [Nat.le_div_iff_mul_le (Nat.pos_of_ne_zero h2)]
    calc 2 ^ (f.frac + 1) * m2 ≤ 2 ^ (f.frac + 1) * 2 ^ (Nat.log2 m2 + 1) := Nat.mul_le_mul_left _ Nat.lt_log2_self.le
      _ = 2 ^ (f.frac + 2 + Nat.log2 m2) := by rw [← Nat.pow_add]; congr 1; omega
      _ ≤ 2 ^ (f.frac + 4 + Nat.log2 m2) := Nat.pow_le_pow_right (by norm_num) (by omega)
      _ ≤ m1 * 2 ^ (f.frac + 4 + Nat.log2 m2) := Nat.le_mul_of_pos_left _ (Nat.pos_of_ne_zero h1)
  have hne : m1 * 2 ^ (f.frac + 4 + Nat.log2 m2) / m2 ≠ 0 := fun h => by
    rw [h] at hle
    exact absurd hle (Nat.not_le.2 (Nat.two_pow_pos _))
  exact ⟨hne, (Nat.le_log2 hne).2 hle⟩

/-- The quotient of finite nonzero values is their exact quotient rounded once. -/
theorem fdiv_roundsTo (f : Fmt) {x y : FVal} (hx : x.isFin = true) (hy : y.isFin = true) (hx0 : x.rat ≠ 0) (hy0 : y.rat ≠ 0) :
    RoundsTo f ((x.rat / y.rat : ℚ) : ℝ) (fdiv f x y) := by
  obtain ⟨n1, m1, e1, rfl⟩ := FVal.exists_fin hx
  obtain ⟨n2, m2, e2, rfl⟩ := FVal.exists_fin hy
  have h1 : m1 ≠ 0 := fun h => hx0 ((FVal.rat_eq_zero_iff ..).2 h)
  have h2 : m2 ≠ 0 := fun h => hy0 ((FVal.rat_eq_zero_iff ..).2 h)
  obtain ⟨hne, hlog⟩ := frac_lt_log2_divMag f e1 e2 h1 h2
  have hround := roundFin_roundsTo f (n1 != n2) (divMag f m1 e1 m2 e2).2.1 hne (sticks_div m1 (f.frac + 4 + Nat.log2 m2) h2) fun _ => hlog
  have hval : signOf (n1 != n2) * (((m1 * 2 ^ (f.frac + 4 + Nat.log2 m2) : Nat) / m2 : ℝ) * 2 ^ (divMag f m1 e1 m2 e2).2.1) =
      (((FVal.fin n1 m1 e1).rat / (FVal.fin n2 m2 e2).rat : ℚ) : ℝ) := by
    have hm2 : (m2 : ℝ) ≠ 0 := by exact_mod_cast h2
    have hsign : signOf (n1 != n2) = signOf n1 / signOf n2 := by cases n1 <;> cases n2 <;> simp [signOf]
    have hs2 : signOf n2 ≠ 0 := by cases n2 <;> simp [signOf]
    rw [Rat.cast_div, FVal.rat_fin, FVal.rat_fin, hsign, divMag]
    dsimp only
    rw [zpow_sub₀ two_ne_zero, zpow_sub₀ two_ne_zero, zpow_natCast]
    push_cast
    field_simp
  rw [hval] at hround
  unfold fdiv
  dsimp only
  rw [if_neg h2, if_neg h1]
  unfold pack
  dsimp only
  rw [if_neg hne]
  exact hround

/-! ## Scaling by a power of two (R121) -/

theorem FVal.abs_rat (n : Bool) (m : Nat) (e : Int) : |(FVal.fin n m e).rat| = m * 2 ^ e := by
  have hpow : (0 : ℚ) < 2 ^ e := by positivity
  cases n <;> simp [FVal.rat, abs_mul, abs_of_pos hpow]

theorem FVal.rat_scale (n : Bool) (m : Nat) (e p : Int) : (FVal.fin n m (e + p)).rat = (FVal.fin n m e).rat * 2 ^ p := by
  rw [FVal.rat_fin_eq, FVal.rat_fin_eq, zpow_add₀ two_ne_zero, mul_assoc]

/-- A finite value of magnitude zero is delivered as a zero of its sign (R70). -/
theorem rne_of_rat_eq_zero {f : Fmt} {v : FVal} (hfin : v.isFin = true) (h0 : v.rat = 0) : rne f v = (withSign f v.isNeg 0, 0) := by
  obtain ⟨n, m, e, rfl⟩ := FVal.exists_fin hfin
  exact if_pos ((FVal.rat_eq_zero_iff ..).1 h0)

/-- A finite value that is not zero is rounded once (R67). -/
theorem rne_roundsTo {f : Fmt} {v : FVal} (hfin : v.isFin = true) (h0 : v.rat ≠ 0) : RoundsTo f (v.rat : ℝ) (rne f v) := by
  obtain ⟨n, m, e, rfl⟩ := FVal.exists_fin hfin
  exact exactResultsRoundOnceToNearestEven.1 f n m e fun h => h0 ((FVal.rat_eq_zero_iff ..).2 h)

theorem fscale_fin (f : Fmt) (n : Bool) (m : Nat) (e p : Int) : fscale f (.fin n m e) p = rne f (.fin n m (e + p)) := rfl

theorem fscale_roundsTo {f : Fmt} {v : FVal} (p : Int) (hfin : v.isFin = true) (h0 : v.rat ≠ 0) :
    RoundsTo f ((v.rat * (2 : Rat) ^ p : ℚ) : ℝ) (fscale f v p) := by
  obtain ⟨n, m, e, rfl⟩ := FVal.exists_fin hfin
  rw [fscale_fin, ← FVal.rat_scale]
  refine rne_roundsTo rfl ?_
  rw [FVal.rat_scale]
  exact mul_ne_zero h0 (by positivity)

theorem fscale_of_rat_eq_zero {f : Fmt} {v : FVal} (p : Int) (hfin : v.isFin = true) (h0 : v.rat = 0) :
    fscale f v p = (withSign f v.isNeg 0, 0) := by
  obtain ⟨n, m, e, rfl⟩ := FVal.exists_fin hfin
  rw [fscale_fin, rne_of_rat_eq_zero rfl (by rw [FVal.rat_scale, h0, zero_mul])]
  rfl

theorem fscale_of_not_fin {f : Fmt} {v : FVal} (p : Int) (hfin : v.isFin = false) : fscale f v p = rne f v := by
  cases v with
  | nan _ => rfl
  | inf _ => rfl
  | fin _ _ _ => cases hfin

/-! ## Logits (R123) -/

/-- A zero or a subnormal number of the format. -/
def FVal.IsLittle (f : Fmt) (v : FVal) : Prop := v.isFin = true ∧ |v.rat| < (2 : Rat) ^ (1 - (f.bias : Int))

theorem FVal.isLittle_fin_iff (f : Fmt) (n : Bool) (k : Nat) (e : Int) :
    (FVal.fin n k e).IsLittle f ↔ k = 0 ∨ (Nat.log2 k : Int) + e < 1 - (f.bias : Int) := by
  have hlit : (FVal.fin n k e).IsLittle f ↔ (k : ℚ) * 2 ^ e < 2 ^ (1 - (f.bias : Int)) := by
    unfold FVal.IsLittle
    rw [FVal.abs_rat]
    exact ⟨fun h => h.2, fun h => ⟨rfl, h⟩⟩
  rw [hlit]
  rcases Nat.eq_zero_or_pos k with rfl | hk
  · rw [Nat.cast_zero, zero_mul]
    exact iff_of_true (by positivity) (.inl rfl)
  · obtain ⟨hlo, hhi⟩ := zpow_log2_le (e := e) (sticky := false) (y := k) hk.ne' ⟨fun _ => rfl, nofun⟩
    have hcast : (k : ℚ) * 2 ^ e < 2 ^ (1 - (f.bias : Int)) ↔ (k : ℝ) * 2 ^ e < 2 ^ (1 - (f.bias : Int)) := by
      rw [← Rat.cast_lt (K := ℝ)]
      push_cast
      exact Iff.rfl
    rw [hcast, or_iff_right hk.ne']
    constructor
    · exact fun h => (zpow_lt_zpow_iff_right₀ one_lt_two).1 (hlo.trans_lt h)
    · exact fun h => hhi.trans_le (zpow_le_zpow_right₀ one_le_two (by omega))

theorem FVal.neg_isNaN (v : FVal) : v.neg.isNaN = v.isNaN := by cases v <;> rfl
theorem FVal.neg_isFin (v : FVal) : v.neg.isFin = v.isFin := by cases v <;> rfl
theorem FVal.neg_isNeg {v : FVal} (h : v.isFin = true) : v.neg.isNeg = !v.isNeg := by
  obtain ⟨n, m, e, rfl⟩ := FVal.exists_fin h
  rfl
theorem FVal.neg_rat (v : FVal) : v.neg.rat = -v.rat := by
  cases v with
  | fin n m e => cases n <;> simp [FVal.neg, FVal.rat]
  | nan _ => simp [FVal.neg, FVal.rat]
  | inf _ => simp [FVal.neg, FVal.rat]

section
variable {f : Fmt} {x y q : FVal}

theorem flogt_of_nan (h : ¬ (x.isNaN = false ∧ y.isNaN = false ∧ q.isNaN = false)) :
    flogt f x y q = (f.canonNaN, if x.signals || y.signals || q.signals then flNV else 0) := by
  refine if_pos ?_
  rw [Bool.or_eq_true, Bool.or_eq_true]
  simp only [← Bool.not_eq_true] at h
  tauto

variable (hx : x.isNaN = false) (hy : y.isNaN = false)
include hx hy

/-- T zero or subnormal: 0 where x and M are equal, else minus infinity. -/
theorem flogt_of_isLittle (h : q.IsLittle f) : flogt f x y q = if cmpX x y = .eq then (0, 0) else (withSign f true f.infBits, 0) := by
  obtain ⟨n, k, e, rfl⟩ := FVal.exists_fin h.1
  rw [FVal.isLittle_fin_iff] at h
  unfold flogt
  have hq : (FVal.fin n k e).isNaN = false := rfl
  rw [if_neg (by simp [hx, hy, hq])]
  exact if_pos (by simpa using h)

/-- T neither zero nor subnormal. -/
theorem flogt_of_not_isLittle (hq : q.isNaN = false) (h : ¬ q.IsLittle f) : flogt f x y q =
    if q.isNeg then (f.canonNaN, flNV) else if q = .inf false then (0, 0) else fdiv f (addX x y.neg) q := by
  unfold flogt
  rw [if_neg (by simp [hx, hy, hq])]
  cases q with
  | nan _ => cases hq
  | inf _ => rfl
  | fin n k e =>
    rw [FVal.isLittle_fin_iff] at h
    exact if_neg (by simpa using h)

variable (hfin : q.isFin = true) (hbig : ¬ q.IsLittle f) (hpos : q.isNeg = false)
include hfin hbig hpos

/-- T a positive normal number: the difference of x and M divided by it. -/
theorem flogt_eq_fdiv : flogt f x y q = fdiv f (addX x y.neg) q := by
  obtain ⟨n, k, e, rfl⟩ := FVal.exists_fin hfin
  rw [flogt_of_not_isLittle hx hy rfl hbig, hpos]
  rfl

omit hx hy hpos in
theorem FVal.rat_ne_zero_of_not_isLittle : q.rat ≠ 0 := fun h => hbig ⟨hfin, by rw [h, abs_zero]; positivity⟩

omit hx hy in
/-- An infinity divided by a positive normal number is that infinity. -/
theorem fdiv_inf (n : Bool) : fdiv f (.inf n) q = rne f (.inf n) := by
  obtain ⟨n', k, e, rfl⟩ := FVal.exists_fin hfin
  obtain rfl : n' = false := hpos
  show rne f (.inf (n != false)) = _
  rw [Bool.bne_false]

omit hx hy in
/-- A zero divided by a positive normal number keeps its sign. -/
theorem fdiv_zero {v : FVal} (hv : v.isFin = true) (h0 : v.rat = 0) : fdiv f v q = (withSign f v.isNeg 0, 0) := by
  have hq0 := FVal.rat_ne_zero_of_not_isLittle hfin hbig
  obtain ⟨n', k, e, rfl⟩ := FVal.exists_fin hfin
  obtain ⟨n, m, e', rfl⟩ := FVal.exists_fin hv
  obtain rfl : n' = false := hpos
  obtain rfl : m = 0 := (FVal.rat_eq_zero_iff ..).1 h0
  have hk : k ≠ 0 := fun h => hq0 ((FVal.rat_eq_zero_iff ..).2 h)
  unfold fdiv
  dsimp only
  rw [if_neg hk, if_pos rfl, Bool.bne_false]
  rfl

theorem flogt_finite (hxf : x.isFin = true) (hyf : y.isFin = true) :
    (x.rat ≠ y.rat → RoundsTo f (((x.rat - y.rat) / q.rat : ℚ) : ℝ) (flogt f x y q)) ∧
    (x.rat = y.rat → flogt f x y q = (withSign f (x.rat == 0 && x.isNeg && !y.isNeg) 0, 0)) := by
  have hyn : y.neg.isFin = true := by rw [FVal.neg_isFin, hyf]
  obtain ⟨hsum, hrat, -, -, hneg, -⟩ := exactResultsRoundOnceToNearestEven.2.1 x y.neg hxf hyn
  rw [FVal.neg_rat, ← sub_eq_add_neg] at hrat
  rw [flogt_eq_fdiv hx hy hfin hbig hpos]
  constructor
  · intro hne
    rw [← hrat]
    exact fdiv_roundsTo f hsum hfin (by rw [hrat]; exact sub_ne_zero.2 hne) (FVal.rat_ne_zero_of_not_isLittle hfin hbig)
  · intro heq
    have h0 : (addX x y.neg).rat = 0 := by rw [hrat, heq, sub_self]
    rw [fdiv_zero hfin hbig hpos hsum h0]
    have hsign := hneg h0
    rw [FVal.neg_isNeg hyf, FVal.neg_rat, neg_eq_zero, ← heq] at hsign
    have : (addX x y.neg).isNeg = (x.rat == 0 && x.isNeg && !y.isNeg) := by
      rw [Bool.eq_iff_iff, hsign]
      simp only [Bool.and_eq_true, beq_iff_eq]
      tauto
    rw [this]

theorem flogt_inf :
    (∀ n, y = .inf n → x ≠ .inf n → flogt f x y q = rne f (.inf !n)) ∧ (∀ n, x = .inf n → y ≠ .inf n → flogt f x y q = rne f (.inf n)) ∧
    ∀ n, x = .inf n → y = .inf n → flogt f x y q = (f.canonNaN, flNV) := by
  rw [flogt_eq_fdiv hx hy hfin hbig hpos]
  refine ⟨?_, ?_, ?_⟩
  · rintro n rfl hne
    have hsum : addX x (FVal.inf n).neg = .inf !n := by
      cases x with
      | nan _ => cases hx
      | inf n' =>
        obtain rfl : n' = !n := by simpa [Bool.eq_not] using hne
        exact if_pos rfl
      | fin _ _ _ => rfl
    rw [hsum, fdiv_inf hfin hbig hpos]
  · rintro n rfl hne
    have hsum : addX (.inf n) y.neg = .inf n := by
      cases y with
      | nan _ => cases hy
      | inf n' =>
        obtain rfl : n = !n' := by simpa [Bool.eq_not, eq_comm] using hne
        exact if_pos rfl
      | fin _ _ _ => rfl
    rw [hsum, fdiv_inf hfin hbig hpos]
  · rintro n rfl rfl
    have hsum : addX (.inf n) (FVal.inf n).neg = .nan true := if_neg (by simp)
    rw [hsum]
    obtain ⟨n', k, e, rfl⟩ := FVal.exists_fin hfin
    rfl

end

/-- The table of R123. -/
theorem flogt_table (f : Fmt) (x y q : FVal) :
    let none_ := x.isNaN = false ∧ y.isNaN = false ∧ q.isNaN = false
    (¬ none_ → flogt f x y q = (f.canonNaN, if x.signals || y.signals || q.signals then flNV else 0)) ∧
    (none_ → q.IsLittle f → ¬ x.lt y → ¬ y.lt x → flogt f x y q = (0, 0)) ∧
    (none_ → q.IsLittle f → x.lt y ∨ y.lt x → flogt f x y q = (withSign f true f.infBits, 0)) ∧
    (none_ → ¬ q.IsLittle f → q.isNeg = true → flogt f x y q = (f.canonNaN, flNV)) ∧ (none_ → q = .inf false → flogt f x y q = (0, 0)) := by
  refine ⟨flogt_of_nan, ?_, ?_, ?_, ?_⟩
  · rintro ⟨hx, hy, -⟩ hlit hxy hyx
    rw [flogt_of_isLittle hx hy hlit, if_pos ((cmpX_eq_eq_iff hx hy).2 ⟨hxy, hyx⟩)]
  · rintro ⟨hx, hy, -⟩ hlit hlt
    rw [flogt_of_isLittle hx hy hlit, if_neg fun h => ?_]
    obtain ⟨hxy, hyx⟩ := (cmpX_eq_eq_iff hx hy).1 h
    exact hlt.elim hxy hyx
  · rintro ⟨hx, hy, hq⟩ hbig hneg
    rw [flogt_of_not_isLittle hx hy hq hbig, if_pos hneg]
  · rintro ⟨hx, hy, hq⟩ rfl
    rw [flogt_of_not_isLittle hx hy hq fun h => absurd h.1 Bool.false_ne_true]
    rfl

/-! ## The members of VFPU -/

theorem width_fmtOf {img : BitVec 16} (hlo : 2 ≤ ewOf img) (hhi : ewOf img ≤ 4) : (fmtOf img).width = widthOf img := by
  unfold fmtOf widthOf
  obtain h | h | h : ewOf img = 2 ∨ ewOf img = 3 ∨ ewOf img = 4 := by omega
  all_goals rw [h]
  · cases img.getLsbD 6 <;> rfl
  · rfl
  · rfl

section
variable {s : State} {i : Instr} {m : Bool} {d a : VReg}

/-- A member over A, B and the old D: element by element, in the format of the element width. -/
theorem fpMember_elementMember {b : Option VReg} {readsD : Bool} {f : Fmt → Nat → Nat → Nat → Nat × BitVec 5}
    (h : ∀ u, memberOf i u = some (fpMember u (wordOf i) m d a b readsD f)) (hlo : 2 ≤ ewOf (s.arch s.cur).vtype)
    (hd : groupOk d.toNat (multOf (s.arch s.cur).vtype) = true) (ha : groupOk a.toNat (multOf (s.arch s.cur).vtype) = true)
    (hb : ∀ v, b = some v → groupOk v.toNat (multOf (s.arch s.cur).vtype) = true) :
    ElementMember s i d (widthOf (s.arch s.cur).vtype) fun k => if s.on m k = true then some (f (fmtOf (s.arch s.cur).vtype)
      (s.el a.toNat (widthOf (s.arch s.cur).vtype) k) ((b.map fun v => s.el v.toNat (widthOf (s.arch s.cur).vtype) k).getD 0)
      (if readsD then s.el d.toNat (widthOf (s.arch s.cur).vtype) k else 0)) else none where
  issue := by
    refine ⟨_, h s, issueCheck_of_true ?_⟩
    cases b with
    | none => simp [hlo, hd, ha]
    | some v => simp [hlo, hd, ha, hb v rfl]
  run u mb hu hmb := by
    obtain rfl := Option.some.inj ((h u).symm.trans hmb)
    have hw : widthOf (u.arch u.cur).vtype = widthOf (s.arch s.cur).vtype := by rw [hu.cur, hu.arch]
    refine ⟨rfl, rfl, rfl, ?_⟩
    unfold fpMember elemMember
    dsimp only
    refine ⟨_, _, rfl, hw, ?_⟩
    rw [hu.cur, hu.arch, hu.rows]
    cases b <;> rfl

end

section
variable {s : State} (hready : VectorReady s)
include hready

theorem VectorReady.vl_le_positions {w : Nat} (hw : 0 < w) (hle : w ≤ widthOf (s.arch s.cur).vtype) :
    (s.arch s.cur).vl ≤ (s.arch s.cur).positions w := by
  rw [hready.positions_eq]
  exact hready.vl_le hw hle

/-- An instruction of A and B completes element by element (R121). -/
theorem elementwise_of_fpMember {i : Instr} {m : Bool} {d a : VReg} {b : Option VReg} {readsD : Bool} {f : Fmt → Nat → Nat → Nat → Nat × BitVec 5}
    (hd : groupOk d.toNat (multOf (s.arch s.cur).vtype) = true) (ha : groupOk a.toNat (multOf (s.arch s.cur).vtype) = true)
    (hfree : s.Writable (groupRegs s d)) (hlo : 2 ≤ ewOf (s.arch s.cur).vtype)
    (hb : ∀ v, b = some v → groupOk v.toNat (multOf (s.arch s.cur).vtype) = true)
    (h : ∀ u, memberOf i u = some (fpMember u (wordOf i) m d a b readsD f)) :
    Elementwise s i m d (widthOf (s.arch s.cur).vtype) fun k => f (fmtOf (s.arch s.cur).vtype)
      (s.el a.toNat (widthOf (s.arch s.cur).vtype) k) ((b.map fun v => s.el v.toNat (widthOf (s.arch s.cur).vtype) k).getD 0)
      (if readsD then s.el d.toNat (widthOf (s.arch s.cur).vtype) k else 0) :=
  (fpMember_elementMember h hlo hd ha hb).elementwise hready hd hfree (widthOf_dvd hready.width)
    (hready.vl_le_positions (widthOf_pos _) le_rfl)

end

section
variable {s : State} {m : Bool} {n : Narrow} {nf : Fmt} {d a : VReg} (hready : VectorReady s)
  (hd : groupOk d.toNat (multOf (s.arch s.cur).vtype) = true) (ha : groupOk a.toNat (multOf (s.arch s.cur).vtype) = true)
  (hnf : narrowFmt (ewOf (s.arch s.cur).vtype) n = some nf)

/-- The narrow format is narrower than the element width. -/
theorem narrowFmt_width_le {img : BitVec 16} (h : narrowFmt (ewOf img) n = some nf) : nf.width ≤ widthOf img ∧ nf.width ∣ 64 := by
  unfold narrowFmt at h
  unfold widthOf
  split at h
  next h3 =>
    rw [h3, ← Option.some.inj h]
    cases n <;> decide
  next =>
    split at h
    next h4 => rw [h4.1, ← Option.some.inj h]; decide
    next => cases h

include hd ha hnf

theorem vfwiden_elementMember : ElementMember s (.vfwiden m n d a) d (widthOf (s.arch s.cur).vtype) fun k =>
    if s.on m k = true then some (rne (fmtOf (s.arch s.cur).vtype) (unpack nf (s.el a.toNat nf.width k))) else none where
  issue := ⟨_, rfl, issueCheck_of_true (by simp [hnf, hd, ha])⟩
  run u mb hu hmb := by
    obtain rfl := Option.some.inj hmb
    have hw : widthOf (u.arch u.cur).vtype = widthOf (s.arch s.cur).vtype := by rw [hu.cur, hu.arch]
    refine ⟨rfl, rfl, rfl, ?_⟩
    unfold memberVfwiden elemMember
    dsimp only
    refine ⟨_, _, rfl, hw, ?_⟩
    rw [hu.cur, hu.arch, hu.rows, hnf]
    rfl

theorem vfnarrow_elementMember : ElementMember s (.vfnarrow m n d a) d nf.width fun k =>
    if s.on m k = true then some (rne nf (unpack (fmtOf (s.arch s.cur).vtype) (s.el a.toNat (widthOf (s.arch s.cur).vtype) k))) else none where
  issue := ⟨_, rfl, issueCheck_of_true (by simp [hnf, hd, ha])⟩
  run u mb hu hmb := by
    obtain rfl := Option.some.inj hmb
    have hw : ((narrowFmt (ewOf (u.arch u.cur).vtype) n).getD .fp32).width = nf.width := by
      rw [hu.cur, hu.arch, hnf]
      rfl
    refine ⟨rfl, rfl, rfl, ?_⟩
    unfold memberVfnarrow elemMember
    dsimp only
    refine ⟨_, _, rfl, hw, ?_⟩
    rw [hu.cur, hu.arch, hu.rows, hnf]
    rfl

end

/-- The narrow formats that R122 accepts. -/
theorem narrowFmt_of_accepted {img : BitVec 16} {n : Narrow} {nf : Fmt}
    (h : ewOf img = 3 ∧ (n, nf) ∈ [(Narrow.e4m3, Fmt.e4m3), (.e5m2, .e5m2), (.bf16, .bf16), (.f16, .fp16)] ∨
      ewOf img = 4 ∧ n = .e4m3 ∧ nf = .fp32) : narrowFmt (ewOf img) n = some nf := by
  rcases h with ⟨hew, hmem⟩ | ⟨hew, rfl, rfl⟩
  · rw [hew]
    revert hmem
    cases n <;> cases nf <;> decide
  · rw [hew]
    rfl

/-- Settles O32: every member is element-wise, the scaled product is rounded once, and logits follow the table and the rounded quotient. -/
theorem vectorFloatInstructionsComplete : Obligations.VectorFloatInstructionsComplete := by
  intro s m r n d a b nf img w f A B D hready hd ha hfree
  refine ⟨fun hlo => ?_, fun hlo hb => ?_, fun hnarrow => ?_, fun g v p => ?_, fun g x y q => ?_⟩
  · have hwidth : (fmtOf (s.arch s.cur).vtype).width = widthOf (s.arch s.cur).vtype := width_fmtOf hlo hready.width
    have does := fun {i} {g} => elementwise_of_fpMember (i := i) (m := m) (b := none) (readsD := false) (f := g) hready hd ha hfree hlo nofun
    have hint := does (i := .vfcvtfi m d a) fun _ => rfl
    have htoInt := does (i := .vfcvtif m r d a) fun _ => rfl
    simp only [hwidth] at hint htoInt
    exact ⟨hint, htoInt⟩
  · have hwidth : (fmtOf (s.arch s.cur).vtype).width = widthOf (s.arch s.cur).vtype := width_fmtOf hlo hready.width
    have does := fun {i} {g} o => elementwise_of_fpMember (i := i) (m := m) (b := some b) (readsD := o) (f := g) hready hd ha hfree hlo
      fun v h => Option.some.inj h ▸ hb
    have hadd := does (i := .vfadd m d a b) false fun _ => rfl
    have hsub := does (i := .vfsub m d a b) false fun _ => rfl
    have hmul := does (i := .vfmul m d a b) false fun _ => rfl
    have hma := does (i := .vfma m d a b) true fun _ => rfl
    have hdiv := does (i := .vfdiv m d a b) false fun _ => rfl
    have hmin := does (i := .vfmin m d a b) false fun _ => rfl
    have hmax := does (i := .vfmax m d a b) false fun _ => rfl
    have hscale := does (i := .vfscale m d a b) false fun _ => rfl
    have hlogt := does (i := .vflogt m d a b) true fun _ => rfl
    simp only [hwidth] at hscale
    exact ⟨hadd, hsub, hmul, hma, hdiv, hmin, hmax, hscale, hlogt⟩
  · obtain hnf := narrowFmt_of_accepted hnarrow
    obtain ⟨hle, hdvd⟩ := narrowFmt_width_le hnf
    exact ⟨(vfwiden_elementMember hd ha hnf).elementwise hready hd hfree (widthOf_dvd hready.width)
        (hready.vl_le_positions (widthOf_pos _) le_rfl),
      (vfnarrow_elementMember hd ha hnf).elementwise hready hd hfree hdvd (hready.vl_le_positions (Nat.pos_of_dvd_of_pos hdvd (by decide)) hle)⟩
  · exact ⟨fscale_roundsTo p, fscale_of_rat_eq_zero p, fscale_of_not_fin p⟩
  · obtain ⟨hnan, heq, hne, hneg, hinf⟩ := flogt_table g x y q
    refine ⟨hnan, heq, hne, hneg, hinf, ?_⟩
    rintro ⟨hx, hy, -⟩ hfin hbig hpos
    have hvals := flogt_finite hx hy hfin hbig hpos
    exact ⟨fun hxf hyf => (hvals hxf hyf).1, fun hxf hyf => (hvals hxf hyf).2, flogt_inf hx hy hfin hbig hpos⟩

end Sys2Proof.Machine
end

section
/-! PROOFS. Reductions (spec/06_nested_vectors.md R128 to R136, spec/07_scaled_and_matrix.md R154): exact sums and the pairing of FP64
(spec/03_number_formats.md R89 to R92), the members that write one result for each segment, and O34. -/

namespace Sys2Proof.Machine

/-! ## Exact sums (R89 to R91) -/

/-- v is the exact sum of the terms, none of which is a NaN. -/
structure SumOf (ts : List FVal) (v : FVal) : Prop where
  both : .inf true ∈ ts → .inf false ∈ ts → v = .nan true
  one  : ∀ n, .inf n ∈ ts → .inf (!n) ∉ ts → v = .inf n
  fin  : (∀ t ∈ ts, t.isFin = true) →
    v.isFin = true ∧ v.rat = (ts.map FVal.rat).sum ∧ (v.rat = 0 → (v.isNeg = true ↔ ∀ t ∈ ts, t.rat = 0 ∧ t.isNeg = true))

theorem SumOf.singleton (t : FVal) : SumOf [t] t where
  both h1 h2 := by
    rw [List.mem_singleton] at h1 h2
    rw [← h1] at h2
    cases h2
  one n h1 _ := (List.mem_singleton.1 h1).symm
  fin hfin := ⟨hfin t List.mem_cons_self, by simp, fun h0 => by simp [h0]⟩

theorem FVal.eq_inf_of_not_fin {t : FVal} (h : t.isNaN = false) (hf : t.isFin ≠ true) : ∃ n, t = .inf n := by
  cases t with
  | nan _ => cases h
  | inf n => exact ⟨n, rfl⟩
  | fin _ _ _ => exact absurd rfl hf

theorem addX_inf (n : Bool) (v : FVal) (h : v.isFin = true ∨ v = .inf n) : addX v (.inf n) = .inf n := by
  rcases h with h | rfl
  · obtain ⟨n', m, e, rfl⟩ := FVal.exists_fin h
    rfl
  · exact if_pos rfl

theorem addX_nan_true (t : FVal) : addX (.nan true) t = .nan true := rfl

/-- One more term (R89). -/
theorem SumOf.snoc {ts : List FVal} {v t : FVal} (h : SumOf ts v) (hts : ∀ x ∈ ts, x.isNaN = false) (ht : t.isNaN = false) :
    SumOf (ts ++ [t]) (addX v t) := by
  have hfinite : (∀ n, .inf n ∉ ts) → v.isFin = true := fun hno => (h.fin fun x hx => by
    by_contra hf
    obtain ⟨n, rfl⟩ := FVal.eq_inf_of_not_fin (hts x hx) hf
    exact hno n hx).1
  cases t with
  | nan _ => cases ht
  | inf n =>
    refine ⟨fun h1 h2 => ?_, fun k h1 h2 => ?_, fun hfin => absurd (hfin (.inf n) (by simp)) Bool.false_ne_true⟩
    · have hother : .inf (!n) ∈ ts := by
        cases n
        · simpa using h1
        · simpa using h2
      by_cases hn : .inf n ∈ ts
      · have hv : v = .nan true := by cases n; exacts [h.both hother hn, h.both hn hother]
        rw [hv, addX_nan_true]
      · rw [h.one (!n) hother (by rwa [Bool.not_not])]
        exact if_neg (by simp)
    · rw [List.mem_append, List.mem_singleton, not_or] at h2
      obtain ⟨hnot, hne⟩ := h2
      obtain rfl : k = n := by
        by_contra hkn
        exact hne (congrArg FVal.inf (by simpa [Bool.eq_not, eq_comm] using hkn))
      refine addX_inf k v ?_
      by_cases hk : .inf k ∈ ts
      · exact .inr (h.one k hk hnot)
      · exact .inl (hfinite fun n hn => by rcases Bool.eq_or_eq_not n k with rfl | rfl; exacts [hk hn, hnot hn])
  | fin n m e =>
    have hmem : ∀ b, .inf b ∈ ts ++ [.fin n m e] ↔ .inf b ∈ ts := by simp
    refine ⟨fun h1 h2 => ?_, fun k h1 h2 => ?_, fun hfin => ?_⟩
    · rw [h.both ((hmem _).1 h1) ((hmem _).1 h2), addX_nan_true]
    · rw [h.one k ((hmem _).1 h1) fun q => h2 ((hmem _).2 q)]
      rfl
    · obtain ⟨hv, hrat, hneg⟩ := h.fin fun x hx => hfin x (List.mem_append_left _ hx)
      obtain ⟨hsum, hsumrat, -, -, hsumneg, -⟩ := exactResultsRoundOnceToNearestEven.2.1 v (.fin n m e) hv rfl
      refine ⟨hsum, by rw [hsumrat, hrat]; simp, fun h0 => ?_⟩
      rw [hsumneg h0]
      constructor
      · rintro ⟨hvn, htn, hv0, ht0⟩ x hx
        rcases List.mem_append.1 hx with hx | hx
        · exact (hneg hv0).1 hvn x hx
        · rw [List.mem_singleton.1 hx]
          exact ⟨ht0, htn⟩
      · intro hall
        obtain ⟨ht0, htn⟩ := hall (.fin n m e) (by simp)
        have hts0 : ∀ x ∈ ts, x.rat = 0 ∧ x.isNeg = true := fun x hx => hall x (List.mem_append_left _ hx)
        have hv0 : v.rat = 0 := by rw [hsumrat, ht0, add_zero] at h0; exact h0
        exact ⟨(hneg hv0).2 hts0, htn, hv0, ht0⟩

theorem SumOf.foldl {ts : List FVal} {v : FVal} (h : SumOf ts v) (hts : ∀ x ∈ ts, x.isNaN = false) (rest : List FVal)
    (hrest : ∀ x ∈ rest, x.isNaN = false) : SumOf (ts ++ rest) (rest.foldl addX v) := by
  induction rest generalizing ts v with
  | nil => simpa using h
  | cons t rest ih =>
    rw [List.foldl_cons, List.append_cons]
    refine ih (h.snoc hts (hrest t List.mem_cons_self)) (fun x hx => ?_) fun x hx => hrest x (List.mem_cons_of_mem _ hx)
    rcases List.mem_append.1 hx with hx | hx
    · exact hts x hx
    · rw [List.mem_singleton.1 hx]
      exact hrest t List.mem_cons_self

theorem exactSum_of_nan (f : Fmt) {ts : List FVal} (h : ∃ v ∈ ts, v.isNaN = true) :
    exactSum f ts = (f.canonNaN, if ts.any FVal.signals then flNV else 0) := if_pos (List.any_eq_true.2 h)

/-- Without a NaN among its terms a sum is its exact value rounded once, 0 where there is none (R91). -/
theorem exactSum_of_not_nan (f : Fmt) {ts : List FVal} (h : ¬ ∃ v ∈ ts, v.isNaN = true) :
    ts = [] ∧ exactSum f ts = (0, 0) ∨ ts ≠ [] ∧ ∃ v, SumOf ts v ∧ exactSum f ts = rne f v := by
  have hts : ∀ x ∈ ts, x.isNaN = false := fun x hx => Bool.eq_false_iff.2 fun hn => h ⟨x, hx, hn⟩
  unfold exactSum
  rw [if_neg (mt List.any_eq_true.1 h)]
  cases ts with
  | nil => exact .inl ⟨rfl, rfl⟩
  | cons t rest =>
    have ht := hts t List.mem_cons_self
    exact .inr ⟨List.cons_ne_nil _ _, _, (SumOf.singleton t).foldl (by simpa using ht) rest fun x hx => hts x (List.mem_cons_of_mem _ hx), rfl⟩

/-- R91, in its order: NaN terms, infinities of both signs, infinities of one, and else the exact sum rounded once or a zero. -/
theorem exactSum_spec (f : Fmt) (ts : List FVal) :
    let some_ := fun p : FVal → Prop => ∃ v ∈ ts, p v
    (some_ (·.isNaN = true) → exactSum f ts = (f.canonNaN, if ts.any FVal.signals then flNV else 0)) ∧
    (¬ some_ (·.isNaN = true) →
      (some_ (· = .inf true) → some_ (· = .inf false) → exactSum f ts = (f.canonNaN, flNV)) ∧
      (∀ n, some_ (· = .inf n) → ¬ some_ (· = .inf !n) → exactSum f ts = rne f (.inf n)) ∧
      (¬ some_ (·.isFin = false) →
        ((ts.map FVal.rat).sum ≠ 0 → RoundsTo f (((ts.map FVal.rat).sum : ℚ) : ℝ) (exactSum f ts)) ∧
        ((ts.map FVal.rat).sum = 0 →
          exactSum f ts = (withSign f (decide (ts ≠ []) && ts.all fun v => v.rat == 0 && v.isNeg) 0, 0)))) := by
  refine ⟨exactSum_of_nan f, fun hnan => ?_⟩
  simp only [exists_eq_right]
  rcases exactSum_of_not_nan f hnan with ⟨rfl, hsum⟩ | ⟨hne, v, hv, hsum⟩
  · rw [hsum]
    simp [withSign]
  · rw [hsum]
    refine ⟨fun h1 h2 => ?_, fun n h1 h2 => ?_, fun hfin => ?_⟩
    · rw [hv.both h1 h2]
      rfl
    · rw [hv.one n h1 h2]
    · obtain ⟨hvfin, hrat, hneg⟩ := hv.fin fun t ht => by
        by_contra hf
        exact hfin ⟨t, ht, Bool.eq_false_iff.2 hf⟩
      rw [← hrat]
      refine ⟨fun h0 => rne_roundsTo hvfin h0, fun h0 => ?_⟩
      rw [rne_of_rat_eq_zero hvfin h0]
      have : v.isNeg = (decide (ts ≠ []) && ts.all fun v => v.rat == 0 && v.isNeg) := by
        rw [Bool.eq_iff_iff, hneg h0]
        simp [hne]
      rw [this]

/-! ## The pairing of FP64 (R92) -/

/-- The sum so far and a block's, combined in the order of R92. -/
def joinBlock (acc b : Option Nat × BitVec 5) : Option Nat × BitVec 5 :=
  match b.1, acc.1 with
  | none, a => (a, acc.2 ||| b.2)
  | some x, none => (some x, acc.2 ||| b.2)
  | some x, some a => (some (fadd .fp64 (unpack .fp64 a) (unpack .fp64 x)).1, acc.2 ||| b.2 ||| (fadd .fp64 (unpack .fp64 a) (unpack .fp64 x)).2)

theorem fp64SumOf_eq (t : List (Option Nat)) :
    fp64SumOf t = (List.range ((t.length + 255) / 256)).foldl (fun acc k => joinBlock acc (pairingAt t 8 (256 * k))) (none, 0) := rfl

/-- The tree over a block's positions is the pairing there. -/
theorem pairSum_eq_pairingAt (t : List (Option Nat)) (k s : Nat) : pairSum k ((t.drop s).take (2 ^ k)) = pairingAt t k s := by
  induction k generalizing s with
  | zero =>
    unfold pairSum pairingAt
    simp [List.head?_take, List.head?_drop]
  | succ k ih =>
    have hlo : ((t.drop s).take (2 ^ (k + 1))).take (2 ^ k) = (t.drop s).take (2 ^ k) := by
      rw [List.take_take, min_eq_left (Nat.pow_le_pow_right (by norm_num) (Nat.le_succ k))]
    have hhi : ((t.drop s).take (2 ^ (k + 1))).drop (2 ^ k) = (t.drop (s + 2 ^ k)).take (2 ^ k) := by
      rw [List.drop_take, List.drop_drop, Nat.pow_succ, Nat.mul_two, Nat.add_sub_cancel]
    unfold pairSum pairingAt
    rw [hlo, hhi, ih, ih]
    rfl

theorem blockSum_of_isEmpty (fuel : Nat) (l : List (Option Nat)) (acc : Option Nat) (fl : BitVec 5) (h : l.isEmpty = true) :
    blockSum fuel l acc fl = (acc, fl) := by
  cases fuel with
  | zero => rfl
  | succ fuel => exact if_pos h

theorem blockSum_succ (fuel : Nat) {l rest : List (Option Nat)} (acc : Option Nat × BitVec 5) {b : Option Nat × BitVec 5} (h : l.isEmpty = false)
    (hb : pairSum 8 (l.take 256) = b) (hrest : l.drop 256 = rest) :
    blockSum (fuel + 1) l acc.1 acc.2 = blockSum fuel rest (joinBlock acc b).1 (joinBlock acc b).2 := by
  refine (if_neg (by rw [h]; exact Bool.false_ne_true)).trans ?_
  rw [hb, hrest]
  obtain ⟨acc, fl⟩ := acc
  obtain ⟨_ | x, fb⟩ := b
  · rfl
  · cases acc <;> rfl

/-- The blocks from the j-th on. -/
theorem blockSum_eq_foldl (t : List (Option Nat)) (fuel j : Nat) (acc : Option Nat × BitVec 5) (h : (t.length + 255) / 256 - j ≤ fuel) :
    blockSum fuel (t.drop (256 * j)) acc.1 acc.2 =
      (List.range' j ((t.length + 255) / 256 - j)).foldl (fun acc k => joinBlock acc (pairingAt t 8 (256 * k))) acc := by
  induction fuel generalizing j acc with
  | zero =>
    rw [Nat.le_zero.1 h]
    rfl
  | succ fuel ih =>
    by_cases hempty : (t.drop (256 * j)).isEmpty = true
    · have hlen : t.length ≤ 256 * j := by simpa using hempty
      have hnone : (t.length + 255) / 256 - j = 0 := by omega
      rw [hnone, blockSum_of_isEmpty _ _ _ _ hempty]
      rfl
    · have hlen : 256 * j < t.length := by simpa using hempty
      obtain ⟨r, hr⟩ : ∃ r, (t.length + 255) / 256 - j = r + 1 := ⟨(t.length + 255) / 256 - j - 1, by omega⟩
      have hr' : (t.length + 255) / 256 - (j + 1) = r := by omega
      rw [blockSum_succ fuel acc (Bool.eq_false_iff.2 hempty) (pairSum_eq_pairingAt t 8 (256 * j)) (List.drop_drop ..), ← Nat.mul_succ,
        ih (j + 1) _ (by omega), hr, hr', List.range'_succ, List.foldl_cons]

theorem blockSum_eq_fp64SumOf (t : List (Option Nat)) : blockSum (t.length / 256 + 1) t none 0 = fp64SumOf t := by
  have h := blockSum_eq_foldl t (t.length / 256 + 1) 0 (none, 0) (by omega)
  rw [fp64SumOf_eq, List.range_eq_range']
  exact h

theorem fp64Sum_spec (t : List (Option Nat)) : fp64Sum t =
    match fp64SumOf t with
    | (none, fl) => (0, fl)
    | (some v, fl) =>
      if (unpack .fp64 v).isNaN then (Fmt.fp64.canonNaN, fl ||| if (unpack .fp64 v).signals then flNV else 0) else (v, fl) := by
  unfold fp64Sum
  dsimp only
  rw [blockSum_eq_fp64SumOf]
  rcases fp64SumOf t with ⟨_ | v, fl⟩ <;> rfl

/-! ## Signed elements -/

theorem emod_two_pow_of_sext (w v : Nat) : sext w v % (2 ^ w : Nat) = (v % 2 ^ w : Nat) := by
  unfold sext
  split
  · exact_mod_cast Nat.mod_mod v (2 ^ w)
  · rw [Int.sub_emod_right]
    exact_mod_cast Nat.mod_mod v (2 ^ w)

theorem wrap_sext (w v : Nat) : wrap w (sext w v) = v % 2 ^ w := by
  unfold wrap
  rw [emod_two_pow_of_sext]
  rfl

theorem sext_maxSigned {w : Nat} (hw : 0 < w) : sext w (2 ^ (w - 1) - 1) = -(-(2 : Int) ^ (w - 1)) - 1 := by
  obtain ⟨k, rfl⟩ : ∃ k, w = k + 1 := ⟨w - 1, by omega⟩
  have hpos : 0 < 2 ^ k := by positivity
  have hlt : 2 ^ k - 1 < 2 ^ (k + 1) := by rw [pow_succ]; omega
  unfold sext
  rw [Nat.add_sub_cancel, Nat.mod_eq_of_lt hlt, if_pos (by omega)]
  push_cast [hpos]
  ring

theorem sext_minSigned {w : Nat} (hw : 0 < w) : sext w (2 ^ (w - 1)) = -(2 : Int) ^ (w - 1) := by
  obtain ⟨k, rfl⟩ : ∃ k, w = k + 1 := ⟨w - 1, by omega⟩
  have hlt : 2 ^ k < 2 ^ (k + 1) := Nat.pow_lt_pow_right (by norm_num) (Nat.lt_succ_self k)
  unfold sext
  rw [Nat.add_sub_cancel, Nat.mod_eq_of_lt hlt, if_neg (lt_irrefl _)]
  push_cast
  ring

/-- The lesser of two elements by their signed values, the first where they are equal, has the lesser of the two values. -/
theorem sext_foldl_min (w : Nat) (l : List Nat) (x : Nat) :
    sext w (l.foldl (fun x y => if sext w y < sext w x then y else x) x) = (l.map (sext w)).foldl min (sext w x) := by
  rw [List.foldl_map]
  refine (List.foldl_hom (sext w) fun x y => ?_).symm
  split
  next h => exact min_eq_right h.le
  next h => exact min_eq_left (not_lt.1 h)

theorem sext_foldl_max (w : Nat) (l : List Nat) (x : Nat) :
    sext w (l.foldl (fun x y => if sext w x < sext w y then y else x) x) = (l.map (sext w)).foldl max (sext w x) := by
  rw [List.foldl_map]
  refine (List.foldl_hom (sext w) fun x y => ?_).symm
  split
  next h => exact max_eq_right h.le
  next h => exact max_eq_left (not_lt.1 h)

theorem foldl_add_mod (n : Nat) (l : List Nat) (x : Nat) : l.foldl (fun x y => (x + y) % n) x % n = (x + l.sum) % n := by
  induction l generalizing x with
  | nil => simp
  | cons y l ih => rw [List.foldl_cons, ih, List.sum_cons, Nat.mod_add_mod, Nat.add_assoc]

/-! ## The segments of a depth -/

theorem Arch.segmentsFit_of_le {a : Arch} {w c : Nat} (p : Nat) (h : c ≤ a.positions w) : a.segmentsFit w p c = .ok () :=
  if_neg (Nat.not_lt.2 h)

theorem Segments.segments_ok {s : State} {n : Nest} {p : Depth} {l : List (Nat × Nat)} (h : Segments s n p l) :
    ∃ ss, (s.arch s.cur).segments (s.rows s.cur) n p.val = .ok ss ∧ segPairs ss = l := by
  obtain ⟨hcheck, rfl⟩ := h
  refine ⟨_, ?_, rfl⟩
  unfold Arch.segments
  rw [hcheck]
  rfl

/-- The values of a segment's active elements, lowest first. -/
theorem segValues_filterMap (s : State) (m : Bool) (v w : Nat) (q : Nat × Nat) :
    ((s.arch s.cur).segValues (s.rows s.cur) v w m q.1 q.2).filterMap id = (s.actives m q.1 q.2).map fun k => s.el v w k := by
  unfold Arch.segValues State.actives
  rw [List.filterMap_map]
  exact filterMap_ite_some (s.on m) (fun k => s.el v w k) _

/-! ## Members that write one result for each segment -/

section
variable {s : State} {i : Instr} {d : VReg} {w : Nat} {l : List (Nat × Nat)} {g g' : Nat × Nat → Nat × BitVec 5}

/-- A result counts modulo 2^w. -/
theorem PerSegment.congr (h : PerSegment s i d w (l.map g)) (hval : ∀ q ∈ l, (g q).1 % 2 ^ w = (g' q).1 % 2 ^ w)
    (hfl : ∀ q ∈ l, (g q).2 = (g' q).2) : PerSegment s i d w (l.map g') := by
  obtain ⟨t, hexec, hret, hx, hnests, hsame, hholds⟩ := h
  refine ⟨t, hexec, ?_, hx, hnests, hsame, fun k hk => ?_⟩
  · rw [List.map_map] at hret ⊢
    rwa [← List.map_congr_left (g := Prod.snd ∘ g') hfl]
  · rw [hholds k hk, List.length_map, List.length_map]
    refine if_congr Iff.rfl ?_ rfl
    simp only [List.getElem?_map]
    rcases hq : l[k]? with _ | q
    · rfl
    · exact hval q (List.mem_of_getElem? hq)

/-- The member of instruction i reads the segments l and puts the result `g` of each in its place of the group at d. -/
structure SegmentMember (s : State) (i : Instr) (d : VReg) (w : Nat) (l : List (Nat × Nat)) (g : Nat × Nat → Nat × BitVec 5) : Prop where
  issue : ∃ m, memberOf i s = some m ∧ m.issue = .ok ()
  run : ∀ u m, SameRegs s u → memberOf i u = some m → m.writes = groupRegs u d ∧ m.deviceClass = false ∧
    m.groups = max 1 (m.writes.length * 4) ∧ ∃ f, m.run = wholeRun f ∧
    f u = .ok (u.putResults d.toNat w l.length (l.zipIdx.map fun q => (q.2, g q.1)))

theorem SegmentMember.perSegment (h : SegmentMember s i d w l g) (hready : VectorReady s)
    (hd : groupOk d.toNat (multOf (s.arch s.cur).vtype) = true) (hw : w ∣ 64) (hlen : l.length ≤ (s.arch s.cur).positions w)
    (hfree : s.Writable (groupRegs s d)) : PerSegment s i d w (l.map g) := by
  refine Completes.perSegment ⟨?_, fun u m hu hm => ?_, ?_⟩ hready hd hw hlen hfree
  · obtain ⟨m, hm, hok⟩ := h.issue
    exact ⟨m, hm, (h.run s m (.refl s) hm).1, hok⟩
  · obtain ⟨hwrites, hdev, hgroups, f, hrun, hf⟩ := h.run u m hu hm
    refine ⟨hwrites.trans (hu.groupRegs d), hdev, ?_⟩
    have hne : m.groups ≠ 0 := by
      rw [hgroups]
      exact (Nat.lt_of_lt_of_le Nat.one_pos (Nat.le_max_left _ _)).ne'
    rw [hrun]
    unfold wholeRun
    rw [if_neg hne, hf, State.putResults_zipIdx, hu.cur, hu.arch, hu.rows]
  · exact Arch.filled_regs ..

end

/-! ## VRED (R136) -/

section
variable {s : State} {i : Instr} {lo : Nat} {m : Bool} {p : Depth} {d a b : VReg} {k : NReg} {op : RedOp} {l : List (Nat × Nat)}

theorem redMember_segmentMember (h : ∀ u, memberOf i u = some (redMember u (wordOf i) lo op m p d a k)) (hlo : lo ≤ ewOf (s.arch s.cur).vtype)
    (hd : groupOk d.toNat (multOf (s.arch s.cur).vtype) = true) (ha : groupOk a.toNat (multOf (s.arch s.cur).vtype) = true)
    (hseg : Segments s (s.nest k) p l) (hlen : l.length ≤ (s.arch s.cur).positions (widthOf (s.arch s.cur).vtype)) :
    SegmentMember s i d (widthOf (s.arch s.cur).vtype) l fun q => reduceSeg op (fmtOf (s.arch s.cur).vtype) (widthOf (s.arch s.cur).vtype)
      ((s.arch s.cur).segValues (s.rows s.cur) a.toNat (widthOf (s.arch s.cur).vtype) m q.1 q.2) where
  issue := ⟨_, h s, issueCheck_of_true (by simp [hlo, hd, ha])⟩
  run u mb hu hmb := by
    obtain rfl := Option.some.inj ((h u).symm.trans hmb)
    refine ⟨rfl, rfl, rfl, fun s => s.reduceTo op m p d a k, rfl, ?_⟩
    obtain ⟨ss, hss, rfl⟩ := hseg.segments_ok
    unfold State.reduceTo State.reduceResults
    dsimp only
    rw [hu.cur, hu.arch, hu.rows, show (s.arch s.cur).nest k = s.nest k from rfl, hss]
    dsimp only [bind, Except.bind]
    rw [Arch.segmentsFit_of_le _ hlen]
    dsimp only [pure, Except.pure]
    rw [List.length_map, List.length_zipIdx]

/-- A reduction of VRED completes with any result that is the model's modulo 2^w (R136). -/
theorem red_perSegment {g : Nat × Nat → Nat × BitVec 5} (hready : VectorReady s) (hfree : s.Writable (groupRegs s d))
    (h : ∀ u, memberOf i u = some (redMember u (wordOf i) lo op m p d a k)) (hlo : lo ≤ ewOf (s.arch s.cur).vtype)
    (hd : groupOk d.toNat (multOf (s.arch s.cur).vtype) = true) (ha : groupOk a.toNat (multOf (s.arch s.cur).vtype) = true)
    (hseg : Segments s (s.nest k) p l) (hlen : l.length ≤ (s.arch s.cur).positions (widthOf (s.arch s.cur).vtype))
    (hg : ∀ q, ∃ v, reduceSeg op (fmtOf (s.arch s.cur).vtype) (widthOf (s.arch s.cur).vtype)
      ((s.arch s.cur).segValues (s.rows s.cur) a.toNat (widthOf (s.arch s.cur).vtype) m q.1 q.2) = (v, (g q).2) ∧
      v % 2 ^ widthOf (s.arch s.cur).vtype = (g q).1 % 2 ^ widthOf (s.arch s.cur).vtype) :
    PerSegment s i d (widthOf (s.arch s.cur).vtype) (l.map g) := by
  refine ((redMember_segmentMember h hlo hd ha hseg hlen).perSegment hready hd (widthOf_dvd hready.width) hlen hfree).congr (fun q _ => ?_)
    fun q _ => ?_
  all_goals
    obtain ⟨v, hv, hmod⟩ := hg q
    rw [hv]
  exact hmod

theorem reduceSeg_of_ne_fsum (hop : op ≠ .fsum) (f : Fmt) (w : Nat) (q : Nat × Nat) :
    reduceSeg op f w ((s.arch s.cur).segValues (s.rows s.cur) a.toNat w m q.1 q.2) =
      reduceVals op f w ((s.actives m q.1 q.2).map fun k => s.el a.toNat w k) := by
  rw [← segValues_filterMap]
  cases op
  case fsum => exact absurd rfl hop
  all_goals rfl

theorem reduceVals_min_emod {w : Nat} (hw : 0 < w) (f : Fmt) (vals : List Nat) : ∃ v, reduceVals .min f w vals = (v, 0) ∧
    v % 2 ^ w = wrap w ((vals.map (sext w)).foldl min (-(-(2 : Int) ^ (w - 1)) - 1)) % 2 ^ w := by
  refine ⟨_, rfl, ?_⟩
  rw [← sext_maxSigned hw, ← sext_foldl_min, wrap_sext, Nat.mod_mod]
  rfl

theorem reduceVals_max_emod {w : Nat} (hw : 0 < w) (f : Fmt) (vals : List Nat) : ∃ v, reduceVals .max f w vals = (v, 0) ∧
    v % 2 ^ w = wrap w ((vals.map (sext w)).foldl max (-(2 : Int) ^ (w - 1))) % 2 ^ w := by
  refine ⟨_, rfl, ?_⟩
  rw [← sext_minSigned hw, ← sext_foldl_max, wrap_sext, Nat.mod_mod]
  rfl

theorem reduceVals_sum_emod (f : Fmt) (w : Nat) (vals : List Nat) : ∃ v, reduceVals .sum f w vals = (v, 0) ∧ v % 2 ^ w = vals.sum % 2 ^ w :=
  ⟨_, rfl, (foldl_add_mod (2 ^ w) vals 0).trans (by rw [Nat.zero_add])⟩

/-- A floating sum of a segment: the pairing at FP64, and else the exact sum rounded once (R92). -/
theorem reduceSeg_fsum (f : Fmt) (w : Nat) (q : Nat × Nat) :
    reduceSeg .fsum f w ((s.arch s.cur).segValues (s.rows s.cur) a.toNat w m q.1 q.2) =
      if f = .fp64 then fp64Sum ((rangeList q.1 q.2).map fun k => if s.on m k then some (s.el a.toNat w k) else none)
      else exactSum f (((s.actives m q.1 q.2).map fun k => s.el a.toNat w k).map (unpack f)) := by
  rw [← segValues_filterMap, List.map_filterMap]
  rfl

/-! ## vbsum (R154) -/

theorem codeValue_isNaN (code scale : Nat) : (codeValue code scale).isNaN = true ↔ scale % 64 = 32 := by
  unfold codeValue
  dsimp only
  split
  next h => exact ⟨fun _ => h, fun _ => rfl⟩
  next h =>
    refine ⟨fun hnan => absurd hnan ?_, fun he => absurd he h⟩
    cases codeTypeOf scale
    case int => dsimp only; split <;> exact Bool.false_ne_true
    all_goals exact Bool.false_ne_true

theorem bsumTerm_eq (s : State) (a b : VReg) (k : Nat) : (s.arch s.cur).bsumTerm (s.rows s.cur) a b k =
    if b = 0 ∨ s.el 31 8 (k / 32) % 64 = 32 then codeValue (s.el a.toNat 4 k) (s.el 31 8 (k / 32))
    else mulX (codeValue (s.el a.toNat 4 k) (s.el 31 8 (k / 32))) (unpack .fp32 (s.el b.toNat 32 k)) :=
  if_congr (or_congr_right (codeValue_isNaN _ _)) rfl rfl

theorem codeGroupOk_of {v mult : Nat} (h : groupOk v mult = true) (hle : v + mult ≤ 31) : codeGroupOk v mult = true := by
  unfold codeGroupOk
  simp [h, hle]

theorem vbsum_segmentMember (hew : ewOf (s.arch s.cur).vtype = 3) (hd : codeGroupOk d.toNat (multOf (s.arch s.cur).vtype) = true)
    (ha : codeGroupOk a.toNat (multOf (s.arch s.cur).vtype) = true)
    (hb : b ≠ 0 → codeGroupOk b.toNat (multOf (s.arch s.cur).vtype) = true) (hseg : Segments s (s.nest 0) p l)
    (hlen : l.length ≤ (s.arch s.cur).positions 32) :
    SegmentMember s (.vbsum m p d a b) d 32 l fun q =>
      exactSum .fp32 ((s.actives m q.1 q.2).map fun k => (s.arch s.cur).bsumTerm (s.rows s.cur) a b k) where
  issue := by
    refine ⟨_, rfl, issueCheck_of_true ?_⟩
    by_cases hb0 : b = 0
    · simp [hew, hd, ha, hb0]
    · simp [hew, hd, ha, hb hb0]
  run u mb hu hmb := by
    obtain rfl : memberVbsum m p d a b u = mb := Option.some.inj hmb
    refine ⟨rfl, rfl, rfl, fun s => s.bsumTo m p d a b, rfl, ?_⟩
    obtain ⟨ss, hss, rfl⟩ := hseg.segments_ok
    unfold State.bsumTo State.bsumResults
    dsimp only
    rw [hu.cur, hu.arch, hu.rows, show (s.arch s.cur).nest 0 = s.nest 0 from rfl, hss]
    dsimp only [bind, Except.bind]
    rw [Arch.segmentsFit_of_le _ hlen]
    dsimp only [pure, Except.pure]
    rw [List.length_map, List.length_zipIdx]
    have hterms : ∀ q : Nat × Nat, ((rangeList q.1 q.2).filterMap fun i =>
        if (s.arch s.cur).active (s.rows s.cur) m i = true then some ((s.arch s.cur).bsumTerm (s.rows s.cur) a b i) else none) =
        (s.actives m q.1 q.2).map fun k => (s.arch s.cur).bsumTerm (s.rows s.cur) a b k := fun q => filterMap_ite_some (s.on m) _ _
    simp only [hterms]

end

/-! ## O34 -/

/-- Settles O34: a reduction is a whole member that puts one result at the place of each segment, and its results are the stated ones modulo 2^w;
an exact sum keeps what `SumOf` says term by term, and the tree over a block's positions is the pairing there. -/
theorem reductionsComplete : Obligations.ReductionsComplete := by
  unfold Obligations.ReductionsComplete
  intro s m p d a b n l
  dsimp only
  intro hready hd ha hfree
  have hw := widthOf_pos (s.arch s.cur).vtype
  refine ⟨fun hseg hlen => ⟨fun hlo => ⟨?_, ?_, ?_, ?_, ?_, ?_⟩, fun hlo => ⟨?_, ?_, ?_⟩⟩, fun hseg hlen hew hd' ha' hb => ?_, exactSum_spec,
    fp64Sum_spec⟩
  · refine red_perSegment (op := .sum) hready hfree (fun _ => rfl) hlo hd ha hseg hlen fun q => ?_
    rw [reduceSeg_of_ne_fsum (by decide)]
    exact reduceVals_sum_emod ..
  · refine red_perSegment (op := .min) hready hfree (fun _ => rfl) hlo hd ha hseg hlen fun q => ?_
    rw [reduceSeg_of_ne_fsum (by decide)]
    exact reduceVals_min_emod hw ..
  · refine red_perSegment (op := .max) hready hfree (fun _ => rfl) hlo hd ha hseg hlen fun q => ?_
    rw [reduceSeg_of_ne_fsum (by decide)]
    exact reduceVals_max_emod hw ..
  · exact red_perSegment (op := .and) hready hfree (fun _ => rfl) hlo hd ha hseg hlen fun q => ⟨_, reduceSeg_of_ne_fsum (by decide) .., rfl⟩
  · exact red_perSegment (op := .or) hready hfree (fun _ => rfl) hlo hd ha hseg hlen fun q => ⟨_, reduceSeg_of_ne_fsum (by decide) .., rfl⟩
  · exact red_perSegment (op := .xor) hready hfree (fun _ => rfl) hlo hd ha hseg hlen fun q => ⟨_, reduceSeg_of_ne_fsum (by decide) .., rfl⟩
  · exact red_perSegment (op := .fsum) hready hfree (fun _ => rfl) hlo hd ha hseg hlen fun q => ⟨_, reduceSeg_fsum .., rfl⟩
  · exact red_perSegment (op := .fmin) hready hfree (fun _ => rfl) hlo hd ha hseg hlen fun q => ⟨_, reduceSeg_of_ne_fsum (by decide) .., rfl⟩
  · exact red_perSegment (op := .fmax) hready hfree (fun _ => rfl) hlo hd ha hseg hlen fun q => ⟨_, reduceSeg_of_ne_fsum (by decide) .., rfl⟩
  · have h := (vbsum_segmentMember (m := m) (b := b) hew (codeGroupOk_of hd hd') (codeGroupOk_of ha ha')
      (fun hb0 => codeGroupOk_of (hb hb0).1 (hb hb0).2) hseg hlen).perSegment hready hd (by norm_num) hlen hfree
    simpa only [bsumTerm_eq] using h

end Sys2Proof.Machine
end

section
/-! PROOFS. Reductions with a position (spec/06_nested_vectors.md R137, spec/03_number_formats.md R72, R95): the extreme element of a list and its
first place, the two destinations, and O35. -/

namespace Sys2Proof.Machine

/-! ## The order of R72 -/

/-- Where a number lies in the order of R72: the zeros apart, -0 first. -/
noncomputable def FVal.place (v : FVal) : EReal ×ₗ Bool := toLex (v.level, !v.isNeg)

theorem ltMin_iff_place_lt {a b : FVal} (ha : a.isNaN = false) (hb : b.isNaN = false) : ltMin a b = true ↔ a.place < b.place := by
  unfold ltMin FVal.place
  rw [cmpX_eq_compare ha hb, Prod.Lex.toLex_lt_toLex]
  dsimp only
  rcases lt_trichotomy a.level b.level with h | h | h
  · rw [compare_lt_iff_lt.2 h]
    exact iff_of_true rfl (.inl h)
  · rw [compare_eq_iff_eq.2 h]
    cases a.isNeg <;> cases b.isNeg <;> simp [h]
  · rw [compare_gt_iff_gt.2 h]
    exact iff_of_false Bool.false_ne_true (by simp [h.not_gt, h.ne'])

theorem FVal.signals_of_isNaN {v : FVal} (h : v.isNaN = false) : v.signals = false := by
  cases v with
  | nan _ => cases h
  | inf _ => rfl
  | fin _ _ _ => rfl

/-! ## The first place of the least (R95) -/

/-- k is the first of the places ks at which κ is least. -/
structure FirstLeast {α : Type} [LinearOrder α] (κ : Nat → α) (ks : List Nat) (k : Nat) : Prop where
  mem : k ∈ ks
  least : ∀ j ∈ ks, κ k ≤ κ j
  first : ∀ j ∈ ks, j < k → κ k < κ j

section
variable {α : Type} [LinearOrder α] {κ : Nat → α}

theorem FirstLeast.snoc {ks : List Nat} {k n : Nat} (h : FirstLeast κ ks k) (hn : ∀ j ∈ ks, j < n) :
    FirstLeast κ (ks ++ [n]) (if κ n < κ k then n else k) := by
  by_cases hlt : κ n < κ k
  · rw [if_pos hlt]
    refine ⟨by simp, fun j hj => ?_, fun j hj hjn => ?_⟩
    · rcases List.mem_append.1 hj with hj | hj
      · exact hlt.le.trans (h.least j hj)
      · rw [List.mem_singleton.1 hj]
    · rcases List.mem_append.1 hj with hj | hj
      · exact hlt.trans_le (h.least j hj)
      · exact absurd (List.mem_singleton.1 hj) hjn.ne
  · rw [if_neg hlt]
    refine ⟨List.mem_append_left _ h.mem, fun j hj => ?_, fun j hj hjk => ?_⟩
    · rcases List.mem_append.1 hj with hj | hj
      · exact h.least j hj
      · rw [List.mem_singleton.1 hj]
        exact not_lt.1 hlt
    · rcases List.mem_append.1 hj with hj | hj
      · exact h.first j hj hjk
      · rw [List.mem_singleton.1 hj] at hjk
        exact absurd (hn k h.mem) hjk.not_gt

/-- Folding over later places keeps the first least one, where each step takes the new place only if it is less. -/
theorem FirstLeast.foldl {B : Nat → Nat} {step : Nat × Nat → Nat × Nat → Nat × Nat} (rest : List Nat) {ks : List Nat} {k : Nat}
    (h : FirstLeast κ ks k) (hsorted : (ks ++ rest).Pairwise (· < ·))
    (hstep : ∀ j ∈ ks ++ rest, ∀ n ∈ rest, step (B j, j) (B n, n) = if κ n < κ j then (B n, n) else (B j, j)) :
    ∃ k', FirstLeast κ (ks ++ rest) k' ∧ (rest.map fun n => (B n, n)).foldl step (B k, k) = (B k', k') := by
  induction rest generalizing ks k with
  | nil => exact ⟨k, by rwa [List.append_nil], rfl⟩
  | cons n rest ih =>
    have hn : ∀ j ∈ ks, j < n := fun j hj => (List.pairwise_append.1 hsorted).2.2 j hj n List.mem_cons_self
    rw [List.append_cons] at hsorted hstep ⊢
    rw [List.map_cons, List.foldl_cons, hstep k (by simp [h.mem]) n List.mem_cons_self, ← apply_ite fun n => (B n, n)]
    exact ih (h.snoc hn) hsorted fun j hj n hn => hstep j hj n (List.mem_cons_of_mem _ hn)

end

/-! ## What a segment's active elements give (R95) -/

/-- The active places of a list of positions, with their values. -/
def indexedActives (l : List (Option Nat)) : List (Nat × Nat) := l.zipIdx.filterMap fun q => q.1.map fun v => (v, q.2)

section
variable {f : Fmt} {w : Nat} {l : List (Option Nat)} {B : Nat → Nat} {ks : List Nat}

theorem indexedSeg_of_empty (fp : Bool) (hl : indexedActives l = []) :
    indexedSeg fp f w l = (identOf (if fp then .fmax else .min) f w, 0xFFFF_FFFF, 0) := by
  unfold indexedSeg
  dsimp only
  rw [show (l.zipIdx.filterMap fun q => q.1.map fun v => (v, q.2)) = [] from hl]

variable (hne : ks ≠ []) (hsorted : ks.Pairwise (· < ·))
include hne hsorted

/-- The fold over the places after the first keeps the first least place. -/
theorem firstLeast_of_places {α : Type} [LinearOrder α] {κ : Nat → α} {step : Nat × Nat → Nat × Nat → Nat × Nat}
    (hstep : ∀ j ∈ ks, ∀ n ∈ ks, step (B j, j) (B n, n) = if κ n < κ j then (B n, n) else (B j, j)) :
    ∃ k0 rest k, ks = k0 :: rest ∧ FirstLeast κ ks k ∧ (rest.map fun n => (B n, n)).foldl step (B k0, k0) = (B k, k) := by
  obtain ⟨k0, rest, rfl⟩ := List.exists_cons_of_ne_nil hne
  have h0 : FirstLeast κ [k0] k0 := by
    refine ⟨List.mem_singleton_self _, fun j hj => ?_, fun j hj hlt => ?_⟩
    · rw [List.mem_singleton.1 hj]
    · exact absurd (List.mem_singleton.1 hj) hlt.ne
  obtain ⟨k, hk, hfold⟩ := h0.foldl rest hsorted fun j hj n hn => hstep j hj n (List.mem_cons_of_mem _ hn)
  exact ⟨k0, rest, k, rfl, hk, hfold⟩

variable (hl : indexedActives l = ks.map fun k => (B k, k))
include hl

theorem indexedSeg_min : ∃ k, FirstLeast (fun k => sext w (B k)) ks k ∧ indexedSeg false f w l = (B k, k, 0) := by
  obtain ⟨k0, rest, k, rfl, hk, hfold⟩ := firstLeast_of_places hne hsorted (κ := fun k => sext w (B k))
    (step := fun b q => if sext w q.1 < sext w b.1 then q else b) fun _ _ _ _ => rfl
  refine ⟨k, hk, ?_⟩
  unfold indexedSeg
  dsimp only
  rw [show (l.zipIdx.filterMap fun q => q.1.map fun v => (v, q.2)) = _ from hl, List.map_cons]
  dsimp only
  rw [if_neg Bool.false_ne_true, hfold]

theorem indexedSeg_max (hnan : ∀ k ∈ ks, (unpack f (B k)).isNaN = false) :
    ∃ k, FirstLeast (fun k => OrderDual.toDual (unpack f (B k)).place) ks k ∧ indexedSeg true f w l = (B k, k, 0) := by
  obtain ⟨k0, rest, k, rfl, hk, hfold⟩ := firstLeast_of_places hne hsorted (κ := fun k => OrderDual.toDual (unpack f (B k)).place)
    (step := fun b q => if ltMin (unpack f b.1) (unpack f q.1) then q else b) fun j hj n hn =>
      if_congr (ltMin_iff_place_lt (hnan j hj) (hnan n hn)) rfl rfl
  have hfind : ((k0 :: rest).map fun k => (B k, k)).find? (fun q => (unpack f q.1).isNaN) = none := by
    rw [List.find?_eq_none]
    intro q hq
    obtain ⟨n, hn, rfl⟩ := List.mem_map.1 hq
    exact Bool.eq_false_iff.1 (hnan n hn)
  refine ⟨k, hk, ?_⟩
  unfold indexedSeg
  dsimp only
  rw [show (l.zipIdx.filterMap fun q => q.1.map fun v => (v, q.2)) = _ from hl]
  rw [List.map_cons] at hfind ⊢
  dsimp only
  rw [if_pos rfl, hfind]
  dsimp only
  rw [hfold]

omit hne in
theorem indexedSeg_nan (hnan : ∃ k ∈ ks, (unpack f (B k)).isNaN = true) :
    ∃ k ∈ ks, (unpack f (B k)).isNaN = true ∧ (∀ j ∈ ks, j < k → (unpack f (B j)).isNaN = false) ∧
      indexedSeg true f w l = (f.canonNaN, k, if ks.any fun k => (unpack f (B k)).signals then flNV else 0) := by
  obtain ⟨k, hfind⟩ := Option.isSome_iff_exists.1 (List.find?_isSome.2 hnan)
  obtain ⟨hk, before, after, rfl, hbefore⟩ := List.find?_eq_some_iff_append.1 hfind
  refine ⟨k, by simp, hk, fun j hj hlt => ?_, ?_⟩
  · rcases List.mem_append.1 hj with hj | hj
    · simpa using hbefore j hj
    · have hle : k ≤ j := by
        rcases List.mem_cons.1 hj with rfl | hj
        · exact le_rfl
        · exact ((List.pairwise_cons.1 (List.pairwise_append.1 hsorted).2.1).1 j hj).le
      exact absurd hlt hle.not_gt
  · have hne : before ++ k :: after ≠ [] := by simp
    obtain ⟨k0, rest, hks⟩ := List.exists_cons_of_ne_nil hne
    rw [hks] at hl hfind ⊢
    have hfind' : ((k0 :: rest).map fun k => (B k, k)).find? (fun q => (unpack f q.1).isNaN) = some (B k, k) := by
      rw [List.find?_map]
      exact congrArg (Option.map fun k => (B k, k)) hfind
    have hany : ((k0 :: rest).map fun k => (B k, k)).any (fun q => (unpack f q.1).signals) = (k0 :: rest).any fun k => (unpack f (B k)).signals :=
      List.any_map
    unfold indexedSeg
    dsimp only
    rw [show (l.zipIdx.filterMap fun q => q.1.map fun v => (v, q.2)) = _ from hl]
    rw [← hany]
    rw [List.map_cons] at hfind' ⊢
    dsimp only
    rw [if_pos rfl, hfind']

end

/-! ## The places of a segment -/

/-- The places of a segment's active elements, counted from its first element. -/
def State.places (s : State) (m : Bool) (q : Nat × Nat) : List Nat := (List.range (q.2 - q.1)).filter fun k => s.on m (q.1 + k)

section
variable (s : State) (m : Bool) (q : Nat × Nat)

theorem State.places_pairwise : (s.places m q).Pairwise (· < ·) := List.pairwise_lt_range.filter _

theorem State.actives_eq_places : s.actives m q.1 q.2 = (s.places m q).map fun k => q.1 + k := by
  unfold State.actives State.places rangeList
  rw [List.filter_map]
  rfl

theorem State.mem_actives_iff_places {k : Nat} : q.1 + k ∈ s.actives m q.1 q.2 ↔ k ∈ s.places m q := by
  rw [State.actives_eq_places, List.mem_map]
  exact ⟨fun ⟨j, hj, h⟩ => Nat.add_left_cancel h ▸ hj, fun h => ⟨k, h, rfl⟩⟩

theorem State.forall_actives_iff_places {P : Nat → Prop} : (∀ j ∈ s.actives m q.1 q.2, P j) ↔ ∀ k ∈ s.places m q, P (q.1 + k) := by
  rw [State.actives_eq_places, List.forall_mem_map]

theorem State.exists_actives_iff_places {P : Nat → Prop} : (∃ j ∈ s.actives m q.1 q.2, P j) ↔ ∃ k ∈ s.places m q, P (q.1 + k) := by
  rw [State.actives_eq_places]
  simp only [List.mem_map, exists_exists_and_eq_and]

theorem State.lt_of_mem_places {k : Nat} (h : k ∈ s.places m q) : q.1 + k < q.2 := by
  have := List.mem_range.1 (List.mem_of_mem_filter h)
  omega

theorem indexedActives_segValues (v w : Nat) : indexedActives ((s.arch s.cur).segValues (s.rows s.cur) v w m q.1 q.2) =
    (s.places m q).map fun k => (s.el v w (q.1 + k), k) := by
  unfold indexedActives Arch.segValues State.places rangeList
  have hzip : (List.range (q.2 - q.1)).zipIdx = (List.range (q.2 - q.1)).map fun k => (k, k) :=
    List.ext_getElem (by simp) fun k h1 h2 => by simp
  rw [List.map_map, List.zipIdx_map, List.filterMap_map, ← filterMap_ite_some, hzip, List.filterMap_map]
  refine List.filterMap_congr fun k _ => ?_
  change (if s.on m (q.1 + k) = true then some (s.el v w (q.1 + k)) else none).map _ = _
  split <;> rfl

end

/-! ## Bounds on segments -/

theorem segPairs_length (ss : List Nat) : (segPairs ss).length = ss.length - 1 := by
  unfold segPairs
  rw [List.length_zip, List.length_tail]
  omega

theorem Arch.segs_length (a : Arch) (rows : Nat) (n : Nest) {p : Nat} (hp : p ≠ 0) : (a.segs rows n p).length = n.count p + 1 := by
  have hfold : ∀ (levels : List Nat) (ss : List Nat), (levels.foldl (fun s l => s.map fun k => a.off rows n l k) ss).length = ss.length := by
    intro levels
    induction levels with
    | nil => exact fun _ => rfl
    | cons l levels ih => exact fun ss => (ih _).trans (List.length_map _)
  unfold Arch.segs
  rw [if_neg hp]
  dsimp only
  rw [hfold, List.length_map, List.length_range]

/-- A boundary of a segment is an offset of 32 bits. -/
theorem Arch.segs_lt {a : Arch} {rows : Nat} {n : Nest} {p : Nat} (hp : p ≠ 0) {k : Nat} (hk : k ∈ a.segs rows n p) : k < 2 ^ 32 := by
  have hfold : ∀ (levels : List Nat) (ss : List Nat), (∀ k ∈ ss, k < 2 ^ 32) →
      ∀ k ∈ levels.foldl (fun s l => s.map fun k => a.off rows n l k) ss, k < 2 ^ 32 := by
    intro levels
    induction levels with
    | nil => exact fun _ h => h
    | cons l levels ih => exact fun ss _ => ih _ (List.forall_mem_map.2 fun _ _ => Arch.elem_lt ..)
  unfold Arch.segs at hk
  rw [if_neg hp] at hk
  exact hfold _ _ (List.forall_mem_map.2 fun _ _ => Arch.elem_lt ..) k hk

/-- A level that passes its checks has room for its entries in one register (R129). -/
theorem Arch.count_lt_of_checkDepth {a : Arch} {rows : Nat} {n : Nest} {p : Nat} (hp : p ≠ 0) (h : a.checkDepth rows n p = .ok ()) :
    n.count p + 1 ≤ 64 * rows := by
  unfold Arch.checkDepth at h
  rw [if_neg hp] at h
  split at h
  · cases h
  next hD =>
    have hmem : p ∈ levelsDown p n.d.val := by
      unfold levelsDown
      rw [List.mem_reverse, mem_rangeList]
      omega
    unfold Arch.checkLevels at h
    dsimp only at h
    split at h
    · cases h
    · split at h
      · cases h
      next hnone =>
        have := List.find?_eq_none.1 hnone p (List.mem_append_right _ hmem)
        simpa using this

section
variable {s : State} {n : Nest} {p : Depth} {l : List (Nat × Nat)} (h : Segments s n p l)
include h

theorem Segments.length_le (hrows : 0 < s.rows s.cur) : l.length ≤ 64 * s.rows s.cur := by
  obtain ⟨hcheck, rfl⟩ := h
  rw [segPairs_length]
  by_cases hp : p.val = 0
  · unfold Arch.segs
    rw [if_pos hp]
    simp only [List.length_cons, List.length_nil]
    omega
  · rw [Arch.segs_length _ _ _ hp]
    have := Arch.count_lt_of_checkDepth hp hcheck
    omega

theorem Segments.end_lt (hvl : (s.arch s.cur).vl < 2 ^ 32) {q : Nat × Nat} (hq : q ∈ l) : q.2 < 2 ^ 32 := by
  obtain ⟨-, rfl⟩ := h
  unfold segPairs at hq
  have hmem := List.mem_of_mem_tail (List.of_mem_zip hq).2
  by_cases hp : p.val = 0
  · unfold Arch.segs at hmem
    rw [if_pos hp, List.mem_cons, List.mem_singleton] at hmem
    rcases hmem with h0 | hvl'
    · rw [h0]; norm_num
    · rwa [hvl']
  · exact Arch.segs_lt hp hmem

end

/-! ## Two destinations (R137) -/

section
variable (u : State) (a b : Arch) (fl fl' : BitVec 5)

@[simp] theorem State.cur_ran : (u.ran a fl).cur = u.cur := by rw [State.ran_eq]; rfl

@[simp] theorem State.arch_ran : (u.ran a fl).arch u.cur = a := by
  rw [State.ran_eq]
  unfold State.arch
  rw [State.thr_setThr_same]

@[simp] theorem State.rows_ran : (u.ran a fl).rows u.cur = u.rows u.cur := by
  rw [State.ran_eq]
  unfold State.rows
  rw [State.thr_setThr_same]
  rfl

theorem State.ran_ran : (u.ran a fl).ran b fl' = u.ran b (fl ||| fl') := by
  rw [State.ran_eq _ b, State.cur_ran, State.ran_eq, State.thr_setThr_same, State.setThr_setThr, State.ran_eq]
  dsimp only
  rw [BitVec.or_assoc]

end

theorem orFlags_zeros {α : Type} (l : List α) : orFlags (l.map fun _ => 0) = 0 := by
  rw [orFlags_eq_foldr]
  induction l with
  | nil => rfl
  | cons q l ih => rw [List.map_cons, List.foldr_cons, ih]; rfl

theorem VectorRetires.el_eq {s t : State} {i : Instr} {regs : List Nat} {fl : BitVec 5} (h : VectorRetires s t i regs fl) (v w k : Nat) :
    t.el v w k = (t.arch s.cur).elem (s.rows s.cur) v w k := by
  have hcur : t.cur = s.cur := by rw [h.package]
  have hrows : t.rows s.cur = s.rows s.cur := by
    have hhart : t.hrt (hartOf s.cur) = s.hrt (hartOf s.cur) := by rw [h.package]; rfl
    unfold State.rows
    rw [h.thread, hhart]
  unfold State.el
  rw [hcur, hrows]

/-- The registers after one result for each segment has been put in its place of vd, and one of 32 bits in its place of the next register. -/
def Arch.filledTwice (a : Arch) (rows d w : Nat) (l : List (Nat × Nat)) (g : Nat × Nat → Nat × Nat × BitVec 5) : Arch :=
  (a.filled rows d w l.length fun k => (l[k]?).map fun q => ((g q).1, (g q).2.2)).filled rows (d + 1) 32 l.length
    fun k => (l[k]?).map fun q => ((g q).2.1, 0)

theorem State.putResults_twice (u : State) (d w : Nat) (l : List (Nat × Nat)) (g : Nat × Nat → Nat × Nat × BitVec 5) :
    (u.putResults d w l.length (l.zipIdx.map fun q => (q.2, (g q.1).1, (g q.1).2.2))).putResults (d + 1) 32 l.length
        (l.zipIdx.map fun q => (q.2, (g q.1).2.1, 0)) =
      u.ran ((u.arch u.cur).filledTwice (u.rows u.cur) d w l g) (orFlags (l.map fun q => (g q).2.2)) := by
  rw [State.putResults_zipIdx u d w l fun q => ((g q).1, (g q).2.2), State.putResults_zipIdx _ (d + 1) 32 l fun q => ((g q).2.1, 0)]
  rw [State.ran_ran, State.cur_ran, State.arch_ran, State.rows_ran]
  dsimp only
  have hor : ∀ x : BitVec 5, x ||| 0 = x := fun _ => BitVec.or_zero
  rw [orFlags_zeros, hor]
  rfl

section
variable {a : Arch} {rows d w : Nat} {l : List (Nat × Nat)} {g : Nat × Nat → Nat × Nat × BitVec 5}

theorem Arch.filledTwice_regs (a : Arch) (rows d w : Nat) (l : List (Nat × Nat)) (g : Nat × Nat → Nat × Nat × BitVec 5) :
    a.filledTwice rows d w l g = { a with v := (a.filledTwice rows d w l g).v } := by
  have hfirst := a.filled_frame rows d w l.length fun k => (l[k]?).map fun q => ((g q).1, (g q).2.2)
  unfold Arch.filledTwice
  generalize (a.filled rows d w l.length fun k => (l[k]?).map fun q => ((g q).1, (g q).2.2)) = b at hfirst ⊢
  have hnext := b.filled_frame rows (d + 1) 32 l.length fun k => (l[k]?).map fun q => ((g q).2.1, 0)
  generalize (b.filled rows (d + 1) 32 l.length fun k => (l[k]?).map fun q => ((g q).2.1, 0)) = c at hnext ⊢
  rw [hnext, hfirst]

variable (hfit : GroupFits rows d w 1) (hfit' : GroupFits rows (d + 1) 32 1) (hpos : a.positions w = 1 * regBits rows / w)
  (hpos' : a.positions 32 = 1 * regBits rows / 32) (hlen : l.length ≤ a.positions w) (hlen' : l.length ≤ a.positions 32)
include hpos hpos' hlen hlen'

theorem Arch.filledTwice_vreg {r : Nat} (hr : r ∉ [d, d + 1]) : (a.filledTwice rows d w l g).vreg r = a.vreg r := by
  rw [hpos] at hlen
  rw [hpos'] at hlen'
  rw [List.mem_cons, List.mem_singleton, not_or] at hr
  unfold Arch.filledTwice
  rw [Arch.filled_vreg (n := 1) _ (by rw [Arch.filled_frame]; exact hpos') hlen' (by rw [mem_regsFrom]; omega),
    Arch.filled_vreg (n := 1) _ hpos hlen (by rw [mem_regsFrom]; omega)]

include hfit in
theorem Arch.filledTwice_elem {k : Nat} (hk : k < a.positions w) : (a.filledTwice rows d w l g).elem rows d w k =
    if k < l.length then (((l[k]?).map fun q => (g q).1 % 2 ^ w).getD (a.elem rows d w k)) else if tailZero a.vtype then 0 else a.elem rows d w k := by
  rw [hpos] at hlen hk
  rw [hpos'] at hlen'
  have hreg := reg_lt_of_lt hk
  unfold Arch.filledTwice
  rw [Arch.elem_congr (a := a.filled rows d w l.length fun k => (l[k]?).map fun q => ((g q).1, (g q).2.2)), Arch.filled_elem _ hpos hlen hfit hk,
    Option.map_map]
  · rfl
  · refine Arch.filled_vreg (n := 1) _ (by rw [Arch.filled_frame]; exact hpos') hlen' ?_
    rw [mem_regsFrom]
    omega

include hfit' in
theorem Arch.filledTwice_elem_next {k : Nat} (hk : k < a.positions 32) : (a.filledTwice rows d w l g).elem rows (d + 1) 32 k =
    if k < l.length then (((l[k]?).map fun q => (g q).2.1 % 2 ^ 32).getD (a.elem rows (d + 1) 32 k))
    else if tailZero a.vtype then 0 else a.elem rows (d + 1) 32 k := by
  rw [hpos] at hlen
  rw [hpos'] at hlen' hk
  have hreg := reg_lt_of_lt hk
  have hold : (a.filled rows d w l.length fun k => (l[k]?).map fun q => ((g q).1, (g q).2.2)).elem rows (d + 1) 32 k = a.elem rows (d + 1) 32 k := by
    refine Arch.elem_congr _ _ _ _ (Arch.filled_vreg (n := 1) _ hpos hlen fun hmem => ?_)
    exact absurd (mem_regsFrom.1 hmem).2 (Nat.not_lt.2 (Nat.le_add_right _ _))
  unfold Arch.filledTwice
  rw [Arch.filled_elem _ (by rw [Arch.filled_frame]; exact hpos') hlen' hfit' hk, hold, Option.map_map, Arch.filled_frame]
  rfl

end

section
variable {s : State} {i : Instr} {lo : Nat} {fp m : Bool} {p : Depth} {h : BitVec 4} {a : VReg} {n : NReg} {l : List (Nat × Nat)}

/-- What a segment's elements give a reduction with a position (R95). -/
def State.indexedOf (s : State) (fp m : Bool) (a : VReg) (q : Nat × Nat) : Nat × Nat × BitVec 5 :=
  indexedSeg fp (fmtOf (s.arch s.cur).vtype) (widthOf (s.arch s.cur).vtype)
    ((s.arch s.cur).segValues (s.rows s.cur) a.toNat (widthOf (s.arch s.cur).vtype) m q.1 q.2)

theorem indexMember_completes (hmember : ∀ u, memberOf i u = some (indexMember u (wordOf i) lo fp m p h a n))
    (hlo : lo ≤ ewOf (s.arch s.cur).vtype) (hmult : multOf (s.arch s.cur).vtype = 1) (hseg : Segments s (s.nest n) p l)
    (hlen : l.length ≤ (s.arch s.cur).positions (widthOf (s.arch s.cur).vtype)) :
    Completes s i [2 * h.toNat, 2 * h.toNat + 1]
      ((s.arch s.cur).filledTwice (s.rows s.cur) (2 * h.toNat) (widthOf (s.arch s.cur).vtype) l (s.indexedOf fp m a))
      (orFlags (l.map fun q => (s.indexedOf fp m a q).2.2)) := by
  refine Completes.of_whole (g := fun _ s => s.reduceIndexed fp m p h a n) ⟨_, hmember s, issueCheck_of_true (by simp [hlo, hmult])⟩
    (fun u mb hu hmb => ?_) ?_
  · obtain rfl := Option.some.inj ((hmember u).symm.trans hmb)
    refine ⟨by rw [Nat.mul_comm]; rfl, rfl, rfl, rfl, ?_⟩
    obtain ⟨ss, hss, rfl⟩ := hseg.segments_ok
    unfold State.reduceIndexed State.indexResults
    dsimp only
    rw [hu.cur, hu.arch, hu.rows, show (s.arch s.cur).nest n = s.nest n from rfl, hss]
    dsimp only [bind, Except.bind]
    rw [Arch.segmentsFit_of_le _ hlen]
    dsimp only [pure, Except.pure]
    rw [List.length_map, List.length_zipIdx, List.map_map, List.map_map, Nat.mul_comm]
    have hput := u.putResults_twice (2 * h.toNat) (widthOf (s.arch s.cur).vtype) (segPairs ss) (s.indexedOf fp m a)
    rw [hu.cur, hu.arch, hu.rows] at hput
    exact congrArg Except.ok hput
  · rw [show ((s.arch s.cur).filledTwice (s.rows s.cur) (2 * h.toNat) (widthOf (s.arch s.cur).vtype) l (s.indexedOf fp m a)).x = (s.arch s.cur).x by
        rw [Arch.filledTwice_regs],
      show ((s.arch s.cur).filledTwice (s.rows s.cur) (2 * h.toNat) (widthOf (s.arch s.cur).vtype) l (s.indexedOf fp m a)).nests =
        (s.arch s.cur).nests by rw [Arch.filledTwice_regs]]
    exact Arch.filledTwice_regs ..

/-- An instruction that leaves a value and a position for each segment completes (R135, R137). -/
theorem indexMember_writes (hmember : ∀ u, memberOf i u = some (indexMember u (wordOf i) lo fp m p h a n)) (hready : VectorReady s)
    (hlo : lo ≤ ewOf (s.arch s.cur).vtype) (hmult : multOf (s.arch s.cur).vtype = 1) (hseg : Segments s (s.nest n) p l)
    (hlen : l.length ≤ (s.arch s.cur).positions (widthOf (s.arch s.cur).vtype)) (hfree : s.Writable [2 * h.toNat, 2 * h.toNat + 1]) :
    ∃ t, exec i s = .next t ∧ VectorRetires s t i [2 * h.toNat, 2 * h.toNat + 1] (orFlags (l.map fun q => (s.indexedOf fp m a q).2.2)) ∧
      (t.arch s.cur).x = (s.arch s.cur).x ∧ (t.arch s.cur).nests = (s.arch s.cur).nests ∧ SameVregs s t [2 * h.toNat, 2 * h.toNat + 1] ∧
      (∀ k q, l[k]? = some q →
        t.el (2 * h.toNat) (widthOf (s.arch s.cur).vtype) k = (s.indexedOf fp m a q).1 % 2 ^ widthOf (s.arch s.cur).vtype ∧
        t.el (2 * h.toNat + 1) 32 k = (s.indexedOf fp m a q).2.1 % 2 ^ 32) ∧
      (∀ k, l.length ≤ k → k < (s.arch s.cur).positions (widthOf (s.arch s.cur).vtype) →
        t.el (2 * h.toNat) (widthOf (s.arch s.cur).vtype) k =
          if (s.arch s.cur).vtype.getLsbD 5 then 0 else s.el (2 * h.toNat) (widthOf (s.arch s.cur).vtype) k) ∧
      (∀ k, l.length ≤ k → k < (s.arch s.cur).positions 32 →
        t.el (2 * h.toNat + 1) 32 k = if (s.arch s.cur).vtype.getLsbD 5 then 0 else s.el (2 * h.toNat + 1) 32 k) := by
  obtain ⟨t, hexec, hret, hx, hv, hnests⟩ := (indexMember_completes (a := a) (m := m) hmember hlo hmult hseg hlen).retires hready hfree
  have hpos := hready.positions_eq (widthOf (s.arch s.cur).vtype)
  have hpos' := hready.positions_eq 32
  rw [hmult] at hpos hpos'
  have hlt := h.isLt
  have hfit : GroupFits (s.rows s.cur) (2 * h.toNat) (widthOf (s.arch s.cur).vtype) 1 :=
    ⟨s.rows_le s.cur, dvd_regBits (widthOf_dvd hready.width) _, by omega⟩
  have hfit' : GroupFits (s.rows s.cur) (2 * h.toNat + 1) 32 1 := ⟨s.rows_le s.cur, dvd_regBits (by norm_num) _, by omega⟩
  have hlen' : l.length ≤ (s.arch s.cur).positions 32 := by
    rcases Nat.eq_zero_or_pos l.length with h0 | h0
    · omega
    · have hrows := rows_pos_of_lt (h0.trans_le (hlen.trans_eq hpos))
      have hle := hseg.length_le hrows
      rw [hpos', regBits]
      omega
  refine ⟨t, hexec, hret, ?_, ?_, fun r _ hr => ?_, fun k q hq => ?_, fun k hle hk => ?_, fun k hle hk => ?_⟩
  · rw [hx, Arch.filledTwice_regs]
  · rw [hnests, Arch.filledTwice_regs]
  · rw [Arch.vreg_congr hv, Arch.filledTwice_vreg hpos hpos' hlen hlen' hr]
  all_goals simp only [hret.el_eq, Arch.elem_congr _ _ _ _ (Arch.vreg_congr hv _)]
  · have hk : k < l.length := (List.getElem?_eq_some_iff.1 hq).1
    rw [Arch.filledTwice_elem hfit hpos hpos' hlen hlen' (hk.trans_le hlen),
      Arch.filledTwice_elem_next hfit' hpos hpos' hlen hlen' (hk.trans_le hlen'), if_pos hk, if_pos hk, hq]
    exact ⟨rfl, rfl⟩
  · rw [Arch.filledTwice_elem hfit hpos hpos' hlen hlen' hk, if_neg (Nat.not_lt.2 hle)]
    rfl
  · rw [Arch.filledTwice_elem_next hfit' hpos hpos' hlen hlen' hk, if_neg (Nat.not_lt.2 hle)]
    rfl

end

/-! ## O35 -/

theorem two_pow_pred_sub_one_lt (w : Nat) : 2 ^ (w - 1) - 1 < 2 ^ w :=
  (Nat.sub_lt (by positivity) Nat.one_pos).trans_le (Nat.pow_le_pow_right (by norm_num) (Nat.sub_le w 1))

theorem Fmt.signBit_add_infBits_lt (f : Fmt) : f.signBit + f.infBits < 2 ^ f.width := by cases f <;> decide

theorem Fmt.canonNaN_lt (f : Fmt) : f.canonNaN < 2 ^ f.width := by cases f <;> decide

theorem multOf_le (img : BitVec 16) : multOf img ≤ 8 :=
  Nat.pow_le_pow_right (n := 2) (by norm_num) (Nat.le_of_lt_succ (img.extractLsb' 3 2).isLt)

theorem VectorReady.vl_lt {s : State} (h : VectorReady s) : (s.arch s.cur).vl < 2 ^ 32 :=
  calc (s.arch s.cur).vl ≤ (s.arch s.cur).vlmax := h.vl
    _ = multOf (s.arch s.cur).vtype * s.rows s.cur * 2048 / widthOf (s.arch s.cur).vtype := h.vlmax
    _ ≤ multOf (s.arch s.cur).vtype * s.rows s.cur * 2048 := Nat.div_le_self _ _
    _ ≤ 8 * 64 * 2048 := Nat.mul_le_mul_right _ (Nat.mul_le_mul (multOf_le _) (s.rows_le s.cur))
    _ < 2 ^ 32 := by norm_num

/-- The flags of a list of which each element raises the flags `fl` or nothing. -/
theorem orFlags_ite {α : Type} (P : α → Prop) [DecidablePred P] (fl : BitVec 5) (l : List α) [Decidable (∃ q ∈ l, P q)] :
    orFlags (l.map fun q => if P q then fl else 0) = if ∃ q ∈ l, P q then fl else 0 := by
  have hfold : (l.map fun q => if P q then fl else 0).foldr (· ||| ·) 0 = if l.any (fun q => decide (P q)) = true then fl else 0 := by
    induction l with
    | nil => rfl
    | cons q l ih =>
      rw [List.map_cons, List.foldr_cons, ih, List.any_cons]
      by_cases hq : P q <;> cases l.any fun q => decide (P q) <;> simp [hq]
  rw [orFlags_eq_foldr, hfold]
  exact if_congr (by simp) rfl rfl

/-- Element k of the group at a, read in the format of the element width. -/
def State.num (s : State) (a : VReg) (k : Nat) : FVal :=
  unpack (fmtOf (s.arch s.cur).vtype) (s.el a.toNat (widthOf (s.arch s.cur).vtype) k)

section
variable {s : State} {m : Bool} {a : VReg} {q : Nat × Nat}

theorem State.indexedOf_of_empty (fp : Bool) (h : s.actives m q.1 q.2 = []) : s.indexedOf fp m a q =
    (identOf (if fp then .fmax else .min) (fmtOf (s.arch s.cur).vtype) (widthOf (s.arch s.cur).vtype), 0xFFFF_FFFF, 0) := by
  refine indexedSeg_of_empty fp ?_
  rw [indexedActives_segValues]
  rw [State.actives_eq_places, List.map_eq_nil_iff] at h
  rw [h, List.map_nil]

theorem State.places_ne_nil (h : s.actives m q.1 q.2 ≠ []) : s.places m q ≠ [] := by
  rw [State.actives_eq_places] at h
  exact fun h0 => h (by rw [h0, List.map_nil])

theorem State.indexedOf_min (h : s.actives m q.1 q.2 ≠ []) : ∃ k,
    FirstLeast (fun k => sext (widthOf (s.arch s.cur).vtype) (s.el a.toNat (widthOf (s.arch s.cur).vtype) (q.1 + k))) (s.places m q) k ∧
    s.indexedOf false m a q = (s.el a.toNat (widthOf (s.arch s.cur).vtype) (q.1 + k), k, 0) :=
  indexedSeg_min (State.places_ne_nil h) (s.places_pairwise m q) (indexedActives_segValues ..)

theorem State.indexedOf_max (h : s.actives m q.1 q.2 ≠ []) (hnan : ∀ j ∈ s.actives m q.1 q.2, (s.num a j).isNaN = false) : ∃ k,
    FirstLeast (fun k => OrderDual.toDual (s.num a (q.1 + k)).place) (s.places m q) k ∧
    s.indexedOf true m a q = (s.el a.toNat (widthOf (s.arch s.cur).vtype) (q.1 + k), k, 0) :=
  indexedSeg_max (State.places_ne_nil h) (s.places_pairwise m q) (indexedActives_segValues ..) ((s.forall_actives_iff_places m q).1 hnan)

theorem State.indexedOf_nan (hnan : ∃ j ∈ s.actives m q.1 q.2, (s.num a j).isNaN = true) :
    ∃ k ∈ s.places m q, (s.num a (q.1 + k)).isNaN = true ∧ (∀ j ∈ s.places m q, j < k → (s.num a (q.1 + j)).isNaN = false) ∧
      s.indexedOf true m a q =
        ((fmtOf (s.arch s.cur).vtype).canonNaN, k, if (s.places m q).any fun k => (s.num a (q.1 + k)).signals then flNV else 0) :=
  indexedSeg_nan (s.places_pairwise m q) (indexedActives_segValues ..) ((s.exists_actives_iff_places m q).1 hnan)

theorem State.indexedOf_min_flags : (s.indexedOf false m a q).2.2 = 0 := by
  by_cases hq : s.actives m q.1 q.2 = []
  · rw [State.indexedOf_of_empty false hq]
  · obtain ⟨k, -, hk⟩ := State.indexedOf_min (a := a) hq
    rw [hk]

theorem State.indexedOf_max_flags : (s.indexedOf true m a q).2.2 =
    if ∃ j ∈ s.actives m q.1 q.2, (s.num a j).signals = true then flNV else 0 := by
  by_cases hnan : ∃ j ∈ s.actives m q.1 q.2, (s.num a j).isNaN = true
  · obtain ⟨k, -, -, -, hof⟩ := State.indexedOf_nan hnan
    rw [hof]
    exact if_congr (List.any_eq_true.trans (s.exists_actives_iff_places m q (P := fun j => (s.num a j).signals = true)).symm) rfl rfl
  · have hno : ∀ j ∈ s.actives m q.1 q.2, (s.num a j).isNaN = false := fun j hj => Bool.eq_false_iff.2 fun h => hnan ⟨j, hj, h⟩
    rw [if_neg fun ⟨j, hj, hsig⟩ => Bool.false_ne_true ((FVal.signals_of_isNaN (hno j hj)).symm.trans hsig)]
    by_cases hq : s.actives m q.1 q.2 = []
    · rw [State.indexedOf_of_empty true hq]
    · obtain ⟨k, -, hk⟩ := State.indexedOf_max (a := a) hq hno
      rw [hk]

/-- The value and the place that vfredmaxx finds among active elements (R72, R95). -/
theorem State.indexedOf_max_spec (h : s.actives m q.1 q.2 ≠ []) {A : Nat → Nat} {f : Fmt}
    (hA : A = fun k => s.el a.toNat (widthOf (s.arch s.cur).vtype) k) (hf : f = fmtOf (s.arch s.cur).vtype) : ∃ v k fl,
    s.indexedOf true m a q = (v, k, fl) ∧ (v = A (q.1 + k) ∨ v = f.canonNaN) ∧ k ∈ s.places m q ∧
    ((∀ j ∈ s.actives m q.1 q.2, ¬ (unpack f (A j)).isNaN = true) → v = A (q.1 + k) ∧ ∀ j ∈ s.actives m q.1 q.2,
      ltMin (unpack f v) (unpack f (A j)) = false ∧ (j < q.1 + k → ltMin (unpack f (A j)) (unpack f v) = true)) ∧
    ((∃ j ∈ s.actives m q.1 q.2, (unpack f (A j)).isNaN = true) →
      v = f.canonNaN ∧ (unpack f (A (q.1 + k))).isNaN = true ∧ ∀ j ∈ s.actives m q.1 q.2, j < q.1 + k → ¬ (unpack f (A j)).isNaN = true) := by
  subst hA hf
  by_cases hnan : ∃ j ∈ s.actives m q.1 q.2, (s.num a j).isNaN = true
  · obtain ⟨k, hmem, hk, hfirst, hof⟩ := State.indexedOf_nan hnan
    refine ⟨_, k, _, hof, .inr rfl, hmem, fun hno => ?_, fun _ => ⟨rfl, hk, (s.forall_actives_iff_places m q).2 fun j hj hjk => ?_⟩⟩
    · obtain ⟨j, hj, hjn⟩ := hnan
      exact absurd hjn (hno j hj)
    · exact Bool.eq_false_iff.1 (hfirst j hj (Nat.lt_of_add_lt_add_left hjk))
  · have hno : ∀ j ∈ s.actives m q.1 q.2, (s.num a j).isNaN = false := fun j hj => Bool.eq_false_iff.2 fun h => hnan ⟨j, hj, h⟩
    obtain ⟨k, hk, hof⟩ := State.indexedOf_max (a := a) h hno
    refine ⟨_, k, _, hof, .inl rfl, hk.mem, fun _ => ⟨rfl, (s.forall_actives_iff_places m q).2 fun j hj => ?_⟩, fun hex => absurd hex hnan⟩
    have hnj := hno _ ((s.mem_actives_iff_places m q).2 hj)
    have hnk := hno _ ((s.mem_actives_iff_places m q).2 hk.mem)
    refine ⟨Bool.eq_false_iff.2 fun hlt => ?_, fun hjk => ?_⟩
    · exact absurd (OrderDual.toDual_le_toDual.1 (hk.least j hj)) (not_le.2 ((ltMin_iff_place_lt hnk hnj).1 hlt))
    · exact (ltMin_iff_place_lt hnj hnk).2 (OrderDual.toDual_lt_toDual.1 (hk.first j hj (Nat.lt_of_add_lt_add_left hjk)))

end

/-- Settles O35: the two destinations are filled one after the other, and the fold over a segment's active elements keeps the first least place in
the signed order, or in the reverse of the order of R72. -/
theorem indexedReductionsComplete : Obligations.IndexedReductionsComplete := by
  unfold Obligations.IndexedReductionsComplete
  intro s m p h a n l
  dsimp only
  intro hready hmult hseg hlen hfree
  have hplace : ∀ {k q j}, l[k]? = some q → j ∈ s.places m q → j < 2 ^ 32 := fun {k q j} hq hj => by
    have hend := hseg.end_lt hready.vl_lt (List.mem_of_getElem? hq)
    have hlt := s.lt_of_mem_places m q hj
    omega
  have hval : ∀ k, s.el a.toNat (widthOf (s.arch s.cur).vtype) k < 2 ^ widthOf (s.arch s.cur).vtype := fun k => Arch.elem_lt ..
  refine ⟨fun hlo => ?_, fun hlo => ?_⟩
  · obtain ⟨t, hexec, hret, hx, hnests, hsame, hel, htails⟩ :=
      indexMember_writes (i := .vredminx m p h a n) (fun _ => rfl) hready hlo hmult hseg hlen hfree
    simp only [State.indexedOf_min_flags, orFlags_zeros] at hret
    refine ⟨t, hexec, hret, hx, hnests, hsame, fun k q hq => ?_, htails⟩
    obtain ⟨hv, hpos⟩ := hel k q hq
    rw [hv, hpos]
    refine ⟨fun hempty => ?_, fun hne => ?_⟩
    · rw [State.indexedOf_of_empty false hempty]
      exact ⟨Nat.mod_eq_of_lt (two_pow_pred_sub_one_lt _), rfl⟩
    · obtain ⟨k, hk, hof⟩ := State.indexedOf_min (a := a) hne
      rw [hof]
      dsimp only
      rw [Nat.mod_eq_of_lt (hval _), Nat.mod_eq_of_lt (hplace hq hk.mem)]
      refine ⟨(s.mem_actives_iff_places m q).2 hk.mem, rfl, (s.forall_actives_iff_places m q).2 fun j hj => ⟨hk.least j hj, fun hjk => ?_⟩⟩
      exact hk.first j hj (Nat.lt_of_add_lt_add_left hjk)
  · have hwidth := width_fmtOf hlo hready.width
    obtain ⟨t, hexec, hret, hx, hnests, hsame, hel, htails⟩ :=
      indexMember_writes (i := .vfredmaxx m p h a n) (fun _ => rfl) hready hlo hmult hseg hlen hfree
    simp only [State.indexedOf_max_flags, orFlags_ite] at hret
    refine ⟨t, hexec, hret, hx, hnests, hsame, fun k q hq => ?_, htails⟩
    obtain ⟨hv, hpos⟩ := hel k q hq
    rw [hv, hpos]
    refine ⟨fun hempty => ?_, fun hne => ?_⟩
    · rw [State.indexedOf_of_empty true hempty]
      exact ⟨Nat.mod_eq_of_lt (hwidth ▸ Fmt.signBit_add_infBits_lt _), rfl⟩
    · obtain ⟨v, k, fl, hof, hor, hmem, hspec⟩ := State.indexedOf_max_spec (a := a) hne rfl rfl
      have hlt : v < 2 ^ widthOf (s.arch s.cur).vtype := by
        rcases hor with rfl | rfl
        · exact hval _
        · exact hwidth ▸ Fmt.canonNaN_lt _
      rw [hof]
      dsimp only
      rw [Nat.mod_eq_of_lt hlt, Nat.mod_eq_of_lt (hplace hq hmem)]
      exact ⟨(s.mem_actives_iff_places m q).2 hmem, hspec⟩

end Sys2Proof.Machine
end

section
/-! PROOFS. Block-scaled codes (spec/03_number_formats.md R82 to R88): the value of a code, the scale of a block and the nearest code as statements
about rational numbers. -/

namespace Sys2Proof.Machine

/-! ## Magnitudes of codes (R84) -/

/-- The code of a field, 0 to 7, with a sign: two's complement for integers, and else a sign bit. -/
def codeOfField (t : CodeType) (neg : Bool) (r : Nat) : Nat := if r = 0 then 0 else if neg then (if t = .int then 16 - r else 8 + r) else r

/-- A sign as a factor. -/
def signRat (neg : Bool) : ℚ := if neg then -1 else 1

/-- The magnitude of a field under the exponent k. -/
def fieldMag (t : CodeType) (k : Int) (r : Nat) : ℚ := codeMag8 t r * 2 ^ (k - 3)

theorem codeMag8_zero (t : CodeType) : codeMag8 t 0 = 0 := by cases t <;> rfl

theorem codeMag8_seven (t : CodeType) : codeMag8 t 7 = codeMax8 t := by cases t <;> rfl

theorem codeMag8_lt (t : CodeType) {i j : Nat} (hij : i < j) (hj : j < 8) : codeMag8 t i < codeMag8 t j := by
  have h : ∀ t, ∀ j < 8, ∀ i < j, codeMag8 t i < codeMag8 t j := by
    intro t
    cases t <;> decide
  exact h t j hj i hij

theorem codeOfField_spec (t : CodeType) (neg : Bool) {r : Nat} (hr : r < 8) :
    codeOfField t neg r < 16 ∧ codeOfField t neg r ≠ 8 ∧ codeOfField t neg r % 2 = r % 2 := by
  have h : ∀ t neg, ∀ r < 8, codeOfField t neg r < 16 ∧ codeOfField t neg r ≠ 8 ∧ codeOfField t neg r % 2 = r % 2 := by
    intro t neg
    cases t <;> cases neg <;> decide
  exact h t neg r hr

/-- Every code but 8 is that of a field. -/
theorem exists_codeOfField (t : CodeType) {c : Nat} (hc : c < 16) (h8 : c ≠ 8) : ∃ neg, ∃ r < 8, c = codeOfField t neg r := by
  have h : ∀ t, ∀ c < 16, c ≠ 8 → ∃ neg, ∃ r < 8, c = codeOfField t neg r := by
    intro t
    cases t <;> decide
  exact h t c hc h8

/-- The table's value of a field's code is its magnitude with the sign. -/
theorem codeTable_codeOfField (t : CodeType) (neg : Bool) {r : Nat} (hr : r < 8) :
    ((codeTable t)[codeOfField t neg r]?).getD 0 = signRat neg * (codeMag8 t r / 8) := by
  interval_cases r <;> cases t <;> cases neg <;> simp [codeTable, codeOfField, codeMag8, signRat] <;> norm_num

theorem codeLimit_eq (t : CodeType) : codeLimit t = codeMax8 t / 8 := by cases t <;> norm_num [codeLimit, codeMax8]

/-- A code with its scale is the magnitude of its field with the sign. -/
theorem codeTable_mul_zpow (t : CodeType) (neg : Bool) (k : Int) {r : Nat} (hr : r < 8) :
    ((codeTable t)[codeOfField t neg r]?).getD 0 * (2 : ℚ) ^ k = signRat neg * fieldMag t k r := by
  rw [codeTable_codeOfField t neg hr, fieldMag, zpow_sub₀ two_ne_zero]
  norm_num
  ring

theorem codeLimit_mul_zpow (t : CodeType) (k : Int) : codeLimit t * (2 : ℚ) ^ k = fieldMag t k 7 := by
  rw [codeLimit_eq, fieldMag, codeMag8_seven, zpow_sub₀ two_ne_zero]
  norm_num
  ring

theorem fieldMag_zero (t : CodeType) (k : Int) : fieldMag t k 0 = 0 := by
  rw [fieldMag, codeMag8_zero, Nat.cast_zero, zero_mul]

theorem fieldMag_lt (t : CodeType) (k : Int) {i j : Nat} (hij : i < j) (hj : j < 8) : fieldMag t k i < fieldMag t k j :=
  mul_lt_mul_of_pos_right (Nat.cast_lt.2 (codeMag8_lt t hij hj)) (by positivity)

theorem fieldMag_nonneg (t : CodeType) (k : Int) (r : Nat) : 0 ≤ fieldMag t k r := by unfold fieldMag; positivity

theorem fieldMag_pos (t : CodeType) (k : Int) {r : Nat} (h0 : r ≠ 0) (hr : r < 8) : 0 < fieldMag t k r := by
  have h := fieldMag_lt t k (Nat.pos_of_ne_zero h0) hr
  rwa [fieldMag_zero] at h

/-! ## The value of a code (R84, R85) -/

theorem codeTypeOf_eq {scale : Nat} {t : CodeType} (h : [CodeType.int, .e2m1, .pow, .hyb][scale / 64]? = some t) : codeTypeOf scale = t := by
  have hlt : scale / 64 < 4 := (List.getElem?_eq_some_iff.1 h).1
  unfold codeTypeOf
  rw [Nat.mod_eq_of_lt hlt]
  generalize scale / 64 = n at h hlt ⊢
  interval_cases n <;> exact Option.some.inj h

theorem sext_six {n : Nat} (h : n < 64) : (if n < 32 then (n : Int) else (n : Int) - 64) = sext 6 n := by
  unfold sext
  rw [Nat.mod_eq_of_lt (show n < 2 ^ 6 from h)]
  rfl

/-- A code that is not in an invalid block is a number, with the table's value under the block's exponent (R84). -/
theorem codeValue_spec {t : CodeType} {code scale : Nat} (hcode : code < 16) (ht : [CodeType.int, .e2m1, .pow, .hyb][scale / 64]? = some t)
    (h : scale % 64 ≠ 32) : (codeValue code scale).isFin = true ∧ ((codeValue code scale).isNeg = true ↔ 8 ≤ code) ∧
      (codeValue code scale).rat = ((codeTable t)[code]?).getD 0 * (2 : ℚ) ^ sext 6 (scale % 64) := by
  unfold codeValue
  dsimp only
  rw [if_neg h, codeTypeOf_eq ht, sext_six (Nat.mod_lt _ (by norm_num)), Nat.mod_eq_of_lt hcode]
  generalize sext 6 (scale % 64) = e
  have hpow : (2 : ℚ) ^ (e - 3) = 2 ^ e / 8 := by
    rw [zpow_sub₀ two_ne_zero]
    norm_num
  cases t
  case int =>
    dsimp only
    interval_cases code <;> simp [FVal.isFin, FVal.isNeg, FVal.rat, codeTable]
  all_goals
    interval_cases code <;> simp [FVal.isFin, FVal.isNeg, FVal.rat, codeTable, codeMag8, hpow] <;> ring

/-! ## The nearest field (R87, R88) -/

theorem FVal.rat_eq_signRat (neg : Bool) (m : Nat) (e : Int) : (FVal.fin neg m e).rat = signRat neg * (m * 2 ^ e) := by
  unfold FVal.rat signRat
  ring

theorem abs_signRat_mul (neg : Bool) (x : ℚ) : |signRat neg * x| = |x| := by cases neg <;> simp [signRat]

/-- A whole number of the unit that magnitudes are compared in: m and the unit's share of the field grid, times it. -/
theorem exists_unit (m : Nat) (e k : Int) : ∃ unit : ℚ, 0 < unit ∧
    ((if 0 ≤ e + 3 - k then m * 2 ^ (e + 3 - k).toNat else m : Nat) : ℚ) * unit = m * 2 ^ e ∧
    ((if 0 ≤ e + 3 - k then 1 else 2 ^ (-(e + 3 - k)).toNat : Nat) : ℚ) * unit = 2 ^ (k - 3) := by
  split
  next h =>
    refine ⟨2 ^ (k - 3), by positivity, ?_, by simp⟩
    rw [Nat.cast_mul, mul_assoc, Nat.cast_pow, Nat.cast_ofNat, ← zpow_natCast, Int.toNat_of_nonneg h, ← zpow_add₀ two_ne_zero]
    congr 2
    ring
  next h =>
    refine ⟨2 ^ e, by positivity, rfl, ?_⟩
    rw [Nat.cast_pow, Nat.cast_ofNat, ← zpow_natCast, Int.toNat_of_nonneg (by omega), ← zpow_add₀ two_ne_zero]
    congr 1
    ring

/-- A magnitude is at most c8 / 8 under the exponent k. -/
theorem magLe_iff (m : Nat) (e : Int) (c8 : Nat) (k : Int) : magLe m e c8 k = true ↔ (m : ℚ) * 2 ^ e ≤ c8 * 2 ^ (k - 3) := by
  obtain ⟨unit, hpos, hm, hup⟩ := exists_unit m e k
  rw [← hm, ← hup, ← mul_assoc, mul_le_mul_iff_left₀ hpos]
  unfold magLe
  dsimp only
  split <;> rw [decide_eq_true_eq]
  · rw [Nat.cast_one, mul_one, Nat.cast_le]
  · exact_mod_cast Iff.rfl

theorem magLe_codeMax8_iff (t : CodeType) (m : Nat) (e k : Int) : magLe m e (codeMax8 t) k = true ↔ (m : ℚ) * 2 ^ e ≤ fieldMag t k 7 := by
  rw [magLe_iff, fieldMag, codeMag8_seven]

/-- b is a nearest of the fields below n, and an even one where one is nearest. -/
structure LeastEven (dist : Nat → Nat) (n b : Nat) : Prop where
  lt : b < n
  least : ∀ j < n, dist b ≤ dist j
  even : b % 2 = 1 → ∀ j < n, j % 2 = 0 → dist b < dist j

/-- The search over the fields in their order finds a nearest one. -/
theorem leastEven_foldl (dist : Nat → Nat) (n : Nat) :
    LeastEven dist (n + 1) ((List.range (n + 1)).foldl (fun b j => if dist j < dist b ∨ (dist j = dist b ∧ j % 2 = 0) then j else b) 0) := by
  induction n with
  | zero =>
    refine ⟨by simp, fun j hj => ?_, fun hodd => by simp at hodd⟩
    obtain rfl : j = 0 := by omega
    simp
  | succ n ih =>
    rw [List.range_succ, List.foldl_append, List.foldl_cons, List.foldl_nil]
    generalize (List.range (n + 1)).foldl _ 0 = b at ih ⊢
    obtain ⟨hlt, hleast, heven⟩ := ih
    split
    next h =>
      refine ⟨Nat.lt_succ_self _, fun j hj => ?_, fun hodd j hj hj2 => ?_⟩
      · rcases Nat.lt_succ_iff_lt_or_eq.1 hj with hj | rfl
        · have := hleast j hj
          omega
        · exact le_rfl
      · have hj : j < n + 1 := by omega
        have := hleast j hj
        omega
    next h =>
      refine ⟨hlt.trans (Nat.lt_succ_self _), fun j hj => ?_, fun hodd j hj hj2 => ?_⟩
      · rcases Nat.lt_succ_iff_lt_or_eq.1 hj with hj | rfl
        · exact hleast j hj
        · omega
      · rcases Nat.lt_succ_iff_lt_or_eq.1 hj with hj | rfl
        · exact heven hodd j hj hj2
        · have := hleast b hlt
          omega

/-- The field chosen for a magnitude X: below 8, nearest, and even where two are nearest. -/
structure NearestField (t : CodeType) (k : Int) (X : ℚ) (r : Nat) : Prop where
  lt : r < 8
  least : ∀ j < 8, |fieldMag t k r - X| ≤ |fieldMag t k j - X|
  even : ∀ j < 8, j ≠ r → |fieldMag t k r - X| = |fieldMag t k j - X| → r % 2 = 0

/-- A field that is nearest, and even where an even one is, is even where another one is as near: of two as near the next one after the lower is one. -/
theorem nearestField_of_leastEven {t : CodeType} {k : Int} {X unit : ℚ} {dist : Nat → Nat} {r : Nat} (hunit : 0 < unit)
    (hdist : ∀ j, (dist j : ℚ) * unit = |fieldMag t k j - X|) (h : LeastEven dist 8 r) : NearestField t k X r := by
  have hle : ∀ {i j}, dist i ≤ dist j ↔ |fieldMag t k i - X| ≤ |fieldMag t k j - X| := fun {i j} => by
    rw [← hdist, ← hdist, mul_le_mul_iff_left₀ hunit, Nat.cast_le]
  have hbetween : ∀ {i j}, i < j → j < 8 → |fieldMag t k i - X| = |fieldMag t k j - X| → (∀ n < 8, |fieldMag t k i - X| ≤ |fieldMag t k n - X|) →
      j = i + 1 := fun {i j} hij hj heq hmin => by
    by_contra hne
    have h1 := fieldMag_lt t k (Nat.lt_succ_self i) (by omega)
    have h2 := fieldMag_lt t k (show i + 1 < j by omega) hj
    have h3 := hmin (i + 1) (by omega)
    rcases abs_eq_abs.1 heq with h4 | h4
    · linarith
    · rw [abs_of_nonpos (by linarith : fieldMag t k i - X ≤ 0)] at h3
      exact absurd h3 (not_le.2 (abs_lt.2 ⟨by linarith, by linarith⟩))
  refine ⟨h.lt, fun j hj => hle.1 (h.least j hj), fun j hj hne heq => ?_⟩
  by_contra hodd
  have hodd : r % 2 = 1 := by omega
  have hadj : j = r + 1 ∨ r = j + 1 := by
    rcases Nat.lt_or_gt_of_ne hne with hlt | hlt
    · exact .inr (hbetween hlt h.lt heq.symm fun n hn => heq ▸ hle.1 (h.least n hn))
    · exact .inl (hbetween hlt hj heq fun n hn => hle.1 (h.least n hn))
  have := h.even hodd j hj (by omega)
  exact absurd (hle.2 heq.ge) (Nat.not_le.2 this)

/-- Beyond the limit a magnitude takes the last field, with OF and NX; else the nearest, with NX unless it is exact (R88). -/
theorem nearestField_spec (t : CodeType) (m : Nat) (e k : Int) :
    (fieldMag t k 7 < m * 2 ^ e → nearestField t m e k = (7, flOF ||| flNX)) ∧
    ((m : ℚ) * 2 ^ e ≤ fieldMag t k 7 → ∃ r, NearestField t k (m * 2 ^ e) r ∧
      nearestField t m e k = (r, if fieldMag t k r = m * 2 ^ e then 0 else flNX)) := by
  have hle := magLe_codeMax8_iff t m e k
  refine ⟨fun h => ?_, fun h => ?_⟩
  · unfold nearestField
    rw [if_pos]
    rw [Bool.not_eq_true', Bool.eq_false_iff]
    exact fun q => absurd (hle.1 q) (not_le.2 h)
  · obtain ⟨unit, hpos, hm, hup⟩ := exists_unit m e k
    unfold nearestField
    rw [if_neg (by rw [hle.2 h]; exact Bool.false_ne_true)]
    dsimp only
    generalize (if 0 ≤ e + 3 - k then m * 2 ^ (e + 3 - k).toNat else m) = x at hm ⊢
    generalize (if 0 ≤ e + 3 - k then 1 else 2 ^ (-(e + 3 - k)).toNat) = up at hup ⊢
    have hdist : ∀ j, ((((x : Int) - (codeMag8 t j * up : Nat)).natAbs : Nat) : ℚ) * unit = |fieldMag t k j - m * 2 ^ e| := fun j => by
      rw [fieldMag, ← hm, ← hup, abs_sub_comm, ← mul_assoc, ← sub_mul, abs_mul, abs_of_pos hpos, Nat.cast_natAbs]
      push_cast
      rfl
    have hbest := leastEven_foldl (fun j => ((x : Int) - (codeMag8 t j * up : Nat)).natAbs) 7
    have hnearest := nearestField_of_leastEven hpos hdist hbest
    refine ⟨_, hnearest, congrArg _ (if_congr ?_ rfl rfl)⟩
    generalize (List.range (7 + 1)).foldl _ 0 = r at hnearest ⊢
    rw [← sub_eq_zero (a := fieldMag t k r), ← abs_eq_zero (a := fieldMag t k r - m * 2 ^ e), ← hdist, mul_eq_zero, or_iff_left hpos.ne',
      Nat.cast_eq_zero]

/-! ## Encoding one value (R88) -/

/-- The value of a code under the exponent k (R84). -/
def scaledCode (t : CodeType) (k : Int) (c : Nat) : ℚ := ((codeTable t)[c]?).getD 0 * 2 ^ k

theorem scaledCode_codeOfField (t : CodeType) (neg : Bool) (k : Int) {r : Nat} (hr : r < 8) :
    scaledCode t k (codeOfField t neg r) = signRat neg * fieldMag t k r := codeTable_mul_zpow t neg k hr

theorem scaledCode_zero (t : CodeType) (k : Int) : scaledCode t k 0 = 0 := by
  have h := scaledCode_codeOfField t false k (r := 0) (by norm_num)
  rwa [fieldMag_zero, mul_zero] at h

/-- The code and the flags of one value under the exponent k. -/
def encodeOne (t : CodeType) (k : Int) : FVal → Nat × BitVec 5
  | .fin neg m e => if m = 0 then (0, 0) else (codeOfField t neg (nearestField t m e k).1, (nearestField t m e k).2)
  | _ => (0, 0)

/-- What R88 asks of the code c and the flags of the value q under the exponent k. -/
structure EncodesTo (t : CodeType) (k : Int) (q : ℚ) (c : Nat) (fl : BitVec 5) : Prop where
  lt : c < 16
  ne : c ≠ 8
  zero : q = 0 → c = 0
  beyond : fieldMag t k 7 < |q| → scaledCode t k c = if q < 0 then -fieldMag t k 7 else fieldMag t k 7
  nearest : |q| ≤ fieldMag t k 7 → ∀ j, j < 16 → j ≠ 8 → |scaledCode t k c - q| ≤ |scaledCode t k j - q| ∧
    (|scaledCode t k c - q| = |scaledCode t k j - q| → scaledCode t k j ≠ scaledCode t k c → c % 2 = 0)
  flags : fl = (if fieldMag t k 7 < |q| then flOF else 0) ||| if scaledCode t k c ≠ q then flNX else 0

theorem encodesTo_zero (t : CodeType) (k : Int) : EncodesTo t k 0 0 0 where
  lt := by norm_num
  ne := by norm_num
  zero _ := rfl
  beyond h := absurd h (not_lt.2 (by rw [abs_zero]; exact fieldMag_nonneg t k 7))
  nearest _ j _ _ := ⟨by rw [scaledCode_zero, sub_zero, abs_zero]; exact abs_nonneg _, fun _ _ => rfl⟩
  flags := by rw [scaledCode_zero, abs_zero, if_neg (not_lt.2 (fieldMag_nonneg t k 7)), if_neg (not_not.2 rfl)]; rfl

theorem signRat_mul_sub (neg : Bool) (x y : ℚ) : |signRat neg * x - signRat neg * y| = |x - y| := by rw [← mul_sub, abs_signRat_mul]

theorem signRat_mul_eq_iff (neg : Bool) (x y : ℚ) : signRat neg * x = signRat neg * y ↔ x = y :=
  mul_right_inj' (by cases neg <;> simp [signRat])

theorem signRat_mul_neg_iff (neg : Bool) {x : ℚ} (h : 0 < x) : signRat neg * x < 0 ↔ neg = true := by
  cases neg
  · simp [signRat, h.le]
  · simp [signRat, h]

/-- A field of the other sign is no nearer than the field 0. -/
theorem abs_sub_of_other_sign {neg neg' : Bool} (h : neg' ≠ neg) {x y : ℚ} (hx : 0 ≤ x) (hy : 0 ≤ y) :
    |signRat neg' * x - signRat neg * y| = x + y := by
  cases neg <;> cases neg' <;> simp only [ne_eq, not_true_eq_false] at h <;> simp only [signRat, if_true, Bool.false_eq_true, if_false]
  · rw [abs_of_nonpos (by linarith)]; ring
  · rw [abs_of_nonneg (by linarith)]; ring

/-- The nearest field with the value's sign is the nearest code. -/
theorem NearestField.nearest {t : CodeType} {k : Int} {X : ℚ} {r : Nat} (h : NearestField t k X r) (hX : 0 ≤ X) (neg : Bool) {j : Nat} (hj : j < 16)
    (h8 : j ≠ 8) : |scaledCode t k (codeOfField t neg r) - signRat neg * X| ≤ |scaledCode t k j - signRat neg * X| ∧
      (|scaledCode t k (codeOfField t neg r) - signRat neg * X| = |scaledCode t k j - signRat neg * X| →
        scaledCode t k j ≠ scaledCode t k (codeOfField t neg r) → codeOfField t neg r % 2 = 0) := by
  obtain ⟨neg', n, hn, rfl⟩ := exists_codeOfField t hj h8
  rw [scaledCode_codeOfField t neg k h.lt, scaledCode_codeOfField t neg' k hn, signRat_mul_sub, (codeOfField_spec t neg h.lt).2.2]
  by_cases hsign : neg' = neg
  · rw [hsign, signRat_mul_sub]
    refine ⟨h.least n hn, fun heq hne => h.even n hn ?_ heq⟩
    rintro rfl
    exact hne rfl
  · rw [abs_sub_of_other_sign hsign (fieldMag_nonneg t k n) hX]
    have hzero := h.least 0 (by norm_num)
    rw [fieldMag_zero, zero_sub, abs_neg, abs_of_nonneg hX] at hzero
    have hmag := fieldMag_nonneg t k n
    refine ⟨by linarith, fun heq hne => ?_⟩
    have hn0 : fieldMag t k n = 0 := le_antisymm (by linarith) hmag
    refine h.even 0 (by norm_num) ?_ ?_
    · rintro rfl
      rw [hn0, fieldMag_zero, mul_zero, mul_zero] at hne
      exact hne rfl
    · rw [heq, hn0, fieldMag_zero, zero_sub, abs_neg, abs_of_nonneg hX, zero_add]

theorem encodeOne_encodesTo (t : CodeType) (k : Int) {v : FVal} (hv : v.isFin = true) :
    EncodesTo t k v.rat (encodeOne t k v).1 (encodeOne t k v).2 := by
  obtain ⟨neg, m, e, rfl⟩ := FVal.exists_fin hv
  unfold encodeOne
  dsimp only
  split
  next h0 =>
    rw [(FVal.rat_eq_zero_iff neg m e).2 h0]
    exact encodesTo_zero t k
  next h0 =>
    have hX : (0 : ℚ) < m * 2 ^ e := mul_pos (Nat.cast_pos.2 (Nat.pos_of_ne_zero h0)) (by positivity)
    have hne : (FVal.fin neg m e).rat ≠ 0 := mt (FVal.rat_eq_zero_iff neg m e).1 h0
    obtain ⟨hbeyond, hwithin⟩ := nearestField_spec t m e k
    rcases lt_or_ge (fieldMag t k 7) (m * 2 ^ e) with h | h
    · rw [hbeyond h]
      obtain ⟨hlt, h8, -⟩ := codeOfField_spec t neg (r := 7) (by norm_num)
      refine ⟨hlt, h8, fun q => absurd q hne, fun _ => ?_, fun q => absurd (FVal.abs_rat neg m e ▸ q) (not_le.2 h), ?_⟩
      · rw [scaledCode_codeOfField t neg k (by norm_num), FVal.rat_eq_signRat, if_congr (signRat_mul_neg_iff neg hX) rfl rfl]
        cases neg <;> simp [signRat]
      · rw [FVal.abs_rat, if_pos h, scaledCode_codeOfField t neg k (by norm_num), FVal.rat_eq_signRat, if_pos]
        exact fun q => h.ne ((signRat_mul_eq_iff neg _ _).1 q)
    · obtain ⟨r, hr, hfield⟩ := hwithin h
      rw [hfield]
      obtain ⟨hlt, h8, -⟩ := codeOfField_spec t neg hr.lt
      refine ⟨hlt, h8, fun q => absurd q hne, fun q => absurd (FVal.abs_rat neg m e ▸ q) (not_lt.2 h), fun _ j hj hj8 => ?_, ?_⟩
      · rw [FVal.rat_eq_signRat]
        exact hr.nearest hX.le neg hj hj8
      · rw [FVal.abs_rat, if_neg (not_lt.2 h), scaledCode_codeOfField t neg k hr.lt, FVal.rat_eq_signRat, ite_not,
          if_congr (signRat_mul_eq_iff neg _ _) rfl rfl]
        exact (BitVec.zero_or).symm

/-! ## The scale of a block (R87) -/

/-- Every value's magnitude is at most the type's limit under the exponent k. -/
def FitsUnder (t : CodeType) (vals : List FVal) (k : Int) : Prop := ∀ v ∈ vals, |v.rat| ≤ fieldMag t k 7

/-- A finite value's magnitude fits under the exponent k. -/
def FVal.fitsScale (t : CodeType) (k : Int) : FVal → Bool
  | .fin _ m e => magLe m e (codeMax8 t) k
  | _ => false

theorem chooseScale_eq (t : CodeType) (vals : List FVal) : chooseScale t vals =
    ((List.range 63).find? fun j : Nat => vals.all (FVal.fitsScale t ((j : Int) - 31))).elim 31 fun j => (j : Int) - 31 := by
  unfold chooseScale
  change (match (List.range 63).find? fun j : Nat => vals.all (FVal.fitsScale t ((j : Int) - 31)) with
    | some j => (j : Int) - 31
    | none => 31) = _
  cases (List.range 63).find? fun j : Nat => vals.all (FVal.fitsScale t ((j : Int) - 31)) <;> rfl

theorem all_fitsScale_iff (t : CodeType) {vals : List FVal} (hfin : ∀ v ∈ vals, v.isFin = true) (k : Int) :
    vals.all (FVal.fitsScale t k) = true ↔ FitsUnder t vals k := by
  rw [List.all_eq_true]
  refine forall₂_congr fun v hv => ?_
  obtain ⟨neg, m, e, rfl⟩ := FVal.exists_fin (hfin v hv)
  rw [FVal.abs_rat]
  exact magLe_codeMax8_iff t m e k

/-- The exponent of a block: the least of -31 to 31 that its values fit under, or 31. -/
theorem chooseScale_spec (t : CodeType) {vals : List FVal} (hfin : ∀ v ∈ vals, v.isFin = true) :
    -31 ≤ chooseScale t vals ∧ chooseScale t vals ≤ 31 ∧ (chooseScale t vals = 31 ∨ FitsUnder t vals (chooseScale t vals)) ∧
      ∀ j, -31 ≤ j → j < chooseScale t vals → ¬ FitsUnder t vals j := by
  have hnot : ∀ {j : Int}, -31 ≤ j → (!vals.all (FVal.fitsScale t (((j + 31).toNat : Int) - 31))) = true → ¬ FitsUnder t vals j := by
    intro j hlo h hfit
    rw [Int.toNat_of_nonneg (by omega), Int.add_sub_cancel, (all_fitsScale_iff t hfin j).2 hfit] at h
    cases h
  rw [chooseScale_eq]
  rcases hfind : (List.range 63).find? fun j : Nat => vals.all (FVal.fitsScale t ((j : Int) - 31)) with _ | n
  · refine ⟨by norm_num, le_rfl, .inl rfl, fun j hlo hhi => hnot hlo ?_⟩
    have hhi : j < 31 := hhi
    exact List.find?_range_eq_none.1 hfind (j + 31).toNat (by omega)
  · obtain ⟨hfits, hn, hbefore⟩ := List.find?_range_eq_some.1 hfind
    have hn := List.mem_range.1 hn
    dsimp only [Option.elim]
    exact ⟨by omega, by omega, .inr ((all_fitsScale_iff t hfin _).1 hfits), fun j hlo hhi => hnot hlo (hbefore (j + 31).toNat (by omega))⟩

/-! ## Encoding a block (R87, R88) -/

/-- A NaN or an infinity. -/
def FVal.isSpecial : FVal → Bool
  | .fin _ _ _ => false
  | _ => true

/-- A finite value of magnitude zero. -/
def FVal.isZero : FVal → Bool
  | .fin _ m _ => m == 0
  | _ => false

theorem encodeBlock_eq (t : CodeType) (vals : List FVal) : encodeBlock t vals =
    if vals.any FVal.isSpecial then (codeTypeNum t * 64 + 32, vals.map fun _ => 0, flNV)
    else if vals.all FVal.isZero then (codeTypeNum t * 64, vals.map fun _ => 0, 0)
    else (codeTypeNum t * 64 + (chooseScale t vals % 64).toNat, (vals.map (encodeOne t (chooseScale t vals))).map Prod.fst,
      (vals.map (encodeOne t (chooseScale t vals))).foldl (fun fl c => fl ||| c.2) 0) := rfl

theorem any_isSpecial_iff (vals : List FVal) : vals.any FVal.isSpecial = true ↔ ∃ v ∈ vals, v.isFin = false := by
  rw [List.any_eq_true]
  refine exists_congr fun v => and_congr_right fun _ => ?_
  cases v <;> simp [FVal.isFin, FVal.isSpecial]

theorem all_isZero_iff (vals : List FVal) : vals.all FVal.isZero = true ↔ ∀ v ∈ vals, v.isFin = true ∧ v.rat = 0 := by
  rw [List.all_eq_true]
  refine forall₂_congr fun v _ => ?_
  cases v with
  | fin n m e => simp [FVal.isFin, FVal.isZero, FVal.rat_eq_zero_iff]
  | _ => simp [FVal.isFin, FVal.isZero]

section
variable (t : CodeType) {vals : List FVal}

theorem encodeBlock_of_not_fin (h : ∃ v ∈ vals, v.isFin = false) : encodeBlock t vals = (codeTypeNum t * 64 + 32, vals.map fun _ => 0, flNV) := by
  rw [encodeBlock_eq, if_pos ((any_isSpecial_iff vals).2 h)]

theorem encodeBlock_of_zero (h : ∀ v ∈ vals, v.isFin = true ∧ v.rat = 0) : encodeBlock t vals = (codeTypeNum t * 64, vals.map fun _ => 0, 0) := by
  have hfin : ¬ vals.any FVal.isSpecial = true := fun q => by
    obtain ⟨v, hv, hfin⟩ := (any_isSpecial_iff vals).1 q
    exact Bool.false_ne_true (hfin.symm.trans (h v hv).1)
  rw [encodeBlock_eq, if_neg hfin, if_pos ((all_isZero_iff vals).2 h)]

theorem encodeBlock_of_fin (hfin : ∀ v ∈ vals, v.isFin = true) (hne : ∃ v ∈ vals, v.rat ≠ 0) : encodeBlock t vals =
    (codeTypeNum t * 64 + (chooseScale t vals % 64).toNat, vals.map fun v => (encodeOne t (chooseScale t vals) v).1,
      orFlags (vals.map fun v => (encodeOne t (chooseScale t vals) v).2)) := by
  have hspecial : ¬ vals.any FVal.isSpecial = true := fun q => by
    obtain ⟨v, hv, h0⟩ := (any_isSpecial_iff vals).1 q
    exact Bool.false_ne_true (h0.symm.trans (hfin v hv))
  have hzero : ¬ vals.all FVal.isZero = true := fun q => by
    obtain ⟨v, hv, h0⟩ := hne
    exact h0 ((all_isZero_iff vals).1 q v hv).2
  rw [encodeBlock_eq, if_neg hspecial, if_neg hzero, List.map_map, List.foldl_map]
  unfold orFlags
  rw [List.foldl_map]
  rfl

end

theorem orFlags_or {α : Type} (g h : α → BitVec 5) (l : List α) :
    orFlags (l.map fun q => g q ||| h q) = orFlags (l.map g) ||| orFlags (l.map h) := by
  simp only [orFlags_eq_foldr]
  induction l with
  | nil => exact BitVec.or_self.symm
  | cons q l ih =>
    simp only [List.map_cons, List.foldr_cons, ih]
    ac_rfl

theorem encodeBlock_length (t : CodeType) (vals : List FVal) : (encodeBlock t vals).2.1.length = vals.length := by
  rw [encodeBlock_eq]
  split
  · exact List.length_map _
  · split
    · exact List.length_map _
    · rw [List.length_map, List.length_map]

theorem encodeBlock_fst_lt (t : CodeType) (vals : List FVal) : (encodeBlock t vals).1 < 2 ^ 8 := by
  have hnum : codeTypeNum t ≤ 3 := by cases t <;> decide
  rw [encodeBlock_eq]
  split
  · dsimp only; omega
  · split
    · dsimp only; omega
    · dsimp only; omega

/-- What R87 and R88 ask of a block of finite values, not all of them zero. -/
theorem encodeBlock_spec (t : CodeType) {vals : List FVal} (hfin : ∀ v ∈ vals, v.isFin = true) (hne : ∃ v ∈ vals, v.rat ≠ 0) :
    ∃ e : Int, -31 ≤ e ∧ e ≤ 31 ∧ (encodeBlock t vals).1 = codeTypeNum t * 64 + (e % 64).toNat ∧ (e = 31 ∨ FitsUnder t vals e) ∧
      (∀ j, -31 ≤ j → j < e → ¬ FitsUnder t vals j) ∧
      (∀ (k : Nat) (v : FVal) (c : Nat), vals[k]? = some v → (encodeBlock t vals).2.1[k]? = some c →
        ∃ fl, EncodesTo t e v.rat c fl) ∧
      (encodeBlock t vals).2.2 = (if ∃ v ∈ vals, fieldMag t e 7 < |v.rat| then flOF else 0) |||
        if (vals.zip (encodeBlock t vals).2.1).any fun p => scaledCode t e p.2 != p.1.rat then flNX else 0 := by
  obtain ⟨hlo, hhi, hfits, hleast⟩ := chooseScale_spec t hfin
  rw [encodeBlock_of_fin t hfin hne]
  generalize chooseScale t vals = e at hlo hhi hfits hleast ⊢
  refine ⟨e, hlo, hhi, rfl, hfits, hleast, fun k v c hv hc => ?_, ?_⟩
  · rw [List.getElem?_map, hv] at hc
    obtain rfl : (encodeOne t e v).1 = c := Option.some.inj hc
    exact ⟨_, encodeOne_encodesTo t e (hfin v (List.mem_of_getElem? hv))⟩
  · dsimp only
    rw [List.map_congr_left fun v hv => (encodeOne_encodesTo t e (hfin v hv)).flags, orFlags_or, orFlags_ite, orFlags_ite]
    have hzip : vals.zip (vals.map fun v => (encodeOne t e v).1) = vals.map fun v => (v, (encodeOne t e v).1) := by
      simpa only [List.map_id'] using List.zip_map' (f := fun v => v) (g := fun v => (encodeOne t e v).1) (l := vals)
    refine congrArg _ (if_congr ?_ rfl rfl)
    rw [hzip, List.any_map, List.any_eq_true]
    simp

end Sys2Proof.Machine
end

section
/-! PROOFS. The code instructions (spec/07_scaled_and_matrix.md R149 to R153): blocks of codes with their scales as elements, and O39. -/

namespace Sys2Proof.Machine

/-! ## Blocks of elements written with their scales (R153) -/

/-- The elements of block b below c. -/
def blockIdx (c b : Nat) : List Nat := rangeList (32 * b) (min (32 * b + 32) c)

theorem mem_blockIdx {c b i : Nat} : i ∈ blockIdx c b ↔ i / 32 = b ∧ i < c := by
  unfold blockIdx
  rw [mem_rangeList]
  omega

theorem blockIdx_length (c b : Nat) : (blockIdx c b).length = min (32 * b + 32) c - 32 * b := by
  unfold blockIdx rangeList
  rw [List.length_map, List.length_range]

/-- The elements of a block with its codes, in their order. -/
theorem zip_blockIdx {c b : Nat} {codes : List Nat} (hlen : codes.length = (blockIdx c b).length) :
    (blockIdx c b).zip codes = (blockIdx c b).map fun i => (i, (codes[i % 32]?).getD 0) := by
  refine List.ext_getElem (by simp [hlen]) fun k h1 h2 => ?_
  rw [List.length_map] at h2
  have hget : (blockIdx c b)[k] = 32 * b + k := by simp [blockIdx, rangeList]
  have hk : k < 32 := by
    rw [blockIdx_length] at h2
    omega
  rw [List.getElem_zip, List.getElem_map, hget, show (32 * b + k) % 32 = k by omega, List.getElem?_eq_getElem (hlen ▸ h2)]
  rfl

/-- One block written: its scale as byte b of v31, its codes as elements of the group at d. -/
def Arch.putBlock (a : Arch) (rows d c b : Nat) (scale : Nat) (codes : List Nat) : Arch :=
  (a.setElem rows 31 8 b scale).putElems rows d 4 ((blockIdx c b).zip codes)

/-- The first n blocks have been written. -/
structure BlocksWritten (a : Arch) (rows d mult c : Nat) (scale : Nat → Nat) (codes : Nat → List Nat) (n : Nat) (y : Arch) : Prop where
  frame : y = { a with v := y.v }
  others : ∀ r, r ∉ regsFrom d mult ++ [31] → y.vreg r = a.vreg r
  scales : ∀ b, b < 256 * rows → y.elem rows 31 8 b = if b < n then scale b % 2 ^ 8 else a.elem rows 31 8 b
  codes : ∀ k, k < mult * regBits rows / 4 →
    y.elem rows d 4 k = if k < c ∧ k / 32 < n then ((codes (k / 32))[k % 32]?).getD 0 % 2 ^ 4 else a.elem rows d 4 k

/-- The code of element i in its block, as a result without flags. -/
def codeResult (codes : List Nat) (i : Nat) : Option (Nat × BitVec 5) := some ((codes[i % 32]?).getD 0, 0)

section
variable {a y : Arch} {rows d mult c n : Nat} {scale : Nat → Nat} {codes : Nat → List Nat}

theorem scale_reg {rows b : Nat} (h : b < 256 * rows) : 31 + b * 8 / regBits rows = 31 := by
  rw [Nat.div_eq_of_lt (by unfold regBits; omega)]

theorem BlocksWritten.succ (h : BlocksWritten a rows d mult c scale codes n y) (hfit : GroupFits rows d 4 mult) (h31 : d + mult ≤ 31)
    (hn : n < 256 * rows) (hc : c ≤ mult * regBits rows / 4) (hlen : (codes n).length = (blockIdx c n).length) :
    BlocksWritten a rows d mult c scale codes (n + 1) (y.putBlock rows d c n (scale n) (codes n)) := by
  have hr : 0 < rows := by omega
  have hidx : ∀ i ∈ blockIdx c n, d + i * 4 / regBits rows < 32 := fun i hi => hfit.reg_lt ((mem_blockIdx.1 hi).2.trans_le hc)
  have hnodup : (blockIdx c n).Nodup := rangeList_nodup ..
  unfold Arch.putBlock
  rw [zip_blockIdx hlen, putElems_eq_writeElems (f := codeResult (codes n)) _ fun i _ => ⟨0, rfl⟩]
  have hframe := writeElems_frame rows d 4 (codeResult (codes n)) (blockIdx c n) (y.setElem rows 31 8 n (scale n))
  have hvreg := fun r => writeElems_vreg (idx := blockIdx c n) rows d 4 (codeResult (codes n)) (y.setElem rows 31 8 n (scale n)) r
  have helem := fun j => writeElems_getD (codeResult (codes n)) (y.setElem rows 31 8 n (scale n)) j hr hfit.rows_le hfit.dvd hnodup hidx
  generalize (writeElems (y.setElem rows 31 8 n (scale n)) rows d 4 (codeResult (codes n)) (blockIdx c n)).1 = z at *
  refine ⟨?_, fun r hr' => ?_, fun b hb => ?_, fun k hk => ?_⟩
  · rw [hframe, Arch.setElem_eq, h.frame]
  · rw [hvreg, Arch.vreg_setElem_ne, h.others r hr']
    · rw [scale_reg hn]
      rintro rfl
      simp at hr'
    · intro i hi
      exact ne_reg_of_not_mem (fun q => hr' (List.mem_append_left _ q)) ((mem_blockIdx.1 hi).2.trans_le hc)
  · have hz : z.elem rows 31 8 b = (y.setElem rows 31 8 n (scale n)).elem rows 31 8 b := by
      refine Arch.elem_congr _ _ _ _ (hvreg _ fun i hi => ?_)
      rw [scale_reg hb]
      refine ne_reg_of_not_mem (n := mult) ?_ ((mem_blockIdx.1 hi).2.trans_le hc)
      rw [mem_regsFrom]
      omega
    rw [hz, Arch.elem_setElem _ _ _ hr hfit.rows_le (dvd_regBits (by norm_num) _) (by rw [scale_reg hn]; norm_num), h.scales b hb]
    by_cases hbn : b = n
    · rw [if_pos hbn, if_pos (by omega), hbn]
    · rw [if_neg hbn]
      exact if_congr (by omega) rfl rfl
  · have hold : (y.setElem rows 31 8 n (scale n)).elem rows d 4 k = y.elem rows d 4 k := by
      refine Arch.elem_congr _ _ _ _ (Arch.vreg_setElem_ne _ _ ?_)
      have := reg_lt_of_lt hk
      rw [scale_reg hn]
      omega
    rw [helem, hold, h.codes k hk]
    by_cases hkn : k / 32 = n
    · by_cases hkc : k < c
      · rw [if_pos (mem_blockIdx.2 ⟨hkn, hkc⟩), hkn]
        exact (if_pos ⟨hkc, Nat.lt_succ_self n⟩).symm
      · rw [if_neg (fun q => hkc (mem_blockIdx.1 q).2), if_neg (fun q => hkc q.1), if_neg (fun q => hkc q.1)]
    · rw [if_neg (fun q => hkn (mem_blockIdx.1 q).1)]
      exact if_congr (by omega) rfl rfl

theorem blocksWritten_foldl (hfit : GroupFits rows d 4 mult) (h31 : d + mult ≤ 31) (hn : n ≤ 256 * rows) (hc : c ≤ mult * regBits rows / 4)
    (hlen : ∀ b, (codes b).length = (blockIdx c b).length) :
    BlocksWritten a rows d mult c scale codes n ((List.range n).foldl (fun y b => y.putBlock rows d c b (scale b) (codes b)) a) := by
  induction n with
  | zero => exact ⟨rfl, fun _ _ => rfl, fun _ _ => rfl, fun _ _ => (if_neg fun q => Nat.not_lt_zero _ q.2).symm⟩
  | succ n ih =>
    rw [List.range_succ, List.foldl_append]
    exact (ih (by omega)).succ hfit h31 (by omega) hc (hlen n)

end

/-- The group at d and v31 after the first n blocks have been written, and then the group's tail from c. -/
def Arch.encoded (a : Arch) (rows d c n : Nat) (scale : Nat → Nat) (codes : Nat → List Nat) : Arch :=
  ((List.range n).foldl (fun y b => y.putBlock rows d c b (scale b) (codes b)) a).tailFrom rows d 4 c

section
variable {a : Arch} {rows d mult c n : Nat} {scale : Nat → Nat} {codes : Nat → List Nat} (hfit : GroupFits rows d 4 mult) (h31 : d + mult ≤ 31)
  (hn : n ≤ 256 * rows) (hc : c ≤ mult * regBits rows / 4) (hlen : ∀ b, (codes b).length = (blockIdx c b).length)
  (hpos : a.positions 4 = mult * regBits rows / 4)
include hfit h31 hn hc hlen

theorem Arch.encoded_frame : a.encoded rows d c n scale codes = { a with v := (a.encoded rows d c n scale codes).v } := by
  have hblocks := (blocksWritten_foldl (a := a) (scale := scale) hfit h31 hn hc hlen).frame
  unfold Arch.encoded
  generalize (List.range n).foldl (fun y b => y.putBlock rows d c b (scale b) (codes b)) a = y at hblocks ⊢
  have htail := y.tailFrom_frame rows d 4 c
  generalize y.tailFrom rows d 4 c = z at htail ⊢
  rw [htail, hblocks]

include hpos

theorem Arch.encoded_vreg {r : Nat} (hr : r ∉ regsFrom d mult ++ [31]) : (a.encoded rows d c n scale codes).vreg r = a.vreg r := by
  have hblocks := blocksWritten_foldl (a := a) (scale := scale) hfit h31 hn hc hlen
  unfold Arch.encoded
  generalize (List.range n).foldl (fun y b => y.putBlock rows d c b (scale b) (codes b)) a = y at hblocks ⊢
  rw [Arch.tailFrom_vreg (n := mult) c (by rw [hblocks.frame]; exact hpos) fun q => hr (List.mem_append_left _ q), hblocks.others r hr]

theorem Arch.encoded_scale {b : Nat} (hb : b < 256 * rows) :
    (a.encoded rows d c n scale codes).elem rows 31 8 b = if b < n then scale b % 2 ^ 8 else a.elem rows 31 8 b := by
  have hblocks := blocksWritten_foldl (a := a) (scale := scale) hfit h31 hn hc hlen
  rw [← hblocks.scales b hb]
  unfold Arch.encoded
  generalize (List.range n).foldl (fun y b => y.putBlock rows d c b (scale b) (codes b)) a = y at hblocks ⊢
  refine Arch.elem_congr _ _ _ _ (Arch.tailFrom_vreg (n := mult) c (by rw [hblocks.frame]; exact hpos) ?_)
  rw [scale_reg hb, mem_regsFrom]
  omega

theorem Arch.encoded_code (hall : c ≤ 32 * n) {k : Nat} (hk : k < mult * regBits rows / 4) : (a.encoded rows d c n scale codes).elem rows d 4 k =
    if k < c then ((codes (k / 32))[k % 32]?).getD 0 % 2 ^ 4 else if tailZero a.vtype then 0 else a.elem rows d 4 k := by
  have hblocks := blocksWritten_foldl (a := a) (scale := scale) hfit h31 hn hc hlen
  have hcodes := hblocks.codes k hk
  have hframe := hblocks.frame
  unfold Arch.encoded
  generalize (List.range n).foldl (fun y b => y.putBlock rows d c b (scale b) (codes b)) a = y at hcodes hframe ⊢
  rw [Arch.tailFrom_elem c (by rw [hframe]; exact hpos) hfit hk, hcodes, show y.vtype = a.vtype by rw [hframe]]
  by_cases hkc : k < c
  · rw [if_pos hkc, if_pos ⟨hkc, by omega⟩, if_pos hkc]
  · rw [if_neg hkc, if_neg hkc, if_neg (show ¬ (k < c ∧ k / 32 < n) from fun q => hkc q.1)]

end

/-! ## venc4 completes (R153) -/

section
variable {s : State} {ct : CodeType} {d a : VReg}

/-- Block b of the elements below VL, encoded. -/
def State.encodedBlock (s : State) (ct : CodeType) (a : VReg) (b : Nat) : Nat × List Nat × BitVec 5 :=
  encodeBlock ct ((blockIdx (s.arch s.cur).vl b).map fun k => s.num a k)

theorem State.encodedBlock_length (s : State) (ct : CodeType) (a : VReg) (b : Nat) :
    (s.encodedBlock ct a b).2.1.length = (blockIdx (s.arch s.cur).vl b).length := by
  unfold State.encodedBlock
  rw [encodeBlock_length, List.length_map]

theorem State.encodeTo_eq (s : State) (ct : CodeType) (d a : VReg) : s.encodeTo ct d a =
    s.ran ((s.arch s.cur).encoded (s.rows s.cur) d.toNat (s.arch s.cur).vl (((s.arch s.cur).vl + 31) / 32) (fun b => (s.encodedBlock ct a b).1)
      fun b => (s.encodedBlock ct a b).2.1)
      (orFlags ((List.range (((s.arch s.cur).vl + 31) / 32)).map fun b => (s.encodedBlock ct a b).2.2)) := by
  unfold State.encodeTo State.encodedBlocks
  dsimp only
  rw [List.foldl_map, List.map_map]
  rfl

theorem sixteen_le_widthOf {img : BitVec 16} (h : 2 ≤ ewOf img) : 16 ≤ widthOf img :=
  Nat.mul_le_mul_left 4 (Nat.pow_le_pow_right (n := 2) (by norm_num) h)

theorem groupOk_of_codeGroupOk {v mult : Nat} (h : codeGroupOk v mult = true) : groupOk v mult = true := by
  unfold codeGroupOk at h
  rw [Bool.and_eq_true] at h
  exact h.1

theorem codeGroupOk_le {v mult : Nat} (h : codeGroupOk v mult = true) : v + mult ≤ 31 := by
  unfold codeGroupOk at h
  rw [Bool.and_eq_true, decide_eq_true_eq] at h
  exact h.2

variable (hready : VectorReady s) (hlo : 2 ≤ ewOf (s.arch s.cur).vtype) (hd : codeGroupOk d.toNat (multOf (s.arch s.cur).vtype) = true)
  (ha : codeGroupOk a.toNat (multOf (s.arch s.cur).vtype) = true)
include hready hlo

theorem VectorReady.vl_le_codes : (s.arch s.cur).vl ≤ multOf (s.arch s.cur).vtype * regBits (s.rows s.cur) / 4 :=
  hready.vl_le (by norm_num) ((sixteen_le_widthOf hlo).trans' (by norm_num))

/-- The scales of the blocks of the elements below VL have room in one register. -/
theorem VectorReady.blocks_le : ((s.arch s.cur).vl + 31) / 32 ≤ 256 * s.rows s.cur := by
  have hvl := hready.vl_le (w := 16) (by norm_num) (sixteen_le_widthOf hlo)
  have hmult : multOf (s.arch s.cur).vtype * regBits (s.rows s.cur) ≤ 8 * regBits (s.rows s.cur) := Nat.mul_le_mul_right _ (multOf_le _)
  unfold regBits at hvl hmult
  omega

include hd ha

theorem venc4_completes : Completes s (.venc4 ct d a) (groupRegs s d ++ [31])
    ((s.arch s.cur).encoded (s.rows s.cur) d.toNat (s.arch s.cur).vl (((s.arch s.cur).vl + 31) / 32) (fun b => (s.encodedBlock ct a b).1)
      fun b => (s.encodedBlock ct a b).2.1)
    (orFlags ((List.range (((s.arch s.cur).vl + 31) / 32)).map fun b => (s.encodedBlock ct a b).2.2)) := by
  refine Completes.of_whole (g := fun _ s => .ok (s.encodeTo ct d a)) ⟨_, rfl, issueCheck_of_true (by simp [hlo, hd, ha])⟩ (fun u mb hu hmb => ?_) ?_
  · obtain rfl : memberVenc4 ct d a u = mb := Option.some.inj hmb
    refine ⟨congrArg (· ++ [31]) (hu.groupRegs d), rfl, rfl, rfl, ?_⟩
    rw [State.encodeTo_eq, hu.cur, hu.arch, hu.rows]
    have hblock : u.encodedBlock ct a = s.encodedBlock ct a := by
      funext b
      unfold State.encodedBlock State.num State.el
      rw [hu.cur, hu.arch, hu.rows]
    rw [hblock]
  · have hframe := Arch.encoded_frame (a := s.arch s.cur) (scale := fun b => (s.encodedBlock ct a b).1)
      (s.groupFits (groupOk_of_codeGroupOk hd) (by norm_num)) (codeGroupOk_le hd)
      (hready.blocks_le hlo) (hready.vl_le_codes hlo) (s.encodedBlock_length ct a)
    generalize (s.arch s.cur).encoded _ _ _ _ _ _ = y at hframe ⊢
    have hx : y.x = (s.arch s.cur).x := by rw [hframe]
    have hnests : y.nests = (s.arch s.cur).nests := by rw [hframe]
    rw [hx, hnests]
    exact hframe

/-- venc4 leaves the scales in v31 and the codes in the group at d. -/
theorem venc4_writes (hfree : s.Writable (groupRegs s d ++ [31])) :
    ∃ t, exec (.venc4 ct d a) s = .next t ∧
      VectorRetires s t (.venc4 ct d a) (groupRegs s d ++ [31])
        (orFlags ((List.range (((s.arch s.cur).vl + 31) / 32)).map fun b => (s.encodedBlock ct a b).2.2)) ∧
      (t.arch s.cur).x = (s.arch s.cur).x ∧ (t.arch s.cur).nests = (s.arch s.cur).nests ∧ SameVregs s t (groupRegs s d ++ [31]) ∧
      GroupHolds s t d.toNat 4 (s.arch s.cur).vl (fun k => ((s.encodedBlock ct a (k / 32)).2.1)[k % 32]?) ∧
      ∀ b, b < 256 * s.rows s.cur →
        t.el 31 8 b = if b < ((s.arch s.cur).vl + 31) / 32 then (s.encodedBlock ct a b).1 else s.el 31 8 b := by
  have hfit := s.groupFits (groupOk_of_codeGroupOk hd) (w := 4) (by norm_num)
  have h31 := codeGroupOk_le hd
  have hn := hready.blocks_le hlo
  have hc := hready.vl_le_codes hlo
  have hlen := s.encodedBlock_length ct a
  have hpos := hready.positions_eq 4
  obtain ⟨t, hexec, hret, hx, hv, hnests⟩ := (venc4_completes (ct := ct) hready hlo hd ha).retires hready hfree
  have hframe := Arch.encoded_frame (a := s.arch s.cur) (scale := fun b => (s.encodedBlock ct a b).1) hfit h31 hn hc hlen
  refine ⟨t, hexec, hret, ?_, ?_, fun r _ hr => ?_, fun k hk => ?_, fun b hb => ?_⟩
  · rw [hx, hframe]
  · rw [hnests, hframe]
  · rw [Arch.vreg_congr hv]
    exact Arch.encoded_vreg hfit h31 hn hc hlen hpos hr
  · rw [Arch.elem_congr _ _ _ _ (Arch.vreg_congr hv _), Arch.encoded_code hfit h31 hn hc hlen hpos (by omega) (hk.trans_eq hpos)]
    by_cases hkc : k < (s.arch s.cur).vl
    · have hlt : k % 32 < (s.encodedBlock ct a (k / 32)).2.1.length := by
        rw [hlen, blockIdx_length]
        omega
      rw [if_pos hkc, if_pos hkc]
      dsimp only
      rw [List.getElem?_eq_getElem hlt]
      rfl
    · rw [if_neg hkc, if_neg hkc]
      rfl
  · rw [hret.el_eq, Arch.elem_congr _ _ _ _ (Arch.vreg_congr hv _), Arch.encoded_scale hfit h31 hn hc hlen hpos hb,
      show (s.encodedBlock ct a b).1 % 2 ^ 8 = (s.encodedBlock ct a b).1 from Nat.mod_eq_of_lt (encodeBlock_fst_lt ct _)]
    rfl

end

/-! ## vdec4 (R152) -/

theorem vdec4_elementMember {s : State} {m : Bool} {d a : VReg}
    (hew : ewOf (s.arch s.cur).vtype = 2 ∧ (s.arch s.cur).vtype.getLsbD 6 = true ∨ 3 ≤ ewOf (s.arch s.cur).vtype)
    (hd : codeGroupOk d.toNat (multOf (s.arch s.cur).vtype) = true) (ha : codeGroupOk a.toNat (multOf (s.arch s.cur).vtype) = true) :
    ElementMember s (.vdec4 m d a) d (widthOf (s.arch s.cur).vtype) fun k => if s.on m k = true then
      some ((rne (fmtOf (s.arch s.cur).vtype) (codeValue (s.el a.toNat 4 k) (s.el 31 8 (k / 32)))).1, 0) else none where
  issue := by
    refine ⟨_, rfl, issueCheck_of_true ?_⟩
    rcases hew with ⟨h2, h6⟩ | h3
    · simp [h2, h6, hd, ha, groupOk_of_codeGroupOk hd]
    · simp [h3, hd, ha, groupOk_of_codeGroupOk hd]
  run u mb hu hmb := by
    obtain rfl := Option.some.inj hmb
    have hw : widthOf (u.arch u.cur).vtype = widthOf (s.arch s.cur).vtype := by rw [hu.cur, hu.arch]
    refine ⟨rfl, rfl, rfl, ?_⟩
    unfold memberVdec4 elemMember
    dsimp only
    refine ⟨_, _, rfl, hw, ?_⟩
    rw [hu.cur, hu.arch, hu.rows]
    rfl

/-! ## O39 -/

/-- Settles O39: vdec4 runs element by element; venc4 writes block after block, and its blocks are what the search for the exponent and for the
nearest field find. -/
theorem codeInstructionsComplete : Obligations.CodeInstructionsComplete := by
  unfold Obligations.CodeInstructionsComplete
  intro s m ct d a
  dsimp only
  intro hready hd ha hd' ha'
  refine ⟨fun hew hfree => ?_, fun hlo hfree => ?_, fun code scale hcode _ ht => ?_, fun vals => ⟨fun h => ?_, fun h => ?_, fun hfin hne => ?_⟩⟩
  · exact (vdec4_elementMember hew (codeGroupOk_of hd hd') (codeGroupOk_of ha ha')).elementwise hready hd hfree (widthOf_dvd hready.width)
      (hready.vl_le_positions (widthOf_pos _) le_rfl)
  · exact venc4_writes hready hlo (codeGroupOk_of hd hd') (codeGroupOk_of ha ha') hfree
  · exact ⟨fun h => if_pos h, codeValue_spec hcode ht⟩
  · rw [encodeBlock_of_not_fin ct h]
    cases ct <;> rfl
  · rw [encodeBlock_of_zero ct h]
    cases ct <;> rfl
  · obtain ⟨e, hlo, hhi, hscale, hfits, hleast, hcodes, hflags⟩ := encodeBlock_spec ct hfin hne
    simp only [FitsUnder, ← codeLimit_mul_zpow] at hfits hleast hflags
    refine ⟨e, hlo, hhi, ?_, hfits, fun j hj hje => ?_, encodeBlock_length ct vals, fun k v c hv hc => ?_, hflags⟩
    · rw [hscale]
      cases ct <;> rfl
    · have := hleast j hj hje
      push Not at this
      exact this
    · obtain ⟨fl, hlt, h8, hzero, hbeyond, hnearest, -⟩ := hcodes k v c hv hc
      rw [← codeLimit_mul_zpow] at hbeyond hnearest
      exact ⟨hlt, h8, hzero, hbeyond, hnearest⟩

end Sys2Proof.Machine
end

section
/-! PROOFS. Scalar integer instructions (spec/04_scalar_arithmetic.md R97 to R99, spec/03_number_formats.md R61, R62): the operations on words as
arithmetic on the numbers that they stand for, the counts of bits, and O1 and O2. -/

namespace Sys2Proof.Machine

/-! ## Sums, products and shifts as numbers (R61) -/

theorem sub_eq_ofInt (a b : Word) : a - b = BitVec.ofInt 64 (a.toNat - b.toNat) := by
  apply BitVec.eq_of_toNat_eq
  rw [BitVec.toNat_sub, BitVec.toNat_ofInt]
  omega

/-- A signed field added to a word. -/
theorem add_signExtend_eq_ofInt (a : Word) (k : BitVec 16) : a + k.signExtend 64 = BitVec.ofInt 64 (a.toNat + k.toInt) := by
  rw [BitVec.ofInt_add, BitVec.ofInt_natCast, BitVec.ofNat_toNat, BitVec.setWidth_eq]
  rfl

theorem shiftLeft_eq_ofNat (a : Word) (n : Nat) : a <<< n = BitVec.ofNat 64 (a.toNat * 2 ^ n) := by
  apply BitVec.eq_of_toNat_eq
  rw [BitVec.toNat_shiftLeft, BitVec.toNat_ofNat, Nat.shiftLeft_eq]

/-- A signed field shifted left. -/
theorem signExtend_shiftLeft_eq_ofInt (k : BitVec 16) (n : Nat) : k.signExtend 64 <<< n = BitVec.ofInt 64 (k.toInt * 2 ^ n) := by
  have htwo : BitVec.twoPow 64 n = BitVec.ofInt 64 (2 ^ n) := by
    apply BitVec.eq_of_toNat_eq
    rw [← Nat.cast_ofNat (R := Int), ← Nat.cast_pow, BitVec.ofInt_natCast, BitVec.toNat_twoPow, BitVec.toNat_ofNat]
  rw [BitVec.shiftLeft_eq_mul_twoPow, BitVec.ofInt_mul, htwo]
  rfl

theorem ushiftRight_eq_ofNat (a : Word) (n : Nat) : a >>> n = BitVec.ofNat 64 (a.toNat / 2 ^ n) := by
  rw [← Nat.shiftRight_eq_div_pow, ← BitVec.toNat_ushiftRight, BitVec.ofNat_toNat, BitVec.setWidth_eq]

theorem sshiftRight_eq_ofInt (a : Word) (n : Nat) : a.sshiftRight n = BitVec.ofInt 64 (a.toInt / 2 ^ n) := by
  rw [← BitVec.ofInt_toInt (x := a.sshiftRight n), BitVec.toInt_sshiftRight, Int.shiftRight_eq_div_pow]
  push_cast
  rfl

theorem shiftAmount_eq (b : Word) : shiftAmount b = b.toNat % 64 := by
  rw [shiftAmount, BitVec.extractLsb'_toNat]
  rfl

/-- The high half of a number of 128 bits. -/
theorem high_of_ofInt (p : Int) : (BitVec.ofInt 128 p).extractLsb' 64 64 = BitVec.ofInt 64 (p / 2 ^ 64) := by
  apply BitVec.eq_of_toNat_eq
  rw [BitVec.extractLsb'_toNat, BitVec.toNat_ofInt, BitVec.toNat_ofInt, Nat.shiftRight_eq_div_pow]
  omega

theorem high_of_signed_product (a b : Word) :
    BitVec.ofInt 64 (a.toInt * b.toInt / 2 ^ 64) = (a.signExtend 128 * b.signExtend 128).extractLsb' 64 64 := by
  rw [← high_of_ofInt, BitVec.ofInt_mul]
  rfl

theorem high_of_unsigned_product (a b : Word) :
    BitVec.ofNat 64 (a.toNat * b.toNat / 2 ^ 64) = (a.zeroExtend 128 * b.zeroExtend 128).extractLsb' 64 64 := by
  have h := high_of_ofInt ((a.toNat * b.toNat : Nat) : Int)
  rw [BitVec.ofInt_natCast, BitVec.ofNat_mul, BitVec.ofNat_toNat, BitVec.ofNat_toNat] at h
  rw [h, ← BitVec.ofInt_natCast]
  push_cast
  rfl

/-- The cases of R62, the quotient of -2^63 by -1 among them. -/
theorem quotS_eq (a b : Word) : quotS a b =
    if b = 0 then BitVec.allOnes 64
    else if a = BitVec.intMin 64 ∧ b = BitVec.allOnes 64 then BitVec.intMin 64
    else BitVec.ofInt 64 (Int.tdiv a.toInt b.toInt) := by
  unfold quotS
  refine ite_congr rfl (fun _ => rfl) fun _ => ?_
  split
  next h =>
    rw [h.1, h.2]
    decide
  next => rfl

/-! ## Counts of bits (R97) -/

/-- A predicate that holds below k and not at k is met by k numbers before it first fails. -/
theorem length_takeWhile_range {p : Nat → Bool} {n k : Nat} (hle : k ≤ n) (hbelow : ∀ i < k, p i = true) (hat : k < n → p k = false) :
    ((List.range n).takeWhile p).length = k := by
  have hsplit : List.range n = List.range k ++ (List.range (n - k)).map (k + ·) := by
    rw [← List.range_add, Nat.add_sub_cancel' hle]
  rw [hsplit, List.takeWhile_append_of_pos fun i hi => hbelow i (List.mem_range.1 hi)]
  cases hn : n - k with
  | zero => simp
  | succ m => simp [List.range_succ_eq_map, hat (by omega)]

theorem leadingZeros_eq (a : Word) : leadingZeros a = ((List.range 64).takeWhile fun i => !a.getMsbD i).length := by
  symm
  unfold leadingZeros
  split
  next h =>
    subst h
    exact length_takeWhile_range le_rfl (fun i _ => by simp) fun h => absurd h (lt_irrefl _)
  next h =>
    have hne : a.toNat ≠ 0 := fun h0 => h (BitVec.eq_of_toNat_eq h0)
    have hlog : a.toNat.log2 < 64 := (Nat.log2_lt hne).2 a.isLt
    refine length_takeWhile_range (by omega) (fun i hi => ?_) fun _ => ?_
    · have hlow : a.toNat < 2 ^ (64 - 1 - i) := (Nat.log2_lt hne).1 (by omega)
      rw [BitVec.getMsbD_eq_getLsbD, BitVec.getLsbD, Nat.testBit_lt_two_pow hlow, Bool.and_false]
      rfl
    · rw [BitVec.getMsbD_eq_getLsbD, BitVec.getLsbD, show 64 - 1 - (63 - a.toNat.log2) = a.toNat.log2 by omega, Nat.testBit_log2 hne,
        decide_eq_true (by omega)]
      rfl

theorem trailingZeros_eq (a : Word) : trailingZeros a = ((List.range 64).takeWhile fun i => !a.getLsbD i).length := by
  symm
  unfold trailingZeros
  cases h : (List.range 64).find? fun i => a.getLsbD i with
  | none => exact length_takeWhile_range le_rfl (List.find?_range_eq_none.1 h) fun h => absurd h (lt_irrefl _)
  | some k =>
    obtain ⟨hat, hmem, hbelow⟩ := List.find?_range_eq_some.1 h
    exact length_takeWhile_range (List.mem_range.1 hmem).le hbelow fun _ => by simp [hat]

/-- Counting by a fold is counting what a filter keeps. -/
theorem foldl_count_eq {α : Type} (p : α → Bool) (l : List α) (n : Nat) :
    l.foldl (fun n x => if p x then n + 1 else n) n = n + (l.filter p).length := by
  induction l generalizing n with
  | nil => rfl
  | cons x l ih =>
    rw [List.foldl_cons, ih]
    cases hx : p x
    · rw [List.filter_cons_of_neg (by simp [hx])]
      rfl
    · rw [List.filter_cons_of_pos hx, List.length_cons, if_pos rfl]
      omega

theorem onesCount_eq (a : Word) : onesCount a = ((List.range 64).filter a.getLsbD).length := by
  rw [onesCount, foldl_count_eq, Nat.zero_add]

/-! ## O1 and O2 -/

/-- An instruction that completes with a value, under another description of the value. -/
theorem writes_of_completeX_of_eq {s : State} {i : Instr} {d : XReg} {v w : Word} (h : exec i s = s.completeX d v) (hw : v = w) :
    Writes s i d w := hw ▸ writes_of_completeX h

/-- Settles O1: every arm is `completeX` of an operation on words, which is the value of R97. -/
theorem integerInstructionsComplete : Obligations.IntegerInstructionsComplete := by
  unfold Obligations.IntegerInstructionsComplete
  intro s d a b
  have add : s.x a + s.x b = BitVec.ofNat 64 ((s.x a).toNat + (s.x b).toNat) := by simp [BitVec.ofNat_add]
  have mul : s.x a * s.x b = BitVec.ofNat 64 ((s.x a).toNat * (s.x b).toNat) := by simp [BitVec.ofNat_mul]
  exact ⟨writes_of_completeX_of_eq rfl add, writes_of_completeX_of_eq rfl (sub_eq_ofInt _ _), writes_of_completeX rfl, writes_of_completeX rfl,
    writes_of_completeX rfl,
    writes_of_completeX_of_eq rfl (by rw [shiftLeft_eq_ofNat, shiftAmount_eq]),
    writes_of_completeX_of_eq rfl (by rw [ushiftRight_eq_ofNat, shiftAmount_eq]),
    writes_of_completeX_of_eq rfl (by rw [sshiftRight_eq_ofInt, shiftAmount_eq]),
    writes_of_completeX rfl, writes_of_completeX rfl, writes_of_completeX_of_eq rfl mul,
    writes_of_completeX_of_eq rfl (high_of_signed_product _ _), writes_of_completeX_of_eq rfl (high_of_unsigned_product _ _),
    writes_of_completeX_of_eq rfl (quotS_eq _ _), writes_of_completeX rfl,
    writes_of_completeX_of_eq rfl (congrArg _ (leadingZeros_eq _)), writes_of_completeX_of_eq rfl (congrArg _ (trailingZeros_eq _)),
    writes_of_completeX_of_eq rfl (congrArg _ (onesCount_eq _))⟩

/-- Settles O2: every arm is `completeX` of an operation on words, which is the value of R98 or R99. -/
theorem immediateInstructionsComplete : Obligations.ImmediateInstructionsComplete := by
  unfold Obligations.ImmediateInstructionsComplete
  intro s d a k n
  have zext : k.zeroExtend 64 = BitVec.ofNat 64 k.toNat := (BitVec.ofNat_toNat 64 k).symm
  have adr : s.pc + k.signExtend 64 <<< 2 = BitVec.ofInt 64 (s.pc.toNat + k.toInt * 4) := by
    rw [signExtend_shiftLeft_eq_ofInt, BitVec.ofInt_add, BitVec.ofInt_natCast, BitVec.ofNat_toNat, BitVec.setWidth_eq]
    rfl
  exact ⟨writes_of_completeX_of_eq rfl (add_signExtend_eq_ofInt _ _), writes_of_completeX_of_eq rfl (congrArg _ zext),
    writes_of_completeX_of_eq rfl (congrArg _ zext), writes_of_completeX_of_eq rfl (congrArg _ zext),
    writes_of_completeX_of_eq rfl (signExtend_shiftLeft_eq_ofInt _ _), writes_of_completeX_of_eq rfl adr,
    writes_of_completeX_of_eq rfl (shiftLeft_eq_ofNat _ _), writes_of_completeX_of_eq rfl (ushiftRight_eq_ofNat _ _),
    writes_of_completeX_of_eq rfl (sshiftRight_eq_ofInt _ _)⟩

end Sys2Proof.Machine
end

section
/-! PROOFS. Scalar floating point (spec/04_scalar_arithmetic.md R100, R101, spec/03_number_formats.md R66 to R75): the square root, quotients and roots
of special values, the least and the greatest of two patterns, comparisons, conversions to and from integers, and O3. -/

namespace Sys2Proof.Machine

/-! ## Results fit their format -/

theorem roundFin_lt (f : Fmt) (neg : Bool) (m : Nat) (e : Int) (sticky : Bool) : (roundFin f .standard neg m e sticky).1 < 2 ^ f.width := by
  have hover : overflowBits f .standard < f.signBit := (overflowBits_cases f).elim (·.trans_lt f.maxFinite_lt) (·.trans_lt f.infBits_lt)
  rw [roundFin_eq]
  dsimp only
  split
  · exact withSign_lt neg hover
  · split
    · exact withSign_lt neg (Nat.two_pow_pos _)
    · split
      · exact withSign_lt neg hover
      next hle => exact withSign_lt neg ((not_lt.1 hle).trans_lt f.maxFinite_lt)

theorem pack_lt (f : Fmt) (v : FVal) (sticky : Bool) : (pack f .standard v sticky).1 < 2 ^ f.width := by
  cases v with
  | nan _ => exact f.canonNaN_lt
  | inf n => exact withSign_lt n f.infBits_lt
  | fin n m e =>
    by_cases hm : m = 0
    · rw [pack, if_pos hm]
      exact withSign_lt n (Nat.two_pow_pos _)
    · rw [pack, if_neg hm]
      exact roundFin_lt f n m e sticky

theorem rne_lt (f : Fmt) (v : FVal) : (rne f v).1 < 2 ^ f.width := pack_lt f v false

theorem fdiv_lt (f : Fmt) (x y : FVal) : (fdiv f x y).1 < 2 ^ f.width := by
  unfold fdiv
  repeat' split
  all_goals exact pack_lt f _ _

theorem fsqrt_lt (f : Fmt) (x : FVal) : (fsqrt f x).1 < 2 ^ f.width := by
  unfold fsqrt
  repeat' split
  all_goals exact pack_lt f _ _

/-! ## The sign of a finite value -/

theorem FVal.rat_nonpos (m : Nat) (e : Int) : (FVal.fin true m e).rat ≤ 0 := by
  have h : (0 : ℚ) ≤ m * 2 ^ e := by positivity
  rw [FVal.rat_fin_eq, signedNat, if_pos rfl]
  push_cast
  linarith

theorem FVal.rat_nonneg (m : Nat) (e : Int) : 0 ≤ (FVal.fin false m e).rat := by
  rw [FVal.rat_fin_eq, signedNat, if_neg Bool.false_ne_true]
  positivity

/-! ## The square root (R70, R71) -/

/-- The search keeps the root between r and r + 2^k. -/
theorem isqrtFrom_eq_sqrt (k : Nat) {n r : Nat} (hlo : r * r ≤ n) (hhi : n < (r + 2 ^ k) * (r + 2 ^ k)) : isqrtFrom k n r = Nat.sqrt n := by
  induction k generalizing r with
  | zero => exact Nat.eq_sqrt.2 ⟨hlo, hhi⟩
  | succ k ih =>
    unfold isqrtFrom
    dsimp only
    split
    next h => exact ih h (by rwa [Nat.add_assoc, ← Nat.mul_two, ← Nat.pow_succ])
    next h => exact ih hlo (not_le.1 h)

theorem isqrt_eq_sqrt (n : Nat) : isqrt n = Nat.sqrt n := by
  refine isqrtFrom_eq_sqrt _ (Nat.zero_le _) ?_
  calc n < 2 ^ (n.log2 + 1) := Nat.lt_log2_self
    _ ≤ 2 ^ (n.log2 / 2 + 1 + (n.log2 / 2 + 1)) := Nat.pow_le_pow_right (by norm_num) (by omega)
    _ = (0 + 2 ^ (n.log2 / 2 + 1)) * (0 + 2 ^ (n.log2 / 2 + 1)) := by rw [Nat.zero_add, Nat.pow_add]

/-- The integer root, and whether the root lies above it. -/
theorem sticks_sqrt (n : Nat) : Sticks (Nat.sqrt n) (decide (Nat.sqrt n * Nat.sqrt n ≠ n)) (Real.sqrt n) where
  exact h := by
    have heq : Nat.sqrt n * Nat.sqrt n = n := by simpa using h
    rw [Real.sqrt_eq_iff_mul_self_eq (by positivity) (by positivity)]
    exact_mod_cast heq.symm
  above h := by
    have hne : Nat.sqrt n * Nat.sqrt n ≠ n := by simpa using h
    have hlt : Nat.sqrt n * Nat.sqrt n < n := lt_of_le_of_ne (Nat.sqrt_le n) hne
    refine ⟨Real.lt_sqrt_of_sq_lt ?_, (Real.sqrt_lt' (by positivity)).2 ?_⟩
    · rw [sq]
      exact_mod_cast hlt
    · rw [sq]
      exact_mod_cast Nat.lt_succ_sqrt n

/-- The root of m * 2^(2h), formed to three bits more than the format's and rounded once. -/
def sqrtAt (f : Fmt) (m : Nat) (h : Int) : Nat × BitVec 5 :=
  let n := m * 2 ^ (2 * (f.frac + 3))
  roundFin f .standard false (Nat.sqrt n) (h - (f.frac + 3 : Nat)) (decide (Nat.sqrt n * Nat.sqrt n ≠ n))

/-- The integer root has more bits than the format. -/
theorem frac_lt_log2_sqrt (f : Fmt) {m : Nat} (hm : m ≠ 0) :
    Nat.sqrt (m * 2 ^ (2 * (f.frac + 3))) ≠ 0 ∧ f.frac < Nat.log2 (Nat.sqrt (m * 2 ^ (2 * (f.frac + 3)))) := by
  have hle : 2 ^ (f.frac + 3) ≤ Nat.sqrt (m * 2 ^ (2 * (f.frac + 3))) := by
    rw [Nat.le_sqrt, ← Nat.pow_add, ← Nat.two_mul]
    exact Nat.le_mul_of_pos_left _ (Nat.pos_of_ne_zero hm)
  have hne : Nat.sqrt (m * 2 ^ (2 * (f.frac + 3))) ≠ 0 := fun h => by
    rw [h] at hle
    exact absurd hle (Nat.not_le.2 (Nat.two_pow_pos _))
  exact ⟨hne, lt_of_lt_of_le (by omega) ((Nat.le_log2 hne).2 hle)⟩

theorem sqrtAt_roundsTo (f : Fmt) {m : Nat} (h : Int) (hm : m ≠ 0) : RoundsTo f (Real.sqrt (m * 2 ^ (2 * h))) (sqrtAt f m h) := by
  obtain ⟨hne, hlog⟩ := frac_lt_log2_sqrt f hm
  have hroot : Real.sqrt (m * 2 ^ (2 * h)) =
      signOf false * (Real.sqrt (m * 2 ^ (2 * (f.frac + 3)) : Nat) * 2 ^ (h - (f.frac + 3 : Nat))) := by
    have hsplit : (m : ℝ) * 2 ^ (2 * h) = (m * 2 ^ (2 * (f.frac + 3)) : Nat) * (2 ^ (h - (f.frac + 3 : Nat))) ^ 2 := by
      rw [← zpow_natCast (2 ^ _ : ℝ), ← zpow_mul]
      push_cast
      rw [← zpow_natCast, mul_assoc, ← zpow_add₀ two_ne_zero]
      congr 2
      push_cast
      ring
    rw [hsplit, Real.sqrt_mul (by positivity), Real.sqrt_sq (by positivity)]
    exact (one_mul _).symm
  rw [hroot]
  exact roundFin_roundsTo f false _ hne (sticks_sqrt _) fun _ => hlog

/-- A positive value, at an even exponent. -/
theorem fsqrt_pos_eq (f : Fmt) {m : Nat} (e : Int) (hm : m ≠ 0) :
    fsqrt f (.fin false m e) = sqrtAt f (if e % 2 = 1 then 2 * m else m) (e / 2) := by
  have hhalf : (if e % 2 = 1 then e - 1 else e) / 2 = e / 2 := by split <;> omega
  have hm' : (if e % 2 = 1 then 2 * m else m) ≠ 0 := by split <;> omega
  unfold fsqrt
  dsimp only
  rw [if_neg hm, if_neg Bool.false_ne_true, hhalf, isqrt_eq_sqrt]
  exact if_neg (frac_lt_log2_sqrt f hm').1

theorem fsqrt_roundsTo (f : Fmt) {x : FVal} (hx : x.isFin = true) (hpos : 0 < x.rat) :
    RoundsTo f (Real.sqrt ((x.rat : ℚ) : ℝ)) (fsqrt f x) := by
  obtain ⟨neg, m, e, rfl⟩ := FVal.exists_fin hx
  have hm : m ≠ 0 := fun h => hpos.ne' ((FVal.rat_eq_zero_iff ..).2 h)
  obtain rfl : neg = false := by
    cases neg
    · rfl
    · exact absurd hpos (not_lt.2 (FVal.rat_nonpos m e))
  have hval : (((FVal.fin false m e).rat : ℚ) : ℝ) = (if e % 2 = 1 then 2 * m else m : Nat) * 2 ^ (2 * (e / 2)) := by
    rw [FVal.rat_fin, signOf, if_neg Bool.false_ne_true, one_mul]
    split
    next h =>
      rw [show e = 2 * (e / 2) + 1 by omega, zpow_add_one₀ two_ne_zero, show (2 * (e / 2) + 1) / 2 = e / 2 by omega]
      push_cast
      ring
    next h => rw [show 2 * (e / 2) = e by omega]
  rw [hval, fsqrt_pos_eq f e hm]
  exact sqrtAt_roundsTo f _ (by split <;> omega)

/-! ## Quotients and roots of special values (R70, R71) -/

theorem fdiv_of_nan (f : Fmt) {x y : FVal} (h : x.isNaN = true ∨ y.isNaN = true) :
    fdiv f x y = (f.canonNaN, if x.signals || y.signals then flNV else 0) := by
  rcases h with h | h
  · obtain ⟨q, rfl⟩ := FVal.exists_nan h
    rfl
  · obtain ⟨q, rfl⟩ := FVal.exists_nan h
    rw [Bool.or_comm]
    cases x with
    | nan s => rw [Bool.or_comm]; rfl
    | inf _ => rfl
    | fin _ _ _ => rfl

/-- A finite number that is not zero divided by zero. -/
theorem fdiv_by_zero (f : Fmt) {x y : FVal} (hx : x.isFin = true) (hy : y.isFin = true) (hx0 : x.rat ≠ 0) (hy0 : y.rat = 0) :
    fdiv f x y = (withSign f (x.isNeg != y.isNeg) f.infBits, flDZ) := by
  obtain ⟨n1, m1, e1, rfl⟩ := FVal.exists_fin hx
  obtain ⟨n2, m2, e2, rfl⟩ := FVal.exists_fin hy
  rw [Ne, FVal.rat_eq_zero_iff] at hx0
  rw [FVal.rat_eq_zero_iff] at hy0
  exact (if_pos hy0).trans (if_neg hx0)

/-- Zero divided by zero is invalid, and by another number it is zero. -/
theorem fdiv_of_zero (f : Fmt) {x y : FVal} (hx : x.isFin = true) (hy : y.isFin = true) (hx0 : x.rat = 0) :
    fdiv f x y = if y.rat = 0 then (f.canonNaN, flNV) else (withSign f (x.isNeg != y.isNeg) 0, 0) := by
  obtain ⟨n1, m1, e1, rfl⟩ := FVal.exists_fin hx
  obtain ⟨n2, m2, e2, rfl⟩ := FVal.exists_fin hy
  rw [FVal.rat_eq_zero_iff] at hx0
  simp only [FVal.rat_eq_zero_iff]
  split
  next hy0 => exact (if_pos hy0).trans (if_pos hx0)
  next hy0 => exact (if_neg hy0).trans (if_pos hx0)

theorem fdiv_fin_inf (f : Fmt) {x : FVal} (hx : x.isFin = true) (n : Bool) :
    fdiv f x (.inf n) = (withSign f (x.isNeg != n) 0, 0) ∧ fdiv f (.inf n) x = rne f (.inf (n != x.isNeg)) := by
  obtain ⟨n1, m1, e1, rfl⟩ := FVal.exists_fin hx
  exact ⟨rfl, rfl⟩

theorem fsqrt_of_neg (f : Fmt) {x : FVal} (hx : x.isFin = true) (hneg : x.rat < 0) : fsqrt f x = (f.canonNaN, flNV) := by
  obtain ⟨n, m, e, rfl⟩ := FVal.exists_fin hx
  have hm : m ≠ 0 := fun h => hneg.ne ((FVal.rat_eq_zero_iff ..).2 h)
  cases n
  · exact absurd hneg (not_lt.2 (FVal.rat_nonneg m e))
  · exact if_neg hm

theorem fsqrt_of_zero (f : Fmt) {x : FVal} (hx : x.isFin = true) (h0 : x.rat = 0) : fsqrt f x = (withSign f x.isNeg 0, 0) := by
  obtain ⟨n, m, e, rfl⟩ := FVal.exists_fin hx
  exact if_pos ((FVal.rat_eq_zero_iff ..).1 h0)

theorem fsqrt_of_nan (f : Fmt) {x : FVal} (hx : x.isNaN = true) : fsqrt f x = (f.canonNaN, if x.signals then flNV else 0) := by
  obtain ⟨q, rfl⟩ := FVal.exists_nan hx
  rfl

theorem fsqrt_inf (f : Fmt) (n : Bool) : fsqrt f (.inf n) = if n then (f.canonNaN, flNV) else rne f (.inf false) := by
  cases n <;> rfl

/-! ## Comparisons (R73) -/

theorem fcmp_of_nan (r : Rel) {x y : FVal} (h : x.isNaN = true ∨ y.isNaN = true) :
    fcmp r x y = (false, if r != .eq || x.signals || y.signals then flNV else 0) := if_pos (Bool.or_eq_true_iff.2 h)

section
variable {x y : FVal} (hx : x.isNaN = false) (hy : y.isNaN = false)
include hx hy

/-- Of two numbers, what each relation asks of their order; no flag. -/
theorem fcmp_of_not_nan (r : Rel) : fcmp r x y =
    (match r with | .eq => decide (cmpX x y = .eq) | .lt => decide (cmpX x y = .lt) | .le => decide (cmpX x y ≠ .gt), 0) := by
  unfold fcmp
  rw [hx, hy]
  cases r <;> cases cmpX x y <;> rfl

theorem cmpX_eq_lt_iff : cmpX x y = .lt ↔ x.lt y := by
  rw [cmpX_eq_compare hx hy, compare_lt_iff_lt, FVal.lt_iff_level_lt hx hy]

theorem cmpX_eq_gt_iff : cmpX x y = .gt ↔ y.lt x := by
  rw [cmpX_eq_compare hx hy, compare_gt_iff_gt, FVal.lt_iff_level_lt hy hx]

/-- The comparisons follow the order of numbers. -/
theorem fcmp_order : ((fcmp .lt x y).1 = true ↔ x.lt y) ∧ ((fcmp .le x y).1 = true ↔ ¬ y.lt x) ∧
    ((fcmp .eq x y).1 = true ↔ ¬ x.lt y ∧ ¬ y.lt x) ∧ ∀ r, (fcmp r x y).2 = 0 := by
  refine ⟨?_, ?_, ?_, fun r => by rw [fcmp_of_not_nan hx hy]⟩
  · rw [fcmp_of_not_nan hx hy, decide_eq_true_iff, cmpX_eq_lt_iff hx hy]
  · rw [fcmp_of_not_nan hx hy, decide_eq_true_iff, Ne, cmpX_eq_gt_iff hx hy]
  · rw [fcmp_of_not_nan hx hy, decide_eq_true_iff, cmpX_eq_eq_iff hx hy]

end

/-! ## Minimum and maximum (R72) -/

section
variable {f : Fmt} {a b : Nat}

theorem fminmax_of_nan (isMax : Bool) (h : (unpack f a).isNaN = true ∨ (unpack f b).isNaN = true) :
    fminmax f isMax a b = (f.canonNaN, if (unpack f a).signals || (unpack f b).signals then flNV else 0) := if_pos (Bool.or_eq_true_iff.2 h)

variable (ha : (unpack f a).isNaN = false) (hb : (unpack f b).isNaN = false)
include ha hb

theorem fminmax_of_not_nan (isMax : Bool) : fminmax f isMax a b =
    if isMax then (if ltMin (unpack f a) (unpack f b) then b else a, 0) else (if ltMin (unpack f b) (unpack f a) then b else a, 0) :=
  if_neg (by rw [ha, hb]; exact Bool.false_ne_true)

/-- The minimum is one of the two patterns and lies below neither in the order of R72. -/
theorem fminmax_min : ∃ r, fminmax f false a b = (r, 0) ∧ (r = a ∨ r = b) ∧
    (unpack f r).place ≤ (unpack f a).place ∧ (unpack f r).place ≤ (unpack f b).place := by
  refine ⟨_, fminmax_of_not_nan ha hb false, ?_⟩
  split
  next h => exact ⟨.inr rfl, ((ltMin_iff_place_lt hb ha).1 h).le, le_rfl⟩
  next h => exact ⟨.inl rfl, le_rfl, not_lt.1 (mt (ltMin_iff_place_lt hb ha).2 h)⟩

/-- The maximum is one of the two patterns and lies above neither in the order of R72. -/
theorem fminmax_max : ∃ r, fminmax f true a b = (r, 0) ∧ (r = a ∨ r = b) ∧
    (unpack f a).place ≤ (unpack f r).place ∧ (unpack f b).place ≤ (unpack f r).place := by
  refine ⟨_, fminmax_of_not_nan ha hb true, ?_⟩
  split
  next h => exact ⟨.inr rfl, ((ltMin_iff_place_lt ha hb).1 h).le, le_rfl⟩
  next h => exact ⟨.inl rfl, le_rfl, not_lt.1 (mt (ltMin_iff_place_lt ha hb).2 h)⟩

end

theorem FVal.not_lt_of_place_le {a b : FVal} (ha : a.isNaN = false) (hb : b.isNaN = false) (h : b.place ≤ a.place) : ¬ a.lt b := by
  rw [FVal.lt_iff_level_lt ha hb, not_lt]
  exact Prod.Lex.monotone_fst _ _ h

/-- Among numbers at one level the order of R72 is that of the signs. -/
theorem FVal.isNeg_le_of_place_le {a b : FVal} (hl : a.level = b.level) (h : a.place ≤ b.place) : b.isNeg ≤ a.isNeg := by
  rw [FVal.place, FVal.place, Prod.Lex.toLex_le_toLex, hl] at h
  have hle : (!a.isNeg) ≤ !b.isNeg := (h.resolve_left (lt_irrefl _)).2
  revert hle
  cases a.isNeg <;> cases b.isNeg <;> decide

theorem FVal.level_eq_of_not_lt {a b : FVal} (ha : a.isNaN = false) (hb : b.isNaN = false) (hab : ¬ a.lt b) (hba : ¬ b.lt a) :
    a.level = b.level := by
  rw [FVal.lt_iff_level_lt ha hb, not_lt] at hab
  rw [FVal.lt_iff_level_lt hb ha, not_lt] at hba
  exact le_antisymm hba hab

/-- Minimum and maximum as the order of numbers and, at a tie, the signs say it. -/
theorem fminmax_spec (f : Fmt) (isMax : Bool) {a b : Nat} (ha : (unpack f a).isNaN = false) (hb : (unpack f b).isNaN = false) :
    ∃ r, fminmax f isMax a b = (r, 0) ∧ (r = a ∨ r = b) ∧
      (isMax = false → ¬ (unpack f a).lt (unpack f r) ∧ ¬ (unpack f b).lt (unpack f r)) ∧
      (isMax = true → ¬ (unpack f r).lt (unpack f a) ∧ ¬ (unpack f r).lt (unpack f b)) ∧
      (¬ (unpack f a).lt (unpack f b) → ¬ (unpack f b).lt (unpack f a) → (unpack f r).isNeg =
        if isMax then (unpack f a).isNeg && (unpack f b).isNeg else (unpack f a).isNeg || (unpack f b).isNeg) := by
  cases isMax
  · obtain ⟨r, heq, hmem, hra, hrb⟩ := fminmax_min ha hb
    have hr : (unpack f r).isNaN = false := by rcases hmem with rfl | rfl <;> assumption
    refine ⟨r, heq, hmem, fun _ => ⟨FVal.not_lt_of_place_le ha hr hra, FVal.not_lt_of_place_le hb hr hrb⟩, nofun, fun hab hba => ?_⟩
    have hl := FVal.level_eq_of_not_lt ha hb hab hba
    rcases hmem with rfl | rfl
    · exact (sup_eq_left.2 (FVal.isNeg_le_of_place_le hl hrb)).symm
    · exact (sup_eq_right.2 (FVal.isNeg_le_of_place_le hl.symm hra)).symm
  · obtain ⟨r, heq, hmem, hra, hrb⟩ := fminmax_max ha hb
    have hr : (unpack f r).isNaN = false := by rcases hmem with rfl | rfl <;> assumption
    refine ⟨r, heq, hmem, nofun, fun _ => ⟨FVal.not_lt_of_place_le hr ha hra, FVal.not_lt_of_place_le hr hb hrb⟩, fun hab hba => ?_⟩
    have hl := FVal.level_eq_of_not_lt ha hb hab hba
    rcases hmem with rfl | rfl
    · exact (inf_eq_left.2 (FVal.isNeg_le_of_place_le hl.symm hrb)).symm
    · exact (inf_eq_right.2 (FVal.isNeg_le_of_place_le hl hra)).symm

theorem fminmax_lt {f : Fmt} (isMax : Bool) {a b : Nat} (ha : a < 2 ^ f.width) (hb : b < 2 ^ f.width) :
    (fminmax f isMax a b).1 < 2 ^ f.width := by
  by_cases hnan : (unpack f a).isNaN = true ∨ (unpack f b).isNaN = true
  · rw [fminmax_of_nan isMax hnan]
    exact f.canonNaN_lt
  · simp only [not_or, Bool.not_eq_true] at hnan
    obtain ⟨r, heq, hmem, -⟩ := fminmax_spec f isMax hnan.1 hnan.2
    rw [heq]
    rcases hmem with rfl | rfl <;> assumption

/-! ## Rounding to an integer (R74) -/

/-- The mode that rounds -x as the given one rounds x. -/
def mirrored : RMode → RMode
  | .rdn => .rup
  | .rup => .rdn
  | .rne => .rne
  | .rz => .rz

/-- n is x rounded to nearest, ties to even. -/
structure NearestInt (n : ℤ) (x : ℚ) : Prop where
  near : |(n : ℚ) - x| ≤ 1 / 2
  tie  : |(n : ℚ) - x| = 1 / 2 → n % 2 = 0

theorem NearestInt.neg {n : ℤ} {x : ℚ} (h : NearestInt n x) : NearestInt (-n) (-x) := by
  have e : |((-n : ℤ) : ℚ) - -x| = |(n : ℚ) - x| := by
    rw [← abs_neg]
    push_cast
    ring_nf
  refine ⟨e ▸ h.near, fun ht => ?_⟩
  have := h.tie (e ▸ ht)
  omega

theorem NearestInt.unique {n n' : ℤ} {x : ℚ} (h : NearestInt n x) (h' : NearestInt n' x) : n = n' := by
  have key : ∀ {a b : ℤ}, NearestInt a x → NearestInt b x → ¬ a < b := fun {a b} ha hb hlt => by
    have hstep : (a : ℚ) + 1 ≤ b := by exact_mod_cast hlt
    have hup := (abs_le.1 ha.near).1
    have hdown := (abs_le.1 hb.near).2
    have hb2 := hb.tie (by rw [abs_of_nonneg] <;> linarith)
    have ha2 := ha.tie (by rw [abs_of_nonpos] <;> linarith)
    have : (b : ℚ) ≤ a + 1 := by linarith
    have : b ≤ a + 1 := by exact_mod_cast this
    omega
  exact le_antisymm (not_lt.1 (key h' h)) (not_lt.1 (key h h'))

theorem NearestEven.nearestInt {r : Nat} {y : ℚ} (h : NearestEven r (y : ℝ)) : NearestInt r y := by
  have hdist : ((|((r : ℤ) : ℚ) - y| : ℚ) : ℝ) = |(r : ℝ) - y| := by
    push_cast
    rfl
  refine ⟨(Rat.cast_le (K := ℝ)).1 ?_, fun ht => ?_⟩
  · rw [hdist]
    push_cast
    exact h.near
  · rw [ht] at hdist
    have := h.tie (by rw [← hdist]; push_cast; rfl)
    omega

theorem intOf_rne_nearestInt (x : ℚ) : NearestInt (intOf .rne x) x := by
  have hlo := Rat.floor_le x
  have hhi := Rat.lt_floor_add_one x
  push_cast at hhi
  unfold intOf
  dsimp only
  split
  next h => exact ⟨by rw [abs_le]; constructor <;> linarith, fun ht => by rw [abs_of_nonpos (by linarith)] at ht; linarith⟩
  next h =>
    split
    next h' =>
      refine ⟨by push_cast; rw [abs_le]; constructor <;> linarith, fun ht => ?_⟩
      push_cast at ht
      rw [abs_of_nonneg (by linarith)] at ht
      linarith
    next h' =>
      have hmid : x - x.floor = 1 / 2 := le_antisymm (not_lt.1 h') (not_lt.1 h)
      split
      next heven => exact ⟨by rw [abs_le]; constructor <;> linarith, fun _ => heven⟩
      next hodd => exact ⟨by push_cast; rw [abs_le]; constructor <;> linarith, fun _ => by omega⟩

theorem floor_neg_eq (x : ℚ) : (-x).floor = -x.ceil := by rw [Rat.ceil_eq_neg_floor_neg, neg_neg]
theorem ceil_neg_eq (x : ℚ) : (-x).ceil = -x.floor := by rw [Rat.ceil_eq_neg_floor_neg, neg_neg]

theorem intOf_neg (q : RMode) (x : ℚ) : intOf q (-x) = -intOf (mirrored q) x := by
  cases q with
  | rne => exact (intOf_rne_nearestInt (-x)).unique (intOf_rne_nearestInt x).neg
  | rdn => exact floor_neg_eq x
  | rup => exact ceil_neg_eq x
  | rz =>
    show (if -x < 0 then (-x).ceil else (-x).floor) = -(if x < 0 then x.ceil else x.floor)
    rw [floor_neg_eq, ceil_neg_eq]
    rcases lt_trichotomy x 0 with h | rfl | h
    · rw [if_neg (by linarith), if_pos h]
    · rfl
    · rw [if_pos (by linarith), if_neg h.not_gt]

theorem intOf_intCast (q : RMode) (n : ℤ) : intOf q (n : ℚ) = n := by
  cases q with
  | rne => exact (intOf_rne_nearestInt n).unique ⟨by simp, by simp⟩
  | rdn => exact Rat.floor_intCast n
  | rup => exact Rat.ceil_intCast n
  | rz => exact (ite_congr rfl (fun _ => Rat.ceil_intCast n) fun _ => Rat.floor_intCast n).trans (ite_self n)

/-- No mode moves a number by more than 1. -/
theorem abs_intOf_sub_le (q : RMode) (x : ℚ) : |(intOf q x : ℚ) - x| ≤ 1 := by
  have hfloor : |(x.floor : ℚ) - x| ≤ 1 := by
    have hlo := Rat.floor_le x
    have hhi := Rat.lt_floor_add_one x
    push_cast at hhi
    rw [abs_le]
    constructor <;> linarith
  have hceil : |(x.ceil : ℚ) - x| ≤ 1 := by
    have hlo := Rat.le_ceil (x := x)
    have hhi := Rat.ceil_lt (x := x)
    rw [abs_le]
    constructor <;> linarith
  cases q with
  | rne => exact (intOf_rne_nearestInt x).near.trans (by norm_num)
  | rdn => exact hfloor
  | rup => exact hceil
  | rz =>
    unfold intOf
    dsimp only
    split
    · exact hceil
    · exact hfloor

section
variable {m : Nat} {sticky : Bool} {y : ℚ} (h : Sticks m sticky (y : ℝ))
include h

theorem Sticks.floor_eq : y.floor = m := by
  refine (Int.floor_eq_iff (a := y)).2 ⟨?_, ?_⟩
  · exact_mod_cast h.ge
  · exact_mod_cast h.lt

theorem Sticks.ceil_eq : y.ceil = if sticky then (m : ℤ) + 1 else m := by
  cases sticky
  · have hy : y = ((m : ℤ) : ℚ) := by exact_mod_cast h.exact rfl
    rw [hy, Rat.ceil_intCast, if_neg Bool.false_ne_true]
  · obtain ⟨hlo, hhi⟩ := h.above rfl
    rw [if_pos rfl]
    refine le_antisymm (Rat.ceil_le_iff.2 ?_) ?_
    · push_cast
      exact_mod_cast hhi.le
    · have : ((m : ℤ) : ℚ) < y.ceil := lt_of_lt_of_le (by exact_mod_cast hlo) Rat.le_ceil
      exact_mod_cast this

/-- A number is an integer exactly where nothing lies above its integer part. -/
theorem Sticks.intOf_eq_iff (q : RMode) : ((intOf q y : ℤ) : ℚ) = y ↔ sticky = false := by
  constructor
  · intro heq
    have hfloor := h.floor_eq
    rw [← heq, Rat.floor_intCast] at hfloor
    rw [hfloor] at heq
    by_contra hs
    have hlt := (h.above (Bool.eq_true_of_not_eq_false hs)).1
    rw [← heq] at hlt
    push_cast at hlt
    exact lt_irrefl _ hlt
  · intro hs
    have hy : y = ((m : ℤ) : ℚ) := by exact_mod_cast h.exact hs
    rw [hy, intOf_intCast]

end

theorem roundToInt_neg (q : RMode) (m : Nat) (e : Int) :
    roundToInt q true m e = (-(roundToInt (mirrored q) false m e).1, (roundToInt (mirrored q) false m e).2) := by
  unfold roundToInt
  split
  · rfl
  · cases q <;> rfl

/-- A magnitude below the point, as its integer part and what lies above it. -/
theorem sticks_shift (m k : Nat) : Sticks (m / 2 ^ k) (decide (m % 2 ^ k ≠ 0)) (((m : ℚ) / 2 ^ k : ℚ) : ℝ) := by
  have h := sticks_div m 0 (m2 := 2 ^ k) (Nat.two_pow_pos k).ne'
  rw [Nat.pow_zero, Nat.mul_one] at h
  push_cast at h ⊢
  exact h

/-- Rounding a magnitude: the integer of the mode, and whether that differs. -/
theorem roundToInt_pos (q : RMode) (m : Nat) (e : Int) :
    (roundToInt q false m e).1 = intOf q (FVal.fin false m e).rat ∧
    ((roundToInt q false m e).2 = false ↔ ((intOf q (FVal.fin false m e).rat : ℤ) : ℚ) = (FVal.fin false m e).rat) := by
  unfold roundToInt
  split
  next he =>
    have hval : (FVal.fin false m e).rat = ((signedNat false (m * 2 ^ e.toNat) : ℤ) : ℚ) := by
      rw [FVal.rat_fin_eq, signedNat, signedNat, if_neg Bool.false_ne_true, if_neg Bool.false_ne_true]
      conv_lhs => rw [← Int.toNat_of_nonneg he, zpow_natCast]
      push_cast
      rfl
    rw [hval, intOf_intCast]
    exact ⟨rfl, iff_of_true rfl rfl⟩
  next he =>
    have hval : (FVal.fin false m e).rat = (m : ℚ) / 2 ^ (-e).toNat := by
      rw [FVal.rat_fin_eq, signedNat, if_neg Bool.false_ne_true, ← zpow_natCast, Int.toNat_of_nonneg (by omega), zpow_neg, div_inv_eq_mul]
      push_cast
      rfl
    have hst := sticks_shift m (-e).toNat
    rw [hval]
    refine ⟨?_, (hst.intOf_eq_iff q).symm⟩
    dsimp only
    cases q with
    | rne =>
      obtain ⟨hnear, -⟩ := roundShift_nearestEven (m := m) (sticky := false) (y := m) ⟨fun _ => rfl, nofun⟩ (show 0 < (-e).toNat by omega)
      exact (NearestEven.nearestInt (by push_cast; exact hnear)).unique (intOf_rne_nearestInt _)
    | rz => exact (hst.floor_eq.symm.trans (if_neg (not_lt.2 (by positivity))).symm)
    | rdn => exact hst.floor_eq.symm
    | rup =>
      refine Eq.trans ?_ hst.ceil_eq.symm
      generalize decide (m % 2 ^ (-e).toNat ≠ 0) = lost
      cases lost <;> rfl

theorem roundToInt_spec (q : RMode) (neg : Bool) (m : Nat) (e : Int) :
    (roundToInt q neg m e).1 = intOf q (FVal.fin neg m e).rat ∧
    ((roundToInt q neg m e).2 = false ↔ ((intOf q (FVal.fin neg m e).rat : ℤ) : ℚ) = (FVal.fin neg m e).rat) := by
  cases neg
  · exact roundToInt_pos q m e
  · obtain ⟨hval, hlost⟩ := roundToInt_pos (mirrored q) m e
    have hneg : (FVal.fin true m e).rat = -(FVal.fin false m e).rat := FVal.neg_rat (.fin false m e)
    rw [roundToInt_neg, hneg, intOf_neg, hlost, hval]
    refine ⟨rfl, ?_⟩
    push_cast
    exact neg_inj.symm

/-! ## Conversions to and from integers (R74, R75) -/

/-- A value whose leading bit lies above the range of w bits becomes an integer beyond that range. -/
theorem lt_abs_intOf (q : RMode) {w m : Nat} (neg : Bool) {e : Int} (hm : m ≠ 0) (h : (w : Int) + 1 < (Nat.log2 m : Int) + e) :
    (2 : ℤ) ^ w < if neg then -intOf q (FVal.fin neg m e).rat else intOf q (FVal.fin neg m e).rat := by
  have hmag : (2 : ℚ) ^ w + 1 < m * 2 ^ e := by
    obtain ⟨hlo, -⟩ := zpow_log2_le (e := e) (sticky := false) (y := m) hm ⟨fun _ => rfl, nofun⟩
    have hlow : (2 : ℝ) ^ (w + 2) ≤ 2 ^ ((Nat.log2 m : Int) + e) := by
      rw [← zpow_natCast]
      exact zpow_le_zpow_right₀ one_le_two (by push_cast; omega)
    have hone : (1 : ℝ) ≤ 2 ^ w := one_le_pow₀ one_le_two
    rw [← Rat.cast_lt (K := ℝ)]
    push_cast
    rw [pow_add] at hlow
    linarith
  have hnear := abs_le.1 (abs_intOf_sub_le q (FVal.fin neg m e).rat)
  have hval : (FVal.fin neg m e).rat = if neg then -((m : ℚ) * 2 ^ e) else m * 2 ^ e := by cases neg <;> simp [FVal.rat]
  cases neg
  · rw [if_neg Bool.false_ne_true] at hval ⊢
    have : ((2 ^ w : ℤ) : ℚ) < intOf q (FVal.fin false m e).rat := by push_cast; linarith
    exact_mod_cast this
  · rw [if_pos rfl] at hval ⊢
    have : ((2 ^ w : ℤ) : ℚ) < (-intOf q (FVal.fin true m e).rat : ℤ) := by push_cast; linarith
    exact_mod_cast this

/-- A number becomes the integer of the mode where the range holds it, and the end of the range otherwise. -/
theorem toInt_of_fin (q : RMode) {w : Nat} {x : FVal} (hx : x.isFin = true) : toInt q w x =
    if intOf q x.rat < -(2 ^ (w - 1)) then ((-(2 ^ (w - 1)) % 2 ^ w : Int).toNat, flNV)
    else if 2 ^ (w - 1) - 1 < intOf q x.rat then (((2 ^ (w - 1) - 1) % 2 ^ w : Int).toNat, flNV)
    else ((intOf q x.rat % 2 ^ w).toNat, if (intOf q x.rat : Rat) = x.rat then 0 else flNX) := by
  obtain ⟨neg, m, e, rfl⟩ := FVal.exists_fin hx
  obtain ⟨hval, hlost⟩ := roundToInt_spec q neg m e
  unfold toInt
  dsimp only
  push_cast
  split
  next hbig =>
    have hout := lt_abs_intOf q neg hbig.1 hbig.2
    have hhalf : (2 : ℤ) ^ (w - 1) ≤ 2 ^ w := pow_le_pow_right₀ (by norm_num) (by omega)
    have hpos : (0 : ℤ) < 2 ^ (w - 1) := by positivity
    cases neg
    · rw [if_neg Bool.false_ne_true] at hout
      rw [if_neg Bool.false_ne_true, if_neg (by omega), if_pos (by omega)]
    · rw [if_pos rfl] at hout
      rw [if_pos rfl, if_pos (by omega)]
  next =>
    rw [hval]
    refine ite_congr rfl (fun _ => rfl) fun _ => ite_congr rfl (fun _ => rfl) fun _ => ?_
    congr 1
    by_cases hl : (roundToInt q neg m e).2 = false
    · rw [if_neg (by rw [hl]; exact Bool.false_ne_true), if_pos (hlost.1 hl)]
    · rw [if_pos (Bool.eq_true_of_not_eq_false hl), if_neg (mt hlost.2 hl)]

theorem toInt_inf (q : RMode) (w : Nat) (neg : Bool) :
    toInt q w (.inf neg) = (((if neg then -(2 ^ (w - 1)) else 2 ^ (w - 1) - 1) % 2 ^ w : Int).toNat, flNV) := by
  unfold toInt
  push_cast
  rfl

theorem toInt_of_nan (q : RMode) (w : Nat) {x : FVal} (hx : x.isNaN = true) : toInt q w x = (0, flNV) := by
  obtain ⟨s, rfl⟩ := FVal.exists_nan hx
  rfl

theorem ofInt_roundsTo (f : Fmt) {n : Int} (hn : n ≠ 0) : RoundsTo f (n : ℝ) (ofInt f n) := by
  have hval : (ofDyadic n 0).rat = n := by rw [ofDyadic_rat, zpow_zero, mul_one]
  have h := rne_roundsTo (f := f) (v := ofDyadic n 0) rfl (by rw [hval]; exact_mod_cast hn)
  rw [hval] at h
  exact_mod_cast h

/-! ## Operands and results of the two precisions (R17, R96), and O3 -/

theorem fpBits_eq (p : Prec) (v : Word) : fpBits p v = match p with | .s => (v.extractLsb' 0 32).toNat | .d => v.toNat := by
  cases p
  · exact (BitVec.extractLsb'_toNat 0 32 v).symm
  · exact Nat.mod_eq_of_lt v.isLt

theorem fpBits_lt (p : Prec) (v : Word) : fpBits p v < 2 ^ (precFmt p).width := Nat.mod_lt _ (Nat.two_pow_pos _)

/-- A pattern of the format as a register takes it, with zeros above. -/
theorem ofNat_eq_of_lt (p : Prec) {n : Nat} : n < 2 ^ (precFmt p).width →
    BitVec.ofNat 64 n = match p with | .s => (BitVec.ofNat 32 n).setWidth 64 | .d => BitVec.ofNat 64 n := by
  intro h
  cases p
  · apply BitVec.eq_of_toNat_eq
    rw [BitVec.toNat_setWidth, BitVec.toNat_ofNat, BitVec.toNat_ofNat, Nat.mod_eq_of_lt (b := 2 ^ 32) h]
  · rfl

/-- An instruction that completes with a pattern, under another description of the value written. -/
theorem writes_of_completeF_of_eq {s : State} {i : Instr} {d : XReg} {r : Nat × BitVec 5} {w : Word} (h : exec i s = s.completeF d r)
    (hw : BitVec.ofNat 64 r.1 = w) : Writes s i d w r.2 := hw ▸ writes_of_completeF h

theorem ofNat_fcmpBit (r : Rel) (x y : FVal) : BitVec.ofNat 64 (fcmpBit r x y).1 = if (fcmp r x y).1 then 1 else 0 := by
  unfold fcmpBit
  cases (fcmp r x y).1 <;> rfl

/-- Settles O3: every arm is `completeF` of a result that fits its format, the finite quotients and roots are one rounding of their exact values
(`fdiv_roundsTo`, `fsqrt_roundsTo`), minimum and maximum follow the order of R72, and conversions the integer of the mode. -/
theorem floatInstructionsComplete : Obligations.FloatInstructionsComplete := by
  unfold Obligations.FloatInstructionsComplete
  intro s p m d a b f v bits wrF bit
  have hbits : bits = fun r => fpBits p (s.x r) := funext fun r => (fpBits_eq p (s.x r)).symm
  have hv : v = s.f p := funext fun r => congrArg (unpack f) (fpBits_eq p (s.x r)).symm
  have hwr : ∀ {i : Instr} {r : Nat × BitVec 5}, exec i s = s.completeF d r → r.1 < 2 ^ f.width → Writes s i d (wrF r) r.2 :=
    fun h hlt => writes_of_completeF_of_eq h (ofNat_eq_of_lt p hlt)
  have hbit : ∀ {i : Instr} (r : Rel) {x y : FVal}, exec i s = s.completeF d (fcmpBit r x y) → Writes s i d (bit (fcmp r x y)) (fcmp r x y).2 :=
    fun r _ _ h => writes_of_completeF_of_eq h (ofNat_fcmpBit r _ _)
  clear_value v bits wrF bit
  subst hv hbits
  refine ⟨hwr rfl (rne_lt _ _), hwr rfl (rne_lt _ _), hwr rfl (rne_lt _ _), hwr rfl (rne_lt _ _), hwr rfl (fdiv_lt _ _ _), hwr rfl (fsqrt_lt _ _),
    hwr rfl (fminmax_lt _ (fpBits_lt p _) (fpBits_lt p _)), hwr rfl (fminmax_lt _ (fpBits_lt p _) (fpBits_lt p _)),
    hbit .lt rfl, hbit .le rfl, hbit .eq rfl, hwr rfl (rne_lt _ _), writes_of_completeF rfl, fun g x y hx hy => ?_, fun g n n' => ?_,
    fun g x y h => ?_, fun g isMax x y => ?_, fun x y hx hy => fcmp_order hx hy, fun q w x _ => ?_, fun g n => ⟨rfl, ofInt_roundsTo g⟩⟩
  · exact ⟨fdiv_roundsTo g hx hy, fdiv_by_zero g hx hy, fdiv_of_zero g hx hy, fdiv_fin_inf g hx, fsqrt_roundsTo g hx, fsqrt_of_neg g hx,
      fsqrt_of_zero g hx⟩
  · exact ⟨rfl, fsqrt_inf g n⟩
  · exact ⟨fdiv_of_nan g h, fsqrt_of_nan g, fcmp_of_nan .eq h, fcmp_of_nan .lt h, fcmp_of_nan .le h⟩
  · refine ⟨fminmax_of_nan isMax, fun hx hy => ?_⟩
    obtain ⟨r, heq, hspec⟩ := fminmax_spec g isMax hx hy
    rw [heq]
    exact ⟨rfl, hspec⟩
  · exact ⟨toInt_of_nan q w, toInt_inf q w, toInt_of_fin q⟩

end Sys2Proof.Machine
end

section
/-! PROOFS. Element-wise integer instructions (spec/05_vector_arithmetic.md R106, R117 to R119): the model's computations as residues of the values that
R118 and R119 name, and O30. -/

namespace Sys2Proof.Machine

/-! ## Residues and saturation (R61) -/

theorem wrap_mod (w : Nat) (n : Int) : wrap w n % 2 ^ w = wrap w n := by
  have hpos : (0 : Int) < (2 ^ w : Nat) := by positivity
  have hlt := Int.emod_lt_of_pos n hpos
  unfold wrap
  exact Nat.mod_eq_of_lt (by omega)

theorem wrap_natCast (w n : Nat) : wrap w n = n % 2 ^ w := by
  unfold wrap
  rw [← Int.natCast_emod, Int.toNat_natCast]

/-- A residue in place of the number that it is of. -/
theorem wrap_mul_mod (w k : Nat) (n : Int) : wrap w n * k % 2 ^ w = wrap w (n * k) := by
  have hcast : ((wrap w n : Nat) : Int) = n % (2 ^ w : Nat) := Int.toNat_of_nonneg (Int.emod_nonneg _ (by positivity))
  rw [← wrap_natCast]
  unfold wrap at hcast ⊢
  rw [Nat.cast_mul, hcast, ((Int.mod_modEq n _).mul_right k).eq]

theorem wrap_sub_natCast {w y : Nat} (x : Nat) (hy : y < 2 ^ w) : (x + 2 ^ w - y) % 2 ^ w = wrap w ((x : Int) - y) := by
  have hcast : ((x + 2 ^ w - y : Nat) : Int) = (x : Int) - y + (2 ^ w : Nat) := by omega
  rw [← wrap_natCast, hcast, wrap, wrap, Int.add_emod_right]

theorem signedMin_mod (w x y : Nat) : (if sext w y < sext w x then y else x) % 2 ^ w = wrap w (min (sext w x) (sext w y)) := by
  split
  next h => rw [min_eq_right h.le, wrap_sext]
  next h => rw [min_eq_left (not_lt.1 h), wrap_sext]

theorem signedMax_mod (w x y : Nat) : (if sext w x < sext w y then y else x) % 2 ^ w = wrap w (max (sext w x) (sext w y)) := by
  split
  next h => rw [max_eq_right h.le, wrap_sext]
  next h => rw [max_eq_left (not_lt.1 h), wrap_sext]

theorem satS_eq (w : Nat) (n : Int) : satS w n = wrap w (max (-2 ^ (w - 1)) (min (2 ^ (w - 1) - 1) n)) := by
  have hpos : (0 : Int) < 2 ^ (w - 1) := by positivity
  unfold satS
  push_cast
  generalize (2 : Int) ^ (w - 1) = p at hpos ⊢
  congr 1
  split_ifs <;> omega

theorem satU_natCast (h n : Nat) : satU h n = min (2 ^ h - 1) n := by
  have hpos : 0 < 2 ^ h := by positivity
  unfold satU
  generalize 2 ^ h = p at hpos ⊢
  split_ifs <;> omega

theorem onesIn_eq (w x : Nat) : onesIn w x = ((List.range w).filter x.testBit).length := by
  rw [onesIn, ← Nat.zero_add (List.length _), ← foldl_count_eq]
  congr 1
  funext n j
  rw [Nat.testBit_eq_decide_div_mod_eq]
  rcases Nat.mod_two_eq_zero_or_one (x / 2 ^ j) with h | h <;> simp [h]

/-! ## Elements (R106) -/

theorem State.srcElem_eq (s : State) (w : Nat) (b : VSrc) (k : Nat) : (s.arch s.cur).srcElem (s.rows s.cur) w b k = s.src b w k := by
  cases b <;> rfl

theorem State.src_lt (s : State) (b : VSrc) (w k : Nat) : s.src b w k < 2 ^ w := by
  cases b with
  | vec v => exact Arch.elem_lt ..
  | scal x => exact Nat.mod_lt _ (by positivity)

section
variable {s : State} {i : Instr} {m : Bool} {d a : VReg} {b : VSrc} {w : Nat}

/-- A result counts modulo 2^w. -/
theorem Elementwise.congr {f g : Nat → Nat × BitVec 5} (h : Elementwise s i m d w f) (hval : ∀ k, (f k).1 % 2 ^ w = (g k).1 % 2 ^ w)
    (hfl : ∀ k, (f k).2 = (g k).2) : Elementwise s i m d w g := by
  obtain ⟨t, hexec, hret, hx, hnests, hsame, hholds⟩ := h
  refine ⟨t, hexec, ?_, hx, hnests, hsame, fun k hk => ?_⟩
  · rwa [← funext hfl]
  · rw [hholds k hk]
    refine if_congr Iff.rfl ?_ rfl
    dsimp only
    cases s.on m k
    · rfl
    · exact hval k

/-- An element-wise member whose value at element k of the registers x is `value` of the VTYPE image, the rows, x and k. -/
theorem elemMember_elementMember {ok : State → Bool} {srcs : State → List (Nat × Nat)} {cross : Bool} {width : BitVec 16 → Nat}
    {value : BitVec 16 → Nat → Arch → Nat → Nat}
    (h : ∀ u, memberOf i u = some (elemMember u (wordOf i) (ok u) m d (width (u.arch u.cur).vtype) (srcs u) cross fun x k =>
      x.ifActive (u.rows u.cur) m k (value (u.arch u.cur).vtype (u.rows u.cur) x k, 0)))
    (hok : ok s = true) (hd : groupOk d.toNat (multOf (s.arch s.cur).vtype) = true) :
    ElementMember s i d (width (s.arch s.cur).vtype) fun k =>
      if s.on m k = true then some (value (s.arch s.cur).vtype (s.rows s.cur) (s.arch s.cur) k, 0) else none where
  issue := ⟨_, h s, issueCheck_of_true (by rw [hok, hd]; rfl)⟩
  run u mb hu hmb := by
    obtain rfl := Option.some.inj ((h u).symm.trans hmb)
    unfold elemMember
    dsimp only
    refine ⟨rfl, rfl, rfl, _, _, rfl, by rw [hu.cur, hu.arch], ?_⟩
    rw [hu.cur, hu.arch, hu.rows]
    rfl

end

section
variable {s : State} {i : Instr} {m : Bool} {d a : VReg} {b : VSrc} (hready : VectorReady s)
  (hd : groupOk d.toNat (multOf (s.arch s.cur).vtype) = true) (hfree : s.Writable (groupRegs s d))
include hready hd hfree

/-- An element-wise member without flags completes with any values that are the model's modulo 2^w. -/
theorem ElementMember.elementwise_of_mod_eq {w : Nat} {f g : Nat → Nat}
    (h : ElementMember s i d w fun k => if s.on m k = true then some (f k, 0) else none) (hw : w ∣ 64) (hle : w ≤ widthOf (s.arch s.cur).vtype)
    (hfg : ∀ k, f k % 2 ^ w = g k % 2 ^ w) : Elementwise s i m d w fun k => (g k, 0) :=
  (h.elementwise hready hd hfree hw (hready.vl_le_positions (Nat.pos_of_dvd_of_pos hw (by norm_num)) hle)).congr hfg fun _ => rfl

/-- An instruction of A and B at the element width completes with any values that are the model's modulo 2^w (R118). -/
theorem elementwise_of_intMember {lo : Nat} {f : Nat → Nat → Nat → Nat} {g : Nat → Nat}
    (ha : groupOk a.toNat (multOf (s.arch s.cur).vtype) = true) (hb : srcGroupOk b (multOf (s.arch s.cur).vtype) = true)
    (hlo : lo ≤ ewOf (s.arch s.cur).vtype) (h : ∀ u, memberOf i u = some (intMember u (wordOf i) lo 4 m d a b f))
    (hg : ∀ k, f (widthOf (s.arch s.cur).vtype) (s.el a.toNat (widthOf (s.arch s.cur).vtype) k) (s.src b (widthOf (s.arch s.cur).vtype) k) %
      2 ^ widthOf (s.arch s.cur).vtype = g k % 2 ^ widthOf (s.arch s.cur).vtype) :
    Elementwise s i m d (widthOf (s.arch s.cur).vtype) fun k => (g k, 0) := by
  refine (elemMember_elementMember (width := widthOf) (value := fun img rows x k =>
    f (widthOf img) (x.elem rows a.toNat (widthOf img) k) (x.srcElem rows (widthOf img) b k) % 2 ^ widthOf img) h
    (by simp [hlo, hready.width, ha, hb]) hd).elementwise_of_mod_eq hready hd hfree (widthOf_dvd hready.width) le_rfl fun k => ?_
  rw [State.srcElem_eq, Nat.mod_mod]
  exact hg k

end

/-! ## The members of VIALU that are not of A and B at one width -/

/-- vmerge writes every element below VL. -/
theorem vmerge_elementMember {s : State} {d a : VReg} {b : VSrc} (hd : groupOk d.toNat (multOf (s.arch s.cur).vtype) = true)
    (ha : groupOk a.toNat (multOf (s.arch s.cur).vtype) = true) (hb : srcGroupOk b (multOf (s.arch s.cur).vtype) = true) :
    ElementMember s (.vmerge d a b) d (widthOf (s.arch s.cur).vtype) fun k =>
      if s.on false k = true then some (if (s.arch s.cur).maskBit (s.rows s.cur) 0 k then s.src b (widthOf (s.arch s.cur).vtype) k
        else s.el a.toNat (widthOf (s.arch s.cur).vtype) k, 0) else none where
  issue := ⟨_, rfl, issueCheck_of_true (by simp [ha, hb, hd])⟩
  run u mb hu hmb := by
    obtain rfl := Option.some.inj hmb
    unfold memberVmerge elemMember
    dsimp only
    refine ⟨rfl, rfl, rfl, _, _, rfl, by rw [hu.cur, hu.arch], ?_⟩
    funext k
    rw [hu.cur, hu.arch, hu.rows, State.srcElem_eq]
    rfl

/-- What vwiden makes of element k, cut to the element width (R119). -/
def widenedValue (sgn : Bool) (a : VReg) (b : VSrc) (img : BitVec 16) (rows : Nat) (x : Arch) (k : Nat) : Nat :=
  let w := widthOf img
  let n := x.elem rows a.toNat (w / 2) k
  (if sgn then wrap w (sext (w / 2) n) else n) * 2 ^ (x.srcElem rows w b k % w) % 2 ^ w

/-- What vnarrow makes of element k, saturated to half the element width (R119). -/
def narrowedValue (sgn : Bool) (a : VReg) (b : VSrc) (img : BitVec 16) (rows : Nat) (x : Arch) (k : Nat) : Nat :=
  let w := widthOf img
  let n := x.elem rows a.toNat w k
  let p := 2 ^ (x.srcElem rows w b k % w)
  if sgn then satS (w / 2) (sext w n / (p : Nat)) else satU (w / 2) ((n / p : Nat) : Int)

theorem widthOf_half_dvd {img : BitVec 16} (h : ewOf img ≤ 4) : widthOf img / 2 ∣ 64 :=
  (Nat.div_dvd_of_dvd ((show 2 ∣ 4 by norm_num).mul_right _)).trans (widthOf_dvd h)

section
variable {s : State} {m : Bool} {d a : VReg} {b : VSrc} (hready : VectorReady s) (hd : groupOk d.toNat (multOf (s.arch s.cur).vtype) = true)
  (hfree : s.Writable (groupRegs s d)) (ha : groupOk a.toNat (multOf (s.arch s.cur).vtype) = true)
  (hb : srcGroupOk b (multOf (s.arch s.cur).vtype) = true) (hlo : 2 ≤ ewOf (s.arch s.cur).vtype)
include hready hd hfree ha hb hlo

theorem vwiden_elementwise (sgn : Bool) : Elementwise s (.vwiden m sgn d a b) m d (widthOf (s.arch s.cur).vtype) fun k =>
    (widenedValue sgn a b (s.arch s.cur).vtype (s.rows s.cur) (s.arch s.cur) k, 0) :=
  (elemMember_elementMember (width := widthOf) (value := widenedValue sgn a b) (fun _ => rfl) (by simp [hlo, ha, hb]) hd).elementwise_of_mod_eq
    hready hd hfree (widthOf_dvd hready.width) le_rfl fun _ => rfl

theorem vnarrow_elementwise (sgn : Bool) : Elementwise s (.vnarrow m sgn d a b) m d (widthOf (s.arch s.cur).vtype / 2) fun k =>
    (narrowedValue sgn a b (s.arch s.cur).vtype (s.rows s.cur) (s.arch s.cur) k, 0) :=
  (elemMember_elementMember (width := fun img => widthOf img / 2) (value := narrowedValue sgn a b) (fun _ => rfl) (by simp [hlo, ha, hb])
    hd).elementwise_of_mod_eq hready hd hfree (widthOf_half_dvd hready.width) (Nat.div_le_self _ _) fun _ => rfl

end

/-! ## O30 -/

/-- Settles O30: every member is element-wise, and its value is the stated one modulo 2^w. -/
theorem vectorIntegerInstructionsComplete : Obligations.VectorIntegerInstructionsComplete := by
  unfold Obligations.VectorIntegerInstructionsComplete
  intro s m d a b x
  dsimp only
  intro hready hd hfree
  have hw := widthOf_dvd hready.width
  refine ⟨fun hlo => ?_, ?_, fun ha => ⟨?_, fun hlo => ?_⟩, fun ha hb => ?_⟩
  · exact (elemMember_elementMember (width := widthOf) (value := fun img _ _ k => k % 2 ^ widthOf img) (fun _ => rfl) (by simp [hlo])
      hd).elementwise_of_mod_eq hready hd hfree hw le_rfl fun k => Nat.mod_mod _ _
  · exact (elemMember_elementMember (width := widthOf) (value := fun img _ y _ => (y.getX x).toNat % 2 ^ widthOf img) (fun _ => rfl) rfl
      hd).elementwise_of_mod_eq hready hd hfree hw le_rfl fun k => Nat.mod_mod _ _
  · exact (elemMember_elementMember (width := widthOf) (value := fun img rows y k => y.elem rows a.toNat (widthOf img) k) (fun _ => rfl) ha
      hd).elementwise_of_mod_eq hready hd hfree hw le_rfl fun k => rfl
  · refine (elemMember_elementMember (width := widthOf) (value := fun img rows y k => onesIn (widthOf img) (y.elem rows a.toNat (widthOf img) k))
      (fun _ => rfl) (by simp [hlo, ha]) hd).elementwise_of_mod_eq hready hd hfree hw le_rfl fun k => ?_
    rw [onesIn_eq]
    rfl
  have does := fun {i lo f g} => elementwise_of_intMember (i := i) (m := m) (lo := lo) (f := f) (g := g) hready hd hfree ha hb
  have hzero := Nat.zero_le (ewOf (s.arch s.cur).vtype)
  refine ⟨?_, ?_, ?_, ?_, fun hlo => ⟨?_, ?_, ?_, ?_, ?_, ?_, ?_, ?_, ?_, ?_⟩, fun hlo => ?_⟩
  · exact does hzero (fun _ => rfl) fun k => rfl
  · exact does hzero (fun _ => rfl) fun k => rfl
  · exact does hzero (fun _ => rfl) fun k => rfl
  · exact (vmerge_elementMember hd ha hb).elementwise_of_mod_eq hready hd hfree hw le_rfl fun k => rfl
  · exact does hlo (fun _ => rfl) fun k => rfl
  · exact does hlo (fun _ => rfl) fun k => by rw [wrap_sub_natCast _ (s.src_lt ..), wrap_mod]
  · exact does hlo (fun _ => rfl) fun k => rfl
  · exact does hlo (fun _ => rfl) fun k => rfl
  · exact does hlo (fun _ => rfl) fun k => rfl
  · exact does hlo (fun _ => rfl) fun k => by push_cast; rfl
  · exact does hlo (fun _ => rfl) fun k => by rw [signedMin_mod, wrap_mod]
  · exact does hlo (fun _ => rfl) fun k => by rw [signedMax_mod, wrap_mod]
  · exact does hlo (fun _ => rfl) fun k => by rw [satS_eq]
  · exact does hlo (fun _ => rfl) fun k => by rw [satS_eq]
  · have widen := vwiden_elementwise (m := m) hready hd hfree ha hb hlo
    have narrow := vnarrow_elementwise (m := m) hready hd hfree ha hb hlo
    refine ⟨?_, ?_, ?_, ?_⟩
    · refine (widen false).congr (fun k => ?_) fun _ => rfl
      rw [widenedValue, State.srcElem_eq, Nat.mod_mod]
      rfl
    · refine (widen true).congr (fun k => ?_) fun _ => rfl
      rw [widenedValue, State.srcElem_eq, if_pos rfl, wrap_mul_mod]
      push_cast
      rfl
    · refine (narrow false).congr (fun k => ?_) fun _ => rfl
      rw [narrowedValue, State.srcElem_eq, if_neg Bool.false_ne_true, satU_natCast]
      rfl
    · refine (narrow true).congr (fun k => ?_) fun _ => rfl
      rw [narrowedValue, State.srcElem_eq, if_pos rfl, satS_eq]
      push_cast
      rfl

end Sys2Proof.Machine
end

section
/-! PROOFS. Members that write a mask (spec/05_vector_arithmetic.md R112, R113, R120, R124): the bits of a mask written without a tail, and O31. -/

namespace Sys2Proof.Machine

/-! ## Masks as elements of one bit (R112) -/

theorem maskRegs_dvd (img : BitVec 16) : maskRegs img ∣ 32 := by
  unfold maskRegs
  split <;> norm_num

theorem maskOk_le {img : BitVec 16} {v : VReg} (h : maskOk img v.toNat = true) : v.toNat + maskRegs img ≤ 32 := by
  unfold maskOk at h
  rw [beq_iff_eq] at h
  obtain ⟨c, hc⟩ := maskRegs_dvd img
  obtain ⟨k, hk⟩ := Nat.dvd_of_mod_eq_zero h
  have hlt : v.toNat < 32 := v.isLt
  rw [hk, hc] at hlt ⊢
  have hkc : k < c := Nat.lt_of_mul_lt_mul_left hlt
  calc maskRegs img * k + maskRegs img = maskRegs img * (k + 1) := (Nat.mul_succ _ _).symm
    _ ≤ maskRegs img * c := Nat.mul_le_mul_left _ hkc

/-- The mask registers hold a bit for each element of the longest group (R112). -/
theorem vlmaxOf_le_maskBits {img : BitVec 16} (rows : Nat) : vlmaxOf img rows ≤ maskRegs img * regBits rows := by
  have hmult := multOf_le img
  unfold vlmaxOf maskRegs regBits
  by_cases h0 : ewOf img = 0
  · rw [show widthOf img = 4 by rw [widthOf, h0]; rfl]
    by_cases h8 : multOf img = 8
    · rw [h8, if_pos ⟨h0, rfl⟩]
      omega
    · have hle : multOf img ≤ 4 := by
        rw [multOf] at h8 hmult ⊢
        have hlt := (img.extractLsb' 3 2).isLt
        interval_cases (img.extractLsb' 3 2).toNat <;> omega
      rw [if_neg fun h => h8 h.2]
      have hbits := Nat.mul_le_mul_right (rows * 2048) hle
      rw [← Nat.mul_assoc] at hbits
      omega
  · rw [if_neg fun h => h0 h.1, Nat.one_mul]
    have hwidth : 8 ≤ widthOf img := Nat.mul_le_mul_left 4 (Nat.pow_le_pow_right (n := 2) (by norm_num) (Nat.one_le_iff_ne_zero.2 h0))
    refine Nat.div_le_of_le_mul ?_
    rw [Nat.mul_assoc]
    exact Nat.mul_le_mul_right _ (hmult.trans hwidth)

/-- A bit and its flags as a result of one bit. -/
def bitResult (p : Bool × BitVec 5) : Nat × BitVec 5 := (if p.1 then 1 else 0, p.2)

theorem bitResult_beq_one (p : Bool × BitVec 5) : ((bitResult p).1 % 2 ^ 1 == 1) = p.1 := by
  unfold bitResult
  cases p.1 <;> rfl

/-! ## What a mask member leaves -/

/-- The registers after the active bits below VL of the mask at d have been written, and the flags of those bits. -/
def State.maskPut (s : State) (m : Bool) (d : VReg) (f : Nat → Bool × BitVec 5) : Arch × BitVec 5 :=
  writeElems (s.arch s.cur) (s.rows s.cur) d.toNat 1 (fun k => if s.on m k = true then some (bitResult (f k)) else none)
    (List.range (s.arch s.cur).vl)

theorem State.maskPut_flags (s : State) (m : Bool) (d : VReg) (f : Nat → Bool × BitVec 5) :
    (s.maskPut m d f).2 = orFlags (((List.range (s.arch s.cur).vl).filter (s.on m)).map fun k => (f k).2) := by
  rw [State.maskPut, writeElems_flags, filterMap_ite_some, ← orFlags_eq_foldr, List.map_map]
  rfl

theorem State.maskPut_frame (s : State) (m : Bool) (d : VReg) (f : Nat → Bool × BitVec 5) :
    (s.maskPut m d f).1 = { s.arch s.cur with v := (s.maskPut m d f).1.v } := writeElems_frame ..

section
variable {s : State} {i : Instr} {m : Bool} {d : VReg} (hready : VectorReady s)
include hready

theorem VectorReady.vl_le_maskBits : (s.arch s.cur).vl ≤ maskRegs (s.arch s.cur).vtype * regBits (s.rows s.cur) :=
  hready.vl.trans (hready.vlmax ▸ vlmaxOf_le_maskBits _)

/-- A mask member commits its bits below VL in one run over all of its groups. -/
theorem maskMember_completes {ok : State → Bool} {w regs : State → Nat} {srcs : State → List Nat} {cross : Bool}
    {bit : BitVec 16 → Nat → Arch → Nat → Bool × BitVec 5}
    (h : ∀ u, memberOf i u = some (maskMember u (wordOf i) (ok u) m d (w u) (srcs u) (regs u) cross fun x k =>
      if x.active (u.rows u.cur) m k then some (bit (u.arch u.cur).vtype (u.rows u.cur) x k) else none))
    (hok : ok s = true) (hd : maskOk (s.arch s.cur).vtype d.toNat = true) :
    Completes s i (regsFrom d.toNat (maskRegs (s.arch s.cur).vtype))
      (s.maskPut m d (bit (s.arch s.cur).vtype (s.rows s.cur) (s.arch s.cur))).1
      (s.maskPut m d (bit (s.arch s.cur).vtype (s.rows s.cur) (s.arch s.cur))).2 where
  issue := ⟨_, h s, rfl, issueCheck_of_true (by rw [hok, hd]; rfl)⟩
  run u mb hu hmb := by
    obtain rfl := Option.some.inj ((h u).symm.trans hmb)
    refine ⟨?_, rfl, ?_⟩
    · unfold maskMember
      dsimp only
      rw [hu.cur, hu.arch]
    · have hend : (s.arch s.cur).vl ≤ maskRegs (s.arch s.cur).vtype * 4 * (s.rows s.cur * 512) :=
        hready.vl_le_maskBits.trans_eq (by rw [regBits]; ring)
      unfold maskMember maskRun
      dsimp only
      rw [hu.cur, hu.arch, hu.rows, Nat.zero_mul, Nat.min_eq_left hend, rangeList_zero]
      have hbits : (fun k => (if (s.arch s.cur).active (s.rows s.cur) m k = true then
            some (bit (s.arch s.cur).vtype (s.rows s.cur) (s.arch s.cur) k) else none).map fun p => (if p.1 then 1 else 0, p.2)) =
          fun k => if s.on m k = true then some (bitResult (bit (s.arch s.cur).vtype (s.rows s.cur) (s.arch s.cur) k)) else none := by
        funext k
        unfold State.on
        split <;> rfl
      rw [hbits]
      unfold State.ran
      rw [hu.cur]
      rfl
  frame := by
    have hframe := s.maskPut_frame m d (bit (s.arch s.cur).vtype (s.rows s.cur) (s.arch s.cur))
    generalize (s.maskPut m d (bit (s.arch s.cur).vtype (s.rows s.cur) (s.arch s.cur))).1 = y at hframe ⊢
    rw [show y.x = (s.arch s.cur).x by rw [hframe], show y.nests = (s.arch s.cur).nests by rw [hframe]]
    exact hframe

/-- An instruction that puts active bits below VL into the mask at d has written them, and nothing else (R113). -/
theorem Completes.maskWritten {f : Nat → Bool × BitVec 5}
    (h : Completes s i (regsFrom d.toNat (maskRegs (s.arch s.cur).vtype)) (s.maskPut m d f).1 (s.maskPut m d f).2)
    (hd : maskOk (s.arch s.cur).vtype d.toNat = true) (hfree : s.Writable (regsFrom d.toNat (maskRegs (s.arch s.cur).vtype))) :
    MaskWritten s i m d f := by
  obtain ⟨t, hexec, hret, hx, hv, hnests⟩ := h.retires hready hfree
  rw [State.maskPut_flags] at hret
  have hfit : GroupFits (s.rows s.cur) d.toNat 1 (maskRegs (s.arch s.cur).vtype) := ⟨s.rows_le s.cur, one_dvd _, maskOk_le hd⟩
  have hvl : ∀ k ∈ List.range (s.arch s.cur).vl, k < maskRegs (s.arch s.cur).vtype * regBits (s.rows s.cur) / 1 := fun k hk => by
    rw [Nat.div_one]
    exact (List.mem_range.1 hk).trans_le hready.vl_le_maskBits
  refine ⟨t, hexec, hret, hx.trans ?_, hnests.trans ?_, fun r _ hr => ?_, fun k hk => ?_⟩
  · rw [State.maskPut_frame]
  · rw [State.maskPut_frame]
  · rw [Arch.vreg_congr hv]
    exact writeElems_vreg _ _ _ _ _ _ fun k hk => ne_reg_of_not_mem hr (hvl k hk)
  · have hrows : 0 < s.rows s.cur := by
      by_contra h0
      simp [Nat.le_zero.1 (Nat.not_lt.1 h0)] at hk
    unfold Arch.maskBit
    rw [Arch.elem_congr _ _ _ _ (Arch.vreg_congr hv _), State.maskPut,
      writeElems_getD _ _ _ hrows hfit.rows_le hfit.dvd List.nodup_range fun j hj => hfit.reg_lt (hvl j hj), if_congr List.mem_range rfl rfl]
    by_cases hlt : k < (s.arch s.cur).vl
    · by_cases hon : s.on m k = true
      · rw [if_pos hlt, if_pos hon, if_pos ⟨hlt, hon⟩]
        exact bitResult_beq_one _
      · rw [if_pos hlt, if_neg hon, if_neg fun h => hon h.2]
        rfl
    · rw [if_neg hlt, if_neg fun h => hlt h.1]

end

/-! ## Comparisons and mask operations -/

section
variable {s : State} {i : Instr} {m : Bool} {d a c : VReg} {b : VSrc} (hready : VectorReady s)
  (hd : maskOk (s.arch s.cur).vtype d.toNat = true) (hfree : s.Writable (regsFrom d.toNat (maskRegs (s.arch s.cur).vtype)))
include hready hd hfree

/-- A comparison of A and B completes (R120). -/
theorem maskWritten_of_cmpMember {lo : Nat} {rel : Nat → Fmt → Nat → Nat → Bool × BitVec 5} {f : Nat → Bool × BitVec 5}
    (ha : groupOk a.toNat (multOf (s.arch s.cur).vtype) = true) (hb : srcGroupOk b (multOf (s.arch s.cur).vtype) = true)
    (hlo : lo ≤ ewOf (s.arch s.cur).vtype) (h : ∀ u, memberOf i u = some (cmpMember u (wordOf i) lo m d a b rel))
    (hf : ∀ k, rel (widthOf (s.arch s.cur).vtype) (fmtOf (s.arch s.cur).vtype) (s.el a.toNat (widthOf (s.arch s.cur).vtype) k)
      (s.src b (widthOf (s.arch s.cur).vtype) k) = f k) : MaskWritten s i m d f := by
  have hwritten := (maskMember_completes hready (bit := fun img rows x k =>
    rel (widthOf img) (fmtOf img) (x.elem rows a.toNat (widthOf img) k) (x.srcElem rows (widthOf img) b k)) h (by simp [hlo, ha, hb])
    hd).maskWritten hready hd hfree
  simp only [State.srcElem_eq] at hwritten
  rwa [← funext hf]

/-- An operation on two masks completes (R124). -/
theorem maskWritten_of_maskOpMember {op : Bool → Bool → Bool} (ha : maskOk (s.arch s.cur).vtype a.toNat = true)
    (hc : maskOk (s.arch s.cur).vtype c.toNat = true) (h : ∀ u, memberOf i u = some (maskOpMember u (wordOf i) m d a c op)) :
    MaskWritten s i m d fun k => (op ((s.arch s.cur).maskBit (s.rows s.cur) a.toNat k) ((s.arch s.cur).maskBit (s.rows s.cur) c.toNat k), 0) :=
  (maskMember_completes hready (bit := fun _ rows x k => (op (x.maskBit rows a.toNat k) (x.maskBit rows c.toNat k), 0)) h (by simp [ha, hc])
    hd).maskWritten hready hd hfree

end

/-! ## O31 -/

/-- Settles O31: every member writes its mask bit by bit, a comparison the relation of the two elements and a mask operation that of the two bits. -/
theorem vectorComparisonsAndMaskOperationsComplete : Obligations.VectorComparisonsAndMaskOperationsComplete := by
  unfold Obligations.VectorComparisonsAndMaskOperationsComplete
  intro s m d a c b
  dsimp only
  intro hready hd hfree
  refine ⟨fun ha hb hlo => ?_, fun ha hc => ⟨?_, ?_, ?_⟩⟩
  · have does := fun {i lo rel f} => maskWritten_of_cmpMember (i := i) (m := m) (lo := lo) (rel := rel) (f := f) hready hd hfree ha hb
    refine ⟨?_, ?_, ?_, ?_, ?_, ?_, fun hfp => ⟨?_, ?_, ?_⟩⟩
    · exact does hlo (fun _ => rfl) fun _ => rfl
    · exact does hlo (fun _ => rfl) fun k => by simp [bne, beq_eq_decide]
    · exact does hlo (fun _ => rfl) fun _ => rfl
    · exact does hlo (fun _ => rfl) fun _ => rfl
    · exact does hlo (fun _ => rfl) fun _ => rfl
    · exact does hlo (fun _ => rfl) fun _ => rfl
    · exact does hfp (fun _ => rfl) fun _ => rfl
    · exact does hfp (fun _ => rfl) fun _ => rfl
    · exact does hfp (fun _ => rfl) fun _ => rfl
  · exact maskWritten_of_maskOpMember hready hd hfree ha hc fun _ => rfl
  · exact maskWritten_of_maskOpMember hready hd hfree ha hc fun _ => rfl
  · exact maskWritten_of_maskOpMember hready hd hfree ha hc fun _ => rfl

end Sys2Proof.Machine
end

section
/-! PROOFS. Scalar results of vector instructions (spec/05_vector_arithmetic.md R124, spec/06_nested_vectors.md R142): a member whose result goes to an x
register when it retires, the set bits of a mask, and O33. -/

namespace Sys2Proof.Machine

/-! ## Members that write an x register -/

theorem Arch.getX_congr {a b : Arch} (h : b.x = a.x) (r : XReg) : b.getX r = a.getX r := by
  unfold Arch.getX
  rw [h]

theorem State.writable_nil (s : State) : s.Writable [] := by
  unfold State.Writable State.pennantBusy
  simp

/-- A scalar member whose value is `v` has written it to xd when it has run. -/
theorem scalarMember_run {u : State} {word : Word} {ok m : Bool} {w n hi : Nat} {srcs : List Nat} {d : XReg} {f : State → Except Stop Word} {v : Word}
    (hf : f u = .ok v) (hi0 : hi ≠ 0) :
    (scalarMember u word ok m w srcs n d f).run 0 hi u = okPart (u.ran ((u.arch u.cur).setX d v) 0) hi := by
  unfold scalarMember
  dsimp only
  rw [if_neg hi0, hf]
  unfold State.ran State.raise
  rw [if_pos rfl]
  rfl

/-- An instruction that leaves `v` in xd and nothing else has written one x register (R16). -/
theorem Completes.scalarFromVector {s : State} {i : Instr} {d : XReg} {v : Word} (h : Completes s i [] ((s.arch s.cur).setX d v) 0)
    (hready : VectorReady s) : ScalarFromVector s i d v := by
  obtain ⟨t, hexec, hret, hx, hv, hnests⟩ := h.retires hready s.writable_nil
  refine ⟨t, hexec, hret, fun r => ?_, hv.trans ?_, hnests.trans ?_⟩
  · rw [Arch.getX_congr hx, Arch.getX_setX]
    rfl
  · rw [Arch.setX_v]
  · rw [Arch.setX_nests]

theorem Arch.setX_regs (a : Arch) (d : XReg) (v : Word) :
    a.setX d v = { a with x := (a.setX d v).x, v := (a.setX d v).v, nests := (a.setX d v).nests } := by
  rw [Arch.setX_v, Arch.setX_nests]
  exact a.setX_eq_withX d v

section
variable {s : State} {m : Bool} {d b : XReg} {a : VReg} {i : Instr} (hready : VectorReady s)
include hready

/-- An instruction that counts or finds set bits of the mask at va completes (R124). -/
theorem scalarFromVector_of_setBits {f : List Nat → Word} (ha : maskOk (s.arch s.cur).vtype a.toNat = true)
    (h : ∀ u, memberOf i u = some (scalarMember u (wordOf i) (maskOk (u.arch u.cur).vtype a.toNat) m 1 [a.toNat] (maskRegs (u.arch u.cur).vtype) d
      fun s => .ok (f ((s.arch s.cur).setBits (s.rows s.cur) m a)))) :
    ScalarFromVector s i d (f ((s.arch s.cur).setBits (s.rows s.cur) m a)) := by
  refine Completes.scalarFromVector ⟨⟨_, h s, rfl, issueCheck_of_true ha⟩, fun u mb hu hmb => ?_, Arch.setX_regs ..⟩ hready
  obtain rfl := Option.some.inj ((h u).symm.trans hmb)
  have hne : maskRegs (u.arch u.cur).vtype * 4 ≠ 0 :=
    (Nat.mul_pos (Nat.pos_of_dvd_of_pos (maskRegs_dvd _) (by norm_num)) (by norm_num)).ne'
  refine ⟨rfl, rfl, (scalarMember_run rfl hne).trans ?_⟩
  rw [hu.cur, hu.arch, hu.rows]
  rfl

/-- vmvxs completes, whatever VL (R142). -/
theorem vmvxs_scalarFromVector (ha : groupOk a.toNat (multOf (s.arch s.cur).vtype) = true) :
    ScalarFromVector s (.vmvxs d a b) d (if (s.x b).toNat < (s.arch s.cur).positions (widthOf (s.arch s.cur).vtype) then
      BitVec.ofInt 64 (sext (widthOf (s.arch s.cur).vtype) (s.el a.toNat (widthOf (s.arch s.cur).vtype) (s.x b).toNat)) else 0) := by
  refine Completes.scalarFromVector ⟨⟨_, rfl, rfl, issueCheck_of_true ha⟩, fun u mb hu hmb => ?_, Arch.setX_regs ..⟩ hready
  obtain rfl := Option.some.inj hmb
  have hne : multOf (u.arch u.cur).vtype * 4 ≠ 0 := (Nat.mul_pos (Nat.two_pow_pos _) (by norm_num)).ne'
  refine ⟨rfl, rfl, ?_⟩
  unfold memberVmvxs
  dsimp only
  refine (scalarMember_run rfl hne).trans ?_
  rw [hu.cur, hu.arch, hu.rows]
  rfl

end

/-! ## The lowest set bit -/

theorem Arch.setBits_sorted (a : Arch) (rows : Nat) (m : Bool) (v : VReg) : (a.setBits rows m v).Pairwise (· < ·) :=
  List.pairwise_lt_range.filter _

/-- The head of an ascending list is the member that no other is below. -/
theorem head_of_sorted {l : List Nat} (hsorted : l.Pairwise (· < ·)) {k : Nat} (hk : k ∈ l) (hleast : ∀ j ∈ l, k ≤ j) : ∃ rest, l = k :: rest := by
  cases l with
  | nil => cases hk
  | cons x rest =>
    have hxk : x = k := by
      refine (List.mem_cons.1 hk).elim Eq.symm fun hmem => ?_
      exact absurd (List.rel_of_pairwise_cons hsorted hmem) (Nat.not_lt.2 (hleast x List.mem_cons_self))
    exact ⟨rest, by rw [hxk]⟩

/-- The lowest of the set bits, or -1 (R124). -/
def firstOf : List Nat → Word
  | [] => BitVec.allOnes 64
  | k :: _ => BitVec.ofNat 64 k

/-! ## O33 -/

/-- Settles O33: each member writes its value to xd when it has run; the set bits stand in ascending order, so that their head is the lowest. -/
theorem scalarResultsOfVectorsComplete : Obligations.ScalarResultsOfVectorsComplete := by
  unfold Obligations.ScalarResultsOfVectorsComplete
  intro s m d b a
  dsimp only
  intro hready
  refine ⟨fun ha => ?_, fun ha => vmvxs_scalarFromVector hready ha⟩
  have hcount := scalarFromVector_of_setBits (i := .vmpopc m d a) (f := fun l => BitVec.ofNat 64 l.length) hready ha fun _ => rfl
  have hfirst := scalarFromVector_of_setBits (i := .vmfirst m d a) (f := firstOf) hready ha fun _ => rfl
  refine ⟨hcount, fun hnone => ?_, fun k hk hleast => ?_⟩
  · rw [show (s.arch s.cur).setBits (s.rows s.cur) m a = [] from hnone] at hfirst
    exact hfirst
  · obtain ⟨rest, hrest⟩ := head_of_sorted ((s.arch s.cur).setBits_sorted (s.rows s.cur) m a) hk hleast
    rw [hrest] at hfirst
    exact hfirst

end Sys2Proof.Machine
end

section
/-! PROOFS. Levels and segments (spec/06_nested_vectors.md R127 to R129): what the checks of a nest's levels establish, the boundaries of a depth, and
that its segments tile the elements below VL. -/

namespace Sys2Proof.Machine

/-! ## What the checks of levels establish (R127, R129) -/

/-- Entries 0 to c of a level are well formed over n units of the level below (R127). -/
structure LevelWf (f : Nat → Nat) (c n : Nat) : Prop where
  zero : f 0 = 0
  last : f c = n
  mono : ∀ j k, j ≤ k → k ≤ c → f j ≤ f k

/-- The count of the level below level l: VL below the innermost (R127). -/
def Arch.belowLevel (a : Arch) (n : Nest) (l : Nat) : Nat := if l = n.d.val then a.vl else n.count (l + 1)

section
variable {a : Arch} {rows : Nat} {n : Nest}

theorem Arch.levelWf_of_levelBreak {l below : Nat} (h : a.levelBreak rows n l below = none) : LevelWf (a.off rows n l) (n.count l) below := by
  have hentry : ∀ k, k ≤ n.count l → (k = 0 → a.off rows n l k = 0) ∧ (k ≠ 0 → a.off rows n l (k - 1) ≤ a.off rows n l k) ∧
      (k = n.count l → a.off rows n l k = below) := fun k hk => by
    have := List.find?_eq_none.1 h k (List.mem_range.2 (Nat.lt_succ_of_le hk))
    simpa [not_or, and_assoc] using this
  refine ⟨(hentry 0 (Nat.zero_le _)).1 rfl, (hentry _ le_rfl).2.2 rfl, fun j k hjk => ?_⟩
  induction k, hjk using Nat.le_induction with
  | base => exact fun _ => le_rfl
  | succ k _ ih => exact fun hk => (ih (Nat.le_of_succ_le hk)).trans ((hentry (k + 1) hk).2.1 (Nat.succ_ne_zero k))

/-- What holds where the checks of levels lo to D pass, with a level beside them that the instruction writes. -/
structure LevelsPass (a : Arch) (rows : Nat) (n : Nest) (lo : Nat) (written : Option (Nat × Nat)) : Prop where
  reg : ∀ l, lo ≤ l → l ≤ n.d.val → n.reg l ≤ 31
  room : ∀ l, lo ≤ l → l ≤ n.d.val → (∀ c, written ≠ some (l, c)) → n.count l + 1 ≤ 64 * rows
  wf : ∀ l, lo ≤ l → l ≤ n.d.val → LevelWf (a.off rows n l) (n.count l) (a.belowLevel n l)
  writtenReg : ∀ l c, written = some (l, c) → n.reg l ≤ 31
  writtenRoom : ∀ l c, written = some (l, c) → c + 1 ≤ 64 * rows

theorem mem_levelsDown {lo hi l : Nat} : l ∈ levelsDown lo hi ↔ lo ≤ l ∧ l ≤ hi := by
  unfold levelsDown
  rw [List.mem_reverse, mem_rangeList, Nat.lt_succ_iff]

theorem levelStep_foldl_error (a : Arch) (rows : Nat) (n : Nest) (l : List Nat) (e : Stop) :
    l.foldl (levelStep a rows n) (.error e) = .error e := by
  induction l with
  | nil => rfl
  | cons x l ih => exact ih

theorem levelBreak_of_levelStep_foldl {l : List Nat} (h : l.foldl (levelStep a rows n) (.ok ()) = .ok ()) :
    ∀ x ∈ l, a.levelBreak rows n x (a.belowLevel n x) = none := by
  induction l with
  | nil => exact List.forall_mem_nil _
  | cons x l ih =>
    rw [List.foldl_cons] at h
    have hx : a.levelBreak rows n x (a.belowLevel n x) = none := by
      by_contra hne
      obtain ⟨k, hk⟩ := Option.ne_none_iff_exists'.1 hne
      rw [show levelStep a rows n (.ok ()) x = .error (nestTrap x k) by unfold levelStep; unfold Arch.belowLevel at hk; simp only [hk],
        levelStep_foldl_error] at h
      cases h
    rw [show levelStep a rows n (.ok ()) x = .ok () by unfold levelStep; unfold Arch.belowLevel at hx; simp only [hx]] at h
    exact List.forall_mem_cons.2 ⟨hx, ih h⟩

theorem Arch.levelsPass_of_checkLevels {lo : Nat} {written : Option (Nat × Nat)} (h : a.checkLevels rows n lo written = .ok ()) :
    LevelsPass a rows n lo written := by
  unfold Arch.checkLevels at h
  dsimp only at h
  split at h
  · cases h
  next hreg =>
    split at h
    · cases h
    next hroom =>
      have hlevel : ∀ l, lo ≤ l → l ≤ n.d.val → l ∈ levelsDown lo n.d.val := fun l h1 h2 => mem_levelsDown.2 ⟨h1, h2⟩
      have hregs := fun l hl => Nat.not_lt.1 (of_decide_eq_false (Bool.eq_false_iff.2 (List.find?_eq_none.1 hreg l hl)))
      have hrooms := List.find?_eq_none.1 hroom
      refine ⟨fun l h1 h2 => hregs l (List.mem_append_right _ (hlevel l h1 h2)), fun l h1 h2 hw => ?_, fun l h1 h2 => ?_, fun l c hw => ?_,
        fun l c hw => ?_⟩
      · have := hrooms l (List.mem_append_right _ (hlevel l h1 h2))
        rcases written with _ | ⟨l', c⟩
        · simpa using this
        · have hne : l ≠ l' := fun heq => hw c (by rw [heq])
          simpa [hne] using this
      · exact Arch.levelWf_of_levelBreak (levelBreak_of_levelStep_foldl h l (hlevel l h1 h2))
      · subst hw
        exact hregs l (by simp)
      · subst hw
        simpa using hrooms l (by simp)

theorem Arch.levelsPass_of_checkDepth {p : Nat} (hp : p ≠ 0) (h : a.checkDepth rows n p = .ok ()) :
    p ≤ n.d.val ∧ LevelsPass a rows n p none := by
  unfold Arch.checkDepth at h
  rw [if_neg hp] at h
  split at h
  · cases h
  next hD => exact ⟨Nat.not_lt.1 hD, Arch.levelsPass_of_checkLevels h⟩

end

/-! ## The boundaries of a depth (R128) -/

/-- Boundaries from 0 to n, in order. -/
structure Boundaries (ss : List Nat) (n : Nat) : Prop where
  first : ss.head? = some 0
  last : ss.getLast? = some n
  sorted : ss.Pairwise (· ≤ ·)

theorem LevelWf.boundaries {f : Nat → Nat} {c n : Nat} (h : LevelWf f c n) : Boundaries ((List.range (c + 1)).map f) n where
  first := by simp [List.range_succ_eq_map, h.zero]
  last := by simp [List.range_succ, h.last]
  sorted := List.pairwise_map.2 (List.pairwise_lt_range.imp_of_mem fun _ hk hjk => h.mono _ _ hjk.le (Nat.le_of_lt_succ (List.mem_range.1 hk)))

theorem Boundaries.le_last {ss : List Nat} {n k : Nat} (h : Boundaries ss n) (hk : k ∈ ss) : k ≤ n := by
  obtain ⟨init, rfl⟩ := List.getLast?_eq_some_iff.1 h.last
  rcases List.mem_append.1 hk with hk | hk
  · exact (List.pairwise_append.1 h.sorted).2.2 k hk n List.mem_cons_self
  · exact (List.mem_singleton.1 hk).le

/-- Boundaries in the units of one level, composed through that level (R128). -/
theorem Boundaries.map {ss : List Nat} {f : Nat → Nat} {c n : Nat} (h : Boundaries ss c) (hf : LevelWf f c n) : Boundaries (ss.map f) n where
  first := by rw [List.head?_map, h.first, Option.map_some, hf.zero]
  last := by rw [List.getLast?_map, h.last, Option.map_some, hf.last]
  sorted := List.pairwise_map.2 (h.sorted.imp_of_mem fun _ hk hjk => hf.mono _ _ hjk (h.le_last hk))

section
variable {a : Arch} {rows : Nat} {n : Nest} {lo : Nat} {written : Option (Nat × Nat)}

/-- Boundaries in the units of level l, composed through the levels from l inward. -/
theorem LevelsPass.boundaries_foldl (h : LevelsPass a rows n lo written) (k l : Nat) (hl : lo < l) (hk : l + k = n.d.val + 1) {ss : List Nat}
    (hss : Boundaries ss (a.belowLevel n (l - 1))) :
    Boundaries ((rangeList l (n.d.val + 1)).foldl (fun s l => s.map fun k => a.off rows n l k) ss) a.vl := by
  induction k generalizing l ss with
  | zero =>
    rw [show rangeList l (n.d.val + 1) = [] by unfold rangeList; rw [← hk]; simp]
    rwa [Arch.belowLevel, if_pos (by omega)] at hss
  | succ k ih =>
    rw [show rangeList l (n.d.val + 1) = l :: rangeList (l + 1) (n.d.val + 1) by
      unfold rangeList
      rw [← hk, show l + (k + 1) - l = k + 1 by omega, show l + (k + 1) - (l + 1) = k by omega, List.range_succ_eq_map, List.map_cons, List.map_map]
      exact congrArg _ (List.map_congr_left fun j _ => by simp only [Function.comp_apply]; omega), List.foldl_cons]
    refine ih (l + 1) (by omega) (by omega) (hss.map ?_)
    rw [Arch.belowLevel, if_neg (by omega), show l - 1 + 1 = l by omega]
    exact h.wf l (by omega) (by omega)

theorem LevelsPass.boundaries (h : LevelsPass a rows n lo written) {p : Nat} (hp : p = 0 ∨ lo ≤ p ∧ p ≤ n.d.val) :
    Boundaries (a.segs rows n p) a.vl := by
  unfold Arch.segs
  by_cases h0 : p = 0
  · rw [if_pos h0]
    exact ⟨rfl, rfl, by simp⟩
  · obtain ⟨h1, h2⟩ := hp.resolve_left h0
    rw [if_neg h0]
    exact h.boundaries_foldl (n.d.val - p) (p + 1) (by omega) (by omega) (h.wf p h1 h2).boundaries

end

/-! ## Segments tile the elements (R128) -/

/-- The segments, one after the other, hold each element below n once. -/
def Tiles (l : List (Nat × Nat)) (n : Nat) : Prop := (l.flatMap fun q => rangeList q.1 q.2) = List.range n

theorem rangeList_append {x y n : Nat} (hxy : x ≤ y) (hyn : y ≤ n) : rangeList x y ++ rangeList y n = rangeList x n := by
  unfold rangeList
  rw [show n - x = (y - x) + (n - y) by omega, List.range_add, List.map_append, List.map_map]
  exact congrArg _ (List.map_congr_left fun k _ => by simp only [Function.comp_apply]; omega)

theorem segPairs_cons_cons (x y : Nat) (t : List Nat) : segPairs (x :: y :: t) = (x, y) :: segPairs (y :: t) := rfl

theorem flatMap_segPairs {x n : Nat} {t : List Nat} (hlast : (x :: t).getLast? = some n) (hsorted : (x :: t).Pairwise (· ≤ ·)) :
    (segPairs (x :: t)).flatMap (fun q => rangeList q.1 q.2) = rangeList x n := by
  induction t generalizing x with
  | nil =>
    obtain rfl : x = n := by simpa using hlast
    simp [segPairs, rangeList]
  | cons y t ih =>
    have hlast' : (y :: t).getLast? = some n := by rwa [List.getLast?_cons_cons] at hlast
    obtain ⟨hx, hsorted'⟩ := List.pairwise_cons.1 hsorted
    have hy : y ≤ n := by
      rcases List.mem_cons.1 (List.mem_of_getLast? hlast') with rfl | hn
      · exact le_rfl
      · exact List.rel_of_pairwise_cons hsorted' hn
    rw [segPairs_cons_cons, List.flatMap_cons, ih hlast' hsorted']
    exact rangeList_append (hx y List.mem_cons_self) hy

theorem Boundaries.tiles {ss : List Nat} {n : Nat} (h : Boundaries ss n) : Tiles (segPairs ss) n := by
  obtain ⟨hfirst, hlast, hsorted⟩ := h
  obtain ⟨t, rfl⟩ := List.head?_eq_some_iff.1 hfirst
  rw [Tiles, flatMap_segPairs hlast hsorted, rangeList_zero]

theorem Boundaries.end_le {ss : List Nat} {n : Nat} (h : Boundaries ss n) {q : Nat × Nat} (hq : q ∈ segPairs ss) : q.2 ≤ n :=
  h.le_last (List.mem_of_mem_tail (List.of_mem_zip hq).2)

theorem Boundaries.start_le {ss : List Nat} {n : Nat} (h : Boundaries ss n) {q : Nat × Nat} (hq : q ∈ segPairs ss) : q.1 ≤ n :=
  h.le_last (List.of_mem_zip hq).1

section
variable {l : List (Nat × Nat)} {n : Nat} (h : Tiles l n)
include h

/-- The segments of one element are one segment. -/
theorem Tiles.segmentOf_eq {j i : Nat} {q : Nat × Nat} (hq : l[j]? = some q) (hi : i ∈ rangeList q.1 q.2) : segmentOf l i = j := by
  obtain ⟨hj, rfl⟩ := List.getElem?_eq_some_iff.1 hq
  have hdisjoint : l.Pairwise fun q r => List.Disjoint (rangeList q.1 q.2) (rangeList r.1 r.2) :=
    (List.nodup_flatMap.1 (h ▸ List.nodup_range)).2
  unfold segmentOf
  rw [List.findIdx_eq hj]
  refine ⟨by simpa using mem_rangeList.1 hi, fun k hk => ?_⟩
  have hnot : i ∉ rangeList l[k].1 l[k].2 := fun hik => List.pairwise_iff_getElem.1 hdisjoint k j (hk.trans hj) hj hk hik hi
  rw [mem_rangeList] at hnot
  simpa using hnot

/-- Element by element with its segment, the segments in their order are the elements below n. -/
theorem Tiles.flatMap_filterMap {β : Type} (g : Nat → Nat → Nat → Nat → Option β) :
    ((l.zipIdx).flatMap fun q => (rangeList q.1.1 q.1.2).filterMap fun i => g i q.2 q.1.1 q.1.2) =
      (List.range n).filterMap fun i => g i (segmentOf l i) ((l[segmentOf l i]?).getD (0, 0)).1 ((l[segmentOf l i]?).getD (0, 0)).2 := by
  have hflat : l.zipIdx.flatMap (fun q => rangeList q.1.1 q.1.2) = List.range n := by
    conv_rhs => rw [← h, ← List.zipIdx_map_fst 0 l, List.flatMap_map]
  rw [← hflat, List.filterMap_flatMap]
  refine List.flatMap_congr fun q hq => List.filterMap_congr fun i hi => ?_
  have hget := List.mem_zipIdx_iff_getElem?.1 hq
  rw [h.segmentOf_eq hget hi, hget]
  rfl

end

theorem segmentOf_start_le (l : List (Nat × Nat)) (i : Nat) : ((l[segmentOf l i]?).getD (0, 0)).1 ≤ i := by
  by_cases hlt : segmentOf l i < l.length
  · have hfound := List.findIdx_getElem (p := fun q : Nat × Nat => decide (q.1 ≤ i) && decide (i < q.2)) (w := hlt)
    rw [List.getElem?_eq_getElem hlt]
    exact (of_decide_eq_true (Bool.and_eq_true_iff.1 hfound).1)
  · rw [List.getElem?_eq_none (Nat.not_lt.1 hlt)]
    exact Nat.zero_le i

theorem Segments.boundaries {s : State} {n : Nest} {p : Depth} {l : List (Nat × Nat)} (h : Segments s n p l) :
    Boundaries ((s.arch s.cur).segs (s.rows s.cur) n p.val) (s.arch s.cur).vl := by
  obtain ⟨hcheck, -⟩ := h
  by_cases hp : p.val = 0
  · unfold Arch.segs
    rw [if_pos hp]
    exact ⟨rfl, rfl, by simp⟩
  · obtain ⟨hD, hpass⟩ := Arch.levelsPass_of_checkDepth hp hcheck
    exact hpass.boundaries (.inr ⟨le_rfl, hD⟩)

theorem Segments.tiles {s : State} {n : Nest} {p : Depth} {l : List (Nat × Nat)} (h : Segments s n p l) : Tiles l (s.arch s.cur).vl :=
  h.2 ▸ h.boundaries.tiles

end Sys2Proof.Machine
end

section
/-! PROOFS. Scans and shapes (spec/06_nested_vectors.md R138 to R141): the members that give each element a value of its own segment, and O36. -/

namespace Sys2Proof.Machine

/-! ## Results written at their places -/

/-- Where no flags are raised, registers set are registers to which a member has run. -/
theorem State.ran_zero (u : State) (a : Arch) : u.ran a 0 = u.setArch u.cur a := by
  unfold State.ran State.raise
  exact if_pos rfl

/-- Elements written with their tail are results without flags. -/
theorem State.setArch_eq_putResults (u : State) (d w c : Nat) (l : List (Nat × Nat)) :
    u.setArch u.cur (((u.arch u.cur).putElems (u.rows u.cur) d w l).tailFrom (u.rows u.cur) d w c) =
      u.putResults d w c (l.map fun p => (p.1, p.2, 0)) := by
  unfold State.putResults
  dsimp only
  rw [List.map_map, List.map_map]
  have hflags : orFlags (l.map ((fun r => r.2.2) ∘ fun p => (p.1, p.2, (0 : BitVec 5)))) = 0 := orFlags_zeros l
  rw [hflags]
  simp [State.raise, Function.comp_def]

/-- The elements that have a result, written with their places, are the elements written one by one. -/
theorem putElems_filterMap (rows d w : Nat) (f : Nat → Option (Nat × BitVec 5)) (idx : List Nat) (a : Arch) :
    a.putElems rows d w (idx.filterMap fun i => (f i).map fun r => (i, r.1)) = (writeElems a rows d w f idx).1 := by
  induction idx generalizing a with
  | nil => rfl
  | cons i t ih =>
    rw [writeElems_cons, List.filterMap_cons]
    cases hf : f i with
    | none => exact ih a
    | some r => exact ih (a.setElem rows d w i r.1)

/-- The results of the elements below c that have one, and the tail after them. -/
theorem State.putResults_filterMap (u : State) (d w c : Nat) (f : Nat → Option (Nat × BitVec 5)) :
    u.putResults d w c ((List.range c).filterMap fun i => (f i).map fun r => (i, r)) =
      u.ran ((u.arch u.cur).filled (u.rows u.cur) d w c f) (orFlags (((List.range c).filterMap f).map Prod.snd)) := by
  unfold State.putResults Arch.filled
  dsimp only
  rw [← putElems_filterMap, List.map_filterMap, List.map_filterMap, List.map_filterMap]
  simp only [Option.map_map, Function.comp_def]
  rfl

/-! ## Members that give each element a value of its segment -/

/-- The value `g` of each element, of its segment's number, start and end. -/
def ofSegment {β : Type} (l : List (Nat × Nat)) (g : Nat → Nat → Nat → Nat → β) (i : Nat) : β :=
  g i (segmentOf l i) ((l[segmentOf l i]?).getD (0, 0)).1 ((l[segmentOf l i]?).getD (0, 0)).2

/-- Segment by segment and element by element, the active elements are those below n. -/
theorem Tiles.flatMap_active {β : Type} {l : List (Nat × Nat)} {n : Nat} (h : Tiles l n) (on : Nat → Bool)
    (g : Nat → Nat → Nat → Nat → β) :
    ((l.zipIdx).flatMap fun q => (rangeList q.1.1 q.1.2).filterMap fun i => if on i = true then some (i, g i q.2 q.1.1 q.1.2) else none) =
      (List.range n).filterMap fun i => (if on i = true then some (ofSegment l g i) else none).map fun r => (i, r) := by
  rw [h.flatMap_filterMap fun i k lo hi => if on i = true then some (i, g i k lo hi) else none]
  refine List.filterMap_congr fun i _ => ?_
  unfold ofSegment
  split <;> rfl

/-- A member that commits whole does all that its function answers. -/
theorem run_of_whole {mb : Member} {u v : State} {n : Nat} {f : State → Except Stop State} (hgroups : mb.groups = max 1 n)
    (hrun : mb.run = wholeRun f) (hf : f u = .ok v) : mb.run 0 mb.groups u = okPart v mb.groups := by
  have hne : mb.groups ≠ 0 := by omega
  rw [hrun]
  unfold wholeRun
  rw [if_neg hne, hf]

section
variable {s : State} {i : Instr} {m : Bool} {d : VReg} {w : Nat}

/-- An instruction that fills the active elements below VL completes element by element (R113, R117). -/
theorem Completes.elementwise {f : Nat → Nat × BitVec 5}
    (h : Completes s i (groupRegs s d)
      ((s.arch s.cur).filled (s.rows s.cur) d.toNat w (s.arch s.cur).vl fun k => if s.on m k = true then some (f k) else none)
      (orFlags (((List.range (s.arch s.cur).vl).filterMap fun k => if s.on m k = true then some (f k) else none).map Prod.snd)))
    (hready : VectorReady s) (hd : groupOk d.toNat (multOf (s.arch s.cur).vtype) = true) (hfree : s.Writable (groupRegs s d)) (hw : w ∣ 64)
    (hvl : (s.arch s.cur).vl ≤ (s.arch s.cur).positions w) : Elementwise s i m d w f := by
  obtain ⟨t, hexec, hret, hx, hnests, hsame, hholds⟩ := h.fills hready hd hw hvl hfree
  rw [filterMap_ite_some, List.map_map] at hret
  refine ⟨t, hexec, hret, hx, hnests, hsame, fun k hk => (hholds k hk).trans ?_⟩
  dsimp only
  cases s.on m k <;> rfl

/-- The member of instruction i writes to each active element the value `f`, the results put in their places of the group at d with the tail. -/
structure FillMember (s : State) (i : Instr) (m : Bool) (d : VReg) (w : Nat) (f : Nat → Nat × BitVec 5) : Prop where
  issue : ∃ mb, memberOf i s = some mb ∧ mb.issue = .ok ()
  run : ∀ u mb, SameRegs s u → memberOf i u = some mb → mb.writes = groupRegs u d ∧ mb.deviceClass = false ∧
    mb.groups = max 1 (mb.writes.length * 4) ∧ ∃ g, mb.run = wholeRun g ∧ g u = .ok (u.putResults d.toNat w (s.arch s.cur).vl
      ((List.range (s.arch s.cur).vl).filterMap fun k => (if s.on m k = true then some (f k) else none).map fun r => (k, r)))

theorem FillMember.elementwise {f : Nat → Nat × BitVec 5} (h : FillMember s i m d w f) (hready : VectorReady s)
    (hd : groupOk d.toNat (multOf (s.arch s.cur).vtype) = true) (hfree : s.Writable (groupRegs s d)) (hw : w ∣ 64)
    (hvl : (s.arch s.cur).vl ≤ (s.arch s.cur).positions w) : Elementwise s i m d w f := by
  refine Completes.elementwise ⟨?_, fun u mb hu hmb => ?_, Arch.filled_regs ..⟩ hready hd hfree hw hvl
  · obtain ⟨mb, hmb, hok⟩ := h.issue
    exact ⟨mb, hmb, (h.run s mb (.refl s) hmb).1, hok⟩
  · obtain ⟨hwrites, hdev, hgroups, g, hrun, hg⟩ := h.run u mb hu hmb
    refine ⟨hwrites.trans (hu.groupRegs d), hdev, ?_⟩
    rw [run_of_whole hgroups hrun hg, State.putResults_filterMap, hu.cur, hu.arch, hu.rows]

end

/-! ## Scans (R138) -/

section
variable {s : State} {i : Instr} {lo : Nat} {m ex : Bool} {p : Depth} {d a : VReg} {n : NReg} {op : RedOp} {l : List (Nat × Nat)}

/-- The segments of a nest, read in a state with the same registers. -/
theorem Segments.segments_ok_of_sameRegs {u : State} (h : Segments s (s.nest n) p l) (hu : SameRegs s u) :
    ∃ ss, (u.arch u.cur).segments (u.rows u.cur) ((u.arch u.cur).nest n) p.val = .ok ss ∧ segPairs ss = l := by
  rw [hu.cur, hu.arch, hu.rows]
  exact h.segments_ok

/-- What a scan gives an element of the segment from lo: the reduction up to it, or before it (R138). -/
def State.scanned (s : State) (op : RedOp) (m ex : Bool) (a : VReg) (i _k lo _hi : Nat) : Nat × BitVec 5 :=
  reduceSeg op (fmtOf (s.arch s.cur).vtype) (widthOf (s.arch s.cur).vtype)
    ((s.arch s.cur).segValues (s.rows s.cur) a.toNat (widthOf (s.arch s.cur).vtype) m lo (if ex then i else i + 1))

theorem State.scanned_of_ne_fsum (hop : op ≠ .fsum) (i k lo hi : Nat) : s.scanned op m ex a i k lo hi =
    reduceVals op (fmtOf (s.arch s.cur).vtype) (widthOf (s.arch s.cur).vtype)
      ((s.actives m lo (if ex then i else i + 1)).map fun j => s.el a.toNat (widthOf (s.arch s.cur).vtype) j) :=
  reduceSeg_of_ne_fsum hop _ _ (lo, _)

theorem State.scanned_fsum (i k lo hi : Nat) : s.scanned .fsum m ex a i k lo hi =
    if fmtOf (s.arch s.cur).vtype = .fp64 then fp64Sum ((rangeList lo (if ex then i else i + 1)).map fun j =>
      if s.on m j then some (s.el a.toNat (widthOf (s.arch s.cur).vtype) j) else none)
    else exactSum (fmtOf (s.arch s.cur).vtype) (((s.actives m lo (if ex then i else i + 1)).map fun j =>
      s.el a.toNat (widthOf (s.arch s.cur).vtype) j).map (unpack (fmtOf (s.arch s.cur).vtype))) :=
  reduceSeg_fsum _ _ (lo, _)

theorem scanMember_fillMember (h : ∀ u, memberOf i u = some (scanMember u (wordOf i) lo op m ex p d a n)) (hlo : lo ≤ ewOf (s.arch s.cur).vtype)
    (hd : groupOk d.toNat (multOf (s.arch s.cur).vtype) = true) (ha : groupOk a.toNat (multOf (s.arch s.cur).vtype) = true)
    (hseg : Segments s (s.nest n) p l) :
    FillMember s i m d (widthOf (s.arch s.cur).vtype) (ofSegment l (s.scanned op m ex a)) where
  issue := ⟨_, h s, issueCheck_of_true (by simp [hlo, hd, ha])⟩
  run u mb hu hmb := by
    obtain rfl := Option.some.inj ((h u).symm.trans hmb)
    refine ⟨rfl, rfl, rfl, fun s => s.scanTo op m ex p d a n, rfl, ?_⟩
    obtain ⟨ss, hss, rfl⟩ := hseg.segments_ok_of_sameRegs hu
    unfold State.scanTo State.scanResults
    dsimp only
    rw [hss, hu.cur, hu.arch, hu.rows, ← hseg.tiles.flatMap_active]
    dsimp only [bind, Except.bind, pure, Except.pure]
    conv_lhs => rw [← List.zipIdx_map_fst 0 (segPairs ss), List.flatMap_map]
    rfl

end

/-! ## Shapes (R139 to R141) -/

section
variable {s : State} {i : Instr} {lo : Nat} {m : Bool} {p : Depth} {d : VReg} {n : NReg} {l : List (Nat × Nat)}

/-- A member with the skeleton of a shape instruction writes `f` of each element and its segment, whatever it waits for. -/
theorem shapeMember_fillMember {srcs : List VReg} (f : Nat → Arch → Nat → Nat → Nat → Nat → Nat)
    (h : ∀ u, ∃ whole, memberOf i u = some { shapeMember u (wordOf i) lo m p d srcs n (f (u.rows u.cur)) with whole := whole })
    (hlo : lo ≤ ewOf (s.arch s.cur).vtype) (hd : groupOk d.toNat (multOf (s.arch s.cur).vtype) = true)
    (hsrcs : ∀ v ∈ srcs, groupOk v.toNat (multOf (s.arch s.cur).vtype) = true) (hseg : Segments s (s.nest n) p l) :
    FillMember s i m d (widthOf (s.arch s.cur).vtype) fun k => (ofSegment l (f (s.rows s.cur) (s.arch s.cur)) k, 0) where
  issue := by
    obtain ⟨whole, hs⟩ := h s
    exact ⟨_, hs, issueCheck_of_true (by simpa [hlo, hd] using hsrcs)⟩
  run u mb hu hmb := by
    obtain ⟨whole, hmember⟩ := h u
    obtain rfl := Option.some.inj (hmember.symm.trans hmb)
    refine ⟨rfl, rfl, rfl, fun s => s.shapeTo m p d ((s.arch s.cur).nest n) (f (u.rows u.cur)), rfl, ?_⟩
    obtain ⟨ss, hss, rfl⟩ := hseg.segments_ok_of_sameRegs hu
    unfold State.shapeTo
    dsimp only
    rw [hss]
    have hput := u.setArch_eq_putResults d.toNat (widthOf (s.arch s.cur).vtype) (s.arch s.cur).vl
    rw [hu.cur, hu.arch, hu.rows] at hput ⊢
    refine congrArg Except.ok ((hput _).trans (congrArg _ ?_))
    have hactive := hseg.tiles.flatMap_active (s.on m) (f (s.rows s.cur) (s.arch s.cur))
    refine (congrArg _ hactive).trans ?_
    rw [List.map_filterMap]
    refine List.filterMap_congr fun k _ => ?_
    cases s.on m k <;> rfl

variable (hready : VectorReady s) (hfree : s.Writable (groupRegs s d))
include hready hfree

/-- A shape instruction completes element by element (R139 to R141). -/
theorem elementwise_of_shapeMember {srcs : List VReg} (f : Nat → Arch → Nat → Nat → Nat → Nat → Nat)
    (h : ∀ u, ∃ whole, memberOf i u = some { shapeMember u (wordOf i) lo m p d srcs n (f (u.rows u.cur)) with whole := whole })
    (hlo : lo ≤ ewOf (s.arch s.cur).vtype) (hd : groupOk d.toNat (multOf (s.arch s.cur).vtype) = true)
    (hsrcs : ∀ v ∈ srcs, groupOk v.toNat (multOf (s.arch s.cur).vtype) = true) (hseg : Segments s (s.nest n) p l) :
    Elementwise s i m d (widthOf (s.arch s.cur).vtype) fun k => (ofSegment l (f (s.rows s.cur) (s.arch s.cur)) k, 0) :=
  (shapeMember_fillMember f h hlo hd hsrcs hseg).elementwise hready hd hfree (widthOf_dvd hready.width)
    (hready.vl_le_positions (widthOf_pos _) le_rfl)

/-- A scan completes with any results that are the model's modulo 2^w (R138). -/
theorem elementwise_of_scanMember {ex : Bool} {a : VReg} {op : RedOp} {g : Nat → Nat × BitVec 5}
    (h : ∀ u, memberOf i u = some (scanMember u (wordOf i) lo op m ex p d a n)) (hlo : lo ≤ ewOf (s.arch s.cur).vtype)
    (hd : groupOk d.toNat (multOf (s.arch s.cur).vtype) = true) (ha : groupOk a.toNat (multOf (s.arch s.cur).vtype) = true)
    (hseg : Segments s (s.nest n) p l)
    (hg : ∀ k, ∃ v, ofSegment l (s.scanned op m ex a) k = (v, (g k).2) ∧
      v % 2 ^ widthOf (s.arch s.cur).vtype = (g k).1 % 2 ^ widthOf (s.arch s.cur).vtype) :
    Elementwise s i m d (widthOf (s.arch s.cur).vtype) g := by
  refine ((scanMember_fillMember h hlo hd ha hseg).elementwise hready hd hfree (widthOf_dvd hready.width)
    (hready.vl_le_positions (widthOf_pos _) le_rfl)).congr (fun k => ?_) fun k => ?_
  all_goals
    obtain ⟨v, hv, hmod⟩ := hg k
    rw [hv]
  exact hmod

end

/-- vseglen puts the length of each segment in its place (R139). -/
theorem vseglen_segmentMember {s : State} {p : Depth} {d : VReg} {n : NReg} {l : List (Nat × Nat)} (hlo : 3 ≤ ewOf (s.arch s.cur).vtype)
    (hd : groupOk d.toNat (multOf (s.arch s.cur).vtype) = true) (hseg : Segments s (s.nest n) p l)
    (hlen : l.length ≤ (s.arch s.cur).positions (widthOf (s.arch s.cur).vtype)) :
    SegmentMember s (.vseglen p d n) d (widthOf (s.arch s.cur).vtype) l fun q => ((q.2 - q.1) % 2 ^ widthOf (s.arch s.cur).vtype, 0) where
  issue := ⟨_, rfl, issueCheck_of_true (by simp [hlo, hd])⟩
  run u mb hu hmb := by
    obtain rfl := Option.some.inj hmb
    refine ⟨rfl, rfl, rfl, fun s => s.seglenTo p d n, rfl, ?_⟩
    obtain ⟨ss, hss, rfl⟩ := hseg.segments_ok_of_sameRegs hu
    unfold State.seglenTo
    dsimp only
    rw [hss]
    have hput := u.setArch_eq_putResults d.toNat (widthOf (s.arch s.cur).vtype) (segPairs ss).length
    rw [hu.cur, hu.arch, hu.rows] at hput ⊢
    dsimp only [bind, Except.bind]
    rw [Arch.segmentsFit_of_le _ hlen]
    dsimp only [pure, Except.pure]
    rw [hput, List.map_map]
    rfl

/-! ## O36 -/

/-- Settles O36: the segments of a depth tile the elements below VL, so that a scan or a shape fills the active ones, each with the value of its own
segment. -/
theorem scansAndShapesComplete : Obligations.ScansAndShapesComplete := by
  unfold Obligations.ScansAndShapesComplete
  intro s m ex p d a b x n l
  dsimp only
  intro hready hd hfree
  have hw := widthOf_pos (s.arch s.cur).vtype
  have hnone : ∀ v ∈ ([] : List VReg), groupOk v.toNat (multOf (s.arch s.cur).vtype) = true := List.forall_mem_nil _
  have hzero := Nat.zero_le (ewOf (s.arch s.cur).vtype)
  refine ⟨fun hseg => ⟨fun hlo => ⟨?_, fun hlen => ?_⟩, fun ha => ⟨?_, fun hlo => ⟨?_, ?_⟩, fun hlo => ⟨?_, ?_⟩⟩⟩,
    fun hseg ha => ⟨?_, ?_, fun hb => ?_⟩⟩
  · exact (elementwise_of_shapeMember hready hfree (fun _ x _ k _ _ => k % 2 ^ widthOf x.vtype) (fun _ => ⟨_, rfl⟩) hlo hd hnone hseg).congr
      (fun _ => Nat.mod_mod ..) fun _ => rfl
  · exact ((vseglen_segmentMember hlo hd hseg hlen).perSegment hready hd (widthOf_dvd hready.width) hlen hfree).congr
      (fun _ _ => Nat.mod_mod ..) fun _ _ => rfl
  · exact elementwise_of_shapeMember hready hfree
      (fun rows x _ k _ _ => if k < x.positions (widthOf x.vtype) then x.elem rows a.toNat (widthOf x.vtype) k else 0)
      (fun _ => ⟨_, rfl⟩) hzero hd (groupOk_singleton ha) hseg
  · refine elementwise_of_scanMember (op := .sum) hready hfree (fun _ => rfl) hlo hd ha hseg fun k => ?_
    rw [ofSegment, State.scanned_of_ne_fsum (by decide)]
    exact reduceVals_sum_emod ..
  · refine elementwise_of_scanMember (op := .max) hready hfree (fun _ => rfl) hlo hd ha hseg fun k => ?_
    rw [ofSegment, State.scanned_of_ne_fsum (by decide)]
    exact reduceVals_max_emod hw ..
  · exact elementwise_of_scanMember (op := .fsum) hready hfree (fun _ => rfl) hlo hd ha hseg fun k => ⟨_, State.scanned_fsum .., rfl⟩
  · exact elementwise_of_scanMember (op := .fmax) hready hfree (fun _ => rfl) hlo hd ha hseg fun k =>
      ⟨_, State.scanned_of_ne_fsum (op := .fmax) (by decide) .., rfl⟩
  · refine (elementwise_of_shapeMember hready hfree
      (fun rows y i _ lo _ => if (y.getX x).toNat ≤ i - lo then y.elem rows a.toNat (widthOf y.vtype) (i - (y.getX x).toNat) else 0)
      (fun _ => ⟨_, rfl⟩) hzero hd (groupOk_singleton ha) hseg).congr (fun k => ?_) fun _ => rfl
    have hstart := segmentOf_start_le l k
    exact congrArg (· % _) (if_congr (Nat.le_sub_iff_add_le' hstart) rfl rfl)
  · exact elementwise_of_shapeMember hready hfree
      (fun rows y i _ _ hi => if i + (y.getX x).toNat < hi then y.elem rows a.toNat (widthOf y.vtype) (i + (y.getX x).toNat) else 0)
      (fun _ => ⟨_, rfl⟩) hzero hd (groupOk_singleton ha) hseg
  · exact elementwise_of_shapeMember hready hfree
      (fun rows y i _ lo hi => if lo + y.elem rows b.toNat (widthOf y.vtype) i < hi then
        y.elem rows a.toNat (widthOf y.vtype) (lo + y.elem rows b.toNat (widthOf y.vtype) i) else 0)
      (fun _ => ⟨_, rfl⟩) hzero hd (List.forall_mem_cons.2 ⟨ha, groupOk_singleton hb⟩) hseg

end Sys2Proof.Machine
end

section
/-! PROOFS. Building and taking down levels (spec/06_nested_vectors.md R126, R143, R144): lists of values written from the start of a group or
of level registers, and O37. -/

namespace Sys2Proof.Machine

/-! ## A list of values written from element 0 on -/

/-- Elements 0, 1, … of the group at d become these values. -/
def Arch.putList (a : Arch) (rows d w : Nat) (vals : List Nat) : Arch := a.putElems rows d w (vals.zipIdx.map fun p => (p.2, p.1))

theorem Arch.putElems_zipIdx {α : Type} (a : Arch) (rows d w : Nat) (l : List α) (g : α → Nat) :
    a.putElems rows d w (l.zipIdx.map fun p => (p.2, g p.1)) = a.putList rows d w (l.map g) := by
  unfold Arch.putList
  rw [List.zipIdx_map, List.map_map]
  rfl

theorem Arch.putElems_range (a : Arch) (rows d w n : Nat) (g : Nat → Nat) :
    a.putElems rows d w ((List.range n).map fun k => (k, g k)) = a.putList rows d w ((List.range n).map g) := by
  rw [← Arch.putElems_zipIdx]
  exact congrArg _ (List.ext_getElem (by simp) fun k h1 h2 => by simp)

theorem Arch.putList_eq_writeElems (a : Arch) (rows d w : Nat) (vals : List Nat) :
    a.putList rows d w vals = (writeElems a rows d w (fun k => (vals[k]?).map fun v => (v, 0)) (List.range vals.length)).1 := by
  rw [← putElems_eq_writeElems (g := fun k => (vals[k]?).getD 0) a fun k hk => ⟨0, by simp [List.mem_range.1 hk]⟩]
  unfold Arch.putList
  exact congrArg _ (List.ext_getElem (by simp) fun k h1 h2 => by simp [show k < vals.length by simpa using h1])

theorem Arch.putList_frame (a : Arch) (rows d w : Nat) (vals : List Nat) :
    a.putList rows d w vals = { a with v := (a.putList rows d w vals).v } := by
  rw [Arch.putList_eq_writeElems]
  exact writeElems_frame ..

section
variable {a : Arch} {rows d w n : Nat} {vals : List Nat} (hlen : vals.length ≤ n * regBits rows / w)
include hlen

theorem Arch.putList_vreg {r : Nat} (hr : r ∉ regsFrom d n) : (a.putList rows d w vals).vreg r = a.vreg r := by
  rw [Arch.putList_eq_writeElems]
  exact writeElems_vreg _ _ _ _ _ _ fun i hi => ne_reg_of_not_mem hr ((List.mem_range.1 hi).trans_le hlen)

theorem Arch.putList_elem (hfit : GroupFits rows d w n) {k : Nat} (hk : k < n * regBits rows / w) :
    (a.putList rows d w vals).elem rows d w k = ((vals[k]?).map (· % 2 ^ w)).getD (a.elem rows d w k) := by
  rw [Arch.putList_eq_writeElems, writeElems_getD _ _ _ (rows_pos_of_lt hk) hfit.rows_le hfit.dvd List.nodup_range fun j hj =>
    hfit.reg_lt ((List.mem_range.1 hj).trans_le hlen), Option.map_map]
  by_cases hkl : k < vals.length
  · rw [if_pos (List.mem_range.2 hkl)]
    rfl
  · rw [if_neg (fun h => hkl (List.mem_range.1 h)), List.getElem?_eq_none (Nat.not_lt.1 hkl)]
    rfl

end

/-! ## Level registers (R127) -/

/-- Level registers written one after the other, each with its entries from entry 0 on. -/
def Arch.putLevels (a : Arch) (rows : Nat) (levels : List (Nat × List Nat)) : Arch :=
  levels.foldl (fun y p => y.putList rows p.1 32 p.2) a

/-- Different registers, with room for their entries, which are offsets of 32 bits (R127, R129). -/
structure LevelsFit (rows : Nat) (levels : List (Nat × List Nat)) : Prop where
  distinct : (levels.map Prod.fst).Nodup
  level : ∀ p ∈ levels, p.1 ≤ 31 ∧ p.2.length ≤ 64 * rows ∧ ∀ v ∈ p.2, v < 2 ^ 32

theorem LevelsFit.nil (rows : Nat) : LevelsFit rows [] := ⟨List.nodup_nil, List.forall_mem_nil _⟩

theorem LevelsFit.cons {rows : Nat} {levels : List (Nat × List Nat)} (h : LevelsFit rows levels) {r : Nat} {vals : List Nat} (hr : r ≤ 31)
    (hroom : vals.length ≤ 64 * rows) (hsmall : ∀ v ∈ vals, v < 2 ^ 32) (hnew : ∀ p ∈ levels, p.1 ≠ r) :
    LevelsFit rows ((r, vals) :: levels) where
  distinct := List.nodup_cons.2 ⟨fun hmem => by
    obtain ⟨p, hp, heq⟩ := List.mem_map.1 hmem
    exact hnew p hp heq, h.distinct⟩
  level := List.forall_mem_cons.2 ⟨⟨hr, hroom, hsmall⟩, h.level⟩

/-- An entry lies in its level's register. -/
theorem entry_reg {rows k : Nat} (r : Nat) (h : k < 64 * rows) : r + k * 32 / regBits rows = r := by
  rw [Nat.div_eq_of_lt (by unfold regBits; omega), Nat.add_zero]

theorem entries_eq (rows : Nat) : 64 * rows = 1 * regBits rows / 32 := by
  unfold regBits
  omega

theorem Arch.putLevels_frame (a : Arch) (rows : Nat) (levels : List (Nat × List Nat)) :
    a.putLevels rows levels = { a with v := (a.putLevels rows levels).v } := by
  unfold Arch.putLevels
  induction levels generalizing a with
  | nil => rfl
  | cons p levels ih =>
    rw [List.foldl_cons, ih, Arch.putList_frame]

section
variable {rows : Nat} {levels : List (Nat × List Nat)}

theorem Arch.putLevels_vreg {a : Arch} (hfit : LevelsFit rows levels) {r : Nat} (hr : ∀ p ∈ levels, p.1 ≠ r) :
    (a.putLevels rows levels).vreg r = a.vreg r := by
  unfold Arch.putLevels
  obtain ⟨hdistinct, hlevel⟩ := hfit
  induction levels generalizing a with
  | nil => rfl
  | cons p levels ih =>
    obtain ⟨hp, hlevels⟩ := List.forall_mem_cons.1 hlevel
    obtain ⟨hpr, hr'⟩ := List.forall_mem_cons.1 hr
    rw [List.foldl_cons, ih hr' (List.nodup_cons.1 hdistinct).2 hlevels]
    refine Arch.putList_vreg (n := 1) (hp.2.1.trans_eq (entries_eq rows)) fun hmem => ?_
    rw [mem_regsFrom] at hmem
    omega

theorem Arch.putLevels_entry {a : Arch} (hrows : rows ≤ 64) (hfit : LevelsFit rows levels) {p : Nat × List Nat} (hp : p ∈ levels) {k : Nat}
    (hk : k < 64 * rows) : (a.putLevels rows levels).elem rows p.1 32 k = (p.2[k]?).getD (a.elem rows p.1 32 k) := by
  induction levels generalizing a with
  | nil => cases hp
  | cons q levels ih =>
    obtain ⟨hnew, hdistinct⟩ := List.nodup_cons.1 hfit.distinct
    obtain ⟨⟨hreg, hroom, hsmall⟩, hlevels⟩ := List.forall_mem_cons.1 hfit.level
    have hrest : LevelsFit rows levels := ⟨hdistinct, hlevels⟩
    rcases List.mem_cons.1 hp with rfl | hmem
    · have hothers : ∀ q ∈ levels, q.1 ≠ p.1 := fun q hq heq => hnew (heq ▸ List.mem_map_of_mem hq)
      refine (Arch.elem_congr _ _ _ _ ((Arch.putLevels_vreg (a := a.putList rows p.1 32 p.2) hrest fun q hq => ?_))).trans ?_
      · rw [entry_reg _ hk]
        exact hothers q hq
      · rw [Arch.putList_elem (n := 1) (hroom.trans_eq (entries_eq rows)) ⟨hrows, dvd_regBits (by norm_num) _, by omega⟩
          (hk.trans_eq (entries_eq rows))]
        cases hget : p.2[k]? with
        | none => rfl
        | some v => exact Nat.mod_eq_of_lt (hsmall v (List.mem_of_getElem? hget))
    · refine (ih (a := a.putList rows q.1 32 q.2) hrest hmem).trans (congrArg _ (Arch.elem_congr _ _ _ _ ?_))
      have hne : p.1 ≠ q.1 := fun heq => hnew (heq ▸ List.mem_map_of_mem hmem)
      refine Arch.putList_vreg (n := 1) (hroom.trans_eq (entries_eq rows)) fun hin => ?_
      rw [entry_reg _ hk, mem_regsFrom] at hin
      omega

end

/-! ## What an instruction that writes levels and a nest leaves (R143, R144) -/

theorem State.nest_eq (s : State) (n : NReg) : (s.arch s.cur).nest n = s.nest n := rfl

theorem SameRegs.nest {s u : State} (h : SameRegs s u) (n : NReg) : u.nest n = s.nest n := by
  rw [← State.nest_eq, h.cur, h.arch]
  rfl

theorem SameRegs.x {s u : State} (h : SameRegs s u) (b : XReg) : u.x b = s.x b := by
  unfold State.x
  rw [h.cur, h.arch]

/-- A nest set in place leaves the others. -/
theorem nestIs_of_nests {s t : State} {n : NReg} {q : Nest} (hcur : t.cur = s.cur)
    (h : (t.arch s.cur).nests = (s.arch s.cur).nests.set n.toNat q n.isLt) : NestIs s t n q := fun k => by
  unfold State.nest
  rw [hcur]
  simp only [h]
  rw [Vector.getElem_set]
  exact if_congr ⟨fun heq => (BitVec.eq_of_toNat_eq heq).symm, fun heq => congrArg _ heq.symm⟩ rfl rfl

section
variable {s : State} {i : Instr} {regs : List Nat} {n : NReg} {q : Nest} {levels : List (Nat × List Nat)}

/-- An instruction that writes level registers and sets a nest has done that and nothing else. -/
theorem Completes.writesLevels (h : Completes s i regs (((s.arch s.cur).putLevels (s.rows s.cur) levels).setNest n q) 0) (hready : VectorReady s)
    (hfree : s.Writable regs) (hfit : LevelsFit (s.rows s.cur) levels) (hregs : ∀ p ∈ levels, p.1 ∈ regs) :
    ∃ t, exec i s = .next t ∧ VectorRetires s t i regs 0 ∧ (t.arch s.cur).x = (s.arch s.cur).x ∧ NestIs s t n q ∧ SameVregs s t regs ∧
      ∀ p ∈ levels, EntriesAre s t p.1 p.2 := by
  obtain ⟨t, hexec, hret, hx, hv, hnests⟩ := h.retires hready hfree
  have hframe := (s.arch s.cur).putLevels_frame (s.rows s.cur) levels
  have hvreg : ∀ r, (t.arch s.cur).vreg r = ((s.arch s.cur).putLevels (s.rows s.cur) levels).vreg r := Arch.vreg_congr hv
  refine ⟨t, hexec, hret, ?_, nestIs_of_nests (by rw [hret.package]) ?_, fun r _ hr => ?_, fun p hp k hk => ?_⟩
  · rw [hx]
    unfold Arch.setNest
    rw [hframe]
  · rw [hnests]
    unfold Arch.setNest
    rw [hframe]
  · rw [hvreg, Arch.putLevels_vreg hfit fun p hp (heq : p.1 = r) => hr (heq ▸ hregs p hp)]
  · rw [hret.el_eq, Arch.elem_congr _ _ _ _ (hvreg _), Arch.putLevels_entry (s.rows_le s.cur) hfit hp hk]
    rfl

/-- A member that commits whole and sets registers alone completes where it answers a state. -/
theorem Completes.of_setArch {a : Arch} {f : State → Except Stop State} (hissue : ∃ m, memberOf i s = some m ∧ m.issue = .ok ())
    (hrun : ∀ u m, SameRegs s u → memberOf i u = some m →
      m.writes = regs ∧ m.deviceClass = false ∧ m.groups = max 1 (m.writes.length * 4) ∧ m.run = wholeRun f)
    (hf : ∀ u, SameRegs s u → f u = .ok (u.setArch u.cur a)) (hframe : a = { s.arch s.cur with x := a.x, v := a.v, nests := a.nests }) :
    Completes s i regs a 0 :=
  Completes.of_whole (g := fun _ => f) hissue (fun u m hu hm => by
    obtain ⟨hwrites, hdev, hgroups, hwhole⟩ := hrun u m hu hm
    exact ⟨hwrites, hdev, hgroups, hwhole, by rw [State.ran_zero]; exact hf u hu⟩) hframe

end

/-! ## nset and npush (R143) -/

theorem extractLsb'_eq_zero {v : Word} {k : Nat} (h : v.toNat < 2 ^ k) (len : Nat) : v.extractLsb' k len = 0#len := by
  apply BitVec.eq_of_toNat_eq
  rw [BitVec.extractLsb'_toNat, Nat.shiftRight_eq_div_pow, Nat.div_eq_of_lt h]
  rfl

theorem extractLsb'_zero_toNat (v : Word) (len : Nat) : (v.extractLsb' 0 len).toNat = v.toNat % 2 ^ len := by
  rw [BitVec.extractLsb'_toNat, Nat.shiftRight_zero]

/-- A count of 32 bits as the 12 bits that a nest holds. -/
theorem ofNat_mod_two_pow (n : Nat) : BitVec.ofNat 12 (n % 2 ^ 32) = BitVec.ofNat 12 n := by
  apply BitVec.eq_of_toNat_eq
  rw [BitVec.toNat_ofNat, BitVec.toNat_ofNat]
  exact Nat.mod_mod_of_dvd n (by norm_num)

/-- A nest one level deeper, with c segments at the new level (R143, R145). -/
def Nest.pushed (q : Nest) (c : Nat) (h : q.d.val < 4) : Nest :=
  { q with d := ⟨q.d.val + 1, by omega⟩, c := q.c.set q.d.val (BitVec.ofNat 12 c) h }

theorem Nest.setCount_pushed (q : Nest) (c : Nat) (h : q.d.val < 4) (h' : q.d.val + 1 < 5) :
    { q.setCount (q.d.val + 1) c with d := ⟨q.d.val + 1, h'⟩ } = q.pushed c h := by
  rw [show q.setCount (q.d.val + 1) c = { q with c := q.c.set q.d.val (BitVec.ofNat 12 c) h } from dif_pos h]
  rfl

section
variable {s : State} {n : NReg} {a : VReg} {b : XReg} {v : Word}

theorem State.nsetTo_eq (hv : v.toNat < 2 ^ 34) (hroom : v.toNat % 2 ^ 32 + 1 ≤ 64 * s.rows s.cur) : s.nsetTo n a v = .ok (s.setArch s.cur
    ((s.arch s.cur).setNest n ⟨1, a, #v[BitVec.ofNat 12 v.toNat, 0, 0, 0], v.getLsbD 32, v.getLsbD 33⟩)) := by
  unfold State.nsetTo
  dsimp only
  rw [extractLsb'_eq_zero hv, if_neg (fun h => h rfl), extractLsb'_zero_toNat, if_neg (Nat.not_lt.2 hroom), ofNat_mod_two_pow]
  rfl

theorem State.npushTo_eq (hv : v.toNat < 2 ^ 32) (hroom : v.toNat + 1 ≤ 64 * s.rows s.cur)
    (hreg : (s.nest n).base.toNat + (s.nest n).d.val ≤ 31) (hd : (s.nest n).d.val < 4) :
    s.npushTo n v = .ok (s.setArch s.cur ((s.arch s.cur).setNest n ((s.nest n).pushed v.toNat hd))) := by
  unfold State.npushTo
  dsimp only
  rw [State.nest_eq, extractLsb'_eq_zero hv, if_neg (fun h => h rfl), extractLsb'_zero_toNat, Nat.mod_eq_of_lt hv, dif_pos (by omega),
    if_neg (Nat.not_lt.2 hreg), if_neg (Nat.not_lt.2 hroom), Nest.setCount_pushed]

theorem Arch.setNest_regs (x : Arch) (n : NReg) (q : Nest) :
    x.setNest n q = { x with x := (x.setNest n q).x, v := (x.setNest n q).v, nests := (x.setNest n q).nests } := rfl

theorem nset_completes (hv : (s.x b).toNat < 2 ^ 34) (hroom : (s.x b).toNat % 2 ^ 32 + 1 ≤ 64 * s.rows s.cur) :
    Completes s (.nset n a b) []
      ((s.arch s.cur).setNest n ⟨1, a, #v[BitVec.ofNat 12 (s.x b).toNat, 0, 0, 0], (s.x b).getLsbD 32, (s.x b).getLsbD 33⟩) 0 := by
  refine Completes.of_setArch (f := fun s => s.nsetTo n a (s.x b)) ⟨_, rfl, rfl⟩ (fun u m hu hm => ?_) (fun u hu => ?_) (Arch.setNest_regs ..)
  · obtain rfl := Option.some.inj hm
    exact ⟨rfl, rfl, rfl, rfl⟩
  · rw [hu.x, State.nsetTo_eq hv (by rw [hu.cur, hu.rows]; exact hroom), hu.cur, hu.arch]

theorem npush_completes (hv : (s.x b).toNat < 2 ^ 32) (hroom : (s.x b).toNat + 1 ≤ 64 * s.rows s.cur)
    (hreg : (s.nest n).base.toNat + (s.nest n).d.val ≤ 31) (hd : (s.nest n).d.val < 4) :
    Completes s (.npush n b) [] ((s.arch s.cur).setNest n ((s.nest n).pushed (s.x b).toNat hd)) 0 := by
  refine Completes.of_setArch (f := fun s => s.npushTo n (s.x b)) ⟨_, rfl, rfl⟩ (fun u m hu hm => ?_) (fun u hu => ?_) (Arch.setNest_regs ..)
  · obtain rfl := Option.some.inj hm
    exact ⟨rfl, rfl, rfl, rfl⟩
  · have h := State.npushTo_eq (s := u) (n := n) hv (by rw [hu.cur, hu.rows]; exact hroom) (by rw [hu.nest]; exact hreg) (by rw [hu.nest]; exact hd)
    simp only [hu.nest, hu.cur, hu.arch] at h
    rw [hu.x, h, hu.cur]

end

/-! ## npop (R144) -/

/-- The outermost level that npop reads: the one it composes. -/
def Nest.popFirst (q : Nest) (flat : Bool) : Nat := if flat && decide (3 ≤ q.d.val) then q.d.val - 2 else q.d.val - 1

/-- Level l's entries composed through level l + 1, as a list from entry 0 on. -/
def Arch.composedEntries (a : Arch) (rows : Nat) (q : Nest) (l : Nat) : List Nat :=
  (List.range (q.count l + 1)).map fun k => a.off rows q (l + 1) (a.off rows q l k)

/-- Level l's own entries. -/
def Arch.levelEntries (a : Arch) (rows : Nat) (q : Nest) (l : Nat) : List Nat := (List.range (q.count l + 1)).map fun k => a.off rows q l k

/-- The level registers that npop writes, in the order in which it writes them. -/
def Arch.popLevels (a : Arch) (rows : Nat) (q : Nest) (flat : Bool) : List (Nat × List Nat) :=
  if q.d.val ≤ 1 then []
  else if flat then
    (if 3 ≤ q.d.val then [(q.reg (q.d.val - 2), a.composedEntries rows q (q.d.val - 2))] else []) ++
      [(q.reg (q.d.val - 1), a.levelEntries rows q q.d.val)]
  else [(q.reg (q.d.val - 1), a.composedEntries rows q (q.d.val - 1))]

/-- The nest that npop leaves. -/
def Nest.popped (q : Nest) (flat : Bool) : Nest :=
  if flat && decide (2 ≤ q.d.val) then (q.setCount (q.d.val - 1) (q.count q.d.val)).drop else q.drop

section
variable {s : State} {n : NReg} {flat : Bool}

theorem Arch.putElems_composed (y a : Arch) (rows r : Nat) (q : Nest) (l : Nat) :
    y.putElems rows r 32 (a.composed rows q l) = y.putList rows r 32 (a.composedEntries rows q l) := Arch.putElems_range ..

theorem Arch.putElems_levelEntries (y a : Arch) (rows r : Nat) (q : Nest) (l : Nat) :
    y.putElems rows r 32 ((List.range (q.count l + 1)).map fun k => (k, a.off rows q l k)) = y.putList rows r 32 (a.levelEntries rows q l) :=
  Arch.putElems_range ..

theorem State.npopTo_eq (h0 : (s.nest n).d.val ≠ 0)
    (hcheck : 2 ≤ (s.nest n).d.val → (s.arch s.cur).checkLevels (s.rows s.cur) (s.nest n) ((s.nest n).popFirst flat) none = .ok ()) :
    s.npopTo flat n = .ok (s.setArch s.cur
      (((s.arch s.cur).putLevels (s.rows s.cur) ((s.arch s.cur).popLevels (s.rows s.cur) (s.nest n) flat)).setNest n ((s.nest n).popped flat))) := by
  unfold State.npopTo Arch.popLevels Nest.popped
  dsimp only
  rw [State.nest_eq, if_neg h0]
  by_cases h1 : (s.nest n).d.val = 1
  · rw [if_pos h1, if_pos h1.le, if_neg (by simp [h1])]
    rfl
  · have h2 : 2 ≤ (s.nest n).d.val := by omega
    have hcheck := hcheck h2
    unfold Nest.popFirst at hcheck
    rw [if_neg h1, if_neg (show ¬ (s.nest n).d.val ≤ 1 by omega)]
    cases flat with
    | false =>
      simp only [Bool.false_and, Bool.false_eq_true, if_false] at hcheck
      simp only [Bool.not_false, if_true, hcheck, Bool.false_and, Bool.false_eq_true, if_false, Arch.putElems_composed]
      rfl
    | true =>
      simp only [Bool.true_and, decide_eq_true_eq] at hcheck
      simp only [Bool.not_true, Bool.false_eq_true, if_false, hcheck, Bool.true_and, decide_eq_true_eq, if_pos h2, if_true,
        Arch.putElems_composed, Arch.putElems_levelEntries]
      split <;> rfl

/-- The registers that npop writes, as its member names them. -/
theorem memberNpop_writes (u : State) (hu : SameRegs s u) : (memberNpop flat n u).writes =
    (((s.arch s.cur).popLevels (s.rows s.cur) (s.nest n) flat).map Prod.fst).reverse := by
  unfold memberNpop crossMember Arch.popLevels
  dsimp only
  rw [hu.cur, hu.arch, State.nest_eq]
  by_cases h1 : (s.nest n).d.val ≤ 1
  · rw [if_pos h1, if_pos h1]
    rfl
  · rw [if_neg h1, if_neg h1]
    cases flat
    · rfl
    · by_cases h3 : 3 ≤ (s.nest n).d.val <;> simp [h3]

theorem Arch.putLevels_setNest_regs (x : Arch) (rows : Nat) (levels : List (Nat × List Nat)) (n : NReg) (q : Nest) :
    (x.putLevels rows levels).setNest n q = { x with
      x := ((x.putLevels rows levels).setNest n q).x, v := ((x.putLevels rows levels).setNest n q).v
      nests := ((x.putLevels rows levels).setNest n q).nests } := by
  have hframe := x.putLevels_frame rows levels
  generalize x.putLevels rows levels = y at hframe ⊢
  rw [hframe]
  rfl

theorem npop_completes (h0 : (s.nest n).d.val ≠ 0)
    (hcheck : 2 ≤ (s.nest n).d.val → (s.arch s.cur).checkLevels (s.rows s.cur) (s.nest n) ((s.nest n).popFirst flat) none = .ok ()) :
    Completes s (.npop flat n) (((s.arch s.cur).popLevels (s.rows s.cur) (s.nest n) flat).map Prod.fst).reverse
      (((s.arch s.cur).putLevels (s.rows s.cur) ((s.arch s.cur).popLevels (s.rows s.cur) (s.nest n) flat)).setNest n ((s.nest n).popped flat)) 0 := by
  refine Completes.of_setArch (f := fun s => s.npopTo flat n) ⟨_, rfl, rfl⟩ (fun u m hu hm => ?_) (fun u hu => ?_)
    (Arch.putLevels_setNest_regs ..)
  · obtain rfl := Option.some.inj hm
    exact ⟨memberNpop_writes u hu, rfl, rfl, rfl⟩
  · have h := State.npopTo_eq (s := u) (n := n) (flat := flat) (by rwa [hu.nest]) (by rwa [hu.nest, hu.cur, hu.arch, hu.rows])
    rw [hu.nest, hu.cur, hu.arch, hu.rows] at h
    rw [h, hu.cur]

end

/-! ## The levels and the nest that npop leaves -/

section
variable {a : Arch} {rows : Nat} {q : Nest}

theorem Nest.popFirst_two (h : q.d.val = 2) : q.popFirst true = 1 := by
  unfold Nest.popFirst
  rw [h]
  rfl

theorem Nest.popFirst_flat (h : 3 ≤ q.d.val) : q.popFirst true = q.d.val - 2 := if_pos (by simp [h])

theorem Arch.popLevels_of_le (flat : Bool) (h : q.d.val ≤ 1) : a.popLevels rows q flat = [] := if_pos h

theorem Arch.popLevels_plain (h : 2 ≤ q.d.val) : a.popLevels rows q false = [(q.base.toNat + q.d.val - 2,
    (List.range (q.count (q.d.val - 1) + 1)).map fun k => a.off rows q q.d.val (a.off rows q (q.d.val - 1) k))] := by
  unfold Arch.popLevels Arch.composedEntries Nest.reg
  rw [if_neg (by omega), if_neg Bool.false_ne_true, Nat.sub_add_cancel (by omega),
    show q.base.toNat + (q.d.val - 1) - 1 = q.base.toNat + q.d.val - 2 by omega]

theorem Arch.popLevels_flat_two (h : q.d.val = 2) : a.popLevels rows q true = [(q.base.toNat,
    (List.range (q.count 2 + 1)).map fun k => a.off rows q 2 k)] := by
  unfold Arch.popLevels
  rw [h]
  rfl

theorem Arch.popLevels_flat (h : 3 ≤ q.d.val) : a.popLevels rows q true =
    [(q.base.toNat + q.d.val - 3,
      (List.range (q.count (q.d.val - 2) + 1)).map fun k => a.off rows q (q.d.val - 1) (a.off rows q (q.d.val - 2) k)),
    (q.base.toNat + q.d.val - 2, (List.range (q.count q.d.val + 1)).map fun k => a.off rows q q.d.val k)] := by
  unfold Arch.popLevels Arch.composedEntries Nest.reg
  rw [if_neg (by omega), if_pos rfl, if_pos h, show q.d.val - 2 + 1 = q.d.val - 1 by omega,
    show q.base.toNat + (q.d.val - 1) - 1 = q.base.toNat + q.d.val - 2 by omega,
    show q.base.toNat + (q.d.val - 2) - 1 = q.base.toNat + q.d.val - 3 by omega]
  rfl

/-- Entries read from a level register are offsets that a level register holds. -/
theorem Arch.forall_off_lt (a : Arch) (rows : Nat) (q : Nest) (l c : Nat) (f : Nat → Nat) :
    ∀ v ∈ (List.range c).map fun k => a.off rows q l (f k), v < 2 ^ 32 := List.forall_mem_map.2 fun _ _ => Arch.elem_lt ..

theorem LevelsPass.level_fits {lo : Nat} (h : LevelsPass a rows q lo none) {l r : Nat} (hl : lo ≤ l) (hD : l ≤ q.d.val)
    (hr : r + 1 ≤ q.reg q.d.val)
    (hlo : lo ≤ q.d.val) (m : Nat) (f : Nat → Nat) {levels : List (Nat × List Nat)} (hfit : LevelsFit rows levels)
    (hnew : ∀ p ∈ levels, p.1 ≠ r) :
    LevelsFit rows ((r, (List.range (q.count l + 1)).map fun k => a.off rows q m (f k)) :: levels) := by
  have hreg := h.reg q.d.val hlo le_rfl
  refine hfit.cons (by omega) ?_ (a.forall_off_lt rows q m _ f) hnew
  rw [List.length_map, List.length_range]
  exact h.room l hl hD fun _ => nofun

theorem LevelsPass.popLevels_fit {flat : Bool} (h2 : 2 ≤ q.d.val) (h : LevelsPass a rows q (q.popFirst flat) none) :
    LevelsFit rows (a.popLevels rows q flat) := by
  have hreg : q.reg q.d.val = q.base.toNat + q.d.val - 1 := rfl
  have hnil := LevelsFit.nil rows
  cases flat with
  | false =>
    have h : LevelsPass a rows q (q.d.val - 1) none := h
    rw [Arch.popLevels_plain h2]
    exact h.level_fits le_rfl (by omega) (by omega) (by omega) _ _ hnil (List.forall_mem_nil _)
  | true =>
    by_cases h3 : 3 ≤ q.d.val
    · rw [Nest.popFirst_flat h3] at h
      rw [Arch.popLevels_flat h3]
      refine h.level_fits le_rfl (by omega) (by omega) (by omega) _ _ (h.level_fits (by omega) le_rfl (by omega) (by omega) _ _ hnil
        (List.forall_mem_nil _)) ?_
      rw [List.forall_mem_singleton]
      dsimp only
      omega
    · have hD : q.d.val = 2 := by omega
      rw [Nest.popFirst_two hD] at h
      rw [Arch.popLevels_flat_two hD]
      exact h.level_fits (by omega) hD.ge (by omega) (by omega) _ _ hnil (List.forall_mem_nil _)

end

section
variable (q : Nest)

theorem Nest.drop_eq (h : 1 ≤ q.d.val) : q.drop = { q with d := ⟨q.d.val - 1, by omega⟩, c := q.c.set (q.d.val - 1) 0 (by omega) } := by
  unfold Nest.drop
  rw [show q.setCount q.d.val 0 = { q with c := q.c.set (q.d.val - 1) 0 (by omega) } from dif_pos (by omega)]

theorem Nest.popped_plain (h : 1 ≤ q.d.val) : q.popped false =
    { q with d := ⟨q.d.val - 1, by omega⟩, c := q.c.set (q.d.val - 1) 0 (by omega) } :=
  q.drop_eq h

theorem Nest.popped_one (flat : Bool) (h : q.d.val = 1) : q.popped flat = { q with d := 0, c := q.c.set 0 0 } := by
  unfold Nest.popped
  rw [if_neg (by simp [h]), Nest.drop_eq q h.ge]
  simp only [h]
  rfl

/-- The innermost level's count takes the place of the one above it. -/
theorem Nest.popped_flat (h : 2 ≤ q.d.val) : q.popped true = { q with
    d := ⟨q.d.val - 1, by omega⟩
    c := (q.c.set (q.d.val - 2) (q.c[q.d.val - 1]'(by omega)) (by omega)).set (q.d.val - 1) 0 (by omega) } := by
  have hcount : BitVec.ofNat 12 (q.count q.d.val) = q.c[q.d.val - 1]'(by omega) := by
    unfold Nest.count
    simp [show q.d.val - 1 < 4 by omega]
  have hset : q.setCount (q.d.val - 1) (q.count q.d.val) = { q with c := q.c.set (q.d.val - 2) (q.c[q.d.val - 1]'(by omega)) (by omega) } := by
    rw [← hcount]
    exact dif_pos (by omega)
  unfold Nest.popped
  rw [if_pos (by simp [h]), hset]
  exact Nest.drop_eq { q with c := q.c.set (q.d.val - 2) (q.c[q.d.val - 1]'(by omega)) (by omega) } (Nat.le_of_succ_le h)

theorem Nest.popped_flat_two (h : q.d.val = 2) : q.popped true = { q with d := 1, c := #v[q.c[1], 0, q.c[2], q.c[3]] } := by
  rw [Nest.popped_flat q h.ge]
  simp only [h]
  congr 1
  refine Vector.ext fun i hi => ?_
  interval_cases i <;> simp

end

/-! ## O37 -/

/-- npop leaves its levels and its nest, and nothing else. -/
theorem npop_writes {s : State} {n : NReg} {flat : Bool} {levels : List (Nat × List Nat)} {q : Nest} {regs : List Nat} (hready : VectorReady s)
    (h0 : (s.nest n).d.val ≠ 0)
    (hcheck : 2 ≤ (s.nest n).d.val → (s.arch s.cur).checkLevels (s.rows s.cur) (s.nest n) ((s.nest n).popFirst flat) none = .ok ())
    (hlevels : (s.arch s.cur).popLevels (s.rows s.cur) (s.nest n) flat = levels) (hq : (s.nest n).popped flat = q)
    (hregs : (levels.map Prod.fst).reverse = regs) (hfree : s.Writable regs) :
    ∃ t, exec (.npop flat n) s = .next t ∧ VectorRetires s t (.npop flat n) regs 0 ∧ (t.arch s.cur).x = (s.arch s.cur).x ∧ NestIs s t n q ∧
      SameVregs s t regs ∧ ∀ p ∈ levels, EntriesAre s t p.1 p.2 := by
  subst hlevels hq hregs
  refine (npop_completes h0 hcheck).writesLevels hready hfree ?_ fun p hp => List.mem_reverse.2 (List.mem_map_of_mem hp)
  by_cases h2 : 2 ≤ (s.nest n).d.val
  · exact (Arch.levelsPass_of_checkLevels (hcheck h2)).popLevels_fit h2
  · rw [Arch.popLevels_of_le flat (by omega)]
    exact .nil _

/-- Settles O37: nset and npush set a nest alone; npop writes the levels that `popLevels` lists, whose entries it has read before, and sets
the nest. -/
theorem nestInstructionsComplete : Obligations.NestInstructionsComplete := by
  unfold Obligations.NestInstructionsComplete
  intro s n a b flat
  dsimp only
  intro hready
  have hnolevels : ∀ {i q}, Completes s i [] ((s.arch s.cur).setNest n q) 0 → ∃ t, exec i s = .next t ∧ VectorRetires s t i [] 0 ∧
      (t.arch s.cur).x = (s.arch s.cur).x ∧ NestIs s t n q ∧ SameVregs s t [] ∧ True := fun h => by
    obtain ⟨t, hexec, hret, hx, hnest, hsame, -⟩ := h.writesLevels (levels := []) hready s.writable_nil (.nil _) (List.forall_mem_nil _)
    exact ⟨t, hexec, hret, hx, hnest, hsame, trivial⟩
  refine ⟨fun hv hroom => hnolevels (nset_completes hv hroom), fun hv hroom hreg hD => hnolevels (npush_completes hv hroom hreg hD), fun hD => ?_,
    fun h2 hcheck hfree => ?_, fun hD hcheck hfree => ?_, fun h3 hcheck hfree => ?_⟩
  · obtain ⟨t, hexec, hret, hx, hnest, hsame, -⟩ := npop_writes hready (by omega) (by omega) (Arch.popLevels_of_le flat hD.le)
      (Nest.popped_one _ flat hD) rfl s.writable_nil
    exact ⟨t, hexec, hret, hx, hnest, hsame, trivial⟩
  · obtain ⟨t, hexec, hret, hx, hnest, hsame, hentries⟩ := npop_writes (n := n) (flat := false) hready (by omega) (fun _ => hcheck)
      (Arch.popLevels_plain h2) (Nest.popped_plain _ (by omega)) rfl hfree
    rw [List.forall_mem_singleton] at hentries
    exact ⟨t, hexec, hret, hx, hnest, hsame, hentries⟩
  · obtain ⟨t, hexec, hret, hx, hnest, hsame, hentries⟩ := npop_writes (n := n) (flat := true) hready (by omega)
      (fun _ => by rwa [Nest.popFirst_two hD]) (Arch.popLevels_flat_two hD)
      (Nest.popped_flat_two _ hD) rfl hfree
    rw [List.forall_mem_singleton] at hentries
    exact ⟨t, hexec, hret, hx, hnest, hsame, hentries⟩
  · obtain ⟨t, hexec, hret, hx, hnest, hsame, hentries⟩ := npop_writes (n := n) (flat := true) hready (by omega)
      (fun _ => by rwa [Nest.popFirst_flat h3]) (Arch.popLevels_flat h3)
      (Nest.popped_flat _ (by omega)) rfl hfree
    rw [List.forall_mem_cons, List.forall_mem_singleton] at hentries
    exact ⟨t, hexec, hret, hx, hnest, hsame, hentries⟩

end Sys2Proof.Machine
end

section
/-! PROOFS. vpack, vcompress and vtree (spec/06_nested_vectors.md R145 to R147): a group and level registers written together, the stable partition of
segments, the depths of a tree, and O38. -/

namespace Sys2Proof.Machine

/-! ## A group written with level registers and the nests (R135, R145, R146) -/

@[simp] theorem Arch.putList_nests (a : Arch) (rows d w : Nat) (vals : List Nat) : (a.putList rows d w vals).nests = a.nests := by
  rw [Arch.putList_frame]

@[simp] theorem Arch.putLevels_nests (a : Arch) (rows : Nat) (levels : List (Nat × List Nat)) : (a.putLevels rows levels).nests = a.nests := by
  rw [Arch.putLevels_frame]

/-- The registers after the group at d has been written from element 0 on, then level registers and the nests, and then the group's tail. -/
def Arch.regrouped (a : Arch) (rows d w : Nat) (vals : List Nat) (levels : List (Nat × List Nat)) (nests : Vector Nest 8) : Arch :=
  ({ (a.putList rows d w vals).putLevels rows levels with nests := nests }).tailFrom rows d w vals.length

theorem Arch.regrouped_frame (a : Arch) (rows d w : Nat) (vals : List Nat) (levels : List (Nat × List Nat)) (nests : Vector Nest 8) :
    a.regrouped rows d w vals levels nests = { a with v := (a.regrouped rows d w vals levels nests).v, nests := nests } := by
  unfold Arch.regrouped
  have hlevels := (a.putList rows d w vals).putLevels_frame rows levels
  generalize (a.putList rows d w vals).putLevels rows levels = y at hlevels ⊢
  rw [Arch.putList_frame] at hlevels
  have htail := ({ y with nests := nests } : Arch).tailFrom_frame rows d w vals.length
  generalize ({ y with nests := nests } : Arch).tailFrom rows d w vals.length = z at htail ⊢
  rw [htail, hlevels]

theorem Arch.regrouped_setNest (a : Arch) (rows d w : Nat) (vals : List Nat) (levels : List (Nat × List Nat)) (n : NReg) (q : Nest) :
    (((a.putList rows d w vals).putLevels rows levels).setNest n q).tailFrom rows d w vals.length =
      a.regrouped rows d w vals levels (a.nests.set n.toNat q n.isLt) := by
  unfold Arch.regrouped Arch.setNest
  rw [Arch.putLevels_nests, Arch.putList_nests]

theorem Arch.regrouped_sameNests (a : Arch) (rows d w : Nat) (vals : List Nat) (levels : List (Nat × List Nat)) :
    ((a.putList rows d w vals).putLevels rows levels).tailFrom rows d w vals.length = a.regrouped rows d w vals levels a.nests := by
  have hnests : a.nests = ((a.putList rows d w vals).putLevels rows levels).nests := by rw [Arch.putLevels_nests, Arch.putList_nests]
  unfold Arch.regrouped
  rw [hnests]

section
variable {a : Arch} {rows d w n : Nat} {vals : List Nat} {levels : List (Nat × List Nat)} (nests : Vector Nest 8)
  (hpos : a.positions w = n * regBits rows / w) (hlen : vals.length ≤ n * regBits rows / w) (hlevels : LevelsFit rows levels)
include hpos

/-- Beside the group's tail, a register holds what the group and the levels have been given. -/
theorem Arch.regrouped_vreg_eq {r : Nat} (hr : r ∉ regsFrom d n) :
    (a.regrouped rows d w vals levels nests).vreg r = ((a.putList rows d w vals).putLevels rows levels).vreg r := by
  unfold Arch.regrouped
  rw [Arch.tailFrom_vreg (n := n) _ (by rw [Arch.putLevels_frame, Arch.putList_frame]; exact hpos) hr]
  rfl

include hlen hlevels

theorem Arch.regrouped_vreg {r : Nat} (hr : r ∉ regsFrom d n) (hother : ∀ p ∈ levels, p.1 ≠ r) :
    (a.regrouped rows d w vals levels nests).vreg r = a.vreg r := by
  rw [Arch.regrouped_vreg_eq nests hpos hr, Arch.putLevels_vreg hlevels hother, Arch.putList_vreg hlen hr]

variable (hapart : ∀ p ∈ levels, p.1 ∉ regsFrom d n)
include hapart

theorem Arch.regrouped_entry (hrows : rows ≤ 64) {p : Nat × List Nat} (hp : p ∈ levels) {k : Nat} (hk : k < 64 * rows) :
    (a.regrouped rows d w vals levels nests).elem rows p.1 32 k = (p.2[k]?).getD (a.elem rows p.1 32 k) := by
  have hplace : p.1 + k * 32 / regBits rows = p.1 := entry_reg p.1 hk
  rw [Arch.elem_congr (a := (a.putList rows d w vals).putLevels rows levels) _ _ _ _ (by
      rw [hplace]
      exact Arch.regrouped_vreg_eq nests hpos (hapart p hp)),
    Arch.putLevels_entry hrows hlevels hp hk]
  refine congrArg _ (Arch.elem_congr _ _ _ _ ?_)
  rw [hplace]
  exact Arch.putList_vreg hlen (hapart p hp)

theorem Arch.regrouped_elem (hfit : GroupFits rows d w n) {i : Nat} (hi : i < n * regBits rows / w) :
    (a.regrouped rows d w vals levels nests).elem rows d w i =
      if i < vals.length then ((vals[i]?).map (· % 2 ^ w)).getD (a.elem rows d w i) else if tailZero a.vtype then 0 else a.elem rows d w i := by
  have hgroup : ((a.putList rows d w vals).putLevels rows levels).elem rows d w i = ((vals[i]?).map (· % 2 ^ w)).getD (a.elem rows d w i) := by
    rw [← Arch.putList_elem hlen hfit hi]
    refine Arch.elem_congr _ _ _ _ (Arch.putLevels_vreg hlevels fun p hp heq => hapart p hp ?_)
    rw [heq, mem_regsFrom]
    exact ⟨Nat.le_add_right _ _, Nat.add_lt_add_left (reg_lt_of_lt hi) d⟩
  unfold Arch.regrouped
  rw [Arch.tailFrom_elem (n := n) _ (by rw [Arch.putLevels_frame, Arch.putList_frame]; exact hpos) hfit hi,
    show ({ (a.putList rows d w vals).putLevels rows levels with nests := nests } : Arch).elem rows d w i = _ from hgroup]
  by_cases hil : i < vals.length
  · rw [if_pos hil, if_pos hil]
  · rw [if_neg hil, if_neg hil, Arch.putLevels_frame, Arch.putList_frame, List.getElem?_eq_none (Nat.not_lt.1 hil)]
    rfl

end

section
variable {s : State} {i : Instr} {d : VReg} {w : Nat} {vals : List Nat} {levels : List (Nat × List Nat)} {nests : Vector Nest 8} {regs : List Nat}

/-- An instruction that writes a group, level registers and the nests has done that and nothing else. -/
theorem Completes.regroups (h : Completes s i (groupRegs s d ++ regs)
      ((s.arch s.cur).regrouped (s.rows s.cur) d.toNat w vals levels nests) 0)
    (hready : VectorReady s) (hd : groupOk d.toNat (multOf (s.arch s.cur).vtype) = true) (hw : w ∣ 64)
    (hlen : vals.length ≤ (s.arch s.cur).positions w) (hlevels : LevelsFit (s.rows s.cur) levels) (hapart : ∀ p ∈ levels, p.1 ∉ groupRegs s d)
    (hregs : ∀ p ∈ levels, p.1 ∈ regs) (hfree : s.Writable (groupRegs s d ++ regs)) :
    ∃ t, exec i s = .next t ∧ VectorRetires s t i (groupRegs s d ++ regs) 0 ∧ (t.arch s.cur).x = (s.arch s.cur).x ∧
      (t.arch s.cur).nests = nests ∧ SameVregs s t (groupRegs s d ++ regs) ∧ GroupHolds s t d.toNat w vals.length (fun k => vals[k]?) ∧
      ∀ p ∈ levels, EntriesAre s t p.1 p.2 := by
  obtain ⟨t, hexec, hret, hx, hv, hnests⟩ := h.retires hready hfree
  have hpos := hready.positions_eq w
  rw [hpos] at hlen
  refine ⟨t, hexec, hret, ?_, ?_, fun r _ hr => ?_, fun k hk => ?_, fun p hp k hk => ?_⟩
  · rw [hx, Arch.regrouped_frame]
  · rw [hnests, Arch.regrouped_frame]
  · rw [List.mem_append, not_or] at hr
    rw [Arch.vreg_congr hv, Arch.regrouped_vreg nests hpos hlen hlevels hr.1 fun p hp (heq : p.1 = r) => hr.2 (heq ▸ hregs p hp)]
  · rw [Arch.elem_congr _ _ _ _ (Arch.vreg_congr hv _),
      Arch.regrouped_elem nests hpos hlen hlevels hapart (s.groupFits hd hw) (hk.trans_eq hpos)]
    dsimp only
    cases vals[k]? <;> rfl
  · rw [hret.el_eq, Arch.elem_congr _ _ _ _ (Arch.vreg_congr hv _),
      Arch.regrouped_entry nests hpos hlen hlevels hapart (s.rows_le s.cur) hp hk]
    rfl

/-- A member that commits whole completes where it leaves the registers regrouped. -/
theorem Completes.of_regrouped {f : State → Except Stop State} (hissue : ∃ m, memberOf i s = some m ∧ m.issue = .ok ())
    (hrun : ∀ u m, SameRegs s u → memberOf i u = some m →
      m.writes = regs ∧ m.deviceClass = false ∧ m.groups = max 1 (m.writes.length * 4) ∧ m.run = wholeRun f)
    (hf : ∀ u, SameRegs s u → f u = .ok (u.setArch u.cur ((s.arch s.cur).regrouped (s.rows s.cur) d.toNat w vals levels nests))) :
    Completes s i regs ((s.arch s.cur).regrouped (s.rows s.cur) d.toNat w vals levels nests) 0 := by
  refine Completes.of_setArch hissue hrun hf ?_
  have hframe := (s.arch s.cur).regrouped_frame (s.rows s.cur) d.toNat w vals levels nests
  generalize (s.arch s.cur).regrouped (s.rows s.cur) d.toNat w vals levels nests = y at hframe ⊢
  rw [hframe]

end

theorem overlapCheck_ok {d mult : Nat} {written : List (Nat × Nat)} (h : ∀ p ∈ written, p.2 ∉ regsFrom d mult) :
    overlapCheck d mult written = .ok () := by
  have hnone : (written.find? fun p => decide (d ≤ p.2) && decide (p.2 < d + mult)) = none :=
    List.find?_eq_none.2 fun p hp => by simpa [mem_regsFrom] using h p hp
  unfold overlapCheck
  rw [hnone]

/-! ## vpack (R145) -/

/-- The elements of each segment with their bit set, in order, then the others in order. -/
def packOrder (bit : Nat → Bool) (l : List (Nat × Nat)) : List Nat :=
  l.flatMap fun p => (rangeList p.1 p.2).filter bit ++ (rangeList p.1 p.2).filter fun k => !bit k

/-- The start of each segment and of its second part, and the end. -/
def packBounds (bit : Nat → Bool) (l : List (Nat × Nat)) (n : Nat) : List Nat :=
  (l.flatMap fun p => [p.1, p.1 + ((rangeList p.1 p.2).filter bit).length]) ++ [n]

/-- The partition moves elements and loses none. -/
theorem Tiles.packOrder_perm {l : List (Nat × Nat)} {n : Nat} (h : Tiles l n) (bit : Nat → Bool) : (packOrder bit l).Perm (List.range n) := by
  rw [← h]
  exact List.Perm.flatMap_left l fun p _ => List.filter_append_perm bit (rangeList p.1 p.2)

theorem Tiles.packOrder_length {l : List (Nat × Nat)} {n : Nat} (h : Tiles l n) (bit : Nat → Bool) : (packOrder bit l).length = n :=
  (h.packOrder_perm bit).length_eq.trans List.length_range

theorem packBounds_length (bit : Nat → Bool) (l : List (Nat × Nat)) (n : Nat) : (packBounds bit l n).length = 2 * l.length + 1 := by
  unfold packBounds
  simp [List.length_flatMap, Nat.mul_comm]

theorem Boundaries.packBounds_le {ss : List Nat} {n : Nat} (h : Boundaries ss n) (bit : Nat → Bool) :
    ∀ v ∈ packBounds bit (segPairs ss) n, v ≤ n := by
  intro v hv
  rcases List.mem_append.1 hv with hv | hv
  · obtain ⟨p, hp, hv⟩ := List.mem_flatMap.1 hv
    have hstart := h.start_le hp
    have hend := h.end_le hp
    have hcount := List.length_filter_le bit (rangeList p.1 p.2)
    rw [show (rangeList p.1 p.2).length = p.2 - p.1 by unfold rangeList; simp] at hcount
    simp only [List.mem_cons, List.not_mem_nil, or_false] at hv
    omega
  · exact (List.mem_singleton.1 hv).le

theorem max_one_eq (n : Nat) : max 1 n = if n = 0 then 1 else n := by
  split <;> omega

/-- The segments of the innermost level. -/
def State.innerSegments (s : State) (n : NReg) : List (Nat × Nat) :=
  segPairs ((s.arch s.cur).segs (s.rows s.cur) (s.nest n) (s.nest n).d.val)

theorem State.innerSegments_length (s : State) (n : NReg) :
    (s.innerSegments n).length = if (s.nest n).d.val = 0 then 1 else (s.nest n).count (s.nest n).d.val := by
  unfold State.innerSegments
  rw [segPairs_length]
  split
  next h => rw [h]; rfl
  next h => rw [Arch.segs_length _ _ _ h, Nat.add_sub_cancel]

/-- The elements below VL, partitioned by v0 within the segments of the innermost level. -/
def State.packedOrder (s : State) (n : NReg) : List Nat := packOrder ((s.arch s.cur).maskBit (s.rows s.cur) 0) (s.innerSegments n)

/-- The level registers that vpack writes, in the order in which it writes them: the old innermost level's entry k becomes 2k, and the new level's
are the bounds of the parts. -/
def State.packLevels (s : State) (n : NReg) : List (Nat × List Nat) :=
  (if (s.nest n).d.val = 0 then []
    else [((s.nest n).base.toNat + (s.nest n).d.val - 1, (List.range ((s.innerSegments n).length + 1)).map fun k => 2 * k)]) ++
  [((s.nest n).base.toNat + (s.nest n).d.val,
    packBounds ((s.arch s.cur).maskBit (s.rows s.cur) 0) (s.innerSegments n) (s.arch s.cur).vl)]

/-- The registers that vpack writes beside its group, as its member names them. -/
def packRegs (q : Nest) : List Nat :=
  if q.d.val = 0 then [q.base.toNat] else [q.base.toNat + q.d.val, q.base.toNat + q.d.val - 1]

/-- The registers after vpack, which leaves the nest q. -/
def State.packed (s : State) (d a : VReg) (n : NReg) (q : Nest) : Arch :=
  (s.arch s.cur).regrouped (s.rows s.cur) d.toNat (widthOf (s.arch s.cur).vtype)
    ((s.packedOrder n).map fun k => s.el a.toNat (widthOf (s.arch s.cur).vtype) k) (s.packLevels n) ((s.arch s.cur).nests.set n.toNat q n.isLt)

/-- vpack's checks pass: there is room for one level more, the levels are well formed, and no level register that it writes lies in its group
(R129, R145). -/
structure PackPasses (s : State) (d : VReg) (n : NReg) : Prop where
  depth : (s.nest n).d.val < 4
  levels : (s.arch s.cur).checkLevels (s.rows s.cur) (s.nest n) (max 1 (s.nest n).d.val)
    (some ((s.nest n).d.val + 1, 2 * (s.innerSegments n).length)) = .ok ()
  new : (s.nest n).base.toNat + (s.nest n).d.val ∉ groupRegs s d
  old : (s.nest n).d.val ≠ 0 → (s.nest n).base.toNat + (s.nest n).d.val - 1 ∉ groupRegs s d

section
variable {s u : State} {d a : VReg} {n : NReg}

theorem SameRegs.innerSegments (h : SameRegs s u) (n : NReg) : u.innerSegments n = s.innerSegments n := by
  unfold State.innerSegments
  rw [h.nest, h.cur, h.arch, h.rows]

theorem SameRegs.packed (h : SameRegs s u) (d a : VReg) (n : NReg) (q : Nest) : u.packed d a n q = s.packed d a n q := by
  unfold State.packed State.packedOrder State.packLevels State.el
  rw [h.innerSegments, h.nest, h.cur, h.arch, h.rows]

theorem SameRegs.packPasses (h : SameRegs s u) (hpass : PackPasses s d n) : PackPasses u d n where
  depth := by rw [h.nest]; exact hpass.depth
  levels := by rw [h.nest, h.innerSegments, h.cur, h.arch, h.rows]; exact hpass.levels
  new := by rw [h.nest, h.groupRegs]; exact hpass.new
  old := by rw [h.nest, h.groupRegs]; exact hpass.old

theorem memberVpack_writes (hu : SameRegs s u) : (memberVpack d a n u).writes = groupRegs s d ++ packRegs (s.nest n) := by
  unfold memberVpack crossMember packRegs
  dsimp only
  rw [hu.cur, hu.arch, State.nest_eq]
  split <;> rfl

section
variable (hpass : PackPasses s d n)
include hpass

theorem PackPasses.boundaries : Boundaries ((s.arch s.cur).segs (s.rows s.cur) (s.nest n) (s.nest n).d.val) (s.arch s.cur).vl :=
  (Arch.levelsPass_of_checkLevels hpass.levels).boundaries ((eq_or_ne _ 0).imp_right fun h0 => ⟨by omega, le_rfl⟩)

theorem PackPasses.packedOrder_length : (s.packedOrder n).length = (s.arch s.cur).vl := hpass.boundaries.tiles.packOrder_length _

theorem PackPasses.overlapCheck_ok : overlapCheck d.toNat (multOf (s.arch s.cur).vtype)
    (((s.nest n).d.val + 1, (s.nest n).reg ((s.nest n).d.val + 1)) ::
      if (s.nest n).d.val = 0 then [] else [((s.nest n).d.val, (s.nest n).reg (s.nest n).d.val)]) = .ok () := by
  refine Sys2Proof.Machine.overlapCheck_ok (List.forall_mem_cons.2 ⟨hpass.new, ?_⟩)
  split
  next => exact List.forall_mem_nil _
  next h0 => exact List.forall_mem_singleton.2 (hpass.old h0)

theorem State.packTo_eq : s.packTo d a n =
    .ok (s.setArch s.cur (s.packed d a n ((s.nest n).pushed (2 * (s.innerSegments n).length) hpass.depth))) := by
  have hlevels := hpass.levels
  have hdepth := hpass.depth
  rw [max_one_eq] at hlevels
  unfold State.packTo
  dsimp only
  rw [State.nest_eq, dif_pos (by omega), ← State.innerSegments_length, hlevels, hpass.overlapCheck_ok]
  dsimp only [bind, Except.bind, pure, Except.pure]
  rw [Nest.setCount_pushed _ _ hdepth, Arch.putElems_zipIdx, List.flatMap_map, List.flatMap_map, State.packed, ← Arch.regrouped_setNest,
    List.length_map, hpass.packedOrder_length]
  refine congrArg (fun y : Arch => Except.ok (s.setArch s.cur ((y.setNest n _).tailFrom _ _ _ _))) ?_
  unfold State.packLevels
  split
  next => rfl
  next =>
    rw [Arch.putElems_range]
    rfl

theorem PackPasses.packLevels_fit (hready : VectorReady s) : LevelsFit (s.rows s.cur) (s.packLevels n) := by
  have hlevels := Arch.levelsPass_of_checkLevels hpass.levels
  have hreg : (s.nest n).base.toNat + (s.nest n).d.val ≤ 31 := hlevels.writtenReg _ _ rfl
  have hroom := hlevels.writtenRoom _ _ rfl
  have hrows := s.rows_le s.cur
  have hbounds := (LevelsFit.nil (s.rows s.cur)).cons hreg (by rw [packBounds_length]; exact hroom)
    (fun v hv => (hpass.boundaries.packBounds_le ((s.arch s.cur).maskBit (s.rows s.cur) 0) v hv).trans_lt hready.vl_lt) (List.forall_mem_nil _)
  unfold State.packLevels
  split
  next => exact hbounds
  next h0 =>
    refine hbounds.cons (by omega) ?_ (List.forall_mem_map.2 fun k hk => ?_) (List.forall_mem_singleton.2 (by dsimp only; omega))
    · rw [List.length_map, List.length_range]
      omega
    · have := List.mem_range.1 hk
      omega

theorem PackPasses.packLevels_regs : ∀ p ∈ s.packLevels n, p.1 ∈ packRegs (s.nest n) ∧ p.1 ∉ groupRegs s d := by
  unfold State.packLevels packRegs
  split
  next h0 => exact List.forall_mem_singleton.2 ⟨by simp [h0], hpass.new⟩
  next h0 => exact List.forall_mem_cons.2 ⟨⟨by simp, hpass.old h0⟩, List.forall_mem_singleton.2 ⟨by simp, hpass.new⟩⟩

theorem vpack_completes (hd : groupOk d.toNat (multOf (s.arch s.cur).vtype) = true) (ha : groupOk a.toNat (multOf (s.arch s.cur).vtype) = true) :
    Completes s (.vpack d a n) (groupRegs s d ++ packRegs (s.nest n))
      (s.packed d a n ((s.nest n).pushed (2 * (s.innerSegments n).length) hpass.depth)) 0 := by
  refine Completes.of_regrouped (f := fun s => s.packTo d a n) ⟨_, rfl, issueCheck_of_true (by simp [hd, ha])⟩
    (fun u m hu hm => ?_) fun u hu => ?_
  · obtain rfl := Option.some.inj hm
    exact ⟨memberVpack_writes hu, rfl, rfl, rfl⟩
  · have h := State.packTo_eq (a := a) (hu.packPasses hpass)
    simp only [hu.packed, hu.nest, hu.innerSegments, hu.cur] at h
    rw [h, hu.cur]
    rfl

end

end

/-! ## vcompress (R146) -/

/-- The elements below VL whose mask bit is set. -/
def State.kept (s : State) : List Nat := (List.range (s.arch s.cur).vl).filter ((s.arch s.cur).maskBit (s.rows s.cur) 0)

/-- The level register that vcompress writes: entry k becomes the number of kept elements below it. -/
def compressLevels (q : Nest) (kept : List Nat) (entry : Nat → Nat) : List (Nat × List Nat) :=
  if q.d.val = 0 then [] else [(q.base.toNat + q.d.val - 1,
    (List.range (q.count q.d.val + 1)).map fun k => (kept.filter fun j => decide (j < entry k)).length)]

/-- The registers after vcompress. -/
def State.compressed (s : State) (d a : VReg) (n : NReg) : Arch :=
  (s.arch s.cur).regrouped (s.rows s.cur) d.toNat (widthOf (s.arch s.cur).vtype)
    (s.kept.map fun k => s.el a.toNat (widthOf (s.arch s.cur).vtype) k)
    (compressLevels (s.nest n) s.kept fun k => s.el ((s.nest n).base.toNat + (s.nest n).d.val - 1) 32 k) (s.arch s.cur).nests

section
variable {s : State} {d a : VReg} {n : NReg}

theorem SameRegs.compressed {u : State} (h : SameRegs s u) (d a : VReg) (n : NReg) : u.compressed d a n = s.compressed d a n := by
  unfold State.compressed State.kept State.el
  rw [h.nest, h.cur, h.arch, h.rows]

theorem State.compressTo_eq (hcheck : (s.nest n).d.val ≠ 0 →
      (s.arch s.cur).checkLevels (s.rows s.cur) (s.nest n) (s.nest n).d.val none = .ok () ∧
      (s.nest n).base.toNat + (s.nest n).d.val - 1 ∉ groupRegs s d) :
    s.compressTo d a n = .ok (s.setArch s.cur (s.compressed d a n)) := by
  unfold State.compressTo
  dsimp only
  rw [State.nest_eq, Arch.putElems_zipIdx, State.compressed, ← Arch.regrouped_sameNests, List.length_map]
  unfold compressLevels
  by_cases h0 : (s.nest n).d.val = 0
  · simp only [h0, if_true, ne_eq, not_true_eq_false, if_false]
    rfl
  · obtain ⟨hlevel, hout⟩ := hcheck h0
    have hoverlap : overlapCheck d.toNat (multOf (s.arch s.cur).vtype) [((s.nest n).d.val, (s.nest n).reg (s.nest n).d.val)] = .ok () :=
      overlapCheck_ok (List.forall_mem_singleton.2 hout)
    rw [if_pos h0, if_neg h0, if_neg h0, hlevel, Arch.putElems_range]
    dsimp only [bind, Except.bind]
    rw [hoverlap]
    rfl

/-- The registers that vcompress writes beside its group, as its member names them. -/
def compressRegs (q : Nest) : List Nat := if q.d.val = 0 then [] else [q.base.toNat + q.d.val - 1]

theorem memberVcompress_writes {u : State} (hu : SameRegs s u) :
    (memberVcompress d a n u).writes = groupRegs s d ++ compressRegs (s.nest n) := by
  unfold memberVcompress crossMember
  dsimp only
  rw [hu.cur, hu.arch, State.nest_eq]
  rfl

theorem State.kept_length_le (s : State) : s.kept.length ≤ (s.arch s.cur).vl :=
  (List.length_filter_le ..).trans_eq List.length_range

section
variable (hcheck : (s.nest n).d.val ≠ 0 → (s.arch s.cur).checkLevels (s.rows s.cur) (s.nest n) (s.nest n).d.val none = .ok () ∧
  (s.nest n).base.toNat + (s.nest n).d.val - 1 ∉ groupRegs s d)
include hcheck

theorem compressLevels_fit (hready : VectorReady s) (entry : Nat → Nat) : LevelsFit (s.rows s.cur) (compressLevels (s.nest n) s.kept entry) := by
  unfold compressLevels
  split
  next => exact .nil _
  next h0 =>
    have hpass := Arch.levelsPass_of_checkLevels (hcheck h0).1
    refine (LevelsFit.nil _).cons (hpass.reg _ le_rfl le_rfl) ?_ (List.forall_mem_map.2 fun k _ => ?_) (List.forall_mem_nil _)
    · rw [List.length_map, List.length_range]
      exact hpass.room _ le_rfl le_rfl fun _ => nofun
    · exact ((List.length_filter_le ..).trans s.kept_length_le).trans_lt hready.vl_lt

/-- vcompress completes, and without levels it needs no check (R129, R146). -/
theorem vcompress_completes (hd : groupOk d.toNat (multOf (s.arch s.cur).vtype) = true)
    (ha : groupOk a.toNat (multOf (s.arch s.cur).vtype) = true) :
    Completes s (.vcompress d a n) (groupRegs s d ++ compressRegs (s.nest n)) (s.compressed d a n) 0 := by
  refine Completes.of_regrouped (f := fun s => s.compressTo d a n) ⟨_, rfl, issueCheck_of_true (by simp [hd, ha])⟩ (fun u m hu hm => ?_)
    fun u hu => ?_
  · obtain rfl := Option.some.inj hm
    exact ⟨memberVcompress_writes hu, rfl, rfl, rfl⟩
  · have h := State.compressTo_eq (s := u) (d := d) (a := a) (n := n) (by rwa [hu.nest, hu.groupRegs, hu.cur, hu.arch, hu.rows])
    rw [hu.compressed, hu.cur] at h
    rw [h, hu.cur]
    rfl

end

end

/-! ## vtree (R147) -/

/-- The depths found in ascending order of the nodes are those that the parents determine, where each parent stands before its node (R147). -/
theorem foldl_depths {parent : Nat → Int} {dep : Nat → Nat} {n : Nat} (hparent : ∀ k, k < n → -1 ≤ parent k ∧ parent k < k)
    (hdep : ∀ k, k < n → dep k = if parent k = -1 then 0 else dep (parent k).toNat + 1) :
    ((List.range n).foldl (fun (acc : List Nat) i => acc ++ [if parent i = -1 then 0 else (acc[(parent i).toNat]?.getD 0) + 1]) []) =
      (List.range n).map dep := by
  induction n with
  | zero => rfl
  | succ n ih =>
    have hn := hparent n (Nat.lt_succ_self n)
    rw [List.range_succ, List.foldl_append, ih (fun k hk => hparent k (by omega)) fun k hk => hdep k (by omega), List.map_append]
    rw [List.foldl_cons, List.foldl_nil, List.map_singleton]
    refine congrArg _ (congrArg (fun v => [v]) ?_)
    rw [hdep n (Nat.lt_succ_self n)]
    split
    next => rfl
    next h => simp [show (parent n).toNat < n by omega]

theorem vtree_fillMember {s : State} {d a : VReg} (hew : ewOf (s.arch s.cur).vtype = 3)
    (hd : groupOk d.toNat (multOf (s.arch s.cur).vtype) = true) (ha : groupOk a.toNat (multOf (s.arch s.cur).vtype) = true) {dep : Nat → Nat}
    (hparent : ∀ k : Nat, k < (s.arch s.cur).vl → -1 ≤ sext 32 (s.el a.toNat 32 k) ∧ sext 32 (s.el a.toNat 32 k) < k)
    (hdep : ∀ k, k < (s.arch s.cur).vl → dep k = if sext 32 (s.el a.toNat 32 k) = -1 then 0 else dep (sext 32 (s.el a.toNat 32 k)).toNat + 1) :
    FillMember s (.vtree d a) false d 32 fun k => (dep k, 0) where
  issue := ⟨_, rfl, issueCheck_of_true (by simp [hew, hd, ha])⟩
  run u mb hu hmb := by
    obtain rfl := Option.some.inj hmb
    refine ⟨rfl, rfl, rfl, fun s => s.treeTo d a, rfl, ?_⟩
    have hnone : ((List.range (s.arch s.cur).vl).find? fun i =>
        decide (sext 32 (s.el a.toNat 32 i) < -1) || decide ((i : Int) ≤ sext 32 (s.el a.toNat 32 i))) = none := by
      refine List.find?_eq_none.2 fun k hk => ?_
      have := hparent k (List.mem_range.1 hk)
      simp only [Bool.or_eq_true, decide_eq_true_eq]
      omega
    have hdepths := foldl_depths hparent hdep
    have hput := u.setArch_eq_putResults d.toNat 32 (s.arch s.cur).vl
    unfold State.el at hnone hdepths
    unfold State.treeTo
    dsimp only
    rw [hu.cur, hu.arch, hu.rows] at hput ⊢
    rw [hnone]
    dsimp only
    rw [hdepths, hput]
    have hall : ((List.range (s.arch s.cur).vl).filterMap fun k =>
        (if s.on false k = true then some (dep k, (0 : BitVec 5)) else none).map fun r => (k, r)) =
        (List.range (s.arch s.cur).vl).map fun k => (k, dep k, 0) := congrFun List.filterMap_eq_map' _
    rw [hall]
    exact congrArg (fun l => Except.ok (u.putResults d.toNat 32 (s.arch s.cur).vl l)) (List.ext_getElem (by simp) fun k h1 h2 => by simp)

/-! ## O38 -/

theorem widthOf_of_ewOf_three {img : BitVec 16} (h : ewOf img = 3) : widthOf img = 32 := by
  rw [widthOf, h]
  rfl

section
variable {s : State} {d a : VReg} {n : NReg} (hready : VectorReady s) (hd : groupOk d.toNat (multOf (s.arch s.cur).vtype) = true)
  (ha : groupOk a.toNat (multOf (s.arch s.cur).vtype) = true)
include hready hd ha

/-- vpack leaves the partitioned group, its levels and its nest, and nothing else. -/
theorem vpack_writes (hpass : PackPasses s d n) (hfree : s.Writable (groupRegs s d ++ packRegs (s.nest n))) :
    ∃ t, exec (.vpack d a n) s = .next t ∧ VectorRetires s t (.vpack d a n) (groupRegs s d ++ packRegs (s.nest n)) 0 ∧
      (t.arch s.cur).x = (s.arch s.cur).x ∧ NestIs s t n ((s.nest n).pushed (2 * (s.innerSegments n).length) hpass.depth) ∧
      SameVregs s t (groupRegs s d ++ packRegs (s.nest n)) ∧
      GroupHolds s t d.toNat (widthOf (s.arch s.cur).vtype) (s.arch s.cur).vl (fun k =>
        ((s.packedOrder n)[k]?).map fun k => s.el a.toNat (widthOf (s.arch s.cur).vtype) k) ∧
      ∀ p ∈ s.packLevels n, EntriesAre s t p.1 p.2 := by
  have hregs := hpass.packLevels_regs
  obtain ⟨t, hexec, hret, hx, hnests, hsame, hgroup, hentries⟩ := (vpack_completes hpass hd ha).regroups hready hd
    (widthOf_dvd hready.width) (by
      rw [List.length_map, hpass.packedOrder_length]
      exact hready.vl_le_positions (widthOf_pos _) le_rfl)
    (hpass.packLevels_fit hready) (fun p hp => (hregs p hp).2) (fun p hp => (hregs p hp).1) hfree
  rw [List.length_map, hpass.packedOrder_length] at hgroup
  simp only [List.getElem?_map] at hgroup
  exact ⟨t, hexec, hret, hx, nestIs_of_nests (by rw [hret.package]) hnests, hsame, hgroup, hentries⟩

/-- vcompress leaves the kept elements and the innermost level's offsets, and nothing else. -/
theorem vcompress_writes (hcheck : (s.nest n).d.val ≠ 0 →
      (s.arch s.cur).checkLevels (s.rows s.cur) (s.nest n) (s.nest n).d.val none = .ok () ∧
      (s.nest n).base.toNat + (s.nest n).d.val - 1 ∉ groupRegs s d)
    (hfree : s.Writable (groupRegs s d ++ compressRegs (s.nest n))) :
    ∃ t, exec (.vcompress d a n) s = .next t ∧ VectorRetires s t (.vcompress d a n) (groupRegs s d ++ compressRegs (s.nest n)) 0 ∧
      (t.arch s.cur).x = (s.arch s.cur).x ∧ (t.arch s.cur).nests = (s.arch s.cur).nests ∧
      SameVregs s t (groupRegs s d ++ compressRegs (s.nest n)) ∧
      GroupHolds s t d.toNat (widthOf (s.arch s.cur).vtype) s.kept.length (fun k => (s.kept[k]?).map fun k =>
        s.el a.toNat (widthOf (s.arch s.cur).vtype) k) ∧
      ∀ p ∈ compressLevels (s.nest n) s.kept fun k => s.el ((s.nest n).base.toNat + (s.nest n).d.val - 1) 32 k, EntriesAre s t p.1 p.2 := by
  have hregs : ∀ p ∈ compressLevels (s.nest n) s.kept fun k => s.el ((s.nest n).base.toNat + (s.nest n).d.val - 1) 32 k,
      p.1 ∈ compressRegs (s.nest n) ∧ p.1 ∉ groupRegs s d := by
    unfold compressLevels compressRegs
    split
    next => exact List.forall_mem_nil _
    next h0 => exact List.forall_mem_singleton.2 ⟨by simp, (hcheck h0).2⟩
  obtain ⟨t, hexec, hret, hx, hnests, hsame, hgroup, hentries⟩ := (vcompress_completes hcheck hd ha).regroups hready hd
    (widthOf_dvd hready.width) (by
      rw [List.length_map]
      exact s.kept_length_le.trans (hready.vl_le_positions (widthOf_pos _) le_rfl))
    (compressLevels_fit hcheck hready _) (fun p hp => (hregs p hp).2) (fun p hp => (hregs p hp).1) hfree
  rw [List.length_map] at hgroup
  simp only [List.getElem?_map] at hgroup
  exact ⟨t, hexec, hret, hx, hnests, hsame, hgroup, hentries⟩

end

/-- Settles O38: vpack and vcompress write their group and level registers, which do not overlap, with what they have read before; the partition
moves each element of the tiling segments once, and the depths of vtree are those that the parents determine. -/
theorem packCompressAndTreeComplete : Obligations.PackCompressAndTreeComplete := by
  unfold Obligations.PackCompressAndTreeComplete
  intro s d a n
  dsimp only
  intro hready hd ha hfree
  refine ⟨fun l hD hl hcheck hapart hwritable => ?_, fun hcheck hwritable => ?_, fun hew hparent dep hdep => ?_⟩
  · obtain rfl : l = s.innerSegments n := hl
    obtain ⟨hnew, hold⟩ := hapart
    obtain ⟨t, hexec, hret, hx, hnest, hsame, hgroup, hentries⟩ := vpack_writes hready hd ha ⟨hD, hcheck, hnew, hold⟩ hwritable
    simp only [List.flatMap_map]
    refine ⟨t, hexec, hret, hx, hnest, hsame, hgroup, hentries _ (List.mem_append_right _ List.mem_cons_self), fun h0 => ?_⟩
    unfold State.packLevels at hentries
    rw [if_neg h0, List.singleton_append, List.forall_mem_cons] at hentries
    obtain ⟨houter, -⟩ := hentries
    exact houter
  · obtain ⟨t, hexec, hret, hx, hnests, hsame, hgroup, hentries⟩ := vcompress_writes hready hd ha hcheck hwritable
    refine ⟨t, hexec, hret, hx, hnests, hsame, hgroup, fun h0 => ?_⟩
    unfold compressLevels at hentries
    rw [if_neg h0, List.forall_mem_singleton] at hentries
    exact hentries
  · have hw := widthOf_of_ewOf_three hew
    rw [hw] at hparent hdep
    exact (vtree_fillMember hew hd ha hparent hdep).elementwise hready hd hfree (by norm_num) (hready.vl_le_positions (by norm_num) hw.ge)

end Sys2Proof.Machine
end
